-- ==== Sys2Proof/Word.lean ====
section
/-! DEFINITION. The word types of the Acath A960 and the keyed list that holds every sparse piece of state. -/

namespace Sys2Proof

/-- A byte of memory. -/
abbrev Byte := BitVec 8
/-- A 32-bit register cell (R41). -/
abbrev Word := BitVec 32
/-- A 64-bit value. -/
abbrev DWord := BitVec 64
/-- A lane mask of a group (R84): bit `l` is lane `l`. -/
abbrev Mask := BitVec 128

/-- A sparse array: pairs of an index and a value. An index that is not listed holds the array's default. -/
abbrev Table (α : Type) := List (Nat × α)

end Sys2Proof
end

