-- ==== Sys2Proof/Syntax.lean ====
section
/-! DEFINITION. The abstract syntax of the A960: one constructor of `Instr` per row of the table of operations
and events. A casting word keeps the fixed fields of R46; a Stoker word and a Flue slot op carry their operands;
an event carries what names its place. -/

namespace Sys2Proof

/-- The fields of a casting word other than OP and SUB (R46). Every instruction reads the same places. -/
structure CastWord where
  /-- TC, the carried timing class. -/
  tc : BitVec 2
  /-- PG, the guard predicate. -/
  pg : BitVec 4
  /-- PN, negate guard. -/
  pn : BitVec 1
  d : BitVec 11
  a : BitVec 11
  b : BitVec 11
  c : BitVec 11
  /-- REUSE: bit 2 for A, bit 1 for B, bit 0 for C. -/
  reuse : BitVec 3
  lc : BitVec 2
  ty : BitVec 4
  mod : BitVec 8
  ext : BitVec 16
  imm : BitVec 32
  deriving DecidableEq, Repr

/-- Members of shfl (R60, R127). -/
inductive ShflOp | pick | rot | shift | pair deriving DecidableEq, Repr
/-- Members of vote (R128). -/
inductive VoteOp | all | any | uni | ballot deriving DecidableEq, Repr
/-- Members of gred (R129). -/
inductive RedOp | add | min | max | and | or | xor | seq deriving DecidableEq, Repr
/-- Members of gscan (R130). -/
inductive ScanOp | add | min | max | seq deriving DecidableEq, Repr
/-- Members of plop (R133). -/
inductive PlopOp | and | or | xor | andn | not deriving DecidableEq, Repr
/-- Relations of icmp and waitv (R155, R206). -/
inductive CmpOp | eq | ne | lt | le | gt | ge deriving DecidableEq, Repr
/-- Relations of fcmp (R244). -/
inductive FCmpOp | eq | ne | lt | le | gt | ge | uno | ord deriving DecidableEq, Repr
/-- Members of atom (R200). -/
inductive AtomOp | add | min | max | and | or | xor | exch | fadd deriving DecidableEq, Repr
/-- Members of red: those of atom without exch (R201). -/
inductive RedMemOp | add | min | max | and | or | xor | fadd deriving DecidableEq, Repr
/-- Members of ccop and of the Stoker's cache word (R217, R388). -/
inductive CacheOp | wb | inv | wbinv deriving DecidableEq, Repr
/-- An engine with a command queue (R14). -/
inductive EngineSel | cruc | ladle deriving DecidableEq, Repr

/-- The value of ldi: 44 signed bits of P, or the extra word (R364, R386). -/
inductive LdiVal | short (v : BitVec 44) | long (v : DWord) deriving DecidableEq, Repr
/-- The b operand of a scalar word: a register, or IMM with IMMF (R364). -/
inductive XOperand | reg (xb : BitVec 4) | imm (v : Word) deriving DecidableEq, Repr
/-- The value of wait, waitt and signal: the extra word, or a register with XV (R364). -/
inductive XVal | word (v : DWord) | reg (xv : BitVec 4) deriving DecidableEq, Repr
/-- Conditions of br (R387). -/
inductive BrCond | always | z | nz | lt | ge deriving DecidableEq, Repr
/-- Conditions of wait (R383). -/
inductive WaitCond | ge | eq | ne deriving DecidableEq, Repr
/-- Members of signal (R382). -/
inductive SignalOp | set | add | max deriving DecidableEq, Repr
/-- Flags of write, stx and ldx: W64, REL or ACQ, SYS (R364). -/
structure MemFlags where
  w64 : Bool
  ordered : Bool
  sys : Bool
  deriving DecidableEq, Repr

/-- Why a lane unmaps its queue: the rows of R378. -/
inductive UnmapReason | noWords | quantum | waiting | miss | disable deriving DecidableEq, Repr

/-- A unit that counts corrected errors (R358). The numbers name the unit within its row. -/
inductive ErrUnit
  | quad (core quad : Nat) | sramRow (core row : Nat) | accRow (core row : Nat) | l2Row (slice row : Nat)
  | hearthRow (stack row : Nat) | gmemRow (controller row : Nat) | linebufRow (line row : Nat)
  deriving DecidableEq, Repr

/-- Where an uncorrectable error struck (R357, R424). -/
inductive BadSite
  | sector (pa : Nat) | l1 (core pa : Nat) | scratch (core launch block off : Nat) | cell (core slot lane index : Nat)
  | tile (core tile : Nat) | lineWord (line addr : Nat) | freg (line index : Nat) | sreg (line index : Nat)
  deriving DecidableEq, Repr

/-- A request that a peer sends to this module (R477, R478). `ty` is the TYPE code of an atomic. -/
inductive PeerReq
  | read (off n : Nat) | write (off n : Nat) (v : DWord) | atom (m : AtomOp) (ty : BitVec 4) (off n : Nat) (v : DWord) | cas (off n : Nat) (old new : DWord)
  deriving DecidableEq, Repr

/-- A register that the host writes and no event of its own covers (R441, R448, R465, R482, R483). -/
inductive HostReg
  | semdoor (fn : Nat) | fnstat (fn : Nat) | msixTable (fn vec word : Nat) | wakeReg (fn queue : Nat)
  | bootctl | fwaddr | fwlen | chal (i : Nat) | attctl | attidx | plimit
  | peer (p : Nat) | ingress (q : Nat) | mgmtcause | cwbase (c : Nat)
  | dbgctl | dbgsel | dbgstat | dbgdata | sup (n : Nat)
  | head (h off : Nat) | dresv | fluectl | fentry (h : Nat) | fcores (h : Nat) | flcstat (n : Nat) | fcode (entry word : Nat)
  /-- A base address register of a function, in its configuration space (R464). -/
  | bar (fn i : Nat)
  | readOnly (off : Nat)
  deriving DecidableEq, Repr

/-- What an event of the table is about: the places it names and the values it carries. An event takes it from
the cursor of the state, as a casting word takes its fragment. -/
inductive EventArg
  | none
  /-- Up to three places, as the event's own comment lists them. -/
  | at (a b c : Nat)
  /-- Two places and a written value. -/
  | value (a b : Nat) (v : BitVec 256)
  | engine (e : EngineSel) (core slot : Nat)
  | unmap (lane : Nat) (why : UnmapReason)
  | err (u : ErrUnit)
  | bad (u : BadSite)
  /-- A sensor comes to read a temperature, in 1/16 degree C (R481). -/
  | thermal (sensor : Nat) (reading : BitVec 16)
  | peer (p : Nat) (r : PeerReq)
  | host (r : HostReg) (v : DWord)
  /-- An access through a context window: function, offset, width and the value written. -/
  | window (fn off width : Nat) (v : DWord)
  deriving DecidableEq, Repr

/-- The operations and events of the A960. Each constructor's comment names the rule that gives its meaning. The
words that carry no operand but TC (yield, ifence, ccommit, cpair, cunpair, lcommit, lcancel) have no argument: the
carried class of the word being issued is in the state's cursor. An event's operands are in the cursor too. -/
inductive Instr
  /-- LDI, R386. -/
  | ldi (xd : BitVec 4) (v : LdiVal)
  /-- STOKER_ADD, R386. -/
  | stokerAdd (xd : BitVec 4) (xa : BitVec 4) (b : XOperand)
  /-- STOKER_SUB, R386. -/
  | stokerSub (xd : BitVec 4) (xa : BitVec 4) (b : XOperand)
  /-- STOKER_AND, R386. -/
  | stokerAnd (xd : BitVec 4) (xa : BitVec 4) (b : XOperand)
  /-- STOKER_OR, R386. -/
  | stokerOr (xd : BitVec 4) (xa : BitVec 4) (b : XOperand)
  /-- STOKER_XOR, R386. -/
  | stokerXor (xd : BitVec 4) (xa : BitVec 4) (b : XOperand)
  /-- STOKER_SHL, R386. -/
  | stokerShl (xd : BitVec 4) (xa : BitVec 4) (b : XOperand)
  /-- STOKER_SHR, R386. -/
  | stokerShr (xd : BitVec 4) (xa : BitVec 4) (b : XOperand)
  /-- STOKER_BR, R387. -/
  | stokerBr (cond : BrCond) (xa : BitVec 4) (xb : BitVec 4) (off : Word)
  /-- CALLB, R387. -/
  | callb (addr : DWord)
  /-- WRITE, R388. -/
  | write (f : MemFlags) (addr : DWord) (v : DWord)
  /-- STX, R388. -/
  | stx (f : MemFlags) (xs : BitVec 4) (addr : DWord)
  /-- LDX, R388. -/
  | ldx (f : MemFlags) (xd : BitVec 4) (addr : DWord)
  /-- COPY, R388. -/
  | copy (dst : DWord) (src : DWord) (len : DWord)
  /-- CACHE, R388. -/
  | cache (m : CacheOp) (addr : DWord) (len : DWord)
  /-- PRESENT, R389. -/
  | present (seq : Word) (addr : DWord)
  /-- INTR, R390. -/
  | intr (vec : BitVec 11)
  /-- LAUNCH, R398. -/
  | launch (rec : DWord) (sig : Option DWord)
  /-- STOKER_FENCE, R391. -/
  | stokerFence (launches : Bool) (sys : Bool)
  /-- WAIT, R383. -/
  | wait (cond : WaitCond) (sem : BitVec 10) (v : XVal)
  /-- WAITT, R383. -/
  | waitt (rel : Bool) (v : XVal)
  /-- SIGNAL, R382. -/
  | signal (m : SignalOp) (sys : Bool) (sem : BitVec 10) (v : XVal)
  /-- SQCTL_ENABLE, R395. -/
  | sqctlEnable (queue : BitVec 13)
  /-- SQCTL_DISABLE, R395. -/
  | sqctlDisable (queue : BitVec 13)
  /-- SQCTL_RESET, R395. -/
  | sqctlReset (queue : BitVec 13)
  /-- SQCTL_UNMAP, R395. -/
  | sqctlUnmap (queue : BitVec 13)
  /-- SPREEMPT, R395. -/
  | spreempt (keepq : Bool) (ctx : BitVec 6)
  /-- SRESUME, R395. -/
  | sresume (ctx : BitVec 6)
  /-- SSETREG, R392. -/
  | ssetreg (xs : BitVec 4) (reg : BitVec 16)
  /-- SGETREG, R392. -/
  | sgetreg (xd : BitVec 4) (reg : BitVec 16)
  /-- SINVAL, R395. -/
  | sinval (ctx : BitVec 6) (range : Option (DWord × DWord))
  /-- SVSEM_BIND, R385. -/
  | svsemBind (ctx : BitVec 6) (virt : BitVec 10) (countM1 : BitVec 12) (phys : BitVec 12)
  /-- SVSEM_UNBIND, R385. -/
  | svsemUnbind (ctx : BitVec 6) (virt : BitVec 10) (countM1 : BitVec 12)
  /-- NOP, R118. -/
  | nop (w : CastWord)
  /-- BRA, R119. -/
  | bra (w : CastWord)
  /-- BRX, R119. -/
  | brx (w : CastWord)
  /-- CALL, R120. -/
  | call (w : CastWord)
  /-- CALLX, R120. -/
  | callx (w : CastWord)
  /-- RET, R121. -/
  | ret (w : CastWord)
  /-- JOIN, R122. -/
  | join (w : CastWord)
  /-- EXIT, R123. -/
  | exit (w : CastWord)
  /-- BAR, R124. -/
  | bar (w : CastWord)
  /-- ARRIVE, R124. -/
  | arrive (w : CastWord)
  /-- SETW, R125. -/
  | setw (w : CastWord)
  /-- SHFL, R127. -/
  | shfl (m : ShflOp) (w : CastWord)
  /-- VOTE, R128. -/
  | vote (m : VoteOp) (w : CastWord)
  /-- ELECT, R128. -/
  | elect (w : CastWord)
  /-- GRED, R129. -/
  | gred (m : RedOp) (w : CastWord)
  /-- GSCAN, R130. -/
  | gscan (m : ScanOp) (w : CastWord)
  /-- RDSYS, R131. -/
  | rdsys (w : CastWord)
  /-- WRSYS, R131. -/
  | wrsys (w : CastWord)
  /-- KSET, R132. -/
  | kset (w : CastWord)
  /-- KGET, R132. -/
  | kget (w : CastWord)
  /-- PLOP, R133. -/
  | plop (m : PlopOp) (w : CastWord)
  /-- HMK, R134. -/
  | hmk (w : CastWord)
  /-- TRAP, R135. -/
  | trap (w : CastWord)
  /-- DBRK, R135. -/
  | dbrk (w : CastWord)
  /-- TRET, R136. -/
  | tret (w : CastWord)
  /-- SLEEP, R137. -/
  | sleep (w : CastWord)
  /-- IADD, R145. -/
  | iadd (w : CastWord)
  /-- ISUB, R145. -/
  | isub (w : CastWord)
  /-- INEG, R145. -/
  | ineg (w : CastWord)
  /-- IABS, R145. -/
  | iabs (w : CastWord)
  /-- IMIN, R145. -/
  | imin (w : CastWord)
  /-- IMAX, R145. -/
  | imax (w : CastWord)
  /-- IMUL, R146. -/
  | imul (w : CastWord)
  /-- IMULH, R146. -/
  | imulh (w : CastWord)
  /-- IMAD, R146. -/
  | imad (w : CastWord)
  /-- IDIVS, R147. -/
  | idivs (w : CastWord)
  /-- IDIVE, R148. -/
  | idive (w : CastWord)
  /-- AND, R149. -/
  | and (w : CastWord)
  /-- OR, R149. -/
  | or (w : CastWord)
  /-- XOR, R149. -/
  | xor (w : CastWord)
  /-- ANDN, R149. -/
  | andn (w : CastWord)
  /-- NOT, R149. -/
  | not (w : CastWord)
  /-- TERN, R150. -/
  | tern (w : CastWord)
  /-- SHL, R151. -/
  | shl (w : CastWord)
  /-- SHR, R151. -/
  | shr (w : CastWord)
  /-- SAR, R151. -/
  | sar (w : CastWord)
  /-- ROT, R151. -/
  | rot (w : CastWord)
  /-- BFX, R152. -/
  | bfx (w : CastWord)
  /-- BFI, R152. -/
  | bfi (w : CastWord)
  /-- POPC, R153. -/
  | popc (w : CastWord)
  /-- CLZ, R153. -/
  | clz (w : CastWord)
  /-- BREV, R153. -/
  | brev (w : CastWord)
  /-- ICMP, R155. -/
  | icmp (m : CmpOp) (w : CastWord)
  /-- SEL, R156. -/
  | sel (w : CastWord)
  /-- MOV, R157. -/
  | mov (w : CastWord)
  /-- ICVT, R158. -/
  | icvt (w : CastWord)
  /-- LEA, R159. -/
  | lea (w : CastWord)
  /-- LEA_GLB, R160. -/
  | leaGlb (w : CastWord)
  /-- IDP4, R162. -/
  | idp4 (w : CastWord)
  /-- IDP2, R162. -/
  | idp2 (w : CastWord)
  /-- PERM, R154. -/
  | perm (w : CastWord)
  /-- FADD, R239. -/
  | fadd (w : CastWord)
  /-- FSUB, R239. -/
  | fsub (w : CastWord)
  /-- FMUL, R239. -/
  | fmul (w : CastWord)
  /-- FFMA, R240. -/
  | ffma (w : CastWord)
  /-- FSUM3, R241. -/
  | fsum3 (w : CastWord)
  /-- FMIN, R242. -/
  | fmin (w : CastWord)
  /-- FMAX, R242. -/
  | fmax (w : CastWord)
  /-- FABS, R243. -/
  | fabs (w : CastWord)
  /-- FNEG, R243. -/
  | fneg (w : CastWord)
  /-- FCMP, R244. -/
  | fcmp (m : FCmpOp) (w : CastWord)
  /-- FCLASS, R245. -/
  | fclass (w : CastWord)
  /-- FDIV, R246. -/
  | fdiv (w : CastWord)
  /-- FRCP, R246. -/
  | frcp (w : CastWord)
  /-- FSQRT, R246. -/
  | fsqrt (w : CastWord)
  /-- FRSQRT, R246. -/
  | frsqrt (w : CastWord)
  /-- FEXP2, R246. -/
  | fexp2 (w : CastWord)
  /-- FEXP, R246. -/
  | fexp (w : CastWord)
  /-- FLOG2, R246. -/
  | flog2 (w : CastWord)
  /-- FLOG, R246. -/
  | flog (w : CastWord)
  /-- FSIN, R246. -/
  | fsin (w : CastWord)
  /-- FCOS, R246. -/
  | fcos (w : CastWord)
  /-- FTANH, R246. -/
  | ftanh (w : CastWord)
  /-- FATAN2, R247. -/
  | fatan2 (w : CastWord)
  /-- FPOW, R248. -/
  | fpow (w : CastWord)
  /-- FCVT, R249. -/
  | fcvt (w : CastWord)
  /-- FCVTI, R250. -/
  | fcvti (w : CastWord)
  /-- ICVTF, R251. -/
  | icvtf (w : CastWord)
  /-- FRINT, R252. -/
  | frint (w : CastWord)
  /-- FSCALE, R253. -/
  | fscale (w : CastWord)
  /-- FGETEXP, R254. -/
  | fgetexp (w : CastWord)
  /-- LD, R197. -/
  | ld (w : CastWord)
  /-- ST, R197. -/
  | st (w : CastWord)
  /-- LDD, R199. -/
  | ldd (w : CastWord)
  /-- STD, R199. -/
  | std (w : CastWord)
  /-- ATOM, R200. -/
  | atom (m : AtomOp) (w : CastWord)
  /-- RED, R201. -/
  | red (m : RedMemOp) (w : CastWord)
  /-- CAS, R202. -/
  | cas (w : CastWord)
  /-- FENCE, R203. -/
  | fence (w : CastWord)
  /-- QFENCE, R205. -/
  | qfence (w : CastWord)
  /-- MARK, R204. -/
  | mark (w : CastWord)
  /-- WAITV, R206. -/
  | waitv (m : CmpOp) (w : CastWord)
  /-- WAITB, R207. -/
  | waitb (m : EngineSel) (w : CastWord)
  /-- SPILL, R208. -/
  | spill (w : CastWord)
  /-- FILL, R208. -/
  | fill (w : CastWord)
  /-- SMP, R211. -/
  | smp (w : CastWord)
  /-- SMPRES, R212. -/
  | smpres (w : CastWord)
  /-- QPUSH, R214. -/
  | qpush (w : CastWord)
  /-- QPOP, R214. -/
  | qpop (w : CastWord)
  /-- QPEEK, R214. -/
  | qpeek (w : CastWord)
  /-- LDK, R215. -/
  | ldk (w : CastWord)
  /-- PREF, R216. -/
  | pref (w : CastWord)
  /-- CCOP, R217. -/
  | ccop (m : CacheOp) (w : CastWord)
  /-- MMA, R290. -/
  | mma (w : CastWord)
  /-- MMAW, R290. -/
  | mmaw (w : CastWord)
  /-- AZERO, R291. -/
  | azero (w : CastWord)
  /-- ACOPY, R291. -/
  | acopy (w : CastWord)
  /-- AADD, R291. -/
  | aadd (w : CastWord)
  /-- ASCL, R291. -/
  | ascl (w : CastWord)
  /-- ALD, R292. -/
  | ald (w : CastWord)
  /-- AST, R292. -/
  | ast (w : CastWord)
  /-- MSET, R293. -/
  | mset (w : CastWord)
  /-- CMODE, R294. -/
  | cmode (w : CastWord)
  /-- CDRAIN, R295. -/
  | cdrain (w : CastWord)
  /-- CSAVE, R297. -/
  | csave (w : CastWord)
  /-- CREST, R297. -/
  | crest (w : CastWord)
  /-- LCOPY, R325. -/
  | lcopy (w : CastWord)
  /-- LFILL, R325. -/
  | lfill (w : CastWord)
  /-- LGAT, R325. -/
  | lgat (w : CastWord)
  /-- LRED_ARR, R312. -/
  | lredArr (w : CastWord)
  /-- LRED_ORD, R313. -/
  | lredOrd (w : CastWord)
  /-- LCONT, R326. -/
  | lcont (w : CastWord)
  /-- LSAVE, R329. -/
  | lsave (w : CastWord)
  /-- LREST, R329. -/
  | lrest (w : CastWord)
  /-- SADD, R425. -/
  | sadd (d : BitVec 5) (a : BitVec 5) (b : BitVec 5)
  /-- SSUB, R425. -/
  | ssub (d : BitVec 5) (a : BitVec 5) (b : BitVec 5)
  /-- SAND, R425. -/
  | sand (d : BitVec 5) (a : BitVec 5) (b : BitVec 5)
  /-- SOR, R425. -/
  | sor (d : BitVec 5) (a : BitVec 5) (b : BitVec 5)
  /-- SXOR, R425. -/
  | sxor (d : BitVec 5) (a : BitVec 5) (b : BitVec 5)
  /-- SSHL, R425. -/
  | sshl (d : BitVec 5) (a : BitVec 5) (b : BitVec 5)
  /-- SSHR, R425. -/
  | sshr (d : BitVec 5) (a : BitVec 5) (b : BitVec 5)
  /-- SMUL, R425. -/
  | smul (d : BitVec 5) (a : BitVec 5) (b : BitVec 5)
  /-- SSLT, R425. -/
  | sslt (d : BitVec 5) (a : BitVec 5) (b : BitVec 5)
  /-- SLDL, R426. -/
  | sldl (d : BitVec 5) (imm : BitVec 18)
  /-- SLDH, R426. -/
  | sldh (d : BitVec 5) (imm : BitVec 18)
  /-- SGET, R427. -/
  | sget (d : BitVec 5) (sel : BitVec 6)
  /-- VEXT, R428. -/
  | vext (d : BitVec 5) (a : BitVec 6) (lane : BitVec 6)
  /-- SADDI, R425. -/
  | saddi (d : BitVec 5) (a : BitVec 5) (imm : BitVec 6)
  /-- SSUBI, R425. -/
  | ssubi (d : BitVec 5) (a : BitVec 5) (imm : BitVec 6)
  /-- SANDI, R425. -/
  | sandi (d : BitVec 5) (a : BitVec 5) (imm : BitVec 6)
  /-- SORI, R425. -/
  | sori (d : BitVec 5) (a : BitVec 5) (imm : BitVec 6)
  /-- SXORI, R425. -/
  | sxori (d : BitVec 5) (a : BitVec 5) (imm : BitVec 6)
  /-- SSHLI, R425. -/
  | sshli (d : BitVec 5) (a : BitVec 5) (imm : BitVec 6)
  /-- SSHRI, R425. -/
  | sshri (d : BitVec 5) (a : BitVec 5) (imm : BitVec 6)
  /-- SMULI, R425. -/
  | smuli (d : BitVec 5) (a : BitVec 5) (imm : BitVec 6)
  /-- SSLTI, R425. -/
  | sslti (d : BitVec 5) (a : BitVec 5) (imm : BitVec 6)
  /-- FLUE_BR, R429. -/
  | flueBr (off : BitVec 18)
  /-- BZ, R429. -/
  | bz (a : BitVec 5) (off : BitVec 12)
  /-- BNZ, R429. -/
  | bnz (a : BitVec 5) (off : BitVec 12)
  /-- LDL, R430. -/
  | ldl (d : BitVec 6) (a : BitVec 5)
  /-- LDLX, R430. -/
  | ldlx (d : BitVec 6) (a : BitVec 6)
  /-- LDM_C, R420. -/
  | ldmC (d : BitVec 3) (a : BitVec 6) (b : BitVec 6)
  /-- LDM_D, R420. -/
  | ldmD (d : BitVec 3) (a : BitVec 6) (b : BitVec 6)
  /-- LDM_M, R420. -/
  | ldmM (d : BitVec 3) (a : BitVec 6) (b : BitVec 6)
  /-- LDG, R422. -/
  | ldg (d : BitVec 3) (a : BitVec 5) (b : BitVec 6)
  /-- WTK, R431. -/
  | wtk (d : BitVec 6) (a : BitVec 3)
  /-- STL, R432. -/
  | stl (a : BitVec 5) (b : BitVec 6)
  /-- STLX, R432. -/
  | stlx (a : BitVec 6) (b : BitVec 6)
  /-- VFADD, R433. -/
  | vfadd (d : BitVec 6) (a : BitVec 6) (b : BitVec 6)
  /-- VFSUB, R433. -/
  | vfsub (d : BitVec 6) (a : BitVec 6) (b : BitVec 6)
  /-- VFMUL, R433. -/
  | vfmul (d : BitVec 6) (a : BitVec 6) (b : BitVec 6)
  /-- VFFMA, R433. -/
  | vffma (d : BitVec 6) (a : BitVec 6) (b : BitVec 6) (c : BitVec 6)
  /-- VFMIN, R433. -/
  | vfmin (d : BitVec 6) (a : BitVec 6) (b : BitVec 6)
  /-- VFMAX, R433. -/
  | vfmax (d : BitVec 6) (a : BitVec 6) (b : BitVec 6)
  /-- VFRCP, R433. -/
  | vfrcp (d : BitVec 6) (a : BitVec 6)
  /-- VFRSQRT, R433. -/
  | vfrsqrt (d : BitVec 6) (a : BitVec 6)
  /-- VCVTFI, R434. -/
  | vcvtfi (d : BitVec 6) (a : BitVec 6)
  /-- VCVTIF, R434. -/
  | vcvtif (d : BitVec 6) (a : BitVec 6)
  /-- VFCLT, R435. -/
  | vfclt (d : BitVec 6) (a : BitVec 6) (b : BitVec 6)
  /-- VFCLE, R435. -/
  | vfcle (d : BitVec 6) (a : BitVec 6) (b : BitVec 6)
  /-- VFCEQ, R435. -/
  | vfceq (d : BitVec 6) (a : BitVec 6) (b : BitVec 6)
  /-- VIADD, R436. -/
  | viadd (d : BitVec 6) (a : BitVec 6) (b : BitVec 6)
  /-- VISUB, R436. -/
  | visub (d : BitVec 6) (a : BitVec 6) (b : BitVec 6)
  /-- VAND, R436. -/
  | vand (d : BitVec 6) (a : BitVec 6) (b : BitVec 6)
  /-- VOR, R436. -/
  | vor (d : BitVec 6) (a : BitVec 6) (b : BitVec 6)
  /-- VXOR, R436. -/
  | vxor (d : BitVec 6) (a : BitVec 6) (b : BitVec 6)
  /-- VSHL, R436. -/
  | vshl (d : BitVec 6) (a : BitVec 6) (b : BitVec 6)
  /-- VSHR, R436. -/
  | vshr (d : BitVec 6) (a : BitVec 6) (b : BitVec 6)
  /-- VSAR, R436. -/
  | vsar (d : BitVec 6) (a : BitVec 6) (b : BitVec 6)
  /-- VIMUL, R436. -/
  | vimul (d : BitVec 6) (a : BitVec 6) (b : BitVec 6)
  /-- VICLT, R436. -/
  | viclt (d : BitVec 6) (a : BitVec 6) (b : BitVec 6)
  /-- VIEQ, R436. -/
  | vieq (d : BitVec 6) (a : BitVec 6) (b : BitVec 6)
  /-- VIADDI, R436. -/
  | viaddi (d : BitVec 6) (a : BitVec 6) (imm : BitVec 6)
  /-- VISUBI, R436. -/
  | visubi (d : BitVec 6) (a : BitVec 6) (imm : BitVec 6)
  /-- VANDI, R436. -/
  | vandi (d : BitVec 6) (a : BitVec 6) (imm : BitVec 6)
  /-- VORI, R436. -/
  | vori (d : BitVec 6) (a : BitVec 6) (imm : BitVec 6)
  /-- VXORI, R436. -/
  | vxori (d : BitVec 6) (a : BitVec 6) (imm : BitVec 6)
  /-- VSHLI, R436. -/
  | vshli (d : BitVec 6) (a : BitVec 6) (imm : BitVec 6)
  /-- VSHRI, R436. -/
  | vshri (d : BitVec 6) (a : BitVec 6) (imm : BitVec 6)
  /-- VSARI, R436. -/
  | vsari (d : BitVec 6) (a : BitVec 6) (imm : BitVec 6)
  /-- VIMULI, R436. -/
  | vimuli (d : BitVec 6) (a : BitVec 6) (imm : BitVec 6)
  /-- VICLTI, R436. -/
  | viclti (d : BitVec 6) (a : BitVec 6) (imm : BitVec 6)
  /-- VIEQI, R436. -/
  | vieqi (d : BitVec 6) (a : BitVec 6) (imm : BitVec 6)
  /-- VSEL, R437. -/
  | vsel (d : BitVec 6) (a : BitVec 6) (b : BitVec 6) (c : BitVec 6)
  /-- VBCAST, R437. -/
  | vbcast (d : BitVec 6) (a : BitVec 5)
  /-- VLANE, R437. -/
  | vlane (d : BitVec 6)
  /-- VH2F, R434. -/
  | vh2f (d : BitVec 6) (a : BitVec 6) (imm : BitVec 6)
  /-- VF2H, R434. -/
  | vf2h (d : BitVec 6) (a : BitVec 6) (b : BitVec 6)
  /-- VMOV, R437. -/
  | vmov (d : BitVec 6) (a : BitVec 6)
  /-- MMUL, R438. -/
  | mmul (d : BitVec 6) (a : BitVec 6) (b : BitVec 6) (c : BitVec 6)
  /-- CORE_CYCLE, R18. Operands: core. -/
  | coreCycle
  /-- ALLOWANCE_REFILL, R480. -/
  | allowanceRefill
  /-- VOLTAGE_TRIM, R24. -/
  | voltageTrim
  /-- BATCH_COMPLETE, R31. Operands: e, core, slot. -/
  | batchComplete
  /-- SLOT_RETIRE, R38. Operands: pa. -/
  | slotRetire
  /-- BLOCK_DISPATCH, R400. Operands: flask. -/
  | blockDispatch
  /-- BLOCK_WAIT_EXPIRY, R400. Operands: flask. -/
  | blockWaitExpiry
  /-- BLOCK_RESUME, R110. Operands: flask. -/
  | blockResume
  /-- FAULT_ENTRY_WRITE, R486. -/
  | faultEntryWrite
  /-- OWED_GROUP, R94. Operands: core, slot. -/
  | owedGroup
  /-- D_WINDOW_OPEN, R95. Operands: core. -/
  | dWindowOpen
  /-- D_WINDOW_CLOSE, R95. Operands: core. -/
  | dWindowClose
  /-- BLOCK_SWAP, R99. Operands: launch. -/
  | blockSwap
  /-- WATCHDOG_EXPIRY, R100. Operands: launch. -/
  | watchdogExpiry
  /-- PREEMPT_SAVE, R106. Operands: core, launch. -/
  | preemptSave
  /-- LAUNCH_END, R398. Operands: launch. -/
  | launchEnd
  /-- SLEEP_EXPIRY, R137. Operands: core, slot, node. -/
  | sleepExpiry
  /-- WAITV_REREAD, R206. Operands: core, slot, node. -/
  | waitvReread
  /-- MISS_ADMISSION, R344. Operands: flask. -/
  | missAdmission
  /-- WALK_COMPLETE, R345. Operands: flask, entry. -/
  | walkComplete
  /-- FAULT_BUFFER_WRITE, R346. -/
  | faultBufferWrite
  /-- FBRESOLVE_RETRY, R347. Operands: tag. -/
  | fbresolveRetry
  /-- FBRESOLVE_FATAL, R347. Operands: tag. -/
  | fbresolveFatal
  /-- L1_WRITEBACK, R182. Operands: core, sector. -/
  | l1Writeback
  /-- L1_LINE_EXPIRE, R182. Operands: core, sector. -/
  | l1LineExpire
  /-- ROUTER_COMBINE_FLUSH, R349. Operands: index. -/
  | routerCombineFlush
  /-- P3_PROMOTION, R350. Operands: index. -/
  | p3Promotion
  /-- RESERVATION_WINDOW_ADVANCE, R351. -/
  | reservationWindowAdvance
  /-- L2_LOCK_WRITE, R334. Operands: entry, v. -/
  | l2LockWrite
  /-- REFRESH_ADJUST, R352. Operands: controller. -/
  | refreshAdjust
  /-- FREE_DECLARE, R354. Operands: frame. -/
  | freeDeclare
  /-- FREE_RECLAIM, R354. Operands: frame. -/
  | freeReclaim
  /-- FREECMD_COMPLETE, R354. -/
  | freecmdComplete
  /-- L2_WAY_GATE, R356. Operands: slice, way. -/
  | l2WayGate
  /-- L2_WAY_UNGATE, R356. Operands: slice, way. -/
  | l2WayUngate
  /-- HEARTH_WAY_GATE, R356. Operands: way. -/
  | hearthWayGate
  /-- HEARTH_WAY_UNGATE, R356. Operands: way. -/
  | hearthWayUngate
  /-- WAY_GATE_DONE, R356. Operands: unit, way. -/
  | wayGateDone
  /-- CORRECTED_ERROR, R357. Operands: u. -/
  | correctedError
  /-- UNCORRECTABLE_ERROR, R357. Operands: u. -/
  | uncorrectableError
  /-- LINEBUF_ROW_SPARE, R358. Operands: line, row. -/
  | linebufRowSpare
  /-- ERRDROP_READ, R359. -/
  | errdropRead
  /-- CRUCIBLE_BEAT, R269. Operands: core. -/
  | crucibleBeat
  /-- CRUC_COMMAND_COMPLETE, R275. Operands: core, slot, cmd. -/
  | crucCommandComplete
  /-- TIMESLOT_TURN_END, R281. Operands: core. -/
  | timeslotTurnEnd
  /-- CRUC_GATE_BYPASS, R281. Operands: core, slot, cmd. -/
  | crucGateBypass
  /-- CLAIM_GRANT, R264. Operands: core. -/
  | claimGrant
  /-- PAIR_GRANT, R278. Operands: core, slot. -/
  | pairGrant
  /-- TIMESLOT_WRITE, R280. Operands: core, entry, v. -/
  | timeslotWrite
  /-- LADLE_START, R306. Operands: core. -/
  | ladleStart
  /-- LADLE_TRANSFER, R307. Operands: core. -/
  | ladleTransfer
  /-- LADLE_GATE_BYPASS, R307. Operands: core, slot, cmd. -/
  | ladleGateBypass
  /-- LADLE_COMMAND_COMPLETE, R318. Operands: core, slot, cmd. -/
  | ladleCommandComplete
  /-- WINDOW_ARRIVAL, R313. Operands: core, slot, cmd. -/
  | windowArrival
  /-- WINDOW_APPLY, R313. Operands: index. -/
  | windowApply
  /-- LCONT_PERFORM, R316. Operands: core, slot. -/
  | lcontPerform
  /-- STOKER_STEP, R361. -/
  | stokerStep
  /-- QUANTUM_EXPIRY, R375. Operands: lane. -/
  | quantumExpiry
  /-- BORROW_RECLAIM, R375. Operands: cls. -/
  | borrowReclaim
  /-- QUEUE_UNMAP, R378. Operands: lane, why. -/
  | queueUnmap
  /-- WAITT_TIMER, R379. Operands: queue. -/
  | waittTimer
  /-- WAIT_TIMEOUT, R380. Operands: lane. -/
  | waitTimeout
  /-- WAKE, R371. Operands: fn, queue, put. -/
  | wake
  /-- WAKE_FATAL, R371. Operands: fn, queue, put. -/
  | wakeFatal
  /-- SEMDOOR_SET, R384. Operands: fn, sem, value. -/
  | semdoorSet
  /-- SEMDOOR_ADD, R384. Operands: fn, sem, value. -/
  | semdoorAdd
  /-- SEMDOOR_MAX, R384. Operands: fn, sem, value. -/
  | semdoorMax
  /-- SUPFAULT_READ, R394. -/
  | supfaultRead
  /-- STOKER_NOP, R364. -/
  | stokerNop
  /-- RETB, R387. -/
  | retb
  /-- YIELDQ, R387. -/
  | yieldq
  /-- YIELD, R137. -/
  | yield
  /-- IFENCE, R138. -/
  | ifence
  /-- CCOMMIT, R295. -/
  | ccommit
  /-- CPAIR, R296. -/
  | cpair
  /-- CUNPAIR, R296. -/
  | cunpair
  /-- LCOMMIT, R327. -/
  | lcommit
  /-- LCANCEL, R328. -/
  | lcancel
  /-- FEND, R419. -/
  | fend
  /-- DREADY, R419. -/
  | dready
  /-- DFALL, R419. -/
  | dfall
  /-- W_ARRIVAL, R404. Operands: line, wreg. -/
  | wArrival
  /-- FLUE_WALK_COMPLETE, R422. Operands: line. -/
  | flueWalkComplete
  /-- FCODE_WRITE, R441. Operands: entry, v. -/
  | fcodeWrite
  /-- HEAD_ENABLE, R449. Operands: head, v. -/
  | headEnable
  /-- HEAD_DISABLE, R460. Operands: head, v. -/
  | headDisable
  /-- LINE_START, R450. Operands: head. -/
  | lineStart
  /-- BAND_LATCH, R453. Operands: head, line. -/
  | bandLatch
  /-- BAND_DEADLINE, R419. Operands: head, line. -/
  | bandDeadline
  /-- FRAME_WORD_STORE, R458. Operands: head. -/
  | frameWordStore
  /-- DRESV_WRITE, R459. Operands: v. -/
  | dresvWrite
  /-- POWER_ON, R469. -/
  | powerOn
  /-- FUNCTION_RESET, R468. Operands: fn. -/
  | functionReset
  /-- CONTEXT_WINDOW_READ, R466. Operands: fn, off, width. -/
  | contextWindowRead
  /-- CONTEXT_WINDOW_WRITE, R466. Operands: fn, off, width, v. -/
  | contextWindowWrite
  /-- BOOT_GO, R471. -/
  | bootGo
  /-- IMAGE_LOADED, R471. Operands: ok. -/
  | imageLoaded
  /-- IMAGE_VERIFIED, R472. -/
  | imageVerified
  /-- HANDOVER, R475. -/
  | handover
  /-- ATTEST_GO, R476. -/
  | attestGo
  /-- ATTEST_DONE, R476. -/
  | attestDone
  /-- FLIT_CRC_ERROR, R477. Operands: port. -/
  | flitCrcError
  /-- PORT_DOWN, R479. Operands: port. -/
  | portDown
  /-- PEER_REQUEST, R478. Operands: peer, r. -/
  | peerRequest
  /-- PEERERR_READ, R479. Operands: peer. -/
  | peererrRead
  /-- THERMAL_LIMIT, R481. Operands: lim. -/
  | thermalLimit
  /-- THERMAL_TRIP, R481. -/
  | thermalTrip
  /-- DEBUG_HALT, R484. Operands: core. -/
  | debugHalt
  /-- DEBUG_RESUME, R484. Operands: core. -/
  | debugResume
  /-- DBGDATA_READ, R484. -/
  | dbgdataRead
  /-- DBGDATA_WRITE, R484. Operands: v. -/
  | dbgdataWrite
  /-- REGISTER_WRITE, R9. Operands: r, v. -/
  | registerWrite
  /-- FLUE_CYCLE, R406. -/
  | flueCycle
  /-- MEMORY_REQUEST_PERFORM, R181. Operands: index. -/
  | memoryRequestPerform
  /-- PORT_UP, R477. Operands: port. -/
  | portUp
  /-- REFILL_UPDATE, R480. Operands: flask, refill, cap. -/
  | refillUpdate
  /-- POWER_OFF, R469. -/
  | powerOff
  /-- CORE_POWER_GATE, R20. Operands: core. -/
  | corePowerGate
  /-- CORE_POWER_UNGATE, R20. Operands: core. -/
  | corePowerUngate
  deriving DecidableEq, Repr

end Sys2Proof
end

