-- ==== Sys2Proof/Machine/Legal.lean ====
section
/-! DEFINITION. The decode checks of a casting word (R42-R58): what each instruction reads, its form, its timing
class, and the ILLOP conditions. Fields come from R117, R143-R144, R194-R195, R236-R238, R289 and R324. -/

namespace Sys2Proof

/-- A bit of MOD. -/
def CastWord.modBit (w : CastWord) (i : Nat) : Bool := w.mod.getLsbD i
/-- SEG, MOD[7:4] (R117). -/
def CastWord.seg (w : CastWord) : Nat := (w.mod >>> 4).toNat
/-- RJ, EXT[44:32] (R117). -/
def CastWord.rj (w : CastWord) : Nat := (w.ext &&& 0x1FFF).toNat
/-- STYPE in EXT[43:40] (R236). -/
def CastWord.styp (w : CastWord) : BitVec 4 := (w.ext >>> 8).setWidth 4
/-- SLC in EXT[39:38] (R236). -/
def CastWord.slc (w : CastWord) : BitVec 2 := (w.ext >>> 6).setWidth 2
/-- RMS, MOD[3:1] (R237). -/
def CastWord.rms (w : CastWord) : Nat := ((w.mod >>> 1) &&& 7).toNat
/-- COMB, MOD[3:2] (R143, R237). -/
def CastWord.comb (w : CastWord) : Nat := ((w.mod >>> 2) &&& 3).toNat
/-- The space, MOD[2:0] (R54). -/
def CastWord.space (w : CastWord) : Nat := (w.mod &&& 7).toNat
/-- KA, MOD[3] (R194). -/
def CastWord.ka (w : CastWord) : Bool := w.mod.getLsbD 3
/-- KD, MOD[4] (R194). -/
def CastWord.kd (w : CastWord) : Bool := w.mod.getLsbD 4
/-- ORD, EXT[47:46] (R54). -/
def CastWord.ord (w : CastWord) : Nat := (w.ext >>> 14).toNat
/-- SCOPE, EXT[45:43] (R54). -/
def CastWord.scope (w : CastWord) : Nat := ((w.ext >>> 11) &&& 7).toNat
/-- EVICT, EXT[42:40] (R54). -/
def CastWord.evict (w : CastWord) : Nat := ((w.ext >>> 8) &&& 7).toNat

end Sys2Proof

namespace Sys2Proof.Machine

/-- The three forms of R55. -/
inductive Form | lane | uniform | handler deriving DecidableEq, Repr

/-- What an operand position holds (R48). `v n` is a vector operand of `n` cells; as a source outside the Sprue its
KSEL bit may take it from the k file (R50). `vOnly n` never comes from the k file through KSEL. `k a n` is a k index
that is a multiple of `a` and names `n` cells. -/
inductive Kind
  | none | v (n : Nat) | vOnly (n : Nat) | k (align n : Nat) | pDst | pSrc | h | acc | mask | sys
  deriving DecidableEq, Repr

/-- The row of an instruction: what its word may hold. `extMask` is over EXT; the KSEL bits are granted by the
source kinds outside the Sprue. `extra` collects the instruction's own ILLOP conditions (true: none fails). -/
structure OpSpec where
  form : Form := .lane
  cls : Nat := 0
  d : Kind := .none
  a : Kind := .none
  b : Kind := .none
  c : Kind := .none
  immb : Bool := false
  modMask : BitVec 8 := 0
  extMask : BitVec 16 := 0
  immMask : BitVec 32 := 0
  tyOk : Bool := true
  extra : Bool := true
  deriving DecidableEq, Repr

/-- R53: the legal pairs of TYPE and LC. -/
def tyLcOk (ty : BitVec 4) (lc : BitVec 2) : Bool :=
  if ty = 0xC ∨ ty = 0xF then true
  else if ty = 3 ∨ ty = 7 ∨ ty = 0xB then lc = 1
  else lc = 0

/-- Cells of a value with this LC (R46, R53). -/
def cellsOf (lc : BitVec 2) : Nat := 2 ^ lc.toNat

/-- R53: the integer types .s8-.z64. -/
def isInt (ty : BitVec 4) : Bool := ty.toNat < 8
/-- s types (R52, R140). -/
def isSigned (ty : BitVec 4) : Bool := ty.toNat < 4
/-- .s32, .z32, .s64, .z64 (R144, R195). -/
def isInt3264 (ty : BitVec 4) : Bool := ty = 2 ∨ ty = 3 ∨ ty = 6 ∨ ty = 7
/-- "Float" of R238: .f16, .bf16, .f32, .f64 and .v. -/
def isFloat (ty : BitVec 4) : Bool := ty = 8 ∨ ty = 9 ∨ ty = 0xA ∨ ty = 0xB ∨ ty = 0xC
/-- "FP8" of R238. -/
def isFp8 (ty : BitVec 4) : Bool := ty = 0xD ∨ ty = 0xE
/-- .b (R53). -/
def isB (ty : BitVec 4) : Bool := ty = 0xF

/-- The class that the map's T stands for (R56). -/
def tClass (ty : BitVec 4) (lc : BitVec 2) : Nat :=
  if ty = 0xB then 2
  else if ty = 0xC then (if lc.toNat < 2 then 2 else 3)
  else if ty.toNat < 8 ∨ ty = 0xF then 0 else 1

/-- The system registers (R114): width in bits and whether they may be written; none when unassigned. -/
def sysReg (n : Nat) : Option (Nat × Bool) :=
  if n = 0x00 then some (32, true)
  else if n ≤ 0x02 then some (8, false)
  else if n = 0x03 ∨ n = 0x04 then some (32, false)
  else if 0x08 ≤ n ∧ n ≤ 0x0F then some (32, false)
  else if n = 0x10 ∨ n = 0x11 then some (64, false)
  else if n = 0x12 then some (2, true)
  else if n = 0x13 then some (8, false)
  else if n = 0x14 then some (64, true)
  else if n = 0x15 then some (32, true)
  else none

/-- R131: a register of 64 bits moves as .z64, any other as .z32. -/
def sysTyOk (n : Nat) (ty : BitVec 4) (lc : BitVec 2) : Bool :=
  match sysReg n with
  | some (64, _) => ty = 7 ∧ lc = 1
  | some _ => ty = 6 ∧ lc = 0
  | none => false

/-! ### Rows -/

/-- TYPE 0 and LC 0 (R53). -/
def noTy (w : CastWord) : Bool := w.ty = 0 ∧ w.lc = 0

/-- Runner row with no operands. -/
def rowPlain (w : CastWord) : OpSpec := { tyOk := noTy w }

/-- gred and gscan types (R129). -/
def redTyOk (isSeq isLogic : Bool) (w : CastWord) : Bool :=
  if isLogic then isB w.ty ∧ w.lc.toNat < 2
  else if isSeq then isFloat w.ty
  else isInt3264 w.ty ∨ isFloat w.ty

/-- Integer rows with A, B sources of the type's cells (R144). -/
def rowInt2 (w : CastWord) (cls : Nat) (sat : Bool) : OpSpec :=
  { cls := cls, d := .v (cellsOf w.lc), a := .v (cellsOf w.lc), b := .v (cellsOf w.lc), immb := true,
    modMask := if sat then 3 else 1, tyOk := isInt w.ty }

/-- Logic rows (R149). -/
def rowLogic2 (w : CastWord) : OpSpec :=
  { d := .v (cellsOf w.lc), a := .v (cellsOf w.lc), b := .v (cellsOf w.lc), immb := true, modMask := 1, tyOk := isB w.ty }

/-- Shifts: the count is one cell (R151). -/
def rowShift (w : CastWord) : OpSpec :=
  { d := .v (cellsOf w.lc), a := .v (cellsOf w.lc), b := .v 1, immb := true, modMask := 1, tyOk := isInt w.ty }

/-- One cell in, counted into one cell, or as given (R153). -/
def rowBits (w : CastWord) (one : Bool) : OpSpec :=
  { d := .v (if one then 1 else cellsOf w.lc), a := .v (cellsOf w.lc), tyOk := isB w.ty }

/-- idp4, idp2 (R162). -/
def rowDot (w : CastWord) : OpSpec :=
  { cls := 1, d := .v 1, a := .v 1, b := .v 1, c := .v 1, immb := true, modMask := 0xF, tyOk := w.ty = 2 ∨ w.ty = 6 }

/-- Kiln rows with two float sources (R238). -/
def rowF2 (w : CastWord) (cls : Nat) : OpSpec :=
  { cls := cls, d := .v (cellsOf w.lc), a := .v (cellsOf w.lc), b := .v (cellsOf w.lc), immb := true, modMask := 0x1F,
    tyOk := isFloat w.ty, extra := w.rms < 7 }

/-- Kiln rows with three float sources (R238). -/
def rowF3 (w : CastWord) : OpSpec := { rowF2 w (tClass w.ty w.lc) with c := .v (cellsOf w.lc) }

/-- Kiln rows with one float source and a rounding mode (R238). -/
def rowF1 (w : CastWord) (cls : Nat) : OpSpec :=
  { cls := cls, d := .v (cellsOf w.lc), a := .v (cellsOf w.lc), modMask := 0x1E, tyOk := isFloat w.ty, extra := w.rms < 7 }

/-- fmin, fmax (R238). -/
def rowMinMax (w : CastWord) : OpSpec :=
  { cls := tClass w.ty w.lc, d := .v (cellsOf w.lc), a := .v (cellsOf w.lc), b := .v (cellsOf w.lc), immb := true,
    modMask := 0x11, tyOk := isFloat w.ty ∨ isFp8 w.ty }

/-- fabs, fneg (R238). -/
def rowSign (w : CastWord) : OpSpec :=
  { cls := tClass w.ty w.lc, d := .v (cellsOf w.lc), a := .v (cellsOf w.lc), tyOk := isFloat w.ty ∨ isFp8 w.ty }

/-- The base operand of a Sprue address: a pair in spaces 0, 1, 5 and 6, else one cell; the k file with KA (R164, R194). -/
def baseKind (w : CastWord) : Kind :=
  let n := if w.space = 2 ∨ w.space = 3 ∨ w.space = 4 then 1 else 2
  if w.ka then .k n n else .vOnly n

/-- The data operand of `n` cells: the k file with KD (R194). -/
def dataKind (w : CastWord) (n : Nat) : Kind := if w.kd then .k n n else .vOnly n

/-- R54: SCOPE is 0 when ORD is 0. -/
def scopeOk (w : CastWord) : Bool := w.ord ≠ 0 ∨ w.scope = 0

/-- The C operand and the IMM of an access that may name an image (R195): in space 6 the descriptor and no offset. -/
def imgC (w : CastWord) : Kind := if w.space = 6 then .k 2 2 else .none
def imgImm (w : CastWord) : BitVec 32 := if w.space = 6 then 0 else 0xFFFFFFFF

/-- ORD, SCOPE and EVICT, and ORD, SCOPE alone, as a mask over EXT (R54). -/
def extOSE : BitVec 16 := 0xFF00
def extOS : BitVec 16 := 0xF800

/-- atom and red (R195). -/
def rowAtomTy (isLogic isF : Bool) (w : CastWord) : Bool :=
  if isLogic then isB w.ty ∧ w.lc.toNat < 2 else if isF then w.ty = 0xA ∨ w.ty = 0xB else isInt3264 w.ty

def rowAtom (w : CastWord) (isLogic isF : Bool) : OpSpec :=
  { d := .vOnly (cellsOf w.lc), a := baseKind w, b := dataKind w (cellsOf w.lc), modMask := 0x1F, extMask := extOSE,
    immMask := 0xFFFFFFFF, tyOk := rowAtomTy isLogic isF w, extra := w.space ≤ 4 ∧ scopeOk w }

def rowRed (w : CastWord) (isLogic isF : Bool) : OpSpec :=
  { rowAtom w isLogic isF with d := .none, extra := w.space ≤ 4 ∧ scopeOk w ∧ (w.ord = 0 ∨ w.ord = 2) }

/-- qpop and qpeek (R195). -/
def rowQpop (w : CastWord) : OpSpec :=
  { d := .vOnly (cellsOf w.lc), a := baseKind w, c := .pDst, modMask := 0x0F, extMask := extOS, immMask := 0xFFFFFFFF,
    tyOk := isB w.ty ∧ w.lc.toNat < 2, extra := (w.space = 2 ∨ w.space = 3) ∧ w.ord ≤ 1 ∧ scopeOk w }

/-- The mask-pair operand of a Crucible command: C with MSK, MOD[3] (R289). -/
def mskC (w : CastWord) : Kind := if w.modBit 3 then .mask else .none

/-- Crucible and Ladle rows are U forms of class B (R289, R324). -/
def rowEng (w : CastWord) : OpSpec := { form := .uniform, cls := 1, tyOk := noTy w }

/-- A Ladle command with a descriptor (R324). -/
def rowLadle (w : CastWord) (sync : Bool) : OpSpec :=
  { rowEng w with a := .k 16 16, modMask := if sync then 6 else 2 }

/-- The word of cmode (R294). -/
def cmodeOk (w : CastWord) : Bool :=
  let claim := w.imm.getLsbD 5
  let setm := w.imm.getLsbD 4
  (w.imm &&& 0xC0) = 0 ∧ (w.imm &&& 7).toNat ≤ 4 ∧
  (claim ∨ (w.imm >>> 8) = 0) ∧ (setm ∨ (w.imm &&& 0xF) = 0)

/-- A k index or 0, with an IMM only when A is 0 (R117, R207). -/
def kOrImm (w : CastWord) (m : BitVec 32) : BitVec 32 := if w.a = 0 then m else 0

/-- The intrinsic class of a U-form word that reads nothing (R60, R64, R65); its other bits were checked when it was
decoded. None for any other step. -/
def plainClass (i : Instr) : Option Nat :=
  match i with
  | .yield | .ifence => some 0
  | .ccommit | .cpair | .cunpair | .lcommit | .lcancel => some 1
  | _ => none

/-- The row of each casting instruction that has operands; none for any other step. -/
def opSpec (i : Instr) : Option (OpSpec × CastWord) :=
  match i with
  | .nop w | .ret w | .join w | .exit w => some (rowPlain w, w)
  | .tret w => some ({ rowPlain w with form := .handler }, w)
  | .bra w => some ({ extMask := 0x1FFF, immMask := 0xFFFFFFFF, tyOk := noTy w }, w)
  | .brx w => some ({ a := .v 2, extMask := 0x1FFF, tyOk := noTy w }, w)
  | .call w => some ({ modMask := 0xFF, extMask := 0x1FFF, immMask := 0xFFFFFFFF, tyOk := noTy w, extra := w.mod.toNat ≤ 128 }, w)
  | .callx w => some ({ a := .v 2, modMask := 0xFF, extMask := 0x1FFF, tyOk := noTy w, extra := w.mod.toNat ≤ 128 }, w)
  | .bar w | .arrive w => some ({ form := .uniform, immMask := 0xF, tyOk := noTy w }, w)
  | .setw w | .sleep w => some ({ form := .uniform, a := .k 1 1, immMask := kOrImm w 0xFFFFFFFF, tyOk := noTy w }, w)
  | .shfl _ w => some ({ d := .v (cellsOf w.lc), a := .v (cellsOf w.lc), b := .v 1, immb := true, modMask := 0xF1,
                         tyOk := isB w.ty ∧ w.lc.toNat < 2, extra := w.seg < 8 }, w)
  | .vote .ballot w => some ({ d := .v 4, a := .pSrc, modMask := 0xF0, tyOk := w.ty = 0xF ∧ w.lc = 2, extra := w.seg < 8 }, w)
  | .vote _ w => some ({ d := .pDst, a := .pSrc, modMask := 0xF0, tyOk := noTy w, extra := w.seg < 8 }, w)
  | .elect w => some ({ d := .pDst, modMask := 0xF0, tyOk := noTy w, extra := w.seg < 8 }, w)
  | .gred m w => some ({ cls := tClass w.ty w.lc, d := .v (cellsOf w.lc), a := .v (cellsOf w.lc), modMask := 0xF0,
                         tyOk := redTyOk (m == .seq) (m == .and || m == .or || m == .xor) w, extra := w.seg < 8 }, w)
  | .gscan m w => some ({ cls := tClass w.ty w.lc, d := .v (cellsOf w.lc), a := .v (cellsOf w.lc), modMask := 0xF2,
                          tyOk := redTyOk (m == .seq) false w, extra := w.seg < 8 }, w)
  | .rdsys w => some ({ d := .v (cellsOf w.lc), a := .sys, tyOk := sysTyOk w.a.toNat w.ty w.lc }, w)
  | .wrsys w => some ({ d := .sys, a := .v (cellsOf w.lc), tyOk := sysTyOk w.d.toNat w.ty w.lc,
                        extra := (sysReg w.d.toNat).any (·.2) }, w)
  | .kset w => some ({ form := .uniform, d := .k 1 1, a := .v 1, modMask := 2, tyOk := noTy w,
                       immMask := if w.modBit 1 then 0 else 0x7F }, w)
  | .kget w => some ({ form := .uniform, d := .v 1, a := .v 1, tyOk := noTy w }, w)
  | .plop .not w => some ({ d := .pDst, a := .pSrc, tyOk := noTy w }, w)
  | .plop _ w => some ({ d := .pDst, a := .pSrc, b := .pSrc, tyOk := noTy w }, w)
  | .hmk w => some ({ form := .uniform, immMask := 0x1FFFE, tyOk := noTy w }, w)
  | .trap w | .dbrk w => some ({ immMask := 0xFFFFFFFF, tyOk := noTy w }, w)
  -- integer unit
  | .iadd w | .isub w => some (rowInt2 w 0 true, w)
  | .imin w | .imax w => some (rowInt2 w 0 false, w)
  | .imul w => some (rowInt2 w 1 true, w)
  | .imulh w => some (rowInt2 w 1 false, w)
  | .ineg w => some ({ d := .v (cellsOf w.lc), a := .v (cellsOf w.lc), modMask := 2, tyOk := isInt w.ty }, w)
  | .iabs w => some ({ d := .v (cellsOf w.lc), a := .v (cellsOf w.lc), modMask := 2, tyOk := isSigned w.ty }, w)
  | .imad w =>
    let wide := w.modBit 2
    let n := if wide then 2 else cellsOf w.lc
    some ({ rowInt2 w 1 true with d := .v n, c := .v n, modMask := 7, extra := !wide || w.ty == 2 || w.ty == 6 }, w)
  | .idivs w => some ({ cls := 2, d := .v (2 * cellsOf w.lc), a := .v (2 * cellsOf w.lc), b := .v (cellsOf w.lc), immb := true,
                        modMask := 1, tyOk := w.ty = 6 ∨ w.ty = 7 }, w)
  | .idive w => some ({ cls := 2, d := .v (2 * cellsOf w.lc), a := .v (2 * cellsOf w.lc), b := .v (cellsOf w.lc), c := .v (cellsOf w.lc),
                        immb := true, modMask := 1, tyOk := isInt3264 w.ty }, w)
  | .and w | .or w | .xor w | .andn w => some (rowLogic2 w, w)
  | .not w => some ({ d := .v (cellsOf w.lc), a := .v (cellsOf w.lc), tyOk := isB w.ty }, w)
  | .tern w => some ({ d := .v (cellsOf w.lc), a := .v (cellsOf w.lc), b := .v (cellsOf w.lc), c := .v (cellsOf w.lc),
                       immMask := 0xFF, tyOk := isB w.ty }, w)
  | .shl w | .shr w | .sar w | .rot w => some (rowShift w, w)
  | .bfx w => some ({ rowShift w with tyOk := isInt3264 w.ty }, w)
  | .bfi w => some ({ rowShift w with tyOk := isInt3264 w.ty, c := .v (cellsOf w.lc) }, w)
  | .popc w | .clz w => some (rowBits w true, w)
  | .brev w => some (rowBits w false, w)
  | .icmp _ w => some ({ d := .pDst, a := .v (cellsOf w.lc), b := .v (cellsOf w.lc), c := if w.comb = 0 then .none else .pSrc,
                         immb := true, modMask := 0xD, tyOk := isInt w.ty, extra := w.comb < 3 }, w)
  | .sel w => some ({ rowLogic2 w with c := .pSrc }, w)
  | .mov w => some ({ rowLogic2 w with a := .none, tyOk := isB w.ty ∨ isInt3264 w.ty }, w)
  | .icvt w =>
    let st := w.mod >>> 4
    some ({ d := .v (cellsOf w.lc), a := .v (if st = 3 ∨ st = 7 then 2 else 1), modMask := 0xF2, tyOk := isInt w.ty,
            extra := st.toNat < 8 }, w)
  | .lea w => some ({ d := .v 2, a := .v 2, b := .v 1, modMask := 0x1E, immMask := 0xFFFFFFFF, tyOk := w.ty = 7 }, w)
  | .leaGlb w => some ({ d := .v 2, a := .v 2, tyOk := w.ty = 7 }, w)
  | .idp4 w | .idp2 w => some (rowDot w, w)
  | .perm w => some ({ d := .v 1, a := .v 1, b := .v 1, c := .v 1, immb := true, modMask := 1, tyOk := w.ty = 0xF ∧ w.lc = 0 }, w)
  -- Kiln
  | .fadd w | .fsub w | .fmul w => some (rowF2 w (tClass w.ty w.lc), w)
  | .fdiv w | .fatan2 w | .fpow w => some (rowF2 w 3, w)
  | .ffma w | .fsum3 w => some (rowF3 w, w)
  | .fmin w | .fmax w => some (rowMinMax w, w)
  | .fabs w | .fneg w => some (rowSign w, w)
  | .fcmp _ w => some ({ rowMinMax w with d := .pDst, c := if w.comb = 0 then .none else .pSrc, modMask := 0x1D, extra := w.comb < 3 }, w)
  | .fclass w => some ({ rowSign w with d := .v 1 }, w)
  | .frcp w | .fsqrt w | .frsqrt w | .fexp2 w | .fexp w | .flog2 w | .flog w | .fsin w | .fcos w | .ftanh w => some (rowF1 w 3, w)
  | .frint w => some (rowF1 w (tClass w.ty w.lc), w)
  | .fcvt w =>
    let sOk := tyLcOk w.styp w.slc && (isFloat w.styp || isFp8 w.styp)
    some ({ cls := max (tClass w.ty w.lc) (tClass w.styp w.slc), d := .v (cellsOf w.lc), a := .v (cellsOf w.slc), modMask := 0x3E,
            extMask := 0x0FC0, tyOk := isFloat w.ty ∨ isFp8 w.ty, extra := w.rms < 7 && sOk }, w)
  | .fcvti w =>
    let sOk := tyLcOk w.styp w.slc && isFloat w.styp
    some ({ cls := tClass w.styp w.slc, d := .v (cellsOf w.lc), a := .v (cellsOf w.slc), modMask := 0x1E, extMask := 0x0FC0,
            tyOk := isInt3264 w.ty, extra := w.rms < 7 && sOk }, w)
  | .icvtf w =>
    let sOk := tyLcOk w.styp w.slc && isInt w.styp
    some ({ cls := tClass w.ty w.lc, d := .v (cellsOf w.lc), a := .v (cellsOf w.slc), modMask := 0x1E, extMask := 0x0FC0,
            tyOk := isFloat w.ty, extra := w.rms < 7 && sOk }, w)
  | .fscale w => some ({ rowF2 w (tClass w.ty w.lc) with b := .v 1 }, w)
  | .fgetexp w => some ({ cls := tClass w.ty w.lc, d := .v 1, a := .v (cellsOf w.lc), modMask := 0x10, tyOk := isFloat w.ty }, w)
  -- Sprue
  | .ld w => some ({ d := .vOnly (cellsOf w.lc), a := baseKind w, c := imgC w, modMask := 0x0F, extMask := extOSE, immMask := imgImm w,
                     extra := w.space ≤ 6 ∧ w.ord ≤ 1 ∧ scopeOk w }, w)
  | .st w => some ({ a := baseKind w, b := dataKind w (cellsOf w.lc), c := imgC w, modMask := 0x1F, extMask := extOSE, immMask := imgImm w,
                     extra := (w.space ≤ 4 ∨ w.space = 6) ∧ (w.ord = 0 ∨ w.ord = 2) ∧ scopeOk w }, w)
  | .ldd w => some ({ d := .vOnly (cellsOf w.lc), a := baseKind w, c := .none, modMask := 0xEF, extMask := extOSE, immMask := 0xFFFFFFFF,
                      tyOk := w.ty = 0xC, extra := w.space ≤ 6 ∧ w.ord ≤ 1 ∧ scopeOk w }, w)
  | .std w => some ({ a := baseKind w, b := .vOnly (cellsOf w.lc), c := .none, modMask := 0xEF, extMask := extOSE, immMask := 0xFFFFFFFF,
                      tyOk := w.ty = 0xC, extra := (w.space ≤ 4 ∨ w.space = 6) ∧ (w.ord = 0 ∨ w.ord = 2) ∧ scopeOk w }, w)
  | .atom m w => some (rowAtom w (m == .and || m == .or || m == .xor || m == .exch) (m == .fadd), w)
  | .red m w => some (rowRed w (m == .and || m == .or || m == .xor) (m == .fadd), w)
  | .cas w => some ({ rowAtom w true false with c := .vOnly (cellsOf w.lc) }, w)
  | .fence w => some ({ extMask := extOS, tyOk := noTy w, extra := w.ord ≠ 0 }, w)
  | .mark w => some (rowPlain w, w)
  | .qfence w =>
    let q := w.mod >>> 5
    some ({ form := .uniform, modMask := 0xE0, tyOk := noTy w, extra := q = 3 ∨ q = 5 ∨ q = 6 ∨ q = 7 }, w)
  | .waitv _ w => some ({ d := .vOnly (cellsOf w.lc), a := baseKind w, b := dataKind w (cellsOf w.lc), modMask := 0x1F, extMask := extOS,
                          immMask := 0xFFFFFFFF, tyOk := isInt3264 w.ty, extra := w.space ≤ 4 ∧ w.ord ≤ 1 ∧ scopeOk w }, w)
  | .waitb _ w => some ({ form := .uniform, a := .k 1 1, modMask := 0x20, immMask := kOrImm w 0xFFFF, tyOk := noTy w }, w)
  | .spill w => some ({ b := .vOnly (cellsOf w.lc), tyOk := isB w.ty }, w)
  | .fill w => some ({ d := .vOnly (cellsOf w.lc), tyOk := isB w.ty }, w)
  | .smp w => some ({ cls := 1, d := .vOnly 4, a := baseKind w, b := dataKind w 1, c := .k 2 2, modMask := 0x3F, extMask := extOSE,
                      tyOk := w.ty = 0xF ∧ w.lc = 2, extra := w.space = 6 ∧ w.ord ≤ 1 ∧ scopeOk w }, w)
  | .smpres w => some ({ cls := 1, d := .vOnly 1, a := baseKind w, b := dataKind w 1, c := .k 2 2, modMask := 0x1F, extMask := extOSE,
                         tyOk := w.ty = 6, extra := w.space = 6 ∧ w.ord ≤ 1 ∧ scopeOk w }, w)
  | .qpush w => some ({ d := .pDst, a := baseKind w, b := dataKind w (cellsOf w.lc), modMask := 0x1F, extMask := extOS, immMask := 0xFFFFFFFF,
                        tyOk := isB w.ty ∧ w.lc.toNat < 2, extra := (w.space = 2 ∨ w.space = 3) ∧ (w.ord = 0 ∨ w.ord = 2) ∧ scopeOk w }, w)
  | .qpop w | .qpeek w => some (rowQpop w, w)
  | .ldk w => some ({ form := .uniform, d := .k (cellsOf w.lc) (cellsOf w.lc), a := baseKind w, modMask := 0x0F, extMask := extOSE,
                      immMask := 0xFFFFFFFF, tyOk := isB w.ty,
                      extra := (w.space = 0 ∨ w.space = 1 ∨ w.space = 5) ∧ w.ord ≤ 1 ∧ scopeOk w }, w)
  | .pref w => some ({ a := baseKind w, c := imgC w, modMask := 0x2F, extMask := 0x0700, immMask := imgImm w, tyOk := noTy w,
                       extra := w.space = 0 ∨ w.space = 1 ∨ w.space = 5 ∨ w.space = 6 }, w)
  | .ccop _ w =>
    let all := w.modBit 5
    some ({ a := if all then .none else baseKind w, b := if all then .none else dataKind w 1, modMask := if all then 0x21 else 0x39,
            extMask := 0x3800, immMask := if all then 0 else 0xFFFFFFFF, tyOk := noTy w, extra := 2 ≤ w.scope ∧ w.scope ≤ 6 }, w)
  -- Crucible
  | .mma w => some ({ rowEng w with d := .acc, a := .h, b := .h, c := mskC w, modMask := 0xE }, w)
  | .mmaw w => some ({ rowEng w with d := .acc, a := .h, b := .h, c := .k 16 16, modMask := 0xE, immMask := if w.modBit 3 then 7 else 0 }, w)
  | .azero w => some ({ rowEng w with d := .acc, c := mskC w, modMask := 8 }, w)
  | .acopy w | .aadd w => some ({ rowEng w with d := .acc, a := .acc, c := mskC w, modMask := 8 }, w)
  | .ascl w => some ({ rowEng w with d := .acc, a := .k 1 1, b := .k 1 1, c := mskC w, modMask := 8 }, w)
  | .ald w => some ({ rowEng w with d := .acc, a := .h, c := mskC w, modMask := 8 }, w)
  | .ast w => some ({ rowEng w with a := .h, b := .acc, c := mskC w, modMask := 8 }, w)
  | .mset w =>
    let hh := w.modBit 1
    some ({ rowEng w with d := if hh then .h else .mask, a := if hh then .k 8 8 else .k 4 4, modMask := 2 }, w)
  | .cmode w => some ({ rowEng w with immMask := 0xFFFFFFFF }, w)
  | .cdrain w => some ({ rowEng w with modMask := 2 }, w)
  | .csave w | .crest w => some ({ rowEng w with form := .handler, a := .k 2 2 }, w)
  -- Ladle
  | .lcopy w | .lfill w | .lgat w | .lredArr w => some (rowLadle w true, w)
  | .lredOrd w | .lcont w => some (rowLadle w false, w)
  | .lsave w | .lrest w => some ({ rowEng w with form := .handler, a := .k 2 2 }, w)
  | _ => none

/-! ### The checks -/

/-- Whether a Sprue word (OP 0x60-0x71): MOD[0] and EXT[47:45] have other uses there (R50, R52, R54). -/
def isSprue (i : Instr) : Bool :=
  match i with
  | .ld _ | .st _ | .ldd _ | .std _ | .atom _ _ | .red _ _ | .cas _ | .fence _ | .qfence _ | .mark _ | .waitv _ _ | .waitb _ _
  | .spill _ | .fill _ | .smp _ | .smpres _ | .qpush _ | .qpop _ | .qpeek _ | .ldk _ | .pref _ | .ccop _ _ => true
  | _ => false

/-- call and callx hold a window delta in MOD[7:0] (R52). -/
def isCall (i : Instr) : Bool := match i with | .call _ | .callx _ => true | _ => false

/-- R48, R49: an index of `n` cells in a file of `lim` cells. -/
def cellsOk (lim n : Nat) (f : BitVec 11) : Bool := n ≠ 0 && f.toNat % n == 0 && f.toNat + n ≤ lim

/-- R48-R50: a field of the given kind, in a launch of window `W`; `ksel` takes a vector source from the k file. -/
def fieldOk (win : Nat) (kd : Kind) (ksel : Bool) (f : BitVec 11) : Bool :=
  match kd with
  | .none => !ksel && f == 0
  | .v n => if ksel then cellsOk 128 n f else cellsOk win n f
  | .vOnly n => !ksel && cellsOk win n f
  | .k al n => !ksel && f.toNat % al == 0 && f.toNat + n ≤ 128
  | .pDst => !ksel && decide (f.toNat < 15)
  | .pSrc => !ksel && decide (f.toNat < 16)
  | .h => !ksel && decide (f.toNat < 64)
  | .acc => !ksel && decide (f.toNat < 16)
  | .mask => !ksel && decide (f.toNat < 8)
  | .sys => !ksel && (sysReg f.toNat).isSome

/-- R51: whether a source is read as a v cell. -/
def readsV (kd : Kind) (ksel : Bool) : Bool :=
  match kd with | .v _ => !ksel | .vOnly _ => true | _ => false

/-- KSEL bits: EXT[47], EXT[46], EXT[45] for A, B, C, outside the Sprue (R50). -/
def kselA (i : Instr) (w : CastWord) : Bool := !isSprue i && w.ext.getLsbD 15
def kselB (i : Instr) (w : CastWord) : Bool := !isSprue i && w.ext.getLsbD 14
def kselC (i : Instr) (w : CastWord) : Bool := !isSprue i && w.ext.getLsbD 13

/-- IMMB: MOD[0] outside the Sprue, where the row allows it (R52). -/
def usesImm (i : Instr) (sp : OpSpec) (w : CastWord) : Bool := sp.immb && !isSprue i && !isCall i && w.mod.getLsbD 0

/-- Step 1 of R58: the ILLOP conditions of R42, R43 and R46-R55, in a launch of window `win` (true: none fails). This is R73's check of
every word against the W of the launch that executes it: a `v` operand at or above `win` fails. -/
def legalIn (win : Nat) (i : Instr) (sp : OpSpec) (w : CastWord) : Bool :=
  let imm := usesImm i sp w
  let kA := kselA i w
  let kB := kselB i w
  let kC := kselC i w
  let extUsed : BitVec 16 := sp.extMask ||| (if isSprue i then 0 else 0xE000)
  let immUsed : BitVec 32 := if imm then 0xFFFFFFFF else sp.immMask
  tyLcOk w.ty w.lc && sp.tyOk && sp.extra &&
  (w.mod &&& ~~~sp.modMask) == 0 && (w.ext &&& ~~~extUsed) == 0 && (w.imm &&& ~~~immUsed) == 0 &&
  fieldOk win sp.d false w.d && fieldOk win sp.a kA w.a &&
  (if imm then !kB && w.b == 0 else fieldOk win sp.b kB w.b) && fieldOk win sp.c kC w.c &&
  (!w.reuse.getLsbD 2 || readsV sp.a kA) && (!w.reuse.getLsbD 1 || (!imm && readsV sp.b kB)) && (!w.reuse.getLsbD 0 || readsV sp.c kC) &&
  (sp.form == .lane || (w.pg == 15 && w.pn == 0)) &&
  (!isCall i || decide (16 * w.mod.toNat ≤ win))

end Sys2Proof.Machine
end

