-- ==== Sys2Proof/Config.lean ====
section
/-! DEFINITION. Values that the manual leaves open and an implementation or the outside fixes. Each is an opaque
constant with no body: nothing can be proved of its value, so what is proved holds for every value. The argument `n`
of a free choice is the model's own counter `State.free`. -/

namespace Sys2Proof.Config

/-- A free choice of an event's time within the bound its rule states: whether it happens now (log 14). -/
opaque happensNow : Nat → Bool
/-- A free byte: bytes whose value no rule states, such as an overflow-stack entry (R88; log 15). -/
opaque freeByte : Nat → BitVec 8
/-- A free 64-bit value (log 3). -/
opaque freeWord : Nat → BitVec 64
/-- Which of the 16 entries translates a broken 64 KiB group (R339; log 16), taken modulo 16. -/
opaque contChoice : Nat → Nat
/-- A byte of the ROM that lanes 30 and 31 run below STAGE 4 (R360, R470; log 17). -/
opaque romByte : Nat → BitVec 8
/-- The 60 bytes of the ROM's HSS public key (R472; log 18). -/
opaque hssKey : List (BitVec 8)
/-- DEVID, the hash of the identity public key (R474; log 18). -/
opaque devid : BitVec 256
/-- A byte of the HSS signature over an attestation record (R476; log 18). -/
opaque attestByte : List (BitVec 8) → Nat → Nat → BitVec 8
/-- The lowest supply step, in steps of 2.5 mV above 0.550 V, that meets the class-A period of a column (R24, R481;
log 19), taken modulo 141. -/
opaque trimStep : Nat → Nat → Nat
/-- The L2 slice of a 128-byte line, taken modulo 64 (R331; log 20). -/
opaque sliceOf : Nat → Nat
/-- The set of a 128-byte line in its L2 slice, taken modulo 1,024, and in the Hearth cache, taken modulo 2^21 (R331, R332,
R335; log 20). -/
opaque setOf : Nat → Nat
/-- Whether the firmware's retention map marks a bank of a controller weak (R352; log 20). -/
opaque retentionWeak : Nat → Nat → Bool
/-- The bank that a row of a graphics-memory controller lies in (R352, R358; log 20). -/
opaque bankOf : Nat → Nat
/-- The split that the dispatcher gives an empty core, among those that hold the block's windows (R15; log 132). -/
opaque splitChoice : Nat → Nat
/-- The vectors of function 0 that the fault-service lane raises for a new entry of the fault buffer and of the error ring, taken
modulo 536 (R390, R467; log 80). -/
opaque faultVector : Nat
opaque errorVector : Nat
/-- Spare lanes of a core beyond its 128, taken modulo 129, from which a retired quad is replaced (R83; log 79). -/
opaque spareLanes : Nat → Nat
/-- Whether the remote device of a peer refuses an access at an offset at a tick, as by its own INGRESS (R478, R479; log 36). -/
opaque remoteRefuses : Nat → Nat → Nat → Bool
/-- Spare rows of a Flue line buffer, of which R358 gives no number (log 154). -/
opaque lineSpares : Nat → Nat
/-- The bits below the rounding point of a real function that no bounded computation settles: taken only if the
working precision of 2^40 bits did not separate the result (R246; log 22). -/
opaque unsettled : Nat → Nat

end Sys2Proof.Config
end

