-- ==== Sys2Proof/Machine/State.lean ====
section
/-! DEFINITION. The state of the A960 as plain data: every piece the spec names, the model's own few fields (the
agenda, the inputs, the cursor, the counter of free values), the reasons a step can stop, and the state after reset.
A table lists only what differs from its default. -/

namespace Sys2Proof.Machine

/-- Why the machine stops with a fault. None is a fault of the hardware: each says that `exec` was handed an
instruction outside any place it could issue from. `step` never does that. -/
inductive Fault
  /-- Raised by a casting word's meaning when the cursor names no fragment. Safe: the hardware issues words only for
  fragments. -/
  | noFragment
  /-- Raised by a Stoker word's meaning when the cursor names no lane (lanes are 0-31). Safe, as noFragment. -/
  | noLane
  /-- Raised by a slot op's meaning when the cursor names no line core (0-63). Safe, as noFragment. -/
  | noLine
  deriving DecidableEq, Repr

/-- Why the model gives an instruction no meaning. -/
inductive Refusal
  /-- Raised by an arm of `exec` for an instruction without a meaning yet. Safe: nothing is claimed of it. -/
  | notModelled (mnemonic : String)
  deriving DecidableEq, Repr

/-! ### Memory and translation -/

/-- Physical memory of R330: bytes by physical address, and the poisoned 32-byte sectors (R192). -/
structure Memory where
  cells : List Host.Cell
  poison : List Nat
  deriving DecidableEq, Repr

/-- A translation that a TLB holds (R342): `va` and `pa` are the bases of a page of `size` bytes. -/
structure TlbEntry where
  ctx : Nat
  va : Nat
  size : Nat
  pa : Nat
  r : Bool
  w : Bool
  x : Bool
  deriving DecidableEq, Repr

/-- A non-leaf entry that a page-walk cache holds: the table that level `level` of an address leads to (R342). -/
structure WalkEntry where
  ctx : Nat
  level : Nat
  va : Nat
  table : Nat
  deriving DecidableEq, Repr

/-- Who waits for a translation (R171, R318, R344, R486, R487). -/
inductive Requester
  | frag (core slot node : Nat) | cruc (core slot : Nat) | ladle (core slot cmd : Nat) | window (index : Nat)
  | faultWrite (launch : Nat) | save (core launch : Nat)
  /-- A group whose overflow stack has an entry that is not written yet (R88). -/
  | stack (core slot : Nat)
  deriving DecidableEq, Repr

/-- How far a merge entry is: waiting for a walker, walking, or pending after V 0 (R344, R345). -/
inductive MergePhase | queued | walking | pending deriving DecidableEq, Repr

/-- An entry of a flask's miss-merge table (R344). `kind` has bits read, write, fetch, atomic (R346). -/
structure MergeEntry where
  ctx : Nat
  page : Nat
  kind : BitVec 8
  source : Nat
  reqs : List Requester
  merges : Nat
  tick : DWord
  phase : MergePhase
  order : Nat
  deriving DecidableEq, Repr

/-- A missing request in a flask's admission queue (R344). -/
structure MissReq where
  ctx : Nat
  page : Nat
  kind : BitVec 8
  source : Nat
  who : Requester
  tick : DWord
  deriving DecidableEq, Repr

/-- A sector of a core's L1 (R181-R183): the bytes it holds, those that are dirty, and the ticks of its fill and of
its first write. Sector `sec` belongs to the 128-byte line `sec / 4` (R332); a line is held while one of its sectors is. -/
structure L1Sector where
  have_ : BitVec 32
  dirty : BitVec 32
  data : BitVec 256
  filled : Nat
  wrote : Nat
  /-- EVICT and the order number of the latest access to the sector's line (R196, R333). -/
  evict : Nat := 0
  used : Nat := 0
  /-- The L1's copy holds an uncorrectable error (R357). -/
  bad : Bool := false
  deriving DecidableEq, Repr

/-! ### Threads, fragments, groups -/

/-- A thread (R74, R79). -/
structure Thread where
  /-- The global index g. -/
  g : Nat
  /-- THREADID. -/
  tid : Nat
  alive : Bool
  /-- v0 to v(W - 1), relative to the window base. -/
  v : Table Word
  /-- p0-p14. -/
  pred : BitVec 15
  pr : Word
  fpflags : Word
  trapcause : Byte
  trappc : DWord
  /-- The handler mask (R134). -/
  hmask : Word
  /-- TOP of the spill stack (R90). -/
  top : Nat
  /-- Register cells with an uncorrectable error (R357). -/
  badCells : List Nat
  deriving DecidableEq, Repr

/-- What an entry of the split table is doing (R84, R98, R171). -/
inductive NodeState
  | ready
  /-- A join entry: it waits for its children (R86). -/
  | join
  /-- Parked until no listed page of the context is awaited (R171). -/
  | parked (pages : List Nat)
  /-- A trap on its way to the handler: cause and detail by lane, and the pages its detail writes wait for (R103). -/
  | trapping (info : Table (Nat × DWord)) (pages : List Nat)
  | asleep (until_ : Nat)
  | bar (n phase : Nat)
  /-- waitv: the word, the lanes still waiting, and the values of those released (R206). -/
  | waitv (word : BitVec 128) (pending : Mask) (vals : Table DWord)
  /-- waitb, cdrain: until batch `n` has completed (R207, R295). -/
  | batch (e : EngineSel) (n : BitVec 16)
  /-- cmode and cpair waiting for indices (R265); the word is not issued. -/
  | claim
  /-- crest waiting for indices, `pair` for the partner's too, and lrest for `n` buffer entries: batch waits; the word is not issued
  (R297, R329). -/
  | restore (tiles : BitVec 16) (masks : BitVec 8) (pair : Bool)
  | room (n : Nat)
  | setw
  deriving DecidableEq, Repr

/-- An entry of the split table or of the overflow stack (R84, R88). -/
structure Node where
  id : Nat
  mask : Mask
  pc : DWord
  rpc : Option DWord
  parent : Option Nat
  hmode : Bool
  st : NodeState
  /-- Pages of this entry's instruction whose miss was made fatal (R172). -/
  fatal : List Nat
  /-- It owes the WATCHDOG trap at its next instruction boundary (R100). -/
  owes : Bool := false
  /-- The group's count of issues when it issued last, or was made (R87). -/
  turn : Nat := 0
  /-- Cycles for which the class gate has held its class-D instruction (R95). -/
  gatedFor : Nat := 0
  deriving DecidableEq, Repr

/-- A command in a Crucible queue (R272, R284). -/
structure CrucCmd where
  word : BitVec 128
  pc : DWord
  batch : BitVec 16
  /-- Acceptance order on the core, for qfence (R184). -/
  seq : Nat
  rm : Nat
  sat : Bool
  ha : BitVec 256
  hb : BitVec 256
  kv : List Word
  /-- g of the group's lowest live thread at acceptance (R282). -/
  g : Nat
  paired : Bool
  begun : Bool
  /-- Steps completed (R277) and beats completed within the current step. -/
  prog : Nat
  beat : Nat
  /-- Beats completed within the step by the partner's half (R278), and whether the command stops at the next boundary (R295). -/
  beatB : Nat
  stop : Bool
  /-- Tick since which the allowance gate has held the command's beats, and whether it bypasses the gate (R281). -/
  held : Option Nat
  bypass : Bool
  /-- The command has completed: its last beat is done, or it stopped (R275, R282). -/
  done : Bool
  /-- It came from an old group by re-slicing (R286); `wide`: then some thread changed its core, so that it counts in the batches of
  the whole block. `rank` orders what re-slicing joined into one queue; within a rank, acceptance does. -/
  inherited : Bool
  wide : Bool := false
  rank : Nat := 0
  deriving DecidableEq, Repr

/-- A group's Crucible side (R30, R264-R272, R278). -/
structure CrucState where
  queue : List CrucCmd
  open_ : BitVec 16
  /-- Closed batches that have not completed, oldest first (R30). -/
  closed : List (BitVec 16)
  rm : Nat
  sat : Bool
  tiles : BitVec 16
  masks : BitVec 8
  /-- Indices named by an accepted release that are not freed yet (R294). -/
  relTiles : BitVec 16
  relMasks : BitVec 8
  paired : Bool
  /-- Batches whose commands csave holds (R297). -/
  saved : List (BitVec 16)
  deriving DecidableEq, Repr

/-- A command in a Ladle queue (R298, R320). -/
structure LadleCmd where
  word : BitVec 128
  pc : DWord
  batch : BitVec 16
  /-- The captured descriptor, with TIME made absolute. -/
  desc : List Word
  /-- Acceptance order on the core (R305). -/
  seq : Nat
  srcCore : Nat
  srcG : Nat
  started : Bool
  begun : Bool
  sent : Bool
  /-- The launch under which it was sent (R313). -/
  sentIn : Nat
  prog : Nat
  bypass : Bool
  /-- The page a transfer waits for (R318), and pages whose miss was made fatal. -/
  parked : Option Nat
  fatal : List Nat
  done : Bool
  /-- It came from an old group by re-slicing (R321); `wide` and `rank` as of a Crucible command. -/
  inherited : Bool
  wide : Bool := false
  rank : Nat := 0
  deriving DecidableEq, Repr

/-- A group's Ladle side (R30, R298). -/
structure LadleState where
  queue : List LadleCmd
  open_ : BitVec 16
  closed : List (BitVec 16)
  saved : List (BitVec 16)
  deriving DecidableEq, Repr

/-- A qfence in force (R184, R205): the named queues (bit 0 LSQ, bit 1 CQ, bit 2 LQ), the lanes of the fragment, and the rank and
acceptance number below which commands come before it. -/
structure QFence where
  names : BitVec 3
  lanes : Mask
  upTo : Nat
  rank : Nat := 0
  deriving DecidableEq, Repr

/-- A resident group, or a remnant (R74, R123). -/
structure Group where
  launch : Nat
  block : Nat
  /-- The group's index k in its block (GROUPID). -/
  k : Nat
  /-- G, the grant. -/
  grant : Nat
  prio : Nat
  ctx : Nat
  /-- W, the window of the launch. -/
  win : Nat
  threads : Table Thread
  nodes : List Node
  stack : List Node
  /-- Indexes of stack entries that are not in memory yet: their page has no translation so far (R88). -/
  unwritten : List Nat := []
  nextNode : Nat
  /-- Issues of the group so far, for the round robin of R87. -/
  issues : Nat
  kregs : Table Word
  hregs : Table (BitVec 256)
  classpol : BitVec 2
  /-- CYC of the latest issue, and cycles with an eligible fragment and no issue (R94). -/
  lastIssue : Nat
  eligibleFor : Nat
  owed : Bool
  cruc : CrucState
  ladle : LadleState
  fences : List QFence
  /-- The rank of the commands that the group accepts: it rises at each re-slicing (R286). -/
  rank : Nat := 0
  remnant : Bool
  deriving DecidableEq, Repr

/-- The four windows of a block on a core (R167): window b holds offsets b * 2^18 to b * 2^18 + q - 1. -/
structure Window where
  launch : Nat
  block : Nat
  q : Nat
  bytes : Table Byte
  poison : List Nat
  deriving DecidableEq, Repr

/-- An instruction in an execute stage (R19): its carried class, its passes, the stage (0 for E1 to 3 for E4) and the cycles
it still spends there. -/
structure Stage where
  cls : Nat
  passes : Nat
  at_ : Nat
  left : Nat
  deriving DecidableEq, Repr

/-- A fragment waiting for a claim or a pairing, in the order of the first attempts (R264, R278). -/
structure ClaimReq where
  slot : Nat
  /-- The fragment's entry in the split table. -/
  node : Nat
  tiles : BitVec 16
  masks : BitVec 8
  /-- The claim is the partner half of a pairing of the core given. -/
  forCore : Option Nat
  /-- The indices are taken, and the fragment may issue its word. -/
  granted : Bool
  /-- The word that asked. -/
  word : BitVec 128 := 0
  deriving DecidableEq, Repr

/-- A casting core (R14-R20). -/
structure Core where
  cyc : DWord
  nextCycle : Nat
  stages : List Stage
  beatNow : Bool
  transferNow : Bool
  runClass : Nat
  runLen : Nat
  dWindow : Nat
  /-- The longest wait of a gated class-D instruction; 64 or more opens a D window (R95). -/
  gatedFor : Nat
  quads : Nat
  barred : Bool
  sramSpares : Nat
  accSpares : Nat
  gated : Bool
  halted : Bool
  split : Nat
  aff : Option DWord
  skip : Nat
  groups : Table Group
  wins : List Window
  tiles : Table (Table Word)
  masks : Table Mask
  badTiles : List Nat
  /-- Owner slot of each tile and mask pair; a tile held for the partner core's group has owner 1000 + slot (R264, R278). -/
  tileOwner : Table Nat
  maskOwner : Table Nat
  claims : List ClaimReq
  /-- The time-slot entry in force, if any, its index, and the beats of its turn (R281). -/
  slotNow : Option Word
  slotEntry : Nat
  slotBeats : Nat
  /-- The slot that last had a beat, by context; at 64 while no time slot is in force (R281). -/
  rrCruc : Table Nat
  rrLadle : Nat
  accepts : Nat
  l1 : Table L1Sector
  sig : BitVec 1024
  epoch : Nat
  konst : Table (BitVec 256)
  utlb : List TlbEntry
  deriving DecidableEq, Repr

/-- A flask (R17): the draught allowance, the TLB and the miss hardware. -/
structure Flask where
  allow : Int
  refill : BitVec 16
  capL : BitVec 16
  tlb : List TlbEntry
  walkCache : List WalkEntry
  merge : Table MergeEntry
  mergeOrder : Nat
  admission : List MissReq
  /-- Blocks (launch, block) that have waited 2^20 ticks (R400). -/
  blockWait : List (Nat × Nat)
  deriving DecidableEq, Repr

/-! ### Launches -/

/-- The fields of a launch record (R76). -/
structure LaunchRec where
  entry : DWord
  trapentry : DWord
  faultrec : DWord
  spillbase : DWord
  savebase : DWord
  spillstride : Nat
  spilllimit : Nat
  wreq : Nat
  win : Nat
  classpol : Nat
  prio : Nat
  nlev : Nat
  coop : Nat
  scratch : Nat
  prinit : Word
  context : Nat
  domain : List Nat
  size : List Nat
  units : Nat
  kinit : List Word
  deriving DecidableEq, Repr

/-- A barrier of a block (R124): the phase, the threads that arrived in it, and those that arrived for the next. -/
structure Barrier where
  phase : Nat
  arrived : List Nat
  later : List Nat
  deriving DecidableEq, Repr

/-- Where a block is (R82, R99, R106). -/
inductive BlockPlace | unplaced | placed | saved | ended deriving DecidableEq, Repr

/-- A block of a launch. -/
structure Block where
  place : BlockPlace
  /-- The global cores that carry its groups. -/
  cores : List Nat
  grant : Nat
  /-- Tick since which it has waited to be placed (R400). -/
  since : Nat
  bars : Table Barrier
  /-- THREADIDs that arrived at setw, and the smallest request (R125). -/
  setwArrived : List Nat
  setwReq : Nat
  /-- THREADIDs that have ended. -/
  ended : List Nat
  /-- Cores on which a part was saved while a remnant stayed (R488). -/
  pinned : List Nat
  /-- Whether it was saved by a swap (R99), and its groups as they stood then: core, slot, group. -/
  swapped : Bool
  kept : List (Nat × Nat × Group) := []
  /-- The core of each thread, by THREADID, when its part was saved (R110, R488). -/
  homes : Table Nat := []
  /-- The cores whose scratchpad image was written when its parts were saved (R107). -/
  imaged : List Nat := []
  deriving DecidableEq, Repr

/-- A fault-record entry that is not written yet (R80, R486). `counted` is the index i once the add has performed. -/
structure FaultEntry where
  launch : Nat
  cause : Nat
  double : Bool
  engine : Bool
  core : Nat
  batch : BitVec 16
  thread : Nat
  pc : DWord
  detail : DWord
  counted : Option Nat
  /-- Who writes it: 0 core, 1 Crucible, 2 Ladle (R346, R486). -/
  source : Nat := 0
  deriving DecidableEq, Repr

/-- A live launch (R398). -/
structure Launch where
  rec_ : LaunchRec
  recAddr : DWord
  ctx : Nat
  /-- The queue that started it (for fence.launches). -/
  queue : Option Nat
  /-- The launch whose lcont started it (R317). -/
  parent : Option Nat
  /-- The launch-end signal: semaphore, member, SYS, value (R398). -/
  sig : Option (BitVec 10 × SignalOp × Bool × DWord)
  blocks : Table Block
  nextBlock : Nat
  watchdog : Nat
  /-- A continuation that still has a block never placed (R316). -/
  waiting : Bool
  /-- Tick of the latest start or end of waiting, for R99. -/
  allWaitSince : Option Nat
  /-- Its place in the order of starting, and the tick since which its next block has waited (R400). -/
  order : Nat
  nextSince : Nat
  /-- Pages of its save area whose miss was made fatal (R487). -/
  saveFatal : List Nat
  /-- A save or restore failed for good, and the launch is being ended (R487). -/
  broken : Bool := false
  deriving DecidableEq, Repr

/-- A pre-emption that has begun on a core and has not saved the launch's groups there yet (R106); `swap` tells a swap
of R99, and `only` the one block that R83 pre-empts, where it is no pre-emption of the launch. -/
structure Save where
  core : Nat
  launch : Nat
  swap : Bool
  only : Option Nat := none
  deriving DecidableEq, Repr

/-! ### The Stoker -/

/-- What a mapped lane is doing between steps (R361, R376). -/
inductive LaneState
  | idle          -- no queue
  | fetch         -- presents its next word in the next step
  | waiting       -- in a wait, waitt or fence.launches
  | copying       -- inside a copy or cache word
  | stopped       -- lane 30 or 31 stopped at a fault
  deriving DecidableEq, Repr

/-- A Stoker lane (R45, R360). -/
structure Lane where
  queue : Option Nat
  x : Table DWord
  get : Word
  pc : DWord
  rstack : List DWord
  st : LaneState
  /-- The command word that the lane has presented, and that has not completed, with its extra words (R361). -/
  cmd : Option (DWord × DWord × DWord × DWord)
  /-- The TICK that a waitt waits for, fixed in the step in which the word first began (R383). -/
  due : Option DWord
  /-- Bytes done by a copy or cache word (R376). -/
  prog : Nat
  mappedAt : Nat
  /-- TICK since which it has waited unsatisfied (R380). -/
  waitSince : Option Nat
  /-- Whether the lane presented no word in this step (R361): what its fetch gave then, it meets at the step's end. -/
  late : Bool
  deriving DecidableEq, Repr

/-- A watch entry (R379). -/
structure Watch where
  ctx : Nat
  sem : Nat
  cond : WaitCond
  value : DWord
  queue : Nat
  deriving DecidableEq, Repr

/-- A signal that waits for phase 2: a doorbell or a launch end (R384, R398). -/
structure SigReq where
  ctx : Nat
  sem : Nat
  op : SignalOp
  value : DWord
  /-- Whether it is a doorbell's (R384): later posted writes of its function wait for it (R466). -/
  door : Bool := false
  deriving DecidableEq, Repr

/-- The Stoker (R360-R397). Queue descriptors and STATEW lie in memory (R367, R368). -/
structure Stoker where
  lanes : Table Lane
  sems : Table DWord
  /-- Physical semaphore of virtual semaphore v of context c, at index 1024 c + v (R381). -/
  bind : Table Nat
  watch : List Watch
  /-- Queues with a waitt timer and its TICK (R379). -/
  timers : List (Nat × DWord)
  /-- Candidate lists of the four classes, in the order in which queues became READY (R373). -/
  ready : List (List Nat)
  sigQ : List SigReq
  /-- The address that a PARKED queue missed at, for a fatal wake (R371, R396). -/
  missed : Table Nat
  /-- Queues unmapped in a wait, whose STATE the semaphore unit sets in phase 3, with WAITINFO and WAITVAL (R378, R379). -/
  waits : List (Nat × Nat × Nat)
  deriving DecidableEq, Repr

/-- The supervisor registers (R392). -/
structure Sup where
  ctxroot : Table DWord
  ctxctl : Table DWord
  semspill : Table DWord
  l2lock : Table DWord
  qdbase : DWord
  fbbase : DWord
  fbput : Word
  fbget : Word
  errbase : DWord
  errput : Word
  errget : Word
  errdrop : Word
  supfault : DWord
  freecmd : DWord
  waygate : Table DWord
  hgate : DWord
  hgskip : DWord
  timeslot : Table Word
  deriving DecidableEq, Repr

/-! ### The Hearth -/

/-- Who sent a red, and its operand: launch, thread, core, PC and address of the lane, for a report under R39. -/
structure RedSrc where
  launch : Nat
  thread : Nat
  core : Nat
  pc : DWord
  addr : DWord
  val : DWord
  deriving DecidableEq, Repr

/-- A red on its way to the home slice (R349, R190), or several that a router has merged: each keeps its own source. It waits
in a router's buffer, then at the port of its slice (R350). -/
structure RedReq where
  ctx : Nat
  pa : Nat
  n : Nat
  op : RedMemOp
  ty : BitVec 4
  val : DWord
  srcs : List RedSrc
  since : Nat
  /-- Priority class 2 or 3 (R350). -/
  prio : Nat
  /-- EVICT of the word that sent it (R196). -/
  evict : Nat
  deriving DecidableEq, Repr

/-- A contribution to an ordered window (R313). -/
structure Contrib where
  core : Nat
  g : Nat
  seq : Nat
  launch : Nat
  batch : BitVec 16
  pc : DWord
  values : List DWord
  deriving DecidableEq, Repr

/-- An arrival with nothing to contribute that waits for a window to open (R314): the name's context and the descriptor. -/
structure Arrival where
  ctx : Nat
  desc : List Word
  con : Contrib
  empty : Bool
  deriving DecidableEq, Repr

/-- An open window of lred.ord (R313, R314). -/
structure OrdWindow where
  ctx : Nat
  dst : DWord
  aux : Word
  desc : List Word
  expect : Nat
  arrived : Nat
  contribs : List Contrib
  fatal : List Nat
  deriving DecidableEq, Repr

/-- A fault entry waiting for the device fault ring (R346). -/
structure FbEntry where
  va : DWord
  ctx : Nat
  kind : Byte
  source : Nat
  unit_ : Nat
  merges : Nat
  tick : DWord
  tag : Word
  deriving DecidableEq, Repr

/-- A line that an L2 slice or the Hearth cache (slice 0) holds (R332-R335): its set and way, its 128-byte line address,
its valid and dirty sectors, whether it is locked, and EVICT and the order number of its latest access. -/
structure CacheLine where
  slice : Nat
  set_ : Nat
  way : Nat
  line : Nat
  valid : BitVec 4
  dirty : BitVec 4
  locked : Bool
  evict : Nat
  used : Nat
  deriving DecidableEq, Repr

/-- The Hearth (R330-R359). -/
structure Hearth where
  mantelWays : Nat
  freeFrames : List Nat
  /-- A FREECMD in progress: OP and frame (R353). -/
  freeOp : Option (Nat × Nat)
  relLog : List (Nat × BitVec 1024)
  nextEpoch : Nat
  sectorEpoch : Table Nat
  routers : List RedReq
  requests : List RedReq
  windows : Table OrdWindow
  late : List Arrival
  /-- Reserved transfers, at index 64 target + window (R351, R459). -/
  resv : Table Nat
  resvWindow : Nat
  l2 : List CacheLine
  hearthLines : List CacheLine
  /-- Accesses counted for the least-recently-used order of R333. -/
  touches : Nat
  fbQ : List FbEntry
  errUnits : List (ErrUnit × List DWord)
  rowSpares : Table Nat
  refresh : Table Nat
  /-- Controller and bank of the rows classed as lasting (R358). -/
  weak : List (Nat × Nat)
  /-- Line-buffer rows classed as lasting and not spared yet: line core and row (R358). -/
  lineSpare : List (Nat × Nat)
  deriving DecidableEq, Repr

/-! ### The Flue and the Damper -/

/-- The state of a w register (R404). -/
inductive WState | empty | pending | full deriving DecidableEq, Repr

/-- A w register. -/
structure WReg where
  st : WState
  data : Table Word
  deriving DecidableEq, Repr

/-- Where a pending result lands (R411). -/
inductive FDest | f (r : Nat) | s (r : Nat) | mem deriving DecidableEq, Repr

/-- A pending result: it lands at the end of active cycle `due`; `issue` and `slot` order results that land together
(R411, R413). For `mem` the values are keyed by line-buffer address. -/
structure Pending where
  due : Nat
  issue : Nat
  slot : Nat
  dest : FDest
  vals : Table Word
  deriving DecidableEq, Repr

/-- A region of a line buffer (R455). -/
structure Region where
  start : Nat
  len : Nat
  head : Nat
  band : Nat
  deriving DecidableEq, Repr

/-- The band part a line core holds (R418): the head, the band's number since enable, and the part. -/
structure PartRef where
  head : Nat
  band : Nat
  part : Nat
  deriving DecidableEq, Repr

/-- A line core (R403-R455). f registers are at index 64 r + lane. -/
structure LineCore where
  f : Table Word
  s : Table Word
  w : Table WReg
  lb : Table Word
  acyc : DWord
  pc : Int
  /-- Delay-slot bundles still to issue, and where issue goes then (none after fend: it ends). -/
  delay : Option (Nat × Option Int)
  pend : List Pending
  /-- The active cycle number of this band, the time base of `pend`. -/
  act : Nat
  tickHi : Word
  /-- The tick at which the first bundle may issue (R418), and whether the program still issues. -/
  startAt : Nat
  running : Bool
  /-- Issue has ended at fend; results still land (R419). -/
  ending : Bool
  band : Option PartRef
  /-- Pages of an ldg that are being walked (R422), and the tick at which each missed (R346). -/
  walk : List Nat
  walkSince : Table Nat
  /-- Pages whose walk ended without a translation, for the ldg that waits (R422). -/
  noPage : List Nat
  utlb : List TlbEntry
  rhead : Nat
  regions : List Region
  bands : Word
  cause : Byte
  psn : Bool
  xlf : Bool
  stopped : Bool
  badWords : List Nat
  badF : List Nat
  badS : List Nat
  deriving DecidableEq, Repr

/-- The Flue (R403-R444). `fcyc` is FCYC, which counts alike in every line core (R406). `third` is the phase of its clock:
a cycle begins every 16/3 ticks, and `third` thirds of a tick are left to the next. -/
structure Flue where
  fcyc : DWord
  ctl : DWord
  fentry : Table DWord
  fcores : Table DWord
  code : Table (BitVec 256)
  lines : Table LineCore
  tlb : List TlbEntry
  third : Nat
  deriving DecidableEq, Repr

/-- The header of a Mantel slot (R417). -/
structure SlotHdr where
  base : Nat
  seq : Word
  width : Nat
  height : Nat
  pitch : Nat
  cplane : Nat
  dplane : Nat
  mplane : Nat
  rtick : DWord
  deriving DecidableEq, Repr

/-- A part of a band (R454): its line core, s4, s3 and s10, and whether it was marked ready. -/
structure Part where
  core : Nat
  start : Nat
  cols : Nat
  first : Nat
  ready : Bool
  deriving DecidableEq, Repr

/-- How a band is decided (R419). -/
inductive Decision | undecided | ready | fell deriving DecidableEq, Repr

/-- A band from its latch to the end of its last line. `n` is its first global line J0. -/
structure Band where
  n : Nat
  decision : Decision
  slot : Option Nat
  hdr : Option SlotHdr
  pinned : Bool
  dx : Word
  dy : Word
  pw : Nat
  parts : List Part
  deriving DecidableEq, Repr

/-- A pixel that a physical head sends (R446). -/
structure Pixel where
  red : BitVec 8
  green : BitVec 8
  blue : BitVec 8
  deriving DecidableEq, Repr

/-- A head (R446-R460). -/
structure Head where
  cfg : DWord
  geom : DWord
  period : DWord
  set : DWord
  pose : DWord
  fill : DWord
  ring : DWord
  dmseq : DWord
  t0 : Nat
  /-- The global line that scans out next (R450). -/
  line : Nat
  frame : Word
  curLine : Nat
  falls : Word
  readies : Word
  last : DWord
  bands : List Band
  /-- The next band to latch, as a count of bands since enable. -/
  nextBand : Nat
  /-- Frames whose last line has been written and whose frame word is not stored yet (R458). -/
  frameDone : List Nat
  /-- The pixels of the latest line that a physical head sent (R446). -/
  sent : List Pixel
  deriving DecidableEq, Repr

/-- The Damper. `retire` holds the slots that the home slice is to retire, by the address of the state word, with the
tick since which (R38). -/
structure Damper where
  heads : Table Head
  retire : Table Nat
  deriving DecidableEq, Repr

/-! ### The Firebox -/

/-- The Firebox (R463-R485). -/
structure Firebox where
  stage : Nat
  err : Byte
  /-- BOOTCTL.GO (R483). -/
  bootgo : Bool
  fwaddr : DWord
  fwlen : DWord
  store : Table Byte
  imageLen : Nat
  entry30 : Nat
  entry31 : Nat
  handing : Bool
  chal : Table DWord
  outaddr : DWord
  atterr : Nat
  attdone : Bool
  attgo : Bool
  attidx : DWord
  fixedIndex : Option Nat
  attCount : Nat
  plimit : DWord
  vtrim : Table (BitVec 16)
  peer : Table DWord
  ingress : Table DWord
  peererr : Table Word
  /-- Port p is up (R477), and how often in a row its current flit has failed (R479). -/
  ports : Table Bool
  replays : Table Nat
  mgmtcause : DWord
  fsaddr : DWord
  cwbase : Table DWord
  /-- Functions with WFAULT set (R465). -/
  wfault : List Nat
  dbgCore : Nat
  dbgSel : DWord
  dbgErr : Bool
  msix : Table DWord
  msixPending : List (Nat × Nat)
  delivered : List (Nat × Nat)
  /-- Functions under reset, and the tick at which each reset began (R468). -/
  inReset : List Nat
  resetAt : Table Nat
  /-- The base addresses of function f's BARs, at 3 f to 3 f + 2 (R464). -/
  bars : Table DWord
  /-- The sensors' readings in 1/16 degree C, and the tick at which one first reached 115 degrees (R481). -/
  therm : Table (BitVec 16)
  hotSince : Option Nat
  off : Bool
  deriving DecidableEq, Repr

/-! ### The whole -/

/-- Where the instruction that `exec` performs stands: a fragment (core, slot, node) with its carried class, a Stoker
lane, or a line core with a slot of its bundle; and an event's operands. -/
structure Cursor where
  core : Nat
  slot : Nat
  node : Nat
  tc : Nat
  word : BitVec 128
  lane : Nat
  line : Nat
  /-- The slot of the bundle that the op stands in. -/
  fslot : Nat
  arg : EventArg
  deriving DecidableEq, Repr

/-- Whose turn it is: a fragment's next word, a lane's next command word, a line core's next bundle, or an event. -/
inductive Turn
  | issue (core slot node : Nat)
  | lane (l : Nat)
  | bundle (line : Nat)
  /-- The heads' turns of this tick, in ascending head (R453). -/
  | heads
  | event (i : Instr) (a : EventArg)
  deriving DecidableEq, Repr

/-- The state of the A960. -/
structure State where
  tick : DWord
  free : Nat
  agenda : List Turn
  inputs : List (Nat × Turn)
  /-- Posted writes of a function that wait for the doorbell before them, in order (R384, R466). -/
  posted : List (Nat × Turn)
  cur : Cursor
  mem : Memory
  cores : Table Core
  flasks : Table Flask
  launches : Table Launch
  faultQ : List FaultEntry
  saving : List Save
  stoker : Stoker
  sup : Sup
  hearth : Hearth
  flue : Flue
  damper : Damper
  box : Firebox
  /-- The value that the latest register or window read returned (the model's own record). -/
  lastRead : DWord
  deriving DecidableEq, Repr

/-! ### Reset -/

/-- A core as bring-up leaves it (R20; log 6). -/
def Core.reset : Core :=
  { cyc := 0, nextCycle := 0, stages := [], beatNow := false, transferNow := false, runClass := 0, runLen := 0,
    dWindow := 0, gatedFor := 0, quads := 4, barred := false, sramSpares := 32, accSpares := 8, gated := false,
    halted := false, split := 8, aff := none, skip := 0, groups := [], wins := [], tiles := [], masks := [], badTiles := [],
    tileOwner := [], maskOwner := [], claims := [], slotNow := none, slotEntry := 0, slotBeats := 0, rrCruc := [], rrLadle := 0, accepts := 0,
    l1 := [], sig := 0, epoch := 0, konst := [], utlb := [] }

/-- A flask at power-on: L = 0xF_FFF0 and REFILL 0xFFFF (R480), A = 0 (R483). -/
def Flask.reset : Flask :=
  { allow := 0, refill := 0xFFFF, capL := 0xFFFF, tlb := [], walkCache := [], merge := [], mergeOrder := 0, admission := [],
    blockWait := [] }

/-- A Stoker lane at reset (log 8). Lanes 30 and 31 fetch from the ROM (R470); the others hold no queue. -/
def Lane.reset (l : Nat) : Lane :=
  { queue := none, x := [], get := 0, pc := 0, rstack := [], st := if l = 30 ∨ l = 31 then .fetch else .idle, cmd := none, due := none, prog := 0, mappedAt := 0,
    waitSince := none, late := false }

/-- The Stoker at reset. -/
def Stoker.reset : Stoker :=
  { lanes := [], sems := [], bind := [], watch := [], timers := [], ready := [[], [], [], []], sigQ := [], missed := [], waits := [] }

/-- The supervisor registers at reset (R392): all zero. -/
def Sup.reset : Sup :=
  { ctxroot := [], ctxctl := [], semspill := [], l2lock := [], qdbase := 0, fbbase := 0, fbput := 0, fbget := 0, errbase := 0,
    errput := 0, errget := 0, errdrop := 0, supfault := 0, freecmd := 0, waygate := [], hgate := 0, hgskip := 0, timeslot := [] }

/-- The Hearth at reset: MANTELWAYS is 1 (R335). -/
def Hearth.reset : Hearth :=
  { mantelWays := 1, freeFrames := [], freeOp := none, relLog := [], nextEpoch := 1, sectorEpoch := [], routers := [], requests := [],
    windows := [], late := [], resv := [], resvWindow := 0, l2 := [], hearthLines := [], touches := 0, fbQ := [], errUnits := [], rowSpares := [], refresh := [], weak := [], lineSpare := [] }

/-- A line core at bring-up (R404, R406, R444, R455). -/
def LineCore.reset : LineCore :=
  { f := [], s := [], w := [], lb := [], acyc := 0, pc := 0, delay := none, pend := [], act := 0, tickHi := 0, startAt := 0,
    running := false, ending := false, band := none, walk := [], walkSince := [], noPage := [], utlb := [], rhead := 0, regions := [], bands := 0,
    cause := 0, psn := false, xlf := false, stopped := false, badWords := [], badF := [], badS := [] }

/-- The Flue at bring-up (R441, R442). -/
def Flue.reset : Flue :=
  { fcyc := 0, ctl := 0, fentry := [], fcores := [], code := [], lines := [], tlb := [], third := 0 }

/-- A head at reset (R448). -/
def Head.reset : Head :=
  { cfg := 0, geom := 0, period := 0, set := 0, pose := 0, fill := 0, ring := 0, dmseq := 0, t0 := 0, line := 0, frame := 0, curLine := 0,
    falls := 0, readies := 0, last := 0, bands := [], nextBand := 0, frameDone := [], sent := [] }

/-- The Firebox at power-on: STAGE 0, PLIMIT 1,600 W (R469, R483). -/
def Firebox.reset : Firebox :=
  { stage := 0, err := 0, bootgo := false, fwaddr := 0, fwlen := 0, store := [], imageLen := 0, entry30 := 0, entry31 := 0, handing := false, chal := [], outaddr := 0,
    atterr := 0, attdone := false, attgo := false, attidx := 0, fixedIndex := none, attCount := 0, plimit := 0x640,
    vtrim := [], peer := [], ingress := [], peererr := [], ports := [], replays := [], mgmtcause := 0, fsaddr := 0, cwbase := [],
    wfault := [], dbgCore := 0, dbgSel := 0, dbgErr := false, msix := [], msixPending := [], delivered := [], inReset := [], resetAt := [], bars := [], therm := [], hotSince := none, off := false }

/-- A cursor that names nothing in particular. -/
def Cursor.reset : Cursor :=
  { core := 0, slot := 0, node := 0, tc := 0, word := 0, lane := 0, line := 0, fslot := 0, arg := .none }

/-- The machine right after power-on. -/
def State.reset : State :=
  { tick := 0, free := 0, agenda := [], inputs := [], posted := [], cur := .reset, mem := { cells := [], poison := [] }, cores := [], flasks := [],
    launches := [], faultQ := [], saving := [], stoker := .reset, sup := .reset, hearth := .reset, flue := .reset, damper := { heads := [], retire := [] },
    box := .reset, lastRead := 0 }

end Sys2Proof.Machine
end

