-- ==== Sys2Proof/Machine/Table.lean ====
section
/-! DEFINITION. Reading and writing the keyed lists that hold every sparse piece of state. Keys rise strictly; a table
of plain values lists no entry equal to its default. -/

namespace Sys2Proof.Machine

/-- The entry of key `i`, if one is listed. -/
def tfind {α : Type} : Table α → Nat → Option α
  | [], _ => none
  | (j, x) :: t, i => if j = i then some x else tfind t i

/-- The entry of key `i`, or the default `d`. -/
def tget {α : Type} (d : α) (t : Table α) (i : Nat) : α := (tfind t i).getD d

/-- The table without key `i`. -/
def tdel {α : Type} : Table α → Nat → Table α
  | [], _ => []
  | (j, x) :: t, i => if j = i then tdel t i else (j, x) :: tdel t i

/-- The table with `x` at key `i`, in its place in the order. -/
def tput {α : Type} : Table α → Nat → α → Table α
  | [], i, x => [(i, x)]
  | (j, y) :: t, i, x => if j < i then (j, y) :: tput t i x else if j = i then (i, x) :: t else (i, x) :: (j, y) :: t

/-- The table with value `x` at key `i`; the default is not listed. -/
def tset {α : Type} [DecidableEq α] (d : α) (t : Table α) (i : Nat) (x : α) : Table α :=
  if x = d then tdel t i else tput t i x

/-- The table with `f` applied at key `i`, if listed. -/
def tmod {α : Type} (t : Table α) (i : Nat) (f : α → α) : Table α :=
  t.map fun e => if e.1 = i then (e.1, f e.2) else e

/-- The lowest key below `n` that is not listed. -/
def tfree {α : Type} (t : Table α) (n : Nat) : Option Nat := (List.range n).find? fun i => (tfind t i).isNone

/-- Keys rise strictly. -/
def tsorted {α : Type} : Table α → Bool
  | [] => true
  | [_] => true
  | a :: b :: t => decide (a.1 < b.1) && tsorted (b :: t)

/-- The canonical form of a table of values with default `d`. -/
def twf {α : Type} [DecidableEq α] (d : α) (t : Table α) : Bool := tsorted t && t.all fun e => decide (e.2 ≠ d)

/-- A list of numbers kept rising without repeats, as a set. -/
def sinsert : List Nat → Nat → List Nat
  | [], i => [i]
  | j :: t, i => if j < i then j :: sinsert t i else if j = i then j :: t else i :: j :: t

/-- The union of a set with a list. -/
def sunion (a b : List Nat) : List Nat := b.foldl sinsert a

/-- The least element of a list under a key, the earliest on a tie. -/
def minBy {α : Type} (f : α → Nat) : List α → Option α
  | [] => none
  | x :: t => match minBy f t with
    | none => some x
    | some y => if f y < f x then some y else some x

/-- The canonical form of memory: addresses rise strictly, no listed byte is 0, and the poisoned sectors rise. -/
def Memory.wf (m : Memory) : Bool := twf 0#8 m.cells && decide (m.poison.Pairwise (· < ·))

/-- The byte at a physical address; an address that is not listed reads 0x00 (log 5). -/
def Memory.byte (m : Memory) (a : Nat) : Byte := tget 0#8 m.cells a

/-- Write one byte. -/
def Memory.setByte (m : Memory) (a : Nat) (b : Byte) : Memory := { m with cells := tset 0#8 m.cells a b }

/-- The `n` bytes at an address, little-endian (R47, R76, R224). -/
def Memory.read (m : Memory) (a : Nat) : Nat → Nat
  | 0 => 0
  | n + 1 => (m.byte a).toNat + 256 * Memory.read m (a + 1) n

/-- Write the low `n` bytes of `v`, little-endian. -/
def Memory.write (m : Memory) (a : Nat) : Nat → Nat → Memory
  | 0, _ => m
  | n + 1, v => Memory.write (m.setByte a (BitVec.ofNat 8 v)) (a + 1) n (v / 256)

/-- The 32-byte sectors that `n` bytes at `a` touch, in ascending order. -/
def sectorsOf (a n : Nat) : List Nat :=
  if n = 0 then [] else (List.range ((a + n - 1) / 32 - a / 32 + 1)).map (a / 32 + ·)

/-- Whether one of `n` bytes at `a` lies in a poisoned sector (R192). -/
def Memory.poisoned (m : Memory) (a n : Nat) : Bool := (sectorsOf a n).any m.poison.contains

/-- A store that writes all 32 bytes of a sector clears its marker; a narrower one leaves it (R192). -/
def Memory.clearPoison (m : Memory) (a n : Nat) : Memory :=
  { m with poison := m.poison.filter fun p => !(decide (a ≤ 32 * p) && decide (32 * p + 32 ≤ a + n)) }

/-- Mark a sector poisoned (R357). -/
def Memory.mark (m : Memory) (p : Nat) : Memory := { m with poison := sinsert m.poison p }

end Sys2Proof.Machine
end

