-- ==== Sys2Proof/Machine/Mem.lean ====
section
/-! DEFINITION. Memory below the registers: the physical map, the home slices with the Mantel state words, the L1 of a
core, and translation. -/

namespace Sys2Proof.Machine

/-! ### Accessors -/

/-- Core `c` (global index, R12). -/
def State.core (s : State) (c : Nat) : Core := tget Core.reset s.cores c
def State.setCore (s : State) (c : Nat) (x : Core) : State := { s with cores := tput s.cores c x }
/-- Flask `f`. -/
def State.flask (s : State) (f : Nat) : Flask := tget Flask.reset s.flasks f
def State.setFlask (s : State) (f : Nat) (x : Flask) : State := { s with flasks := tput s.flasks f x }
/-- Flask and compute die of a core (R12). -/
def flaskOf (c : Nat) : Nat := c / 48
def dieOf (c : Nat) : Nat := c / 96
/-- Head `h`. -/
def State.head (s : State) (h : Nat) : Head := tget Head.reset s.damper.heads h
def State.setHead (s : State) (h : Nat) (x : Head) : State := { s with damper := { s.damper with heads := tput s.damper.heads h x } }
/-- The next free value (log 3). -/
def State.fresh (s : State) : State := { s with free := s.free + 1 }
/-- A bit range of a value. -/
def bits (v lo n : Nat) : Nat := v / 2 ^ lo % 2 ^ n
/-- Two's complement reading of the low `n` bits. -/
def sext (n v : Nat) : Int := (BitVec.ofNat n v).toInt

/-! ### The physical map -/

/-- The ranges of R330. -/
inductive PaRegion | gmem | mantel | peer (p off : Nat) | host deriving DecidableEq, Repr

/-- The range that a physical address lies in (R330, R478). -/
def State.paRegion (s : State) (pa : Nat) : Option PaRegion :=
  if pa < 0x6000000000 then some .gmem
  else if 0x10000000000 ≤ pa ∧ pa < 0x10000000000 + 0x10000000 * s.hearth.mantelWays then some .mantel
  else if 0x4000000000000 ≤ pa ∧ pa < 0x8000000000000 then some (.peer ((pa - 0x4000000000000) / 2 ^ 47) ((pa - 0x4000000000000) % 2 ^ 47))
  else if 0x8000000000000 ≤ pa ∧ pa < 0x10000000000000 then some .host
  else none

/-- Whether bytes lie in graphics memory or the Mantel partition, which the caches and home slices hold (R330, R331). -/
def State.isHomed (s : State) (pa : Nat) : Bool :=
  match s.paRegion pa with | some .gmem => true | some .mantel => true | _ => false

/-- Whether a byte lies in a frame declared free (R354). -/
def State.isFree (s : State) (pa : Nat) : Bool := decide (pa < 0x6000000000) && s.hearth.freeFrames.contains (pa / 0x200000)

/-- PEER(p): VALID and a port of PORTS is up; in reduced service the ports are untrained (R470, R477, R479). -/
def State.peerUp (s : State) (p : Nat) : Bool :=
  let r := tget 0#64 s.box.peer p
  s.box.stage == 4 && r.getLsbD 0 && (List.range 8).any fun q => r.getLsbD (8 + q) && tget false s.box.ports q

/-- What a read at the home slice, the host or a peer gives. -/
inductive PRes | ok (v : Nat) | poison | refused deriving DecidableEq, Repr

/-- One byte as the device point holds it: a free frame reads 0x00 (R354). -/
def State.byteAt (s : State) (pa : Nat) : Nat := if s.isFree pa then 0 else (s.mem.byte pa).toNat

/-- `n` bytes, little-endian, at the device point. -/
def State.rawRead (s : State) (pa : Nat) : Nat → Nat
  | 0 => 0
  | n + 1 => s.byteAt pa + 256 * State.rawRead s (pa + 1) n

/-- Write `n` bytes; writes to a free frame are discarded (R354). -/
def State.rawWrite (s : State) (pa n v : Nat) : State :=
  if s.isFree pa then s else { s with mem := (s.mem.write pa n v).clearPoison pa n }

/-- Mark a sector poisoned; a free frame holds no marker (R354). -/
def State.mark (s : State) (sec : Nat) : State := if s.isFree (32 * sec) then s else { s with mem := s.mem.mark sec }

/-- Whether an access is refused: outside the map of R330, or at a peer with no port up, PEER not VALID, or where the remote
device refuses it, as it does beyond its 384 GiB (R478, R479). What else the remote refuses, by its own INGRESS, is its affair: a
free choice (log 36). -/
def State.peerRefused (s : State) (pa : Nat) : Bool :=
  match s.paRegion pa with
  | some (.peer p off) => !s.peerUp p || decide (0x6000000000 ≤ off) || Config.remoteRefuses p off s.tick.toNat
  | some _ => false
  | none => true

/-- A read at the device point, the host or a peer (R181, R192, R479). -/
def State.homeRead (s : State) (pa n : Nat) : PRes :=
  if s.peerRefused pa then .refused
  else if s.mem.poisoned pa n then .poison else .ok (s.rawRead pa n)

/-! ### Lines of the L2 and the Hearth cache (R331-R335) -/

/-- EVICT of the access being made (R196): that of the memory word that issues (ld to smpres, ldk, pref), else 0. -/
def State.evictNow (s : State) : Nat :=
  let op := bits s.cur.word.toNat 120 8
  if (0x60 ≤ op ∧ op ≤ 0x66) ∨ op = 0x6D ∨ op = 0x6F ∨ op = 0x70 then bits s.cur.word.toNat 40 3 else 0

/-- The way that a new line of a set takes among those allowed: an empty one, else that of the unlocked line with the
highest EVICT, the least recently used among those (R333). -/
def victimWay (inSet : List CacheLine) (allowed : List Nat) : Option Nat :=
  match allowed.find? fun w => inSet.all fun x => x.way != w with
  | some w => some w
  | none => (minBy (fun (x : CacheLine) => (7 - x.evict) * 2 ^ 64 + x.used) (inSet.filter fun x => !x.locked && allowed.contains x.way)).map (·.way)

/-- What an access to a line of an array leaves: the array, whether the line was held with every sector asked for, the
line that gave way, and whether the access found no way. -/
structure Touched where
  lines : List CacheLine
  hit : Bool
  victim : Option CacheLine
  none_ : Bool

/-- An access to sectors of a line of an array: a hit touches it, a miss fills it where a way can be had. A set holds at
most 8 locked lines (R333, R334). -/
def touchLine (ls : List CacheLine) (x : CacheLine) (allowed : List Nat) (lock : Bool) : Touched :=
  match ls.find? fun y => y.slice == x.slice && y.line == x.line with
  | some z =>
    { lines := ls.map fun y =>
        if y.slice == x.slice && y.line == x.line then
          { y with valid := y.valid ||| x.valid, dirty := y.dirty ||| x.dirty, evict := x.evict, used := x.used }
        else y
      hit := x.valid &&& ~~~z.valid == 0, victim := none, none_ := false }
  | none =>
    let inSet := ls.filter fun y => y.slice == x.slice && y.set_ == x.set_
    match victimWay inSet allowed with
    | none => { lines := ls, hit := false, victim := none, none_ := true }
    | some w =>
      let lock := lock && decide ((inSet.filter fun y => y.locked && y.way != w).length < 8)
      let goes (y : CacheLine) : Bool := y.slice == x.slice && y.set_ == x.set_ && y.way == w
      { lines := (ls.filter fun y => !goes y) ++ [{ x with way := w, locked := lock }]
        hit := false, victim := ls.find? goes, none_ := false }

/-- Whether an address lies in a locked range (R334). -/
def State.inLock (s : State) (pa : Nat) : Bool :=
  s.sup.l2lock.any fun e => e.2.getLsbD 0 && bits e.2.toNat 21 31 == pa / 2 ^ 21

/-- An access of the L2 to a line of the Hearth cache, which caches graphics memory only: a fill from below, or dirty sectors
that the L2 writes back (R335). -/
def Hearth.hearthTouch (h : Hearth) (gate : DWord) (x : CacheLine) : Hearth :=
  if 0x6000000000 ≤ 128 * x.line then h
  else { h with
    hearthLines := (touchLine h.hearthLines { x with slice := 0, set_ := Config.setOf x.line % 2 ^ 21, locked := false }
      ((List.range 24).filter fun w => decide (h.mantelWays ≤ w) && !gate.getLsbD w) false).lines }

/-- The sectors of a line that `n` bytes at `pa` touch. -/
def sectorMask (line pa n : Nat) : BitVec 4 :=
  (List.range 4).foldl (fun m j => if 128 * line + 32 * j < pa + n ∧ pa < 128 * line + 32 * j + 32 then m ||| (1#4 <<< j) else m) 0

/-- The lines that an access at the home slice fills or touches: the line in its L2 slice; below it the Hearth cache, for what
the slice does not hold, and for the dirty sectors of a line that gives way (R332, R333, R335). -/
def Hearth.lineTouch (h : Hearth) (gate hgate : DWord) (lock : Bool) (evict line : Nat) (secs : BitVec 4) (wr : Bool) : Hearth :=
  let x : CacheLine :=
    { slice := Config.sliceOf line % 64, set_ := Config.setOf line % 1024, way := 0, line := line, valid := secs, dirty := if wr then secs else 0
      locked := false, evict := evict, used := h.touches }
  let t := touchLine h.l2 x ((List.range 16).filter fun w => !gate.getLsbD w) lock
  let h := { h with l2 := t.lines, touches := h.touches + 1 }
  let h := match t.victim with
    | some v => if v.dirty = 0 then h else h.hearthTouch hgate { v with valid := v.dirty, evict := 0, used := h.touches }
    | none => h
  if t.hit then h else h.hearthTouch hgate { x with dirty := if t.none_ then x.dirty else 0 }

/-- An access at the home slice as the arrays see it; EVICT is that of the word that issues unless it is given. -/
def State.touched (s : State) (pa n : Nat) (wr : Bool) (ev : Nat := s.evictNow) : Hearth :=
  if n = 0 ∨ s.isHomed pa = false then s.hearth
  else (List.range ((pa + n - 1) / 128 - pa / 128 + 1)).foldl (fun h i =>
    let line := pa / 128 + i
    h.lineTouch (tget 0#64 s.sup.waygate (Config.sliceOf line % 64)) s.sup.hgate (s.inLock (128 * line)) ev line
      (sectorMask line pa n) wr) s.hearth

/-- The state behind the access: only the lines of the arrays differ. -/
def State.cacheTouch (s : State) (pa n : Nat) (wr : Bool) (ev : Nat := s.evictNow) : State :=
  { s with hearth := { s.hearth with
      l2 := (s.touched pa n wr ev).l2, hearthLines := (s.touched pa n wr ev).hearthLines, touches := (s.touched pa n wr ev).touches } }

/-! ### Mantel state words (R36-R39) -/

/-- How a write event reaches the home slice, as far as R37 asks: release ordering at scope dev or wider, a
compare-and-swap at scope dev or wider, or PRESENT. -/
structure WKind where
  rel : Bool := false
  cas : Bool := false
  present : Bool := false
  deriving DecidableEq, Repr

/-- The slot set that a DHSET names: BASE, COUNT, SLOG (R448). -/
def setOf (d : DWord) : Nat × Nat × Nat := (bits d.toNat 12 40 * 4096, bits d.toNat 9 3 + 1, bits d.toNat 0 6)

/-- ENABLE of DHCFG. -/
def Head.enabled (h : Head) : Bool := h.cfg.getLsbD 0

/-- The registered slot sets: those of the enabled heads (R38). -/
def State.slotSets (s : State) : List (Nat × Nat × Nat) :=
  (s.damper.heads.filter (·.2.enabled)).map fun e => setOf e.2.set

/-- The state word of a registered set that `n` bytes at `pa` overlap (R38). -/
def State.stateWord (s : State) (pa n : Nat) : Option Nat :=
  (s.slotSets.flatMap fun (b, k, g) => (List.range k).map fun i => b + i * 2 ^ g).find? fun w => decide (w < pa + n ∧ pa < w + 8)

/-- The bytes of the word at `w` once `n` bytes of `v` at `pa` are laid over it. -/
def overlay (old w pa n v : Nat) : Nat :=
  (List.range 8).foldl (fun acc i =>
    acc + (if pa ≤ w + i ∧ w + i < pa + n then v / 256 ^ (w + i - pa) % 256 else old / 256 ^ i % 256) * 256 ^ i) 0

/-- Whether the home slice accepts the change of a registered state word (R37, R39). `whole`: the operation writes
the whole word. -/
def slotChangeOk (old new : Nat) (k : WKind) (whole : Bool) : Bool :=
  let so := bits old 0 4
  let sn := bits new 0 4
  bits new 24 8 == 0 && bits new 4 12 == 0 && decide (sn ≤ 2) &&
  (if so = sn then so != 2 || bits old 32 32 == bits new 32 32
   else if so = 0 ∧ sn = 1 then k.cas
   else if so = 1 ∧ sn = 0 then true
   else if so = 1 ∧ sn = 2 then k.present || (k.rel && whole)
   else false)

/-- A write event at the home slice, the host or a peer; `none` when the home slice rejects it (R39). A program
leaves PINS unchanged (R36). A write to a peer that cannot be reached is discarded and counted (R479). -/
def State.homeWrite (s : State) (pa n v : Nat) (k : WKind := {}) (ev : Nat := s.evictNow) : Option State :=
  match s.stateWord pa n with
  | some w =>
    let old := s.mem.read w 8
    let x := overlay old w pa n v
    let new := x - bits x 16 8 * 2 ^ 16 + bits old 16 8 * 2 ^ 16
    if slotChangeOk old new k (decide (pa ≤ w ∧ w + 8 ≤ pa + n)) then
      some (((s.rawWrite pa n v).rawWrite w 8 new).cacheTouch pa n true ev)
    else none
  | none =>
    match s.paRegion pa with
    | some (.peer p _) =>
      if s.peerRefused pa then
        some { s with box := { s.box with peererr := tput s.box.peererr p (tget 0#32 s.box.peererr p + 1) } }
      else some (s.rawWrite pa n v)
    | some _ => some ((s.rawWrite pa n v).cacheTouch pa n true ev)
    | none => some s

/-! ### The L1 of a core (R15, R181-R183) -/

/-- 128-byte lines that the L1 of a core holds: the SRAM that the scratchpad does not take (R15). -/
def Core.l1Lines (c : Core) : Nat := (8 - c.split) * 1024

/-- The two signature bits of a write (R183). -/
def sigBits (pa : Nat) : BitVec 1024 :=
  (1#1024 <<< bits pa 5 10) ||| (1#1024 <<< (bits pa 15 10 ^^^ bits pa 25 10))

/-- Byte `i` of a sector's data. -/
def L1Sector.byte (x : L1Sector) (i : Nat) : Nat := bits x.data.toNat (8 * i) 8

/-- The bytes `lo` to `lo + n - 1` of a sector as a mask of bytes, and as a mask of bits. -/
def byteMask (lo n : Nat) : BitVec 32 := BitVec.ofNat 32 ((2 ^ n - 1) * 2 ^ lo)
def dataMask (m : BitVec 32) : BitVec 256 :=
  BitVec.ofNat 256 ((List.range 32).foldl (fun acc i => if m.getLsbD i then acc + 255 * 256 ^ i else acc) 0)

/-- Write the dirty bytes of a sector to its home, byte run by byte run (R182, R183). A marker goes with them (R357). -/
def writeBytes (s : State) (base : Nat) (x : L1Sector) : State :=
  let s := if x.dirty = byteMask 0 32 then s.rawWrite base 32 x.data.toNat
    else (List.range 32).foldl (fun s i => if x.dirty.getLsbD i then s.rawWrite (base + i) 1 (x.byte i) else s) s
  if x.bad then s.mark (base / 32) else s

/-- The home slice keeps with each sector the epoch of the latest release that its bytes come after (R183). -/
def State.stampEpoch (s : State) (pa n e : Nat) : State :=
  { s with hearth := { s.hearth with sectorEpoch := (sectorsOf pa n).foldl (fun t sec => tset 0 t sec e) s.hearth.sectorEpoch } }

/-- Write back one sector of a core's L1 (R182). -/
def State.l1WriteBack (s : State) (c sec : Nat) : State :=
  match tfind (s.core c).l1 sec with
  | none => s
  | some x =>
    let s := if x.dirty = 0 then s else ((writeBytes s (32 * sec) x).cacheTouch (32 * sec) 32 true).stampEpoch (32 * sec) 32 (s.hearth.nextEpoch - 1)
    s.setCore c { s.core c with l1 := tput (s.core c).l1 sec { x with dirty := 0, wrote := 0 } }

/-- Write back every dirty sector of a core's L1. -/
def State.l1WriteBackAll (s : State) (c : Nat) : State :=
  (((s.core c).l1.filter fun e => e.2.dirty != 0).map (·.1)).foldl (fun s sec => s.l1WriteBack c sec) s

/-- Drop a sector of a core's L1. -/
def State.l1Drop (s : State) (c sec : Nat) : State := s.setCore c { s.core c with l1 := tdel (s.core c).l1 sec }

/-- The lines that a core's L1 holds. -/
def Core.heldLines (k : Core) : List Nat := (k.l1.map (·.1 / 4)).eraseReps

/-- An access to a sector's line: every sector of the line takes EVICT and the order number of the access (R333). -/
def State.l1Touch (s : State) (c sec : Nat) : State :=
  let k := s.core c
  let n := s.hearth.touches
  { s with hearth := { s.hearth with touches := n + 1 } }.setCore c { k with
    l1 := k.l1.map fun (e : Nat × L1Sector) => if e.1 / 4 = sec / 4 then (e.1, { e.2 with evict := s.evictNow, used := n }) else e }

/-- Make room for the line of a sector: among the lines of highest EVICT, the one used least recently leaves, with every
sector (R333). The L1's sets are not given; the model takes one set (log 23). A write-back takes every dirty sector of the
core with it, so that its writes reach home in their order (log 133). -/
def State.l1Evict (s : State) (c sec : Nat) : State :=
  let k := s.core c
  if k.heldLines.contains (sec / 4) || decide (k.heldLines.length < k.l1Lines) then s
  else match minBy (fun (e : Nat × L1Sector) => (7 - e.2.evict) * 2 ^ 64 + e.2.used) k.l1 with
    | none => s
    | some v =>
      let line := k.l1.filter fun e => e.1 / 4 == v.1 / 4
      let s := if line.any fun e => e.2.dirty != 0 then s.l1WriteBackAll c else s
      line.foldl (fun s e => s.l1Drop c e.1) s

/-- Fill a sector from the home slice (R181, R332). A copy that is not whole takes every byte but its dirty ones anew, so that
the bytes of one access come from one moment (R187). -/
def State.l1Fill (s : State) (c sec : Nat) : State :=
  match tfind (s.core c).l1 sec with
  | some x =>
    if x.have_ = byteMask 0 32 then s.l1Touch c sec
    else
      let s := s.cacheTouch (32 * sec) 32 false
      let m := dataMask x.dirty
      let d := (x.data &&& m) ||| (BitVec.ofNat 256 (s.rawRead (32 * sec) 32) &&& ~~~m)
      (s.setCore c { s.core c with
        l1 := tput (s.core c).l1 sec { x with have_ := byteMask 0 32, data := d, filled := s.tick.toNat } }).l1Touch c sec
  | none =>
    let s := (s.l1Evict c sec).cacheTouch (32 * sec) 32 false
    (s.setCore c { s.core c with
      l1 := tput (s.core c).l1 sec
        { have_ := byteMask 0 32, dirty := 0, data := BitVec.ofNat 256 (s.rawRead (32 * sec) 32), filled := s.tick.toNat, wrote := 0 } }).l1Touch c sec

/-- Whether a plain load takes byte `i` from the L1's copy: of a whole copy any, else the dirty ones (R187). -/
def L1Sector.gives (x : L1Sector) (i : Nat) : Bool := x.have_ == byteMask 0 32 || x.dirty.getLsbD i

/-- The byte that a plain load of a core reads: its L1's copy, else the home slice's; a free frame reads 0x00 (R354). -/
def State.coreByte (s : State) (c pa : Nat) : Nat :=
  match tfind (s.core c).l1 (pa / 32) with
  | some x => if x.gives (pa % 32) && !s.isFree pa then x.byte (pa % 32) else s.byteAt pa
  | none => s.byteAt pa

def State.coreBytes (s : State) (c pa : Nat) : Nat → Nat
  | 0 => 0
  | n + 1 => s.coreByte c pa + 256 * State.coreBytes s c (pa + 1) n

/-- Whether a core finds poison in a sector: in its own copy (R357), or below where the copy is not whole (R192). A free frame
reads 0x00 without a trap (R354). -/
def State.l1Poison (s : State) (c sec : Nat) : Bool :=
  if s.isFree (32 * sec) then false
  else match tfind (s.core c).l1 sec with
  | some x => x.bad || (x.have_ != byteMask 0 32 && s.mem.poison.contains sec)
  | none => s.mem.poison.contains sec

/-- Whether accesses to these bytes go through a core's L1 (R15, R181): homed memory and an L1 of some size. -/
def State.l1Used (s : State) (c pa : Nat) : Bool := s.isHomed pa && decide (0 < (s.core c).l1Lines)

/-- A plain load of a core: fill, then read (R181, R192). -/
def State.coreRead (s : State) (c pa n : Nat) : State × PRes :=
  if s.l1Used c pa then
    let secs := sectorsOf pa n
    if secs.any fun sec => s.l1Poison c sec then (s, .poison)
    else
      let s := secs.foldl (fun s sec => s.l1Fill c sec) s
      (s, .ok (s.coreBytes c pa n))
  else (s.cacheTouch pa n false, s.homeRead pa n)

/-- A plain store of a core into one sector of its L1 (R182, R183). A store of the whole sector clears its marker (R192). -/
def State.l1Store (s : State) (c sec lo n v : Nat) : State :=
  let s := if (tfind (s.core c).l1 sec).isSome then s else s.l1Evict c sec
  let x := (tfind (s.core c).l1 sec).getD { have_ := 0, dirty := 0, data := 0, filled := s.tick.toNat, wrote := 0 }
  let m := byteMask lo n
  let dm := dataMask m
  let x' : L1Sector :=
    { x with have_ := x.have_ ||| m, dirty := x.dirty ||| m, data := (x.data &&& ~~~dm) ||| (BitVec.ofNat 256 (v * 256 ^ lo) &&& dm),
             wrote := if x.dirty = 0 then s.tick.toNat else x.wrote, bad := x.bad && m != byteMask 0 32 }
  (s.setCore c { s.core c with l1 := tput (s.core c).l1 sec x', sig := (s.core c).sig ||| sigBits (32 * sec) }).l1Touch c sec

/-- An access at the device point first lets go of the core's own copy of its sectors (R181). -/
def State.l1Flush (s : State) (c pa n : Nat) : State :=
  let secs := sectorsOf pa n
  let dirty := secs.any fun sec => match tfind (s.core c).l1 sec with | some x => x.dirty != 0 | none => false
  secs.foldl (fun s sec => s.l1Drop c sec) (if dirty then s.l1WriteBackAll c else s)

/-- A write of a core at the device point: what the core wrote before reaches its home first (R174, R177; log 133). -/
def State.pointWrite (s : State) (c pa n v : Nat) (k : WKind := {}) : Option State :=
  ((s.l1WriteBackAll c).l1Flush c pa n).homeWrite pa n v k

/-- A plain store of a core: into its L1, or at once at the home slice where the L1 holds no copy, the sector is
poisoned, or the bytes are a registered state word, which the home slice checks (R38, R181, R192); `none` when the
home slice rejects it. -/
def State.coreWrite (s : State) (c pa n v : Nat) (k : WKind := {}) : Option State :=
  if s.l1Used c pa && !s.mem.poisoned pa n && (s.stateWord pa n).isNone then
    if s.isFree pa then some s
    else some ((sectorsOf pa n).foldl (fun s sec =>
      let lo := if 32 * sec ≤ pa then pa - 32 * sec else 0
      let skip := 32 * sec + lo - pa
      s.l1Store c sec lo (min (32 - lo) (n - skip)) (v / 256 ^ skip)) s)
  else s.pointWrite c pa n v k

/-- Log a signature under the next epoch; the log holds the 256 latest (R183). The model counts epochs without end; the 32-bit
number is the low bits (log 133). -/
def Hearth.logSig (h : Hearth) (g : BitVec 1024) : Hearth :=
  { h with relLog := (h.relLog ++ [(h.nextEpoch, g)]).drop (h.relLog.length + 1 - 256), nextEpoch := h.nextEpoch + 1 }

/-- A release of scope flk or wider (R183): write back every dirty sector, log the signature under the next epoch,
clear it. Answers the epoch. -/
def State.release (s : State) (c : Nat) : State × Nat :=
  let dirty := ((s.core c).l1.filter fun e => e.2.dirty != 0).map (·.1)
  let e := s.hearth.nextEpoch
  let s := s.l1WriteBackAll c
  let h := s.hearth.logSig (s.core c).sig
  ({ s with hearth := { h with sectorEpoch := dirty.foldl (fun t sec => tset 0 t sec e) h.sectorEpoch } }.setCore c { s.core c with sig := 0 }, e)

/-- Bytes of a sector's copy that are clean and differ from the home slice's. -/
def State.staleBytes (s : State) (sec : Nat) (x : L1Sector) : BitVec 32 :=
  (List.range 32).foldl (fun m i =>
    if x.have_.getLsbD i && !x.dirty.getLsbD i && s.byteAt (32 * sec + i) != x.byte i then m ||| (1#32 <<< i) else m) 0

/-- A sector of a core's L1 once some of its clean bytes are invalidated. -/
def L1Sector.without (x : L1Sector) (m : BitVec 32) : Option L1Sector :=
  if x.have_ &&& ~~~m = 0 then none else some { x with have_ := x.have_ &&& ~~~m }

/-- The clean bytes of a core's copy of a sector go. -/
def State.l1Clean (s : State) (c sec : Nat) : State :=
  match tfind (s.core c).l1 sec with
  | none => s
  | some x => match x.without (~~~x.dirty) with
    | none => s.l1Drop c sec
    | some y => s.setCore c { s.core c with l1 := tput (s.core c).l1 sec y }

/-- An acquire of scope flk or wider of epoch `e` (R183): where `e` is new, the clean sectors that a logged signature names,
or all of them, go; and R179 asks that no clean byte stays that a write at the home slice has overtaken (log 133). -/
def State.acquire (s : State) (c e : Nat) : State :=
  let k := s.core c
  let wanted := s.hearth.relLog.filter fun x => decide (k.epoch < x.1 ∧ x.1 ≤ e)
  let all := decide (wanted.length < e - k.epoch)
  let goes (sec : Nat) : Bool := decide (k.epoch < e) && (all || wanted.any fun y => (sigBits (32 * sec) &&& ~~~y.2) == 0)
  s.setCore c { k with
    l1 := k.l1.filterMap fun x => (x.2.without (if goes x.1 then ~~~x.2.dirty else s.staleBytes x.1 x.2)).map fun y => (x.1, y)
    epoch := max k.epoch e }

/-- The latest release epoch that the home slices keep for the sectors of an access (R183). -/
def State.epochOf (s : State) (pa n : Nat) : Nat :=
  (sectorsOf pa n).foldl (fun e sec => max e (tget 0 s.hearth.sectorEpoch sec)) 0

/-! ### Translation (R337-R343) -/

/-- What an access needs of its page (R340). -/
inductive Need | r | w | rw | x deriving DecidableEq, Repr

/-- KIND bits of a missing request (R346). -/
def Need.kind (n : Need) : BitVec 8 := match n with | .r => 1 | .w => 2 | .x => 4 | .rw => 8

/-- The permissions of R340. -/
def TlbEntry.allows (e : TlbEntry) (n : Need) : Bool :=
  match n with | .r => e.r | .w => e.w | .rw => e.r && e.w | .x => e.x

def pageOf (va : Nat) : Nat := va / 4096 * 4096

/-- A TLB's entry for an address of a context. -/
def tlbFind (es : List TlbEntry) (ctx va : Nat) : Option TlbEntry :=
  es.find? fun e => decide (e.ctx = ctx ∧ e.va ≤ va ∧ va < e.va + e.size)

/-- What translation gives an access: a physical address, a missing permission, a page whose miss was made fatal, or
a miss. -/
inductive Tr | hit (pa : Nat) | perm | fatal | miss deriving DecidableEq, Repr

/-- Translate with the given TLB contents; `fatal` lists pages marked fatal (R172, R340, R342). -/
def trWith (es : List TlbEntry) (ctx : Nat) (fatal : List Nat) (need : Need) (va : Nat) : Tr :=
  if fatal.contains (pageOf va) then .fatal
  else match tlbFind es ctx va with
    | some e => if e.allows need then .hit (e.pa + (va - e.va)) else .perm
    | none => .miss

/-- Translate an access of a core: its micro-TLB, then the TLB of its flask. -/
def State.translate (s : State) (c ctx : Nat) (fatal : List Nat) (need : Need) (va : Nat) : Tr :=
  trWith ((s.core c).utlb ++ (s.flask (flaskOf c)).tlb) ctx fatal need va

/-- Add an entry to a TLB of `cap` entries; the oldest leaves. -/
def tlbAdd (es : List TlbEntry) (cap : Nat) (e : TlbEntry) : List TlbEntry := ((es.filter (· ≠ e)) ++ [e]).drop (es.length + 1 - cap)

/-- How a walk ends (R345). -/
inductive WalkRes | leaf (e : TlbEntry) | invalid | malformed deriving DecidableEq, Repr

/-- Whether page tables may lie at an address (R337): not in peer memory. -/
def State.tableOk (s : State) (pa : Nat) : Bool :=
  match s.paRegion pa with | some .gmem => true | some .mantel => true | some .host => true | _ => false

/-- Whether a page lies within one range of R330. -/
def State.pageOk (s : State) (pa size : Nat) : Bool :=
  match s.paRegion pa, s.paRegion (pa + size - 1) with
  | some (.peer p _), some (.peer q _) => p == q
  | some a, some b => a == b
  | _, _ => false

/-- PTE fields (R338). -/
def pteV (p : Nat) : Bool := bits p 0 1 == 1
def pteLeaf (p : Nat) : Bool := bits p 1 1 == 1
def pteCont (p : Nat) : Bool := bits p 6 1 == 1
def ptePa (p : Nat) : Nat := bits p 12 40 * 4096
/-- The zero fields of R338 are zero. -/
def pteZeroOk (p : Nat) : Bool := bits p 52 12 == 0 && bits p 7 5 == 0 && bits p 5 1 == 0

/-- The translation that a leaf gives. -/
def pteLeafEntry (p ctx va size : Nat) : TlbEntry :=
  { ctx := ctx, va := va / size * size, size := size, pa := ptePa p / size * size,
    r := bits p 2 1 == 1, w := bits p 3 1 == 1, x := bits p 4 1 == 1 }

/-- Level 0 (R339): a 4 KiB page, a 64 KiB group of 16 entries, or, for a broken group, the entry that the free choice
`ch` picks (log 16). -/
def State.walkLeaf (s : State) (ctx va table ch : Nat) : WalkRes :=
  let idx := bits va 12 9
  let base := table + 8 * (idx / 16 * 16)
  let ptes := (List.range 16).map fun i => s.rawRead (base + 8 * i) 8
  let own := ptes.getD (idx % 16) 0
  let one (p size : Nat) : WalkRes :=
    if !pteV p then .invalid
    else if !pteZeroOk p || !pteLeaf p || !s.pageOk (ptePa p / size * size) size then .malformed
    else .leaf (pteLeafEntry p ctx va size)
  let bad (i : Nat) : Bool := s.mem.poisoned (base + 8 * i) 8
  if bad (idx % 16) then .malformed
  else if ptes.all fun p => !(pteV p && pteCont p) then one own 4096
  else
    let first := ptes.getD 0 0
    let whole := (List.range 16).all fun i =>
      let p := ptes.getD i 0
      pteV p && pteCont p && pteLeaf p && pteZeroOk p && bits p 2 3 == bits first 2 3 && ptePa p == ptePa first + 4096 * i
    if whole && ptePa first % 65536 == 0 then one own 65536
    else if bad (ch % 16) then .malformed
    else one (ptes.getD (ch % 16) 0) 65536

/-- The walk of levels `l` to 0 from a table (R337, R339, R341). CONT, a bit of level 0 only (R338), makes an entry of a higher level
malformed, a leaf too: the model's choice (log 168). -/
def State.walkFrom (s : State) (ctx va ch : Nat) : Nat → Nat → WalkRes
  | 0, table => s.walkLeaf ctx va table ch
  | l + 1, table =>
    let a := table + 8 * bits va (21 + 9 * l) 9
    let p := s.rawRead a 8
    if s.mem.poisoned a 8 then .malformed
    else if !pteV p then .invalid
    else if !pteZeroOk p || pteCont p then .malformed
    else if pteLeaf p then
      let size := 2 ^ (21 + 9 * l)
      if l ≤ 1 ∧ ptePa p % size = 0 ∧ s.pageOk (ptePa p) size then .leaf (pteLeafEntry p ctx va size) else .malformed
    else if bits p 2 5 ≠ 0 ∨ !s.tableOk (ptePa p) then .malformed
    else State.walkFrom s ctx va ch l (ptePa p)

/-- A walk from the root of the context (R337). -/
def State.walk (s : State) (ctx va ch : Nat) : WalkRes :=
  let root := (tget 0#64 s.sup.ctxroot ctx).toNat
  if bits root 0 1 = 0 then .invalid
  else if !s.tableOk (ptePa root) then .malformed
  else s.walkFrom ctx va ch 4 (ptePa root)

/-- The level-0 table that a walk of a valid address passes through, for the page-walk caches (R342). -/
def State.tableOf (s : State) (va : Nat) : Nat → Nat → Option Nat
  | 0, table => some table
  | l + 1, table =>
    let p := s.rawRead (table + 8 * bits va (21 + 9 * l) 9) 8
    if !pteV p || pteLeaf p then none else State.tableOf s va l (ptePa p)

/-- The PTEs that a walk from a table reads pass through the L2 (R341); at level 0, the 16 of the entry's group (R339). -/
def State.touchTables (s : State) (va : Nat) : Nat → Nat → State
  | 0, table => s.cacheTouch (table + 8 * (bits va 12 9 / 16 * 16)) 128 false
  | l + 1, table =>
    let a := table + 8 * bits va (21 + 9 * l) 9
    let p := s.rawRead a 8
    let s := s.cacheTouch a 8 false
    if !pteV p || pteLeaf p then s else State.touchTables s va l (ptePa p)

/-- The PTEs that a walk from the root of a context reads. -/
def State.touchWalk (s : State) (ctx va : Nat) : State :=
  let root := (tget 0#64 s.sup.ctxroot ctx).toNat
  if bits root 0 1 = 0 then s else s.touchTables va 4 (ptePa root)

/-- A walk of a flask: from a cached level-0 table if its walk cache holds one (R342). -/
def State.flaskWalk (s : State) (f ctx va : Nat) : State × WalkRes :=
  let ch := Config.contChoice s.free
  match (s.flask f).walkCache.find? fun e => decide (e.ctx = ctx ∧ e.level = 0 ∧ e.va = va / 0x200000) with
  | some e => ((s.touchTables va 0 e.table).fresh, s.walkLeaf ctx va e.table ch)
  | none =>
    let r := s.walk ctx va ch
    let table := s.tableOf va 4 (ptePa (tget 0#64 s.sup.ctxroot ctx).toNat)
    let s := s.touchWalk ctx va
    match r, table with
    | .leaf _, some t =>
      let k := s.flask f
      ((s.setFlask f { k with walkCache := { ctx := ctx, level := 0, va := va / 0x200000, table := t } :: k.walkCache }).fresh, r)
    | _, _ => (s.fresh, r)

/-! ### Misses (R344) -/

/-- How many merge entries of a flask hold a walker (of 32). -/
def Flask.walking (k : Flask) : Nat := (k.merge.filter fun e => e.2.phase == .walking).length

/-- A request that missed joins its merge entry, allocates one, or waits in the admission queue (R344): a freed entry goes to
the request that has waited longest. A requester that waits for the page already adds nothing. `front` is that request. -/
def Flask.request (k : Flask) (q : MissReq) (front : Bool := false) : Flask :=
  match k.merge.find? fun e => decide (e.2.ctx = q.ctx ∧ e.2.page = q.page) with
  | some (i, e) =>
    if e.reqs.contains q.who then { k with merge := tput k.merge i { e with kind := e.kind ||| q.kind } }
    else { k with merge := tput k.merge i { e with kind := e.kind ||| q.kind, reqs := e.reqs ++ [q.who], merges := e.merges + 1 } }
  | none =>
    match if front || k.admission.isEmpty then tfree k.merge 4096 else none with
    | some i =>
      { k with
        merge := tput k.merge i
          { ctx := q.ctx, page := q.page, kind := q.kind, source := q.source, reqs := [q.who], merges := 1, tick := q.tick,
            phase := if k.walking < 32 then .walking else .queued, order := k.mergeOrder }
        mergeOrder := k.mergeOrder + 1 }
    | none => if k.admission.any (fun x => x.who == q.who && x.page == q.page && x.ctx == q.ctx) then k else { k with admission := k.admission ++ [q] }

/-- Request the pages of an access that missed. -/
def State.requestPages (s : State) (f ctx source : Nat) (need : Need) (who : Requester) (pages : List Nat) : State :=
  s.setFlask f (pages.foldl (fun k p =>
    k.request { ctx := ctx, page := p, kind := need.kind, source := source, who := who, tick := s.tick }) (s.flask f))

end Sys2Proof.Machine
end

