-- ==== Sys2Proof/Machine/Flags.lean ====
section
/-! DEFINITION. Typed integer values (R49, R53, R140), the number formats of the Kiln (R219-R225), rounding (R226-R229), and the flags that a rounded result
raises (R232). A real number is kept as a sign, an integer significand and a power of two, with a mark when the exact
value lies strictly above the significand. -/

namespace Sys2Proof.Machine

/-! ### Typed values (R49, R53, R140) -/

/-- Bits of a value of a TYPE and LC (R53). -/
def widthOf (ty : BitVec 4) (lc : BitVec 2) : Nat :=
  match ty.toNat with
  | 0 => 8 | 1 => 16 | 2 => 32 | 3 => 64 | 4 => 8 | 5 => 16 | 6 => 32 | 7 => 64
  | 8 => 16 | 9 => 16 | 0xA => 32 | 0xB => 64 | 0xD => 8 | 0xE => 8
  | _ => 32 * cellsOf lc

/-- val(A, T): the low bits as two's complement for s types, as unsigned otherwise (R140). -/
def valOf (ty : BitVec 4) (n x : Nat) : Int := if isSigned ty then sext n x else ((x % 2 ^ n : Nat) : Int)

/-- A result of `n` bits in its cells: sign extension for s types of less than a cell, else zeros (R49). -/
def extend (ty : BitVec 4) (n x : Nat) : Nat :=
  if n < 32 then (if isSigned ty then (BitVec.ofNat n x).signExtend 32 |>.toNat else x % 2 ^ n) else x % 2 ^ n

/-- The least and greatest value of an integer type (R140). -/
def minOf (ty : BitVec 4) (n : Nat) : Int := if isSigned ty then -(2 ^ (n - 1) : Int) else 0
def maxOf (ty : BitVec 4) (n : Nat) : Int := if isSigned ty then 2 ^ (n - 1) - 1 else 2 ^ n - 1

/-- Two's complement bits of an integer. -/
def wrap (n : Nat) (x : Int) : Nat := (x % (2 ^ n : Int)).toNat

/-- res(x, T) of R140, in the low `n` bits. -/
def resOf (ty : BitVec 4) (n : Nat) (sat : Bool) (x : Int) : Nat :=
  wrap n (if sat then (if x > maxOf ty n then maxOf ty n else if x < minOf ty n then minOf ty n else x) else x)

/-! ### Flags and formats -/

/-- Flag bits of FPFLAGS (R116). -/
def flagNX : Nat := 1
def flagUF : Nat := 2
def flagOF : Nat := 4
def flagDZ : Nat := 8
def flagNV : Nat := 16

/-- A format (R219): exponent bits, fraction bits, bias, and whether it is .e4m3 (R221). -/
structure Fmt where
  ebits : Nat
  fbits : Nat
  e4m3 : Bool
  deriving DecidableEq, Repr

def Fmt.bias (f : Fmt) : Nat := 2 ^ (f.ebits - 1) - 1
def Fmt.emin (f : Fmt) : Int := 1 - (f.bias : Int)
def Fmt.emax (f : Fmt) : Int := if f.e4m3 then 8 else (f.bias : Int)
def Fmt.prec (f : Fmt) : Nat := f.fbits + 1
def Fmt.width (f : Fmt) : Nat := 1 + f.ebits + f.fbits

/-- The format of a floating-point TYPE and LC (R219). -/
def fmtOf (ty : BitVec 4) (lc : BitVec 2) : Fmt :=
  match ty.toNat with
  | 8 => ⟨5, 10, false⟩ | 9 => ⟨8, 7, false⟩ | 0xA => ⟨8, 23, false⟩ | 0xB => ⟨11, 52, false⟩
  | 0xD => ⟨4, 3, true⟩ | 0xE => ⟨5, 2, false⟩
  | _ => ⟨15, 32 * cellsOf lc - 16, false⟩

/-- A floating-point datum: a NaN (signalling or quiet), an infinity, or (−1)^neg × m × 2^e. -/
inductive FV | nan (sig : Bool) | inf (neg : Bool) | fin (neg : Bool) (m : Nat) (e : Int)
  deriving DecidableEq, Repr

def FV.isNan : FV → Bool | .nan _ => true | _ => false
def FV.isSig : FV → Bool | .nan s => s | _ => false
def FV.isInf : FV → Bool | .inf _ => true | _ => false
def FV.isZero : FV → Bool | .fin _ 0 _ => true | _ => false
def FV.neg : FV → Bool | .nan _ => false | .inf s => s | .fin s _ _ => s
def FV.negate : FV → FV | .nan s => .nan s | .inf s => .inf (!s) | .fin s m e => .fin (!s) m e
def FV.abs : FV → FV | .nan s => .nan s | .inf _ => .inf false | .fin _ m e => .fin false m e

/-- The value of an encoding (R220, R221). -/
def Fmt.decode (f : Fmt) (x : Nat) : FV :=
  let s := bits x (f.ebits + f.fbits) 1 == 1
  let e := bits x f.fbits f.ebits
  let fr := bits x 0 f.fbits
  let ones := 2 ^ f.ebits - 1
  if f.e4m3 && e == ones && fr == 7 then .nan false
  else if e == ones && !f.e4m3 then
    if fr = 0 then .inf s else .nan (bits fr (f.fbits - 1) 1 == 0)
  else if e = 0 then .fin s fr (f.emin - f.fbits)
  else .fin s (2 ^ f.fbits + fr) ((e : Int) - f.bias - f.fbits)

/-- The canonical NaN (R222). -/
def Fmt.canonNan (f : Fmt) : Nat :=
  if f.e4m3 then 0x7F else (2 ^ f.ebits - 1) * 2 ^ f.fbits + 2 ^ (f.fbits - 1)

/-- Bit length. -/
def blen (m : Nat) : Nat := if m = 0 then 0 else Nat.log2 m + 1

/-- Shift a significand by a signed count, dropping bits below. -/
def shiftBy (m : Nat) (k : Int) : Nat := if k < 0 then m / 2 ^ (-k).toNat else m * 2 ^ k.toNat

/-- The encoding of a datum that lies on the format's grid; a NaN gives the canonical one (R222); an infinity of
.e4m3 is its canonical NaN (R228). -/
def Fmt.encode (f : Fmt) (v : FV) : Nat :=
  let sgn (s : Bool) : Nat := if s then 2 ^ (f.ebits + f.fbits) else 0
  match v with
  | .nan _ => f.canonNan
  | .inf s => if f.e4m3 then f.canonNan else sgn s + (2 ^ f.ebits - 1) * 2 ^ f.fbits
  | .fin s m e =>
    if m = 0 then sgn s
    else
      let q := e + blen m - 1
      if q < f.emin then sgn s + shiftBy m (e - (f.emin - f.fbits))
      else sgn s + (q + f.bias).toNat * 2 ^ f.fbits + (shiftBy m (f.fbits - (blen m - 1 : Nat)) - 2 ^ f.fbits)

/-! ### Rounding (R226-R229) -/

/-- The rounding modes of R227. -/
inductive RMode | rne | rtz | rup | rdn | rna | sst deriving DecidableEq, Repr

def rmodeOf (n : Nat) : RMode :=
  match n with | 0 => .rne | 1 => .rtz | 2 => .rup | 3 => .rdn | 4 => .rna | _ => .sst

/-- A rounding target (R226, R230), with the number that sst draws (R229). -/
structure Target where
  p : Nat
  emin : Int
  emax : Int
  e4m3 : Bool
  mode : RMode
  rnd : Nat
  deriving DecidableEq, Repr

/-- The target of a format at its own precision. -/
def Fmt.target (f : Fmt) (mode : RMode) (rnd : Nat) : Target :=
  { p := f.prec, emin := f.emin, emax := f.emax, e4m3 := f.e4m3, mode := mode, rnd := rnd }

/-- The largest finite value, as a significand at 2^(emax - p + 1) (R219). -/
def Target.maxSig (t : Target) : Nat := if t.e4m3 then 14 else 2 ^ t.p - 1

/-- A real number's magnitude: m × 2^e exactly, or strictly between m and m + 1 times 2^e. -/
structure Mag where
  m : Nat
  e : Int
  more : Bool
  deriving DecidableEq, Repr

/-- Whether a magnitude between two neighbours goes to the upper one (R227, R229): `lo` is the lower neighbour, the
remainder is (rem + more) of `span`. -/
def goesUp (mode : RMode) (neg : Bool) (rnd lo rem span : Nat) (more : Bool) : Bool :=
  match mode with
  | .rne => decide (2 * rem > span) || (2 * rem == span && (more || lo % 2 == 1))
  | .rtz => false
  | .rup => !neg
  | .rdn => neg
  | .rna => decide (2 * rem ≥ span)
  | .sst => decide (rnd < rem * 2 ^ 64 / span)

/-- The multiple of 2^q that a magnitude rounds to, and whether it differs. -/
def roundAt (mode : RMode) (neg : Bool) (rnd : Nat) (x : Mag) (q : Int) : Nat × Bool :=
  let d := q - x.e
  if d ≤ 0 then (x.m * 2 ^ (-d).toNat, x.more)
  else
    let span := 2 ^ d.toNat
    let lo := x.m / span
    let rem := x.m % span
    if rem = 0 ∧ !x.more then (lo, false)
    else (if goesUp mode neg rnd lo rem span x.more then lo + 1 else lo, true)

/-- What rounding gives: the datum, the flags of R232, and whether it is inexact. -/
structure Rounded where
  v : FV
  flags : Nat
  deriving DecidableEq, Repr

def Rounded.inexact (r : Rounded) : Bool := r.flags % 2 == 1

/-- Compare m × 2^e with n × 2^k. -/
def magLt (m : Nat) (e : Int) (n : Nat) (k : Int) : Bool :=
  if e ≤ k then decide (m < n * 2 ^ (k - e).toNat) else decide (m * 2 ^ (e - k).toNat < n)

/-- round(x, P, mode) with overflow and underflow (R226, R228, R232). Zero keeps its sign. Beyond the largest finite
value sst draws between it and 2^(emax + 1) (R229), up to the next value of the grid, which itself overflows (R226, R228). -/
def roundMag (t : Target) (neg : Bool) (x : Mag) : Rounded :=
  if x.m = 0 ∧ !x.more then ⟨.fin neg 0 0, 0⟩
  else
    let q := x.e + blen x.m - 1
    let qe := max q t.emin - t.p + 1
    let top := t.emax - t.p + 1
    let (r, inex) := roundAt t.mode neg t.rnd x qe
    let beyond := magLt t.maxSig top x.m x.e || (x.more && !magLt x.m x.e t.maxSig top)
    let tops :=
      if t.mode == .sst && beyond then
        -- span from the largest finite value to 2^(emax + 1), in units of 2^e or finer
        let k := min x.e top
        let big := x.m * 2 ^ (x.e - k).toNat
        let lo := t.maxSig * 2 ^ (top - k).toNat
        let span := 2 ^ (t.emax + 1 - k).toNat - lo
        !magLt x.m x.e (t.maxSig + 1) top || decide (t.rnd < (big - lo) * 2 ^ 64 / span)
      else magLt t.maxSig top r qe
    if tops then
      let toInf := match t.mode with | .rtz => false | .rup => !neg | .rdn => neg | _ => true
      ⟨if toInf then .inf neg else .fin neg t.maxSig top, flagOF + flagNX⟩
    else if t.mode == .sst && beyond then ⟨.fin neg t.maxSig top, flagNX⟩
    else
      let (u, _) := roundAt t.mode neg t.rnd x (q - t.p + 1)
      let tiny := magLt u (q - t.p + 1) 1 t.emin && u != 0
      ⟨.fin neg r qe, (if inex then flagNX else 0) + (if inex && tiny then flagUF else 0)⟩

/-- Round an exact datum. -/
def roundFin (t : Target) (neg : Bool) (m : Nat) (e : Int) : Rounded := roundMag t neg ⟨m, e, false⟩

/-- The canonical NaN with NV, or a quiet one. -/
def invalid : Rounded := ⟨.nan false, flagNV⟩
def quietNan (nv : Bool) : Rounded := ⟨.nan false, if nv then flagNV else 0⟩

/-- mix of R229. -/
def mix64 (z : BitVec 64) : BitVec 64 :=
  let z := (z ^^^ (z >>> 30)) * 0xBF58476D1CE4E5B9
  let z := (z ^^^ (z >>> 27)) * 0x94D049BB133111EB
  z ^^^ (z >>> 31)

/-- The number drawn from the seed, the global index and the operand words (R229). -/
def draw (k127 : Word) (g : Nat) (ops : List Nat) : Nat :=
  (ops.foldl (fun (z : BitVec 64) w => mix64 (z ^^^ BitVec.ofNat 64 w)) (mix64 (k127 ++ BitVec.ofNat 32 g))).toNat

/-! ### Exact sums and products (R129, R239-R241) -/

/-- The exact sum of finite data as an integer multiple of a power of two. -/
def sumFin (xs : List FV) : Int × Int :=
  let es := xs.filterMap fun v => match v with | .fin _ m e => if m = 0 then none else some e | _ => none
  let k := es.foldl min (es.headD 0)
  (xs.foldl (fun a v => match v with
    | .fin s m e => if m = 0 then a else a + (if s then -1 else 1) * ((m * 2 ^ (e - k).toNat : Nat) : Int)
    | _ => a) 0, k)

/-- The sign of an exact zero sum (R129): −0 when every addend is −0, +0 when every addend is +0; else +0, or −0 under
RDN. -/
def zeroSign (mode : RMode) (xs : List FV) : Bool :=
  if xs.all fun v => v.isZero && v.neg then true
  else if xs.all fun v => v.isZero && !v.neg then false
  else mode == .rdn

/-- round of an exact sum with the special cases of R129. -/
def roundSum (t : Target) (xs : List FV) : Rounded :=
  if xs.any (fun v => v.isInf && v.neg) && xs.any (fun v => v.isInf && !v.neg) then invalid
  else if xs.any FV.isNan then quietNan (xs.any FV.isSig)
  else match xs.find? FV.isInf with
    | some v => ⟨v, 0⟩
    | none =>
      let (s, k) := sumFin xs
      if s = 0 then ⟨.fin (zeroSign t.mode xs) 0 0, 0⟩ else roundFin t (decide (s < 0)) s.natAbs k

/-- The exact product of two data that are not NaN and not 0 × infinity. -/
def mulFV (a b : FV) : FV :=
  let s := a.neg != b.neg
  match a, b with
  | .fin _ m e, .fin _ n k => .fin s (m * n) (e + k)
  | _, _ => .inf s

/-- 0 × infinity. -/
def zeroInf (a b : FV) : Bool := (a.isZero && b.isInf) || (a.isInf && b.isZero)

/-- round of a datum: a NaN gives the canonical one. -/
def roundFV (t : Target) (v : FV) : Rounded :=
  match v with
  | .nan s => quietNan s
  | .inf s => ⟨.inf s, 0⟩
  | .fin s m e => roundFin t s m e

/-- R239: fmul. -/
def roundMul (t : Target) (a b : FV) : Rounded :=
  if a.isNan || b.isNan then quietNan (a.isSig || b.isSig)
  else if zeroInf a b then invalid
  else roundFV t (mulFV a b)

/-- R240: ffma. -/
def roundFma (t : Target) (a b c : FV) : Rounded :=
  if zeroInf a b then invalid
  else if a.isNan || b.isNan || c.isNan then quietNan (a.isSig || b.isSig || c.isSig)
  else roundSum t [mulFV a b, c]

/-- Compare two data that are not NaN; −0 and +0 are equal. -/
def cmpFV (a b : FV) : Ordering :=
  match a, b with
  | .inf s, .inf u => if s = u then .eq else if s then .lt else .gt
  | .inf s, _ => if s then .lt else .gt
  | _, .inf u => if u then .gt else .lt
  | a, b =>
    let (s, _) := sumFin [a, b.negate]
    if s < 0 then .lt else if s = 0 then .eq else .gt

/-- R129, R242: a below b, with −0 below +0. -/
def ltFV (a b : FV) : Bool := if a.isZero && b.isZero then a.neg && !b.neg else cmpFV a b == .lt

/-! ### Quotients and roots (R246) -/

/-- a / b for positive magnitudes, with at least `n` significant bits. -/
def divMag (ma : Nat) (ea : Int) (mb : Nat) (eb : Int) (n : Nat) : Mag :=
  let s := n + 1 + blen mb - min (blen ma) (n + 1 + blen mb)
  let x := ma * 2 ^ s
  ⟨x / mb, ea - s - eb, x % mb != 0⟩

/-- Newton's iteration for the integer square root, from above. -/
def isqrtGo (n : Nat) : Nat → Nat → Nat
  | 0, x => x
  | fuel + 1, x => let y := (x + n / x) / 2; if y < x then isqrtGo n fuel y else x

/-- floor(√n). -/
def isqrt (n : Nat) : Nat := if n = 0 then 0 else isqrtGo n 200 (2 ^ (blen n / 2 + 1))

/-- √ of a positive magnitude, with at least `n` significant bits. -/
def sqrtMag (m : Nat) (e : Int) (n : Nat) : Mag :=
  let s := 2 * n + 2 - min (blen m) (2 * n + 2)
  let s := if (e - s) % 2 = 0 then s else s + 1
  let x := m * 2 ^ s
  let r := isqrt x
  ⟨r, (e - s) / 2, r * r != x⟩

/-- 1 / √ of a positive magnitude, with at least `n` significant bits. -/
def rsqrtMag (m : Nat) (e : Int) (n : Nat) : Mag :=
  let m' := if e % 2 = 0 then m else 2 * m
  let e' := if e % 2 = 0 then e else e - 1
  let k := n + 2 + blen m'
  let x := 2 ^ (2 * k)
  let r := isqrt (x / m')
  ⟨r, -(k : Int) - e' / 2, r * r * m' != x⟩

/-! ### Decdal elements (R224, R225) -/

/-- Bytes of a size code (R199). -/
def decdalBytes (code : Nat) : Nat := [4, 6, 8, 10, 12, 16, 24, 32].getD code 4

/-- The format of an element's payload of B bytes. -/
def decdalFmt (b : Nat) : Fmt := ⟨15, 8 * b - 24, false⟩

/-- The datum of an element, or `none` where ldd raises FMT (R199, R225). -/
def decdalRead (code e : Nat) : Option FV :=
  let b := decdalBytes code
  let h := e % 256
  let pay := e / 256 % 2 ^ (8 * (b - 1))
  let f := decdalFmt b
  let kind := bits h 3 2
  let ex := bits pay f.fbits 15
  let fr := bits pay 0 f.fbits
  let s := bits pay (f.fbits + 15) 1 == 1
  if bits h 0 3 ≠ 0 ∨ bits h 5 3 ≠ code ∨ kind = 3 then none
  else if kind = 2 then some (.nan false)
  else if kind = 1 then (if ex = 0 ∧ fr = 0 then some (.inf s) else none)
  else if ex = 0x7FFF then none
  else some (f.decode pay)

/-- The element of a datum that lies on its grid (R225). -/
def decdalWrite (code : Nat) (v : FV) : Nat :=
  let b := decdalBytes code
  let f := decdalFmt b
  match v with
  | .nan _ => code * 32 + 2 * 8
  | .inf s => code * 32 + 8 + 256 * (if s then 2 ^ (f.fbits + 15) else 0)
  | .fin _ _ _ => code * 32 + 256 * f.encode v

end Sys2Proof.Machine
end

