-- ==== Sys2Proof/Machine/Elementary.lean ====
section
/-! DEFINITION. The real functions of R246-R248, rounded once. Each is computed in fixed point with a bound on its error,
at a working precision that doubles until the bits down to 66 below the last place are settled; a value that a rule
lists as exact is taken exactly. All these values are irrational otherwise, so the exact value lies strictly above the
settled bits. -/

namespace Sys2Proof.Machine

/-- Product of two fixed-point numbers with `w` fraction bits. -/
def fxMul (w : Nat) (a b : Int) : Int := a * b / 2 ^ w
/-- Quotient of two fixed-point numbers. -/
def fxDiv (w : Nat) (a b : Int) : Int := a * 2 ^ w / b

/-- z + z³/3 + z⁵/5 + …, with the sign of every other term from `alt` (atan) or not (atanh). -/
def oddSeries (w : Nat) (alt : Bool) (z2 : Int) : Nat → Nat → Int → Int → Int
  | 0, _, _, acc => acc
  | fuel + 1, i, term, acc =>
    if term = 0 then acc
    else oddSeries w alt z2 fuel (i + 1) (fxMul w term z2) (acc + (if alt && i % 2 == 1 then -1 else 1) * (term / (2 * i + 1 : Nat)))

def fxAtanh (w : Nat) (z : Int) : Int := oddSeries w false (fxMul w z z) (w + 8) 0 z 0
def fxAtanSmall (w : Nat) (z : Int) : Int := oddSeries w true (fxMul w z z) (w + 8) 0 z 0

/-- ln 2. -/
def fxLn2 (w : Nat) : Int := 2 * fxAtanh w (2 ^ w / 3)
/-- π, by Machin's formula. -/
def fxPi (w : Nat) : Int := 16 * fxAtanSmall w (2 ^ w / 5) - 4 * fxAtanSmall w (2 ^ w / 239)

/-- 1 + x + x²/2! + … for a small x. -/
def expSeries (w : Nat) (x : Int) : Nat → Nat → Int → Int → Int
  | 0, _, _, acc => acc
  | fuel + 1, i, term, acc => if term = 0 then acc else expSeries w x fuel (i + 1) (fxMul w term x / (i + 1 : Nat)) (acc + term)

def iter {α : Type} (f : α → α) : Nat → α → α
  | 0, x => x
  | n + 1, x => iter f n (f x)

/-- e^y as (A, k): A × 2^(k − w) with A near 2^w, for a fixed-point y of moderate size. -/
def fxExp (w : Nat) (y : Int) : Int × Int :=
  let l := fxLn2 w
  let k := (y + l / 2) / l
  let r := (y - k * l) / 256
  (iter (fun a => fxMul w a a) 8 (expSeries w r (w + 8) 0 (2 ^ w) 0), k)

/-- ln of a positive magnitude m × 2^e. -/
def fxLn (w : Nat) (m : Nat) (e : Int) : Int :=
  let k := blen m
  -- y in [1/2, 1), moved to [3/4, 3/2)
  let y : Int := shiftBy m ((w : Int) - k)
  let (y, j) := if 4 * y < 3 * 2 ^ w then (2 * y, e + k - 1) else (y, e + k)
  2 * fxAtanh w (fxDiv w (y - 2 ^ w) (y + 2 ^ w)) + j * fxLn2 w

/-- sin and cos of a small fixed-point angle, by their series. -/
def sinSeries (w : Nat) (x2 : Int) : Nat → Nat → Int → Int → Int
  | 0, _, _, acc => acc
  | fuel + 1, i, term, acc =>
    if term = 0 then acc else sinSeries w x2 fuel (i + 2) (-(fxMul w term x2) / ((i + 1) * (i + 2) : Nat)) (acc + term)

def fxSin (w : Nat) (x : Int) : Int := sinSeries w (fxMul w x x) (w + 8) 1 x 0
def fxCos (w : Nat) (x : Int) : Int := sinSeries w (fxMul w x x) (w + 8) 0 (2 ^ w) 0

/-- atan of a fixed-point number in [0, 1]: three halvings of the angle, then the series. -/
def fxAtan (w : Nat) (t : Int) : Int :=
  let half (t : Int) : Int := fxDiv w t (2 ^ w + (isqrt ((2 ^ w * 2 ^ w + t * t).toNat) : Nat))
  8 * fxAtanSmall w (iter half 3 t)

/-- The error bound of the computations above, as a power of two in units of the last place. -/
def errBits : Nat := 40

/-- Settle `n` leading bits of a positive number within 2^errBits of `a`, times 2^e; `none` if its bits are not settled. -/
def settle (n : Nat) (a : Int) (e : Int) : Option Mag :=
  let a := a.natAbs
  let err := 2 ^ errBits
  let g := blen a - (n + 2)
  if a ≤ err ∨ blen a ≤ n + 2 + errBits then none
  else if (a - err) / 2 ^ g = (a + err) / 2 ^ g then some ⟨(a - err) / 2 ^ g, e + g, true⟩ else none

/-- Double the working precision until the value settles. -/
def settleLoop {α : Type} (f : Nat → Option α) : Nat → Nat → Option α
  | 0, _ => none
  | fuel + 1, w => match f w with | some x => some x | none => settleLoop f fuel (2 * w)

/-- The first working precision for `n` bits. -/
def firstTry (n : Nat) : Nat := n + 128

/-- The settled value; a working precision beyond 2^16 times the first is not tried (log 22). -/
def settled (n : Nat) (f : Nat → Option Mag) : Mag :=
  (settleLoop f 16 (firstTry n)).getD ⟨Config.unsettled n, 0, true⟩

/-- Exactly 2^0 plus or minus a vanishing amount. -/
def nearOne (n : Nat) (above : Bool) : Mag := if above then ⟨2 ^ n, -n, true⟩ else ⟨2 ^ n - 1, -n, true⟩
/-- Magnitudes beyond and below every format. -/
def hugeMag : Mag := ⟨2 ^ 400, 100000, true⟩
def tinyMag : Mag := ⟨2 ^ 400, -100000, true⟩

/-- The fixed-point number of a magnitude. -/
def fxOf (w : Nat) (neg : Bool) (m : Nat) (e : Int) : Int := (if neg then -1 else 1) * (shiftBy m (e + w) : Nat)

/-- e^(±m 2^e) with `n` bits, for a nonzero argument, as a working precision settles it. -/
def expTry (n : Nat) (neg : Bool) (m : Nat) (e : Int) (w : Nat) : Option Mag :=
  let q := e + blen m
  if q > 20 then some (if neg then tinyMag else hugeMag)
  else if q < -(n + 4 : Int) then some (nearOne n (!neg))
  else let wi := w + 64; let (a, k) := fxExp wi (fxOf wi neg m e); settle n a (k - wi)
def expMag (n : Nat) (neg : Bool) (m : Nat) (e : Int) : Mag := settled n (expTry n neg m e)

/-- 2^(±m 2^e) with `n` bits; exact for an integer (R246). -/
def exp2Try (n : Nat) (neg : Bool) (m : Nat) (e : Int) (w : Nat) : Option Mag :=
  let q := e + blen m
  if q > 20 then some (if neg then tinyMag else hugeMag)
  else
    let i : Int := (if neg then -1 else 1) * (shiftBy m e : Nat)
    if e ≥ 0 ∨ m % 2 ^ (-e).toNat = 0 then some ⟨1, i, false⟩
    else if q < -(n + 4 : Int) then some (nearOne n (!neg))
    else let wi := w + 64; let (a, k) := fxExp wi (fxMul wi (fxOf wi neg m e) (fxLn2 wi)); settle n a (k - wi)
def exp2Mag (n : Nat) (neg : Bool) (m : Nat) (e : Int) : Mag := settled n (exp2Try n neg m e)

/-- ln of a positive magnitude other than 1, as a sign and a magnitude. -/
def lnTry (n : Nat) (m : Nat) (e : Int) (w : Nat) : Option Mag := settle n (fxLn (w + 64) m e) (-(w + 64 : Nat))
def lnMag (n : Nat) (m : Nat) (e : Int) : Bool × Mag := (decide (e + blen m ≤ 0), settled n (lnTry n m e))

/-- log₂, exact for a power of two (R246). -/
def log2Try (n : Nat) (m : Nat) (e : Int) (w : Nat) : Option Mag :=
  if m = 2 ^ (blen m - 1) then some ⟨(e + blen m - 1).natAbs, 0, false⟩
  else let wi := w + 64; settle n (fxDiv wi (fxLn wi m e) (fxLn2 wi)) (-(wi : Nat))
def log2Mag (n : Nat) (m : Nat) (e : Int) : Bool × Mag := (decide (e + blen m ≤ 0), settled n (log2Try n m e))

/-- The argument reduced exactly by π/2: the quadrant and the remainder in [−π/4, π/4], with `w` fraction bits. -/
def reduceAngle (w : Nat) (m : Nat) (e : Int) : Nat × Int :=
  let x := w + (e + blen m).toNat + 16
  let p := fxPi x / 2
  let y := fxOf x false m e
  let k := (y + p / 2) / p
  ((k % 4).toNat, (y - k * p) / 2 ^ (x - w))

/-- sin or cos of m 2^e in fixed point. -/
def fxSinCos (w : Nat) (cos : Bool) (m : Nat) (e : Int) : Int :=
  let (k, r) := reduceAngle w m e
  match (k + if cos then 1 else 0) % 4 with
  | 0 => fxSin w r | 1 => fxCos w r | 2 => -fxSin w r | _ => -fxCos w r

/-- sin or cos of m 2^e: a sign and a magnitude, as a working precision settles them. -/
def sinCosTry (n : Nat) (cos : Bool) (m : Nat) (e : Int) (w : Nat) : Option (Bool × Mag) :=
  let q := e + blen m
  if cos && decide (2 * q < -(n + 2 : Int)) then some (false, nearOne n false)
  else if !cos && decide (2 * q < -(n + 2 + blen m : Int)) then some (false, ⟨m * 2 ^ n - 1, e - n, true⟩)
  else
    let a := fxSinCos (w + 64) cos m e
    (settle n a (-(w + 64 : Nat))).map fun x => (decide (a < 0), x)
def sinCosMag (n : Nat) (cos : Bool) (m : Nat) (e : Int) : Bool × Mag :=
  (settleLoop (sinCosTry n cos m e) 16 (firstTry n)).getD (Config.unsettled (n + 1) % 2 == 1, ⟨Config.unsettled n, 0, true⟩)

/-- tanh of a positive magnitude. -/
def tanhTry (n : Nat) (m : Nat) (e : Int) (w : Nat) : Option Mag :=
  let q := e + blen m
  if q > 10 then some (nearOne n false)
  else if 2 * q < -(n + 2 + blen m : Int) then some ⟨m * 2 ^ n - 1, e - n, true⟩
  else
    let wi := w + 64
    let (a, k) := fxExp wi (2 * fxOf wi false m e)
    let a := shiftBy a.toNat k
    settle n (fxDiv wi ((a : Int) - 2 ^ wi) ((a : Int) + 2 ^ wi)) (-(wi : Nat))
def tanhMag (n : Nat) (m : Nat) (e : Int) : Mag := settled n (tanhTry n m e)

/-- An angle of R247 given as a multiple of π/4. -/
def piTry (n quarters w : Nat) : Option Mag := let wi := w + 64; settle n (fxPi wi * quarters) (-(wi : Nat) - 2)
def piMag (n quarters : Nat) : Mag := settled n (piTry n quarters)

/-- The angle in (0, π) of the point (±b, a) for positive a and b given as magnitudes (R247). -/
def atanTry (n : Nat) (ma : Nat) (ea : Int) (xneg : Bool) (mb : Nat) (eb : Int) (w : Nat) : Option Mag :=
  let qa := ea + blen ma
  let qb := eb + blen mb
  if !xneg && decide (qa - qb < -(2 * n + 400 : Int)) then
    let d := divMag ma ea mb eb n
    some (if d.more then d else ⟨d.m * 2 ^ n - 1, d.e - n, true⟩)
  else
    let wi := w + 64
    -- t = min / max in fixed point
    let big := magLt mb eb ma ea
    let d := if big then divMag mb eb ma ea (wi + 8) else divMag ma ea mb eb (wi + 8)
    let t : Int := shiftBy d.m (d.e + wi)
    let a := fxAtan wi t
    let a := if big then fxPi wi / 2 - a else a
    settle n (if xneg then fxPi wi - a else a) (-(wi : Nat))
def atanMag (n : Nat) (ma : Nat) (ea : Int) (xneg : Bool) (mb : Nat) (eb : Int) : Mag := settled n (atanTry n ma ea xneg mb eb)

/-- Take `k` exact square roots of ma × 2^ea, if they exist. -/
def exactRoots : Nat → Nat → Int → Option (Nat × Int)
  | 0, m, e => some (m, e)
  | k + 1, m, e =>
    let r := isqrt m
    if e % 2 = 0 ∧ r * r = m then exactRoots k r (e / 2) else none

/-- Odd significand form. -/
def oddForm (m : Nat) (e : Int) : Nat → Nat × Int
  | 0 => (m, e)
  | fuel + 1 => if m % 2 = 0 ∧ m ≠ 0 then oddForm (m / 2) (e + 1) fuel else (m, e)

/-- a^b for a positive magnitude a other than 1 and a nonzero b (R248). A rational power is taken exactly when it is
short enough to lie on a grid or half-way; any other is irrational or far longer than `n` bits. -/
def powTry (n : Nat) (ma : Nat) (ea : Int) (bneg : Bool) (mb : Nat) (eb : Int) (w : Nat) : Option Mag :=
  let (ma, ea) := oddForm ma ea (blen ma)
  let (mb, eb) := oddForm mb eb (blen mb)
  let below := decide (ea + blen ma ≤ 0)        -- a < 1
  let qb := eb + blen mb
  let exact : Option Mag :=
    let roots : Option (Nat × Int × Nat) :=
      if eb ≥ 0 then (if qb ≤ 40 then some (ma, ea, mb * 2 ^ eb.toNat) else none)
      else if eb ≥ -64 then (exactRoots (-eb).toNat ma ea).map fun (m, e) => (m, e, mb)
      else none
    match roots with
    | none => none
    | some (m, e, k) =>
      if m = 1 then
        -- a power of two; one beyond every format overflows or underflows in every mode
        let x := if bneg then -(e * k) else e * k
        if x.natAbs ≤ 2 ^ 20 then some ⟨1, x, false⟩ else some (if x < 0 then tinyMag else hugeMag)
      else if bneg then none
      else if blen m * k ≤ 8192 then some ⟨m ^ k, e * k, false⟩ else none
  match exact with
  | some x => some x
  | none =>
    if qb > 280 then some (if below != bneg then tinyMag else hugeMag)
    else if qb < -(n + 24 : Int) then some (nearOne n (below == bneg))
    else
      let wi := w + 64 + 2 * qb.toNat
      let y := fxLn wi ma ea * (if bneg then -1 else 1) * (mb : Int)
      let y := if eb ≥ 0 then y * 2 ^ eb.toNat else y / 2 ^ (-eb).toNat
      if y.natAbs ≥ 2 ^ (wi + 20) then some (if y < 0 then tinyMag else hugeMag)
      else
        let (a, k) := fxExp wi y
        -- the error of the logarithm is scaled by b
        let drop := qb.toNat + 8
        settle n (a / 2 ^ drop) (k - wi + drop)
def powMag (n : Nat) (ma : Nat) (ea : Int) (bneg : Bool) (mb : Nat) (eb : Int) : Mag := settled n (powTry n ma ea bneg mb eb)

end Sys2Proof.Machine
end

