-- ==== Sys2Proof/WellFormed.lean ====
section
/-! DEFINITION. Well-formed instructions: what the spec's encodings admit, before any state is known. -/

namespace Sys2Proof

open Sys2Proof.Machine

/-- A casting word passes the ILLOP checks for some window (W = 2,048 is the widest) and its carried class is not
below its intrinsic class (R58, R73). -/
def wfCast (i : Instr) : Bool :=
  match opSpec i with
  | some (sp, w) => legalIn 2048 i sp w && decide (sp.cls ≤ w.tc.toNat)
  | none => (plainClass i).isSome

/-- A Flue slot op's fields lie within R408 and R410. -/
def wfFlue (i : Instr) : Bool :=
  match i with
  | .sget _ sel => decide (sel.toNat ≤ 4)
  | .ldg _ a _ => a.toNat % 2 == 0
  | .vh2f _ _ c => decide (c.toNat ≤ 1)
  | _ => true

/-- A Stoker word's fields lie within R364. The fields are typed, so only svsem's unused places remain, and they are
not kept. -/
def wfStoker (_ : Instr) : Bool := true

/-- The kind of code an instruction is written in. -/
inductive CodeKind | cast | stoker | flue | event deriving DecidableEq, Repr

end Sys2Proof
end

