-- ==== Sys2Proof/Decode.lean ====
section
/-! DEFINITION. Decoding and encoding of the three instruction sets: casting words (R46, R60-R65), Stoker command
words (R363, R364) and Flue slot ops (R408-R410). Decoding is total: what no table assigns is `none`. -/

namespace Sys2Proof

/-! ### Casting words -/

/-- The fields of a casting word below OP and SUB (R46). -/
def castFields (w : BitVec 128) : CastWord :=
  { tc := w.extractLsb' 114 2, pg := w.extractLsb' 110 4, pn := w.extractLsb' 109 1, d := w.extractLsb' 98 11,
    a := w.extractLsb' 87 11, b := w.extractLsb' 76 11, c := w.extractLsb' 65 11, reuse := w.extractLsb' 62 3,
    lc := w.extractLsb' 60 2, ty := w.extractLsb' 56 4, mod := w.extractLsb' 48 8, ext := w.extractLsb' 32 16,
    imm := w.extractLsb' 0 32 }

/-- The word with the given OP, SUB and fields (R46). -/
def castPack (op : BitVec 8) (sub : BitVec 4) (f : CastWord) : BitVec 128 :=
  op ++ sub ++ f.tc ++ f.pg ++ f.pn ++ f.d ++ f.a ++ f.b ++ f.c ++ f.reuse ++ f.lc ++ f.ty ++ f.mod ++ f.ext ++ f.imm

/-- The fields of a U-form word that reads nothing: PG 15 and every other field but TC zero (R46, R55). -/
def plainFields (tc : BitVec 2) : CastWord :=
  { tc := tc, pg := 15, pn := 0, d := 0, a := 0, b := 0, c := 0, reuse := 0, lc := 0, ty := 0, mod := 0, ext := 0, imm := 0 }

/-- A U-form word that reads nothing: any other bit set raises ILLOP (R46, R55). -/
def plainWord (f : CastWord) (i : Instr) : Option Instr := if f = plainFields f.tc then some i else none

/-- The opcode maps R60-R65: the instruction of an OP and a SUB; `none` for an unassigned encoding (R59). -/
def castOf (op sub : Nat) (f : CastWord) : Option Instr :=
  match op, sub with
  | 0x01, 0 => some (.nop f)
  | 0x02, 0 => some (.bra f)
  | 0x02, 1 => some (.brx f)
  | 0x03, 0 => some (.call f)
  | 0x03, 1 => some (.callx f)
  | 0x04, 0 => some (.ret f)
  | 0x05, 0 => some (.join f)
  | 0x06, 0 => some (.exit f)
  | 0x07, 0 => some (.bar f)
  | 0x07, 1 => some (.arrive f)
  | 0x08, 0 => some (.setw f)
  | 0x09, 0 => some (.shfl .pick f)
  | 0x09, 1 => some (.shfl .rot f)
  | 0x09, 2 => some (.shfl .shift f)
  | 0x09, 3 => some (.shfl .pair f)
  | 0x0A, 0 => some (.vote .all f)
  | 0x0A, 1 => some (.vote .any f)
  | 0x0A, 2 => some (.vote .uni f)
  | 0x0A, 3 => some (.vote .ballot f)
  | 0x0B, 0 => some (.elect f)
  | 0x0C, 0 => some (.gred .add f)
  | 0x0C, 1 => some (.gred .min f)
  | 0x0C, 2 => some (.gred .max f)
  | 0x0C, 3 => some (.gred .and f)
  | 0x0C, 4 => some (.gred .or f)
  | 0x0C, 5 => some (.gred .xor f)
  | 0x0C, 6 => some (.gred .seq f)
  | 0x0D, 0 => some (.gscan .add f)
  | 0x0D, 1 => some (.gscan .min f)
  | 0x0D, 2 => some (.gscan .max f)
  | 0x0D, 3 => some (.gscan .seq f)
  | 0x0E, 0 => some (.rdsys f)
  | 0x0E, 1 => some (.wrsys f)
  | 0x0F, 0 => some (.kset f)
  | 0x0F, 1 => some (.kget f)
  | 0x10, 0 => some (.plop .and f)
  | 0x10, 1 => some (.plop .or f)
  | 0x10, 2 => some (.plop .xor f)
  | 0x10, 3 => some (.plop .andn f)
  | 0x10, 4 => some (.plop .not f)
  | 0x11, 0 => some (.hmk f)
  | 0x12, 0 => some (.trap f)
  | 0x13, 0 => some (.dbrk f)
  | 0x14, 0 => some (.tret f)
  | 0x15, 0 => plainWord f .yield
  | 0x16, 0 => some (.sleep f)
  | 0x17, 0 => plainWord f .ifence
  | 0x20, 0 => some (.iadd f)
  | 0x20, 1 => some (.isub f)
  | 0x21, 0 => some (.ineg f)
  | 0x21, 1 => some (.iabs f)
  | 0x22, 0 => some (.imin f)
  | 0x22, 1 => some (.imax f)
  | 0x23, 0 => some (.imul f)
  | 0x23, 1 => some (.imulh f)
  | 0x24, 0 => some (.imad f)
  | 0x25, 0 => some (.idivs f)
  | 0x25, 1 => some (.idive f)
  | 0x26, 0 => some (.and f)
  | 0x26, 1 => some (.or f)
  | 0x26, 2 => some (.xor f)
  | 0x26, 3 => some (.andn f)
  | 0x26, 4 => some (.not f)
  | 0x27, 0 => some (.tern f)
  | 0x28, 0 => some (.shl f)
  | 0x28, 1 => some (.shr f)
  | 0x28, 2 => some (.sar f)
  | 0x28, 3 => some (.rot f)
  | 0x29, 0 => some (.bfx f)
  | 0x29, 1 => some (.bfi f)
  | 0x2A, 0 => some (.popc f)
  | 0x2A, 1 => some (.clz f)
  | 0x2A, 2 => some (.brev f)
  | 0x2B, 0 => some (.icmp .eq f)
  | 0x2B, 1 => some (.icmp .ne f)
  | 0x2B, 2 => some (.icmp .lt f)
  | 0x2B, 3 => some (.icmp .le f)
  | 0x2B, 4 => some (.icmp .gt f)
  | 0x2B, 5 => some (.icmp .ge f)
  | 0x2C, 0 => some (.sel f)
  | 0x2D, 0 => some (.mov f)
  | 0x2E, 0 => some (.lea f)
  | 0x2E, 1 => some (.leaGlb f)
  | 0x2F, 0 => some (.idp4 f)
  | 0x2F, 1 => some (.idp2 f)
  | 0x30, 0 => some (.perm f)
  | 0x31, 0 => some (.icvt f)
  | 0x40, 0 => some (.fadd f)
  | 0x40, 1 => some (.fsub f)
  | 0x41, 0 => some (.fmul f)
  | 0x42, 0 => some (.ffma f)
  | 0x43, 0 => some (.fmin f)
  | 0x43, 1 => some (.fmax f)
  | 0x44, 0 => some (.fabs f)
  | 0x44, 1 => some (.fneg f)
  | 0x45, 0 => some (.fcmp .eq f)
  | 0x45, 1 => some (.fcmp .ne f)
  | 0x45, 2 => some (.fcmp .lt f)
  | 0x45, 3 => some (.fcmp .le f)
  | 0x45, 4 => some (.fcmp .gt f)
  | 0x45, 5 => some (.fcmp .ge f)
  | 0x45, 6 => some (.fcmp .uno f)
  | 0x45, 7 => some (.fcmp .ord f)
  | 0x46, 0 => some (.fclass f)
  | 0x47, 0 => some (.fdiv f)
  | 0x48, 0 => some (.frcp f)
  | 0x48, 1 => some (.fsqrt f)
  | 0x48, 2 => some (.frsqrt f)
  | 0x49, 0 => some (.fexp2 f)
  | 0x49, 1 => some (.fexp f)
  | 0x49, 2 => some (.flog2 f)
  | 0x49, 3 => some (.flog f)
  | 0x49, 4 => some (.fsin f)
  | 0x49, 5 => some (.fcos f)
  | 0x49, 6 => some (.ftanh f)
  | 0x4A, 0 => some (.fatan2 f)
  | 0x4A, 1 => some (.fpow f)
  | 0x4B, 0 => some (.fcvt f)
  | 0x4C, 0 => some (.fcvti f)
  | 0x4C, 1 => some (.icvtf f)
  | 0x4D, 0 => some (.frint f)
  | 0x4E, 0 => some (.fscale f)
  | 0x4E, 1 => some (.fgetexp f)
  | 0x4F, 0 => some (.fsum3 f)
  | 0x60, 0 => some (.ld f)
  | 0x61, 0 => some (.st f)
  | 0x62, 0 => some (.ldd f)
  | 0x63, 0 => some (.std f)
  | 0x64, 0 => some (.atom .add f)
  | 0x64, 1 => some (.atom .min f)
  | 0x64, 2 => some (.atom .max f)
  | 0x64, 3 => some (.atom .and f)
  | 0x64, 4 => some (.atom .or f)
  | 0x64, 5 => some (.atom .xor f)
  | 0x64, 6 => some (.atom .exch f)
  | 0x64, 7 => some (.atom .fadd f)
  | 0x65, 0 => some (.red .add f)
  | 0x65, 1 => some (.red .min f)
  | 0x65, 2 => some (.red .max f)
  | 0x65, 3 => some (.red .and f)
  | 0x65, 4 => some (.red .or f)
  | 0x65, 5 => some (.red .xor f)
  | 0x65, 7 => some (.red .fadd f)
  | 0x66, 0 => some (.cas f)
  | 0x67, 0 => some (.fence f)
  | 0x68, 0 => some (.qfence f)
  | 0x69, 0 => some (.mark f)
  | 0x6A, 0 => some (.waitv .eq f)
  | 0x6A, 1 => some (.waitv .ne f)
  | 0x6A, 2 => some (.waitv .lt f)
  | 0x6A, 3 => some (.waitv .le f)
  | 0x6A, 4 => some (.waitv .gt f)
  | 0x6A, 5 => some (.waitv .ge f)
  | 0x6B, 0 => some (.waitb .cruc f)
  | 0x6B, 1 => some (.waitb .ladle f)
  | 0x6C, 0 => some (.spill f)
  | 0x6C, 1 => some (.fill f)
  | 0x6D, 0 => some (.smp f)
  | 0x6D, 1 => some (.smpres f)
  | 0x6E, 0 => some (.qpush f)
  | 0x6E, 1 => some (.qpop f)
  | 0x6E, 2 => some (.qpeek f)
  | 0x6F, 0 => some (.ldk f)
  | 0x70, 0 => some (.pref f)
  | 0x71, 0 => some (.ccop .wb f)
  | 0x71, 1 => some (.ccop .inv f)
  | 0x71, 2 => some (.ccop .wbinv f)
  | 0x80, 0 => some (.mma f)
  | 0x81, 0 => some (.mmaw f)
  | 0x82, 0 => some (.azero f)
  | 0x83, 0 => some (.ald f)
  | 0x84, 0 => some (.ast f)
  | 0x85, 0 => some (.ascl f)
  | 0x86, 0 => some (.mset f)
  | 0x87, 0 => some (.cmode f)
  | 0x88, 0 => plainWord f .ccommit
  | 0x89, 0 => some (.cdrain f)
  | 0x8A, 0 => plainWord f .cpair
  | 0x8A, 1 => plainWord f .cunpair
  | 0x8B, 0 => some (.csave f)
  | 0x8B, 1 => some (.crest f)
  | 0x8C, 0 => some (.acopy f)
  | 0x8C, 1 => some (.aadd f)
  | 0x90, 0 => some (.lcopy f)
  | 0x91, 0 => some (.lredArr f)
  | 0x91, 1 => some (.lredOrd f)
  | 0x92, 0 => some (.lfill f)
  | 0x93, 0 => some (.lgat f)
  | 0x94, 0 => some (.lcont f)
  | 0x95, 0 => plainWord f .lcommit
  | 0x96, 0 => plainWord f .lcancel
  | 0x97, 0 => some (.lsave f)
  | 0x97, 1 => some (.lrest f)
  | _, _ => none

/-- OP, SUB and fields of a casting instruction (R60-R65); `none` for any other step. -/
def castCode (i : Instr) : Option (BitVec 8 × BitVec 4 × CastWord) :=
  match i with
  | .nop f => some (0x01, 0, f)
  | .bra f => some (0x02, 0, f)
  | .brx f => some (0x02, 1, f)
  | .call f => some (0x03, 0, f)
  | .callx f => some (0x03, 1, f)
  | .ret f => some (0x04, 0, f)
  | .join f => some (0x05, 0, f)
  | .exit f => some (0x06, 0, f)
  | .bar f => some (0x07, 0, f)
  | .arrive f => some (0x07, 1, f)
  | .setw f => some (0x08, 0, f)
  | .shfl .pick f => some (0x09, 0, f)
  | .shfl .rot f => some (0x09, 1, f)
  | .shfl .shift f => some (0x09, 2, f)
  | .shfl .pair f => some (0x09, 3, f)
  | .vote .all f => some (0x0A, 0, f)
  | .vote .any f => some (0x0A, 1, f)
  | .vote .uni f => some (0x0A, 2, f)
  | .vote .ballot f => some (0x0A, 3, f)
  | .elect f => some (0x0B, 0, f)
  | .gred .add f => some (0x0C, 0, f)
  | .gred .min f => some (0x0C, 1, f)
  | .gred .max f => some (0x0C, 2, f)
  | .gred .and f => some (0x0C, 3, f)
  | .gred .or f => some (0x0C, 4, f)
  | .gred .xor f => some (0x0C, 5, f)
  | .gred .seq f => some (0x0C, 6, f)
  | .gscan .add f => some (0x0D, 0, f)
  | .gscan .min f => some (0x0D, 1, f)
  | .gscan .max f => some (0x0D, 2, f)
  | .gscan .seq f => some (0x0D, 3, f)
  | .rdsys f => some (0x0E, 0, f)
  | .wrsys f => some (0x0E, 1, f)
  | .kset f => some (0x0F, 0, f)
  | .kget f => some (0x0F, 1, f)
  | .plop .and f => some (0x10, 0, f)
  | .plop .or f => some (0x10, 1, f)
  | .plop .xor f => some (0x10, 2, f)
  | .plop .andn f => some (0x10, 3, f)
  | .plop .not f => some (0x10, 4, f)
  | .hmk f => some (0x11, 0, f)
  | .trap f => some (0x12, 0, f)
  | .dbrk f => some (0x13, 0, f)
  | .tret f => some (0x14, 0, f)
  | .yield => some (0x15, 0, plainFields 0)
  | .sleep f => some (0x16, 0, f)
  | .ifence => some (0x17, 0, plainFields 0)
  | .iadd f => some (0x20, 0, f)
  | .isub f => some (0x20, 1, f)
  | .ineg f => some (0x21, 0, f)
  | .iabs f => some (0x21, 1, f)
  | .imin f => some (0x22, 0, f)
  | .imax f => some (0x22, 1, f)
  | .imul f => some (0x23, 0, f)
  | .imulh f => some (0x23, 1, f)
  | .imad f => some (0x24, 0, f)
  | .idivs f => some (0x25, 0, f)
  | .idive f => some (0x25, 1, f)
  | .and f => some (0x26, 0, f)
  | .or f => some (0x26, 1, f)
  | .xor f => some (0x26, 2, f)
  | .andn f => some (0x26, 3, f)
  | .not f => some (0x26, 4, f)
  | .tern f => some (0x27, 0, f)
  | .shl f => some (0x28, 0, f)
  | .shr f => some (0x28, 1, f)
  | .sar f => some (0x28, 2, f)
  | .rot f => some (0x28, 3, f)
  | .bfx f => some (0x29, 0, f)
  | .bfi f => some (0x29, 1, f)
  | .popc f => some (0x2A, 0, f)
  | .clz f => some (0x2A, 1, f)
  | .brev f => some (0x2A, 2, f)
  | .icmp .eq f => some (0x2B, 0, f)
  | .icmp .ne f => some (0x2B, 1, f)
  | .icmp .lt f => some (0x2B, 2, f)
  | .icmp .le f => some (0x2B, 3, f)
  | .icmp .gt f => some (0x2B, 4, f)
  | .icmp .ge f => some (0x2B, 5, f)
  | .sel f => some (0x2C, 0, f)
  | .mov f => some (0x2D, 0, f)
  | .lea f => some (0x2E, 0, f)
  | .leaGlb f => some (0x2E, 1, f)
  | .idp4 f => some (0x2F, 0, f)
  | .idp2 f => some (0x2F, 1, f)
  | .perm f => some (0x30, 0, f)
  | .icvt f => some (0x31, 0, f)
  | .fadd f => some (0x40, 0, f)
  | .fsub f => some (0x40, 1, f)
  | .fmul f => some (0x41, 0, f)
  | .ffma f => some (0x42, 0, f)
  | .fmin f => some (0x43, 0, f)
  | .fmax f => some (0x43, 1, f)
  | .fabs f => some (0x44, 0, f)
  | .fneg f => some (0x44, 1, f)
  | .fcmp .eq f => some (0x45, 0, f)
  | .fcmp .ne f => some (0x45, 1, f)
  | .fcmp .lt f => some (0x45, 2, f)
  | .fcmp .le f => some (0x45, 3, f)
  | .fcmp .gt f => some (0x45, 4, f)
  | .fcmp .ge f => some (0x45, 5, f)
  | .fcmp .uno f => some (0x45, 6, f)
  | .fcmp .ord f => some (0x45, 7, f)
  | .fclass f => some (0x46, 0, f)
  | .fdiv f => some (0x47, 0, f)
  | .frcp f => some (0x48, 0, f)
  | .fsqrt f => some (0x48, 1, f)
  | .frsqrt f => some (0x48, 2, f)
  | .fexp2 f => some (0x49, 0, f)
  | .fexp f => some (0x49, 1, f)
  | .flog2 f => some (0x49, 2, f)
  | .flog f => some (0x49, 3, f)
  | .fsin f => some (0x49, 4, f)
  | .fcos f => some (0x49, 5, f)
  | .ftanh f => some (0x49, 6, f)
  | .fatan2 f => some (0x4A, 0, f)
  | .fpow f => some (0x4A, 1, f)
  | .fcvt f => some (0x4B, 0, f)
  | .fcvti f => some (0x4C, 0, f)
  | .icvtf f => some (0x4C, 1, f)
  | .frint f => some (0x4D, 0, f)
  | .fscale f => some (0x4E, 0, f)
  | .fgetexp f => some (0x4E, 1, f)
  | .fsum3 f => some (0x4F, 0, f)
  | .ld f => some (0x60, 0, f)
  | .st f => some (0x61, 0, f)
  | .ldd f => some (0x62, 0, f)
  | .std f => some (0x63, 0, f)
  | .atom .add f => some (0x64, 0, f)
  | .atom .min f => some (0x64, 1, f)
  | .atom .max f => some (0x64, 2, f)
  | .atom .and f => some (0x64, 3, f)
  | .atom .or f => some (0x64, 4, f)
  | .atom .xor f => some (0x64, 5, f)
  | .atom .exch f => some (0x64, 6, f)
  | .atom .fadd f => some (0x64, 7, f)
  | .red .add f => some (0x65, 0, f)
  | .red .min f => some (0x65, 1, f)
  | .red .max f => some (0x65, 2, f)
  | .red .and f => some (0x65, 3, f)
  | .red .or f => some (0x65, 4, f)
  | .red .xor f => some (0x65, 5, f)
  | .red .fadd f => some (0x65, 7, f)
  | .cas f => some (0x66, 0, f)
  | .fence f => some (0x67, 0, f)
  | .qfence f => some (0x68, 0, f)
  | .mark f => some (0x69, 0, f)
  | .waitv .eq f => some (0x6A, 0, f)
  | .waitv .ne f => some (0x6A, 1, f)
  | .waitv .lt f => some (0x6A, 2, f)
  | .waitv .le f => some (0x6A, 3, f)
  | .waitv .gt f => some (0x6A, 4, f)
  | .waitv .ge f => some (0x6A, 5, f)
  | .waitb .cruc f => some (0x6B, 0, f)
  | .waitb .ladle f => some (0x6B, 1, f)
  | .spill f => some (0x6C, 0, f)
  | .fill f => some (0x6C, 1, f)
  | .smp f => some (0x6D, 0, f)
  | .smpres f => some (0x6D, 1, f)
  | .qpush f => some (0x6E, 0, f)
  | .qpop f => some (0x6E, 1, f)
  | .qpeek f => some (0x6E, 2, f)
  | .ldk f => some (0x6F, 0, f)
  | .pref f => some (0x70, 0, f)
  | .ccop .wb f => some (0x71, 0, f)
  | .ccop .inv f => some (0x71, 1, f)
  | .ccop .wbinv f => some (0x71, 2, f)
  | .mma f => some (0x80, 0, f)
  | .mmaw f => some (0x81, 0, f)
  | .azero f => some (0x82, 0, f)
  | .ald f => some (0x83, 0, f)
  | .ast f => some (0x84, 0, f)
  | .ascl f => some (0x85, 0, f)
  | .mset f => some (0x86, 0, f)
  | .cmode f => some (0x87, 0, f)
  | .ccommit => some (0x88, 0, plainFields 1)
  | .cdrain f => some (0x89, 0, f)
  | .cpair => some (0x8A, 0, plainFields 1)
  | .cunpair => some (0x8A, 1, plainFields 1)
  | .csave f => some (0x8B, 0, f)
  | .crest f => some (0x8B, 1, f)
  | .acopy f => some (0x8C, 0, f)
  | .aadd f => some (0x8C, 1, f)
  | .lcopy f => some (0x90, 0, f)
  | .lredArr f => some (0x91, 0, f)
  | .lredOrd f => some (0x91, 1, f)
  | .lfill f => some (0x92, 0, f)
  | .lgat f => some (0x93, 0, f)
  | .lcont f => some (0x94, 0, f)
  | .lcommit => some (0x95, 0, plainFields 1)
  | .lcancel => some (0x96, 0, plainFields 1)
  | .lsave f => some (0x97, 0, f)
  | .lrest f => some (0x97, 1, f)
  | _ => none

/-- Decode one casting word. -/
def decodeCast (w : BitVec 128) : Option Instr :=
  castOf (w.extractLsb' 120 8).toNat (w.extractLsb' 116 4).toNat (castFields w)

/-- Encode one casting instruction. -/
def encodeCast (i : Instr) : Option (BitVec 128) :=
  (castCode i).map fun (op, sub, f) => castPack op sub f

/-! ### Flue slot ops -/

/-- The four 6-bit fields d, a, b, c of a slot op (R408). -/
def slotD (w : BitVec 32) : BitVec 6 := w.extractLsb' 18 6
def slotA (w : BitVec 32) : BitVec 6 := w.extractLsb' 12 6
def slotB (w : BitVec 32) : BitVec 6 := w.extractLsb' 6 6
def slotC (w : BitVec 32) : BitVec 6 := w.extractLsb' 0 6

/-- The slot op with the given op byte and fields (R408). -/
def slotPack (op : BitVec 8) (d a b c : BitVec 6) : BitVec 32 := op ++ d ++ a ++ b ++ c

/-- An s register field: bit 5 must be zero (R408). -/
def sField (f : BitVec 6) : Option (BitVec 5) := if f.getLsbD 5 then none else some (f.extractLsb' 0 5)
/-- A w register field: bits 5:3 must be zero (R408). -/
def wField (f : BitVec 6) : Option (BitVec 3) := if f.extractLsb' 3 3 = 0 then some (f.extractLsb' 0 3) else none
/-- A field of kind 0 must be zero (R408). -/
def zField (f : BitVec 6) : Option Unit := if f = 0 then some () else none
/-- An s or w register index as a field. -/
def ofS (r : BitVec 5) : BitVec 6 := 0#1 ++ r
def ofW (r : BitVec 3) : BitVec 6 := 0#3 ++ r

/-- The op of R410 with its fields checked under R408 (`none`: the check of R409 fails). -/
def flueFields (w : BitVec 32) : Option Instr :=
  let d := slotD w
  let a := slotA w
  let b := slotB w
  let c := slotC w
  match (w.extractLsb' 24 8).toNat with
  | 0x01 => (sField d).bind fun d' => (sField a).bind fun a' => (sField b).bind fun b' => (zField c).bind fun _ => some (.sadd d' a' b')
  | 0x02 => (sField d).bind fun d' => (sField a).bind fun a' => (sField b).bind fun b' => (zField c).bind fun _ => some (.ssub d' a' b')
  | 0x03 => (sField d).bind fun d' => (sField a).bind fun a' => (sField b).bind fun b' => (zField c).bind fun _ => some (.sand d' a' b')
  | 0x04 => (sField d).bind fun d' => (sField a).bind fun a' => (sField b).bind fun b' => (zField c).bind fun _ => some (.sor d' a' b')
  | 0x05 => (sField d).bind fun d' => (sField a).bind fun a' => (sField b).bind fun b' => (zField c).bind fun _ => some (.sxor d' a' b')
  | 0x06 => (sField d).bind fun d' => (sField a).bind fun a' => (sField b).bind fun b' => (zField c).bind fun _ => some (.sshl d' a' b')
  | 0x07 => (sField d).bind fun d' => (sField a).bind fun a' => (sField b).bind fun b' => (zField c).bind fun _ => some (.sshr d' a' b')
  | 0x08 => (sField d).bind fun d' => (sField a).bind fun a' => (sField b).bind fun b' => (zField c).bind fun _ => some (.smul d' a' b')
  | 0x09 => (sField d).bind fun d' => (sField a).bind fun a' => (sField b).bind fun b' => (zField c).bind fun _ => some (.sslt d' a' b')
  | 0x0A => (sField d).bind fun d' => some (.sldl d' (a ++ b ++ c))
  | 0x0B => (sField d).bind fun d' => some (.sldh d' (a ++ b ++ c))
  | 0x0C => (sField d).bind fun d' => (zField b).bind fun _ => (zField c).bind fun _ => some (.sget d' a)
  | 0x0D => (sField d).bind fun d' => (zField b).bind fun _ => some (.vext d' a c)
  | 0x11 => (sField d).bind fun d' => (sField a).bind fun a' => (zField b).bind fun _ => some (.saddi d' a' c)
  | 0x12 => (sField d).bind fun d' => (sField a).bind fun a' => (zField b).bind fun _ => some (.ssubi d' a' c)
  | 0x13 => (sField d).bind fun d' => (sField a).bind fun a' => (zField b).bind fun _ => some (.sandi d' a' c)
  | 0x14 => (sField d).bind fun d' => (sField a).bind fun a' => (zField b).bind fun _ => some (.sori d' a' c)
  | 0x15 => (sField d).bind fun d' => (sField a).bind fun a' => (zField b).bind fun _ => some (.sxori d' a' c)
  | 0x16 => (sField d).bind fun d' => (sField a).bind fun a' => (zField b).bind fun _ => some (.sshli d' a' c)
  | 0x17 => (sField d).bind fun d' => (sField a).bind fun a' => (zField b).bind fun _ => some (.sshri d' a' c)
  | 0x18 => (sField d).bind fun d' => (sField a).bind fun a' => (zField b).bind fun _ => some (.smuli d' a' c)
  | 0x19 => (sField d).bind fun d' => (sField a).bind fun a' => (zField b).bind fun _ => some (.sslti d' a' c)
  | 0x1A => (zField d).bind fun _ => some (.flueBr (a ++ b ++ c))
  | 0x1B => (zField d).bind fun _ => (sField a).bind fun a' => some (.bz a' (b ++ c))
  | 0x1C => (zField d).bind fun _ => (sField a).bind fun a' => some (.bnz a' (b ++ c))
  | 0x1D => (zField d).bind fun _ => (zField a).bind fun _ => (zField b).bind fun _ => (zField c).bind fun _ => some .fend
  | 0x20 => (sField a).bind fun a' => (zField b).bind fun _ => (zField c).bind fun _ => some (.ldl d a')
  | 0x21 => (zField b).bind fun _ => (zField c).bind fun _ => some (.ldlx d a)
  | 0x22 => (wField d).bind fun d' => (zField c).bind fun _ => some (.ldmC d' a b)
  | 0x23 => (wField d).bind fun d' => (zField c).bind fun _ => some (.ldmD d' a b)
  | 0x24 => (wField d).bind fun d' => (zField c).bind fun _ => some (.ldmM d' a b)
  | 0x25 => (wField d).bind fun d' => (sField a).bind fun a' => (zField c).bind fun _ => some (.ldg d' a' b)
  | 0x26 => (wField a).bind fun a' => (zField b).bind fun _ => (zField c).bind fun _ => some (.wtk d a')
  | 0x28 => (zField d).bind fun _ => (sField a).bind fun a' => (zField c).bind fun _ => some (.stl a' b)
  | 0x29 => (zField d).bind fun _ => (zField c).bind fun _ => some (.stlx a b)
  | 0x40 => (zField c).bind fun _ => some (.vfadd d a b)
  | 0x41 => (zField c).bind fun _ => some (.vfsub d a b)
  | 0x42 => (zField c).bind fun _ => some (.vfmul d a b)
  | 0x43 => some (.vffma d a b c)
  | 0x44 => (zField c).bind fun _ => some (.vfmin d a b)
  | 0x45 => (zField c).bind fun _ => some (.vfmax d a b)
  | 0x46 => (zField b).bind fun _ => (zField c).bind fun _ => some (.vfrcp d a)
  | 0x47 => (zField b).bind fun _ => (zField c).bind fun _ => some (.vfrsqrt d a)
  | 0x48 => (zField b).bind fun _ => (zField c).bind fun _ => some (.vcvtfi d a)
  | 0x49 => (zField b).bind fun _ => (zField c).bind fun _ => some (.vcvtif d a)
  | 0x4A => (zField c).bind fun _ => some (.vfclt d a b)
  | 0x4B => (zField c).bind fun _ => some (.vfcle d a b)
  | 0x4C => (zField c).bind fun _ => some (.vfceq d a b)
  | 0x50 => (zField c).bind fun _ => some (.viadd d a b)
  | 0x51 => (zField c).bind fun _ => some (.visub d a b)
  | 0x52 => (zField c).bind fun _ => some (.vand d a b)
  | 0x53 => (zField c).bind fun _ => some (.vor d a b)
  | 0x54 => (zField c).bind fun _ => some (.vxor d a b)
  | 0x55 => (zField c).bind fun _ => some (.vshl d a b)
  | 0x56 => (zField c).bind fun _ => some (.vshr d a b)
  | 0x57 => (zField c).bind fun _ => some (.vsar d a b)
  | 0x58 => (zField c).bind fun _ => some (.vimul d a b)
  | 0x59 => (zField c).bind fun _ => some (.viclt d a b)
  | 0x5A => (zField c).bind fun _ => some (.vieq d a b)
  | 0x60 => (zField b).bind fun _ => some (.viaddi d a c)
  | 0x61 => (zField b).bind fun _ => some (.visubi d a c)
  | 0x62 => (zField b).bind fun _ => some (.vandi d a c)
  | 0x63 => (zField b).bind fun _ => some (.vori d a c)
  | 0x64 => (zField b).bind fun _ => some (.vxori d a c)
  | 0x65 => (zField b).bind fun _ => some (.vshli d a c)
  | 0x66 => (zField b).bind fun _ => some (.vshri d a c)
  | 0x67 => (zField b).bind fun _ => some (.vsari d a c)
  | 0x68 => (zField b).bind fun _ => some (.vimuli d a c)
  | 0x69 => (zField b).bind fun _ => some (.viclti d a c)
  | 0x6A => (zField b).bind fun _ => some (.vieqi d a c)
  | 0x70 => some (.vsel d a b c)
  | 0x71 => (sField a).bind fun a' => (zField b).bind fun _ => (zField c).bind fun _ => some (.vbcast d a')
  | 0x72 => (zField a).bind fun _ => (zField b).bind fun _ => (zField c).bind fun _ => some (.vlane d)
  | 0x73 => (zField b).bind fun _ => some (.vh2f d a c)
  | 0x74 => (zField c).bind fun _ => some (.vf2h d a b)
  | 0x75 => (zField b).bind fun _ => (zField c).bind fun _ => some (.vmov d a)
  | 0xA0 => some (.mmul d a b c)
  | 0xE0 => (zField d).bind fun _ => (zField a).bind fun _ => (zField b).bind fun _ => (zField c).bind fun _ => some .dready
  | 0xE1 => (zField d).bind fun _ => (zField a).bind fun _ => (zField b).bind fun _ => (zField c).bind fun _ => some .dfall
  | _ => none

/-- Decode one slot op that is not a no-op: its fields (R408, R410) and the limits that R410 adds. -/
def decodeFlue (w : BitVec 32) : Option Instr := (flueFields w).filter wfFlue

/-- Encode one slot op. -/
def encodeFlue (i : Instr) : Option (BitVec 32) :=
  match i with
  | .sadd d a b => some (slotPack 0x01 (ofS d) (ofS a) (ofS b) 0)
  | .ssub d a b => some (slotPack 0x02 (ofS d) (ofS a) (ofS b) 0)
  | .sand d a b => some (slotPack 0x03 (ofS d) (ofS a) (ofS b) 0)
  | .sor d a b => some (slotPack 0x04 (ofS d) (ofS a) (ofS b) 0)
  | .sxor d a b => some (slotPack 0x05 (ofS d) (ofS a) (ofS b) 0)
  | .sshl d a b => some (slotPack 0x06 (ofS d) (ofS a) (ofS b) 0)
  | .sshr d a b => some (slotPack 0x07 (ofS d) (ofS a) (ofS b) 0)
  | .smul d a b => some (slotPack 0x08 (ofS d) (ofS a) (ofS b) 0)
  | .sslt d a b => some (slotPack 0x09 (ofS d) (ofS a) (ofS b) 0)
  | .sldl d imm => some (slotPack 0x0A (ofS d) (imm.extractLsb' 12 6) (imm.extractLsb' 6 6) (imm.extractLsb' 0 6))
  | .sldh d imm => some (slotPack 0x0B (ofS d) (imm.extractLsb' 12 6) (imm.extractLsb' 6 6) (imm.extractLsb' 0 6))
  | .sget d sel => some (slotPack 0x0C (ofS d) sel 0 0)
  | .vext d a lane => some (slotPack 0x0D (ofS d) a 0 lane)
  | .saddi d a imm => some (slotPack 0x11 (ofS d) (ofS a) 0 imm)
  | .ssubi d a imm => some (slotPack 0x12 (ofS d) (ofS a) 0 imm)
  | .sandi d a imm => some (slotPack 0x13 (ofS d) (ofS a) 0 imm)
  | .sori d a imm => some (slotPack 0x14 (ofS d) (ofS a) 0 imm)
  | .sxori d a imm => some (slotPack 0x15 (ofS d) (ofS a) 0 imm)
  | .sshli d a imm => some (slotPack 0x16 (ofS d) (ofS a) 0 imm)
  | .sshri d a imm => some (slotPack 0x17 (ofS d) (ofS a) 0 imm)
  | .smuli d a imm => some (slotPack 0x18 (ofS d) (ofS a) 0 imm)
  | .sslti d a imm => some (slotPack 0x19 (ofS d) (ofS a) 0 imm)
  | .flueBr off => some (slotPack 0x1A 0 (off.extractLsb' 12 6) (off.extractLsb' 6 6) (off.extractLsb' 0 6))
  | .bz a off => some (slotPack 0x1B 0 (ofS a) (off.extractLsb' 6 6) (off.extractLsb' 0 6))
  | .bnz a off => some (slotPack 0x1C 0 (ofS a) (off.extractLsb' 6 6) (off.extractLsb' 0 6))
  | .fend => some (slotPack 0x1D 0 0 0 0)
  | .ldl d a => some (slotPack 0x20 d (ofS a) 0 0)
  | .ldlx d a => some (slotPack 0x21 d a 0 0)
  | .ldmC d a b => some (slotPack 0x22 (ofW d) a b 0)
  | .ldmD d a b => some (slotPack 0x23 (ofW d) a b 0)
  | .ldmM d a b => some (slotPack 0x24 (ofW d) a b 0)
  | .ldg d a b => some (slotPack 0x25 (ofW d) (ofS a) b 0)
  | .wtk d a => some (slotPack 0x26 d (ofW a) 0 0)
  | .stl a b => some (slotPack 0x28 0 (ofS a) b 0)
  | .stlx a b => some (slotPack 0x29 0 a b 0)
  | .vfadd d a b => some (slotPack 0x40 d a b 0)
  | .vfsub d a b => some (slotPack 0x41 d a b 0)
  | .vfmul d a b => some (slotPack 0x42 d a b 0)
  | .vffma d a b c => some (slotPack 0x43 d a b c)
  | .vfmin d a b => some (slotPack 0x44 d a b 0)
  | .vfmax d a b => some (slotPack 0x45 d a b 0)
  | .vfrcp d a => some (slotPack 0x46 d a 0 0)
  | .vfrsqrt d a => some (slotPack 0x47 d a 0 0)
  | .vcvtfi d a => some (slotPack 0x48 d a 0 0)
  | .vcvtif d a => some (slotPack 0x49 d a 0 0)
  | .vfclt d a b => some (slotPack 0x4A d a b 0)
  | .vfcle d a b => some (slotPack 0x4B d a b 0)
  | .vfceq d a b => some (slotPack 0x4C d a b 0)
  | .viadd d a b => some (slotPack 0x50 d a b 0)
  | .visub d a b => some (slotPack 0x51 d a b 0)
  | .vand d a b => some (slotPack 0x52 d a b 0)
  | .vor d a b => some (slotPack 0x53 d a b 0)
  | .vxor d a b => some (slotPack 0x54 d a b 0)
  | .vshl d a b => some (slotPack 0x55 d a b 0)
  | .vshr d a b => some (slotPack 0x56 d a b 0)
  | .vsar d a b => some (slotPack 0x57 d a b 0)
  | .vimul d a b => some (slotPack 0x58 d a b 0)
  | .viclt d a b => some (slotPack 0x59 d a b 0)
  | .vieq d a b => some (slotPack 0x5A d a b 0)
  | .viaddi d a imm => some (slotPack 0x60 d a 0 imm)
  | .visubi d a imm => some (slotPack 0x61 d a 0 imm)
  | .vandi d a imm => some (slotPack 0x62 d a 0 imm)
  | .vori d a imm => some (slotPack 0x63 d a 0 imm)
  | .vxori d a imm => some (slotPack 0x64 d a 0 imm)
  | .vshli d a imm => some (slotPack 0x65 d a 0 imm)
  | .vshri d a imm => some (slotPack 0x66 d a 0 imm)
  | .vsari d a imm => some (slotPack 0x67 d a 0 imm)
  | .vimuli d a imm => some (slotPack 0x68 d a 0 imm)
  | .viclti d a imm => some (slotPack 0x69 d a 0 imm)
  | .vieqi d a imm => some (slotPack 0x6A d a 0 imm)
  | .vsel d a b c => some (slotPack 0x70 d a b c)
  | .vbcast d a => some (slotPack 0x71 d (ofS a) 0 0)
  | .vlane d => some (slotPack 0x72 d 0 0 0)
  | .vh2f d a imm => some (slotPack 0x73 d a 0 imm)
  | .vf2h d a b => some (slotPack 0x74 d a b 0)
  | .vmov d a => some (slotPack 0x75 d a 0 0)
  | .mmul d a b c => some (slotPack 0xA0 d a b c)
  | .dready => some (slotPack 0xE0 0 0 0 0)
  | .dfall => some (slotPack 0xE1 0 0 0 0)
  | _ => none

/-! ### Stoker command words -/

/-- Fields of a command word (R363). -/
def stOp (w : DWord) : BitVec 8 := w.extractLsb' 56 8
def stNw (w : DWord) : BitVec 4 := w.extractLsb' 52 4
def stFl (w : DWord) : BitVec 4 := w.extractLsb' 48 4
def stP (w : DWord) : BitVec 48 := w.extractLsb' 0 48

/-- The command word with the given fields (R363). -/
def stPack (op : BitVec 8) (nw fl : BitVec 4) (p : BitVec 48) : DWord := op ++ nw ++ fl ++ p

/-- x-register fields of P (R364). -/
def pX3 (p : BitVec 48) : BitVec 4 := p.extractLsb' 44 4
def pX2 (p : BitVec 48) : BitVec 4 := p.extractLsb' 40 4
def pX1 (p : BitVec 48) : BitVec 4 := p.extractLsb' 36 4

/-- The assigned OP values (R364). -/
def stAssigned (op : BitVec 8) : Bool :=
  let n := op.toNat
  decide ((0x01 ≤ n ∧ n ≤ 0x09) ∨ (0x10 ≤ n ∧ n ≤ 0x13) ∨ (0x20 ≤ n ∧ n ≤ 0x25) ∨ n = 0x30 ∨ n = 0x40 ∨ n = 0x41 ∨
    n = 0x50 ∨ n = 0x51 ∨ n = 0x60 ∨ (0xE0 ≤ n ∧ n ≤ 0xE6))

/-- Supervisor-privileged OP values (R361, R365 step 2). -/
def stPrivileged (op : BitVec 8) : Bool := decide (0xE0 ≤ op.toNat ∧ op.toNat ≤ 0xE6)

/-- The scalar words 0x03-0x09 (R364). -/
def scalarOf (op : Nat) (xd xa : BitVec 4) (b : XOperand) : Option Instr :=
  match op with
  | 3 => some (.stokerAdd xd xa b) | 4 => some (.stokerSub xd xa b) | 5 => some (.stokerAnd xd xa b)
  | 6 => some (.stokerOr xd xa b) | 7 => some (.stokerXor xd xa b) | 8 => some (.stokerShl xd xa b)
  | 9 => some (.stokerShr xd xa b) | _ => none

/-- NW, FL and P of a word hold only the bits that R364 lists. -/
def stBits (nw fl : BitVec 4) (p : BitVec 48) (n : BitVec 4) (flMask : BitVec 4) (pMask : BitVec 48) : Bool :=
  nw == n && (fl &&& ~~~flMask) == 0 && (p &&& ~~~pMask) == 0

/-- A relation code of wait (R364). -/
def waitCondOf (c : BitVec 2) : Option WaitCond :=
  if c = 0 then some .ge else if c = 1 then some .eq else if c = 2 then some .ne else none
/-- A member code of signal (R364). -/
def signalOpOf (c : BitVec 2) : Option SignalOp :=
  if c = 0 then some .set else if c = 1 then some .add else if c = 2 then some .max else none
/-- A member code of cache (R364). -/
def cacheOpOf (c : BitVec 2) : Option CacheOp :=
  if c = 0 then some .wb else if c = 1 then some .inv else if c = 2 then some .wbinv else none
/-- COND of br (R364). -/
def brCondOf (c : BitVec 4) : Option BrCond :=
  match c.toNat with | 0 => some .always | 1 => some .z | 2 => some .nz | 3 => some .lt | 4 => some .ge | _ => none
def waitCondCode (c : WaitCond) : BitVec 2 := match c with | .ge => 0 | .eq => 1 | .ne => 2
def signalOpCode (c : SignalOp) : BitVec 2 := match c with | .set => 0 | .add => 1 | .max => 2
def cacheOpCode (c : CacheOp) : BitVec 2 := match c with | .wb => 0 | .inv => 1 | .wbinv => 2
def brCondCode (c : BrCond) : BitVec 4 := match c with | .always => 0 | .z => 1 | .nz => 2 | .lt => 3 | .ge => 4

/-- W64, REL or ACQ, SYS in FL[2:0] (R364). -/
def memFlagsOf (fl : BitVec 4) : MemFlags := ⟨fl.getLsbD 0, fl.getLsbD 1, fl.getLsbD 2⟩
def memFlagsCode (f : MemFlags) : BitVec 4 :=
  0#1 ++ BitVec.ofBool f.sys ++ BitVec.ofBool f.ordered ++ BitVec.ofBool f.w64

/-- The XV operand: a register with XV, else the extra word (R364). -/
def xvalOf (xv : Bool) (p : BitVec 48) (e0 : DWord) : XVal := if xv then .reg (pX3 p) else .word e0

/-- How many extra words a word is followed by, as its NW field says (R363). -/
def stExtra (w : DWord) : Nat := (stNw w).toNat

/-- R364: the instruction of a command word and its extra words; `none` is ILLCMD (R365 steps 1 and 3). -/
def decodeStoker (w e0 e1 e2 : DWord) : Option Instr :=
  let nw := stNw w
  let fl := stFl w
  let p := stP w
  let bits (n : BitVec 4) (fm : BitVec 4) (pm : BitVec 48) (i : Option Instr) : Option Instr :=
    if stBits nw fl p n fm pm then i else none
  match (stOp w).toNat with
  | 0x01 => bits 0 0 0 (some .stokerNop)
  | 0x02 =>
    if nw = 1 then bits 1 0 0xF00000000000 (some (.ldi (pX3 p) (.long e0)))
    else bits 0 0 0xFFFFFFFFFFFF (some (.ldi (pX3 p) (.short (p.extractLsb' 0 44))))
  | 0x10 => bits 0 0xF 0x0FF0FFFFFFFF ((brCondOf fl).map fun cond => .stokerBr cond (pX2 p) (pX1 p) (p.extractLsb' 0 32))
  | 0x11 => bits 1 0 0 (some (.callb e0))
  | 0x12 => bits 0 0 0 (some .retb)
  | 0x13 => bits 0 0 0 (some .yieldq)
  | 0x20 => bits 2 7 0 (some (.write (memFlagsOf fl) e0 e1))
  | 0x21 => bits 1 7 0xF00000000000 (some (.stx (memFlagsOf fl) (pX3 p) e0))
  | 0x22 => bits 1 7 0xF00000000000 (some (.ldx (memFlagsOf fl) (pX3 p) e0))
  | 0x23 => bits 3 0 0 (some (.copy e0 e1 e2))
  | 0x24 => bits 1 0 0xFFFFFFFF (some (.present (p.extractLsb' 0 32) e0))
  | 0x25 => bits 0 0 0x7FF (some (.intr (p.extractLsb' 0 11)))
  | 0x30 => if fl.getLsbD 0 then bits 2 1 0 (some (.launch e0 (some e1))) else bits 1 0 0 (some (.launch e0 none))
  | 0x40 => bits 0 3 0 (some (.stokerFence (fl.getLsbD 0) (fl.getLsbD 1)))
  | 0x41 => bits 2 3 0 ((cacheOpOf (fl.extractLsb' 0 2)).map fun m => .cache m e0 e1)
  | 0x50 =>
    let xv := fl.getLsbD 2
    bits (if xv then 0 else 1) 7 (if xv then 0xF000000003FF else 0x3FF)
      ((waitCondOf (fl.extractLsb' 0 2)).map fun c => .wait c (p.extractLsb' 0 10) (xvalOf xv p e0))
  | 0x51 =>
    let xv := fl.getLsbD 1
    bits (if xv then 0 else 1) 3 (if xv then 0xF00000000000 else 0) (some (.waitt (fl.getLsbD 0) (xvalOf xv p e0)))
  | 0x60 =>
    let xv := fl.getLsbD 3
    bits (if xv then 0 else 1) 15 (if xv then 0xF000000003FF else 0x3FF)
      ((signalOpOf (fl.extractLsb' 0 2)).map fun m => .signal m (fl.getLsbD 2) (p.extractLsb' 0 10) (xvalOf xv p e0))
  | 0xE0 =>
    let q := p.extractLsb' 0 13
    bits 0 3 0x1FFF (some (if fl = 0 then .sqctlEnable q else if fl = 1 then .sqctlDisable q else if fl = 2 then .sqctlReset q else .sqctlUnmap q))
  | 0xE1 => bits 0 1 0x3F (some (.spreempt (fl.getLsbD 0) (p.extractLsb' 0 6)))
  | 0xE2 => bits 0 0 0x3F (some (.sresume (p.extractLsb' 0 6)))
  | 0xE3 => bits 0 0 0xF0000000FFFF (some (.ssetreg (pX3 p) (p.extractLsb' 0 16)))
  | 0xE4 => bits 0 0 0xF0000000FFFF (some (.sgetreg (pX3 p) (p.extractLsb' 0 16)))
  | 0xE5 =>
    if fl.getLsbD 0 then bits 2 1 0x3F (some (.sinval (p.extractLsb' 0 6) (some (e0, e1))))
    else bits 0 0 0x3F (some (.sinval (p.extractLsb' 0 6) none))
  | 0xE6 =>
    if fl.getLsbD 0 then
      bits 0 1 0xFFFFFFF00FFF (some (.svsemBind (p.extractLsb' 42 6) (p.extractLsb' 32 10) (p.extractLsb' 20 12) (p.extractLsb' 0 12)))
    else bits 0 0 0xFFFFFFF00000 (some (.svsemUnbind (p.extractLsb' 42 6) (p.extractLsb' 32 10) (p.extractLsb' 20 12)))
  | n =>
    if fl.getLsbD 0 then
      bits 0 1 0xFF00FFFFFFFF (scalarOf n (pX3 p) (pX2 p) (.imm (p.extractLsb' 0 32)))
    else bits 0 0 0xFFF000000000 (scalarOf n (pX3 p) (pX2 p) (.reg (pX1 p)))

/-- P of a scalar word (R364). -/
def scalarWord (op : BitVec 8) (xd xa : BitVec 4) (b : XOperand) : List DWord :=
  match b with
  | .imm v => [stPack op 0 1 (xd ++ xa ++ 0#8 ++ v)]
  | .reg xb => [stPack op 0 0 (xd ++ xa ++ xb ++ 0#36)]

/-- XV as FL bit, P field and extra words (R364). -/
def xvalBit (v : XVal) : BitVec 1 := match v with | .reg _ => 1 | .word _ => 0
def xvalX (v : XVal) : BitVec 4 := match v with | .reg x => x | .word _ => 0
def xvalNw (v : XVal) : BitVec 4 := match v with | .reg _ => 0 | .word _ => 1
def xvalWords (v : XVal) : List DWord := match v with | .reg _ => [] | .word e => [e]

/-- Encode one command word with its extra words (R364). -/
def encodeStoker (i : Instr) : Option (List DWord) :=
  match i with
  | .stokerNop => some [stPack 0x01 0 0 0]
  | .ldi xd (.short v) => some [stPack 0x02 0 0 (xd ++ v)]
  | .ldi xd (.long v) => some [stPack 0x02 1 0 (xd ++ 0#44), v]
  | .stokerAdd xd xa b => some (scalarWord 0x03 xd xa b)
  | .stokerSub xd xa b => some (scalarWord 0x04 xd xa b)
  | .stokerAnd xd xa b => some (scalarWord 0x05 xd xa b)
  | .stokerOr xd xa b => some (scalarWord 0x06 xd xa b)
  | .stokerXor xd xa b => some (scalarWord 0x07 xd xa b)
  | .stokerShl xd xa b => some (scalarWord 0x08 xd xa b)
  | .stokerShr xd xa b => some (scalarWord 0x09 xd xa b)
  | .stokerBr cond xa xb off => some [stPack 0x10 0 (brCondCode cond) (0#4 ++ xa ++ xb ++ 0#4 ++ off)]
  | .callb addr => some [stPack 0x11 1 0 0, addr]
  | .retb => some [stPack 0x12 0 0 0]
  | .yieldq => some [stPack 0x13 0 0 0]
  | .write f addr v => some [stPack 0x20 2 (memFlagsCode f) 0, addr, v]
  | .stx f xs addr => some [stPack 0x21 1 (memFlagsCode f) (xs ++ 0#44), addr]
  | .ldx f xd addr => some [stPack 0x22 1 (memFlagsCode f) (xd ++ 0#44), addr]
  | .copy dst src len => some [stPack 0x23 3 0 0, dst, src, len]
  | .present seq addr => some [stPack 0x24 1 0 (0#16 ++ seq), addr]
  | .intr vec => some [stPack 0x25 0 0 (0#37 ++ vec)]
  | .launch rec none => some [stPack 0x30 1 0 0, rec]
  | .launch rec (some sig) => some [stPack 0x30 2 1 0, rec, sig]
  | .stokerFence l s => some [stPack 0x40 0 (0#2 ++ BitVec.ofBool s ++ BitVec.ofBool l) 0]
  | .cache m addr len => some [stPack 0x41 2 (0#2 ++ cacheOpCode m) 0, addr, len]
  | .wait c sem v => some (stPack 0x50 (xvalNw v) (0#1 ++ xvalBit v ++ waitCondCode c) (xvalX v ++ 0#34 ++ sem) :: xvalWords v)
  | .waitt rel v => some (stPack 0x51 (xvalNw v) (0#2 ++ xvalBit v ++ BitVec.ofBool rel) (xvalX v ++ 0#44) :: xvalWords v)
  | .signal m sys sem v =>
    some (stPack 0x60 (xvalNw v) (xvalBit v ++ BitVec.ofBool sys ++ signalOpCode m) (xvalX v ++ 0#34 ++ sem) :: xvalWords v)
  | .sqctlEnable q => some [stPack 0xE0 0 0 (0#35 ++ q)]
  | .sqctlDisable q => some [stPack 0xE0 0 1 (0#35 ++ q)]
  | .sqctlReset q => some [stPack 0xE0 0 2 (0#35 ++ q)]
  | .sqctlUnmap q => some [stPack 0xE0 0 3 (0#35 ++ q)]
  | .spreempt keepq ctx => some [stPack 0xE1 0 (0#3 ++ BitVec.ofBool keepq) (0#42 ++ ctx)]
  | .sresume ctx => some [stPack 0xE2 0 0 (0#42 ++ ctx)]
  | .ssetreg xs reg => some [stPack 0xE3 0 0 (xs ++ 0#28 ++ reg)]
  | .sgetreg xd reg => some [stPack 0xE4 0 0 (xd ++ 0#28 ++ reg)]
  | .sinval ctx none => some [stPack 0xE5 0 0 (0#42 ++ ctx)]
  | .sinval ctx (some (va, len)) => some [stPack 0xE5 2 1 (0#42 ++ ctx), va, len]
  | .svsemBind ctx virt n p => some [stPack 0xE6 0 1 (ctx ++ virt ++ n ++ 0#8 ++ p)]
  | .svsemUnbind ctx virt n => some [stPack 0xE6 0 0 (ctx ++ virt ++ n ++ 0#20)]
  | _ => none

/-! ### One decoder and one encoder -/

/-- The code of an instruction: a casting word, a command word with its extra words, or a slot op. -/
inductive Code | cast (w : BitVec 128) | stoker (ws : List DWord) | slot (w : BitVec 32)
  deriving DecidableEq, Repr

/-- Encode any instruction that is written in code; an event has none. -/
def encode (i : Instr) : Option Code :=
  match encodeCast i with
  | some w => some (.cast w)
  | none =>
    match encodeFlue i with
    | some w => some (.slot w)
    | none => (encodeStoker i).map .stoker

/-- Decode any code. A command word takes as many extra words as its NW field says. -/
def decode (c : Code) : Option Instr :=
  match c with
  | .cast w => decodeCast w
  | .slot w => decodeFlue w
  | .stoker [] => none
  | .stoker (w :: es) =>
    if stExtra w = es.length then decodeStoker w (es.getD 0 0) (es.getD 1 0) (es.getD 2 0) else none

/-- Well-formed: the code of the instruction passes the checks its encoding is subject to. -/
def Instr.wf (i : Instr) : Bool :=
  match encodeCast i with
  | some _ => wfCast i
  | none => wfFlue i && wfStoker i

/-- The instruction read from an instruction of `nbits` bits `w`: a Flue slot op up to 32 bits, a Stoker command word
(extra words zero) up to 64 bits, a casting word above. An event is written in no word, so nothing reads as one. -/
def decodeTableWord (nbits w : Nat) : Option Instr :=
  if nbits = 0 then none
  else if nbits ≤ 32 then decodeFlue (BitVec.ofNat 32 w)
  else if nbits ≤ 64 then decodeStoker (BitVec.ofNat 64 w) 0 0 0
  else decodeCast (BitVec.ofNat 128 w)

end Sys2Proof
end

