-- ==== Sys2Proof/Machine/Atomics.lean ====
section
/-! DEFINITION. What an atomic computes (R200-R202), and the reds on their way to the home slices (R190, R349). -/

namespace Sys2Proof.Machine

/-- old + b of fadd: RNE in the type's format, with no flags (R200). -/
def faddBits (ty : BitVec 4) (a b : Nat) : Nat :=
  let f := fmtOf ty 0
  f.encode (roundSum (f.target .rne 0) [f.decode a, f.decode b]).v

/-- The new value of an atomic on `n` bits (R200). -/
def atomVal (m : AtomOp) (ty : BitVec 4) (n old b : Nat) : Nat :=
  let lt (x y : Nat) : Bool := decide (valOf ty n x < valOf ty n y)
  match m with
  | .add => (old + b) % 2 ^ n
  | .min => if lt b old then b else old
  | .max => if lt old b then b else old
  | .and => old &&& b
  | .or => old ||| b
  | .xor => old ^^^ b
  | .exch => b
  | .fadd => faddBits ty old b

/-- The atom of the same member (R201). -/
def redAtom : RedMemOp → AtomOp
  | .add => .add | .min => .min | .max => .max | .and => .and | .or => .or | .xor => .xor | .fadd => .fadd

/-- The entry that a red's fault leaves in its launch's record (R39, R80). -/
def RedSrc.entry (r : RedSrc) (cause : Nat) : FaultEntry :=
  { launch := r.launch, cause := cause, double := false, engine := false, core := r.core, batch := 0, thread := r.thread, pc := r.pc,
    detail := r.addr, counted := none }

/-- The entries that the senders of a red get: ACCESS for a rejected change of a state word (R39), POISON for bytes that were
marked after the red's check (R192; log 58). -/
def State.reportReds (s : State) (cause : Nat) (srcs : List RedSrc) : State := { s with faultQ := s.faultQ ++ srcs.map (·.entry cause) }

/-- One operation at the home slice for a request, with operand `x`, on account of some senders (R181, R190). -/
def State.applyRed (s : State) (r : RedReq) (x : DWord) (srcs : List RedSrc) : State :=
  match s.homeRead r.pa r.n with
  | .ok old =>
    match s.homeWrite r.pa r.n (atomVal (redAtom r.op) r.ty (8 * r.n) old x.toNat) {} r.evict with
    | some s => s.stampEpoch r.pa r.n (s.hearth.nextEpoch - 1)
    | none => s.reportReds 5 srcs
  | .poison => s.reportReds 0xD srcs
  | .refused => s

/-- A red performs at the home slice (R181, R190): merged reds with their one combined operand; on a registered state word each by
itself, a write event that the slice checks (R39, R349). The senders' L1s keep no clean copy of the bytes (R179). -/
def State.performRed (s : State) (r : RedReq) : State :=
  let s := (r.srcs.map (·.core)).foldl (fun s c => (sectorsOf r.pa r.n).foldl (fun s sec => s.l1Clean c sec) s) s
  if (s.stateWord r.pa r.n).isSome then r.srcs.foldl (fun s x => s.applyRed r x.val [x]) s else s.applyRed r r.val r.srcs

/-- The buffer that a red enters: the model gives each flask one router (R349; log 137). -/
def RedReq.router (r : RedReq) : Nat := match r.srcs with | x :: _ => flaskOf x.core | [] => 0

/-- The slice port at which a request waits (R331, R350). -/
def RedReq.port (r : RedReq) : Nat := Config.sliceOf (r.pa / 128) % 64

/-- Whether two requests have a source in common and the same address (R349). -/
def RedReq.meets (x y : RedReq) : Bool := x.pa == y.pa && x.srcs.any fun a => y.srcs.any fun b => a.core == b.core

/-- A red enters its router's buffer, which holds 32: the oldest there leaves for its slice port when the buffer is full (R349). -/
def State.enterRouter (s : State) (r : RedReq) : State :=
  let h := s.hearth
  let full := decide (32 ≤ (h.routers.filter fun x => x.router == r.router).length)
  match if full then h.routers.findIdx? fun x => x.router == r.router else none with
  | some i => match h.routers[i]? with
    | some x => { s with hearth := { h with routers := h.routers.eraseIdx i ++ [r], requests := h.requests ++ [{ x with since := s.tick.toNat }] } }
    | none => { s with hearth := { h with routers := h.routers ++ [r] } }
  | none => { s with hearth := { h with routers := h.routers ++ [r] } }

/-- Perform every red on its way, oldest first: a later event of any thread that could observe their order finds them
performed (R174, R178). -/
def State.settleReds (s : State) : State :=
  if s.hearth.requests.isEmpty && s.hearth.routers.isEmpty then s
  else
    let rs := s.hearth.requests ++ s.hearth.routers
    rs.foldl State.performRed { s with hearth := { s.hearth with requests := [], routers := [] } }

end Sys2Proof.Machine
end

