-- ==== Sys2Proof/Machine/Groups.lean ====
section
/-! DEFINITION. Groups, fragments and the split table: views of what issues, masks, splits, joins and the overflow
stack. -/

namespace Sys2Proof.Machine

/-! ### Accessors -/

def State.group? (s : State) (c slot : Nat) : Option Group := tfind (s.core c).groups slot
def State.setGroup (s : State) (c slot : Nat) (g : Group) : State :=
  s.setCore c { s.core c with groups := tput (s.core c).groups slot g }
def State.launch? (s : State) (i : Nat) : Option Launch := tfind s.launches i
def State.setLaunch (s : State) (i : Nat) (l : Launch) : State := { s with launches := tput s.launches i l }
def State.block? (s : State) (l b : Nat) : Option Block := (s.launch? l).bind fun x => tfind x.blocks b
def State.setBlock (s : State) (l b : Nat) (x : Block) : State :=
  match s.launch? l with | some y => s.setLaunch l { y with blocks := tput y.blocks b x } | none => s
def Group.node? (g : Group) (id : Nat) : Option Node := g.nodes.find? fun n => n.id == id
def Group.setNode (g : Group) (nd : Node) : Group :=
  { g with nodes := g.nodes.map fun n => if n.id = nd.id then nd else n, stack := g.stack.map fun n => if n.id = nd.id then nd else n }
/-- An entry of the table or of the overflow stack. -/
def Group.anyNode? (g : Group) (id : Nat) : Option Node := (g.nodes ++ g.stack).find? fun n => n.id == id
def Group.thread? (g : Group) (l : Nat) : Option Thread := tfind g.threads l

/-- T, the threads of a block (R74). -/
def LaunchRec.blockSize (r : LaunchRec) : Nat := r.size.getD r.coop 1
/-- N (R77). -/
def LaunchRec.total (r : LaunchRec) : Nat := r.units * r.size.getD (r.nlev - 1) 1
/-- How many blocks a launch has. -/
def LaunchRec.blockCount (r : LaunchRec) : Nat := r.total / r.blockSize

/-- What an issuing fragment sees: the core, the group, the fragment and the launch. -/
structure View where
  s : State
  c : Nat
  slot : Nat
  g : Group
  nd : Node
  l : Launch
  deriving DecidableEq, Repr

/-- The fragment that the cursor names. -/
def State.view (s : State) : Option View :=
  match s.group? s.cur.core s.cur.slot with
  | none => none
  | some g => match g.node? s.cur.node, s.launch? g.launch with
    | some nd, some l => some { s := s, c := s.cur.core, slot := s.cur.slot, g := g, nd := nd, l := l }
    | _, _ => none

/-- The outcome type of every step. -/
abbrev Out := Host.Outcome State Fault Refusal

/-- Perform on the fragment that the cursor names. -/
def onFrag (s : State) (f : View → State) : Out :=
  match s.view with | some v => .next (f v) | none => .fault .noFragment

/-! ### Lanes and guards -/

/-- The live lanes of a mask, in ascending order. -/
def Group.lanes (g : Group) (m : Mask) : List Nat := (g.threads.filter fun e => e.2.alive && m.getLsbD e.1).map (·.1)
/-- The mask of some lanes. -/
def maskOf (ls : List Nat) : Mask := ls.foldl (fun m l => m ||| (1#128 <<< l)) 0
/-- Predicate `i` of a thread; 15 reads true (R42, R48). -/
def Thread.p (t : Thread) (i : Nat) : Bool := i == 15 || t.pred.getLsbD i
/-- The guard of a word in a thread (R42, R55). -/
def Thread.guard (t : Thread) (w : CastWord) : Bool := (t.p w.pg.toNat) != (w.pn == 1)
/-- The lanes of the fragment that are active for a word (R55). -/
def View.active (v : View) (w : CastWord) : List Nat :=
  ((v.g.threads.filter fun e => e.2.alive && v.nd.mask.getLsbD e.1 && e.2.guard w)).map (·.1)
/-- The lanes of the fragment. -/
def View.lanes (v : View) : List Nat := v.g.lanes v.nd.mask
/-- The thread of a lane; the default is never used for a live lane. -/
def Thread.none : Thread :=
  { g := 0, tid := 0, alive := false, v := [], pred := 0, pr := 0, fpflags := 0, trapcause := 0, trappc := 0, hmask := 0, top := 16, badCells := [] }
def Group.thread (g : Group) (l : Nat) : Thread := tget Thread.none g.threads l

/-- Apply a change to the threads of some lanes. -/
def Group.mapThreads (g : Group) (ls : List Nat) (f : Thread → Thread) : Group :=
  { g with threads := g.threads.map fun (e : Nat × Thread) => if ls.contains e.1 then (e.1, f e.2) else e }

/-! ### The split table (R84-R88) -/

/-- Whether an entry is a leaf: not waiting at a join. -/
def Node.isLeaf (n : Node) : Bool := match n.st with | .join => false | _ => true

/-- The ancestors of an entry, nearest first, to `fuel` of them. -/
def Group.ancestors (g : Group) : Nat → Option Nat → List Node
  | 0, _ => []
  | _, none => []
  | fuel + 1, some p => match g.anyNode? p with
    | some a => a :: Group.ancestors g fuel a.parent
    | none => []

/-- The chain of an entry: the join addresses of its ancestor join entries, root first (R84). -/
def Group.chain (g : Group) (n : Node) : List DWord := ((g.ancestors 32 n.parent).map (·.pc)).reverse

/-- Room for one more leaf: 32 entries, 16 leaves (R84). -/
def Group.hasRoom (g : Group) : Bool := decide ((g.nodes.filter Node.isLeaf).length < 16 ∧ g.nodes.length < 32)

/-- A table of join entries only, with no room: the entry made first, on which every other entry of its tree depends, gives
way to a leaf and goes to the bottom of the overflow stack, which may hold join entries (R88; log 136). -/
def Group.sinkJoin (g : Group) : Group :=
  match g.nodes with
  | j :: rest => if g.hasRoom || g.nodes.any Node.isLeaf then g else { g with nodes := rest, stack := g.stack ++ [j] }
  | [] => g

/-- Add leaves in order while there is room; the rest go on the overflow stack, the first of them on top (R85). -/
def Group.addLeaves (g : Group) : List Node → Group
  | [] => g
  | n :: ns =>
    let g := g.sinkJoin
    if g.hasRoom then Group.addLeaves { g with nodes := g.nodes ++ [n] } ns
    else { g with stack := (n :: ns) ++ g.stack }

/-- Number new leaves from the group's counter; their turn comes after that of every leaf before them (R87). -/
def Group.number (g : Group) (ns : List Node) : Group × List Node :=
  ({ g with nextNode := g.nextNode + ns.length }, ns.mapIdx fun i n => { n with id := g.nextNode + i, turn := g.issues })

/-- A leaf that is ready. -/
def leafNode (mask : Mask) (pc : DWord) (rpc : Option DWord) (parent : Option Nat) (hmode : Bool) : Node :=
  { id := 0, mask := mask, pc := pc, rpc := rpc, parent := parent, hmode := hmode, st := .ready, fatal := [] }

/-- split of R85: `parts` in ascending order of lowest lane. -/
def Group.split (g : Group) (f : Node) (parts : List (Mask × DWord)) (rj : Nat) : Group :=
  if rj ≠ 0 ∧ (g.chain f).length < 31 then
    let j := f.pc + BitVec.ofNat 64 (16 * rj)
    let g := g.setNode { f with st := .join, pc := j, fatal := [] }
    let (g, ns) := g.number (parts.map fun (m, t) => leafNode m t (some j) (some f.id) f.hmode)
    g.addLeaves ns
  else
    let g := { g with nodes := g.nodes.filter fun n => n.id != f.id }
    let (g, ns) := g.number (parts.map fun (m, t) => leafNode m t f.rpc f.parent f.hmode)
    g.addLeaves ns

/-- One pass of completion (R86): empty leaves go; a join entry without children becomes a leaf, whose turn comes after that of
every leaf before it (R87), or goes when empty. -/
def Group.normStep (g : Group) : Group :=
  let nodes := g.nodes.filter fun n => !n.isLeaf || n.mask != 0
  let stack := g.stack.filter fun n => n.mask != 0
  let kid (id : Nat) : Bool := nodes.any (fun n => n.parent == some id) || stack.any fun n => n.parent == some id
  { g with
    nodes := nodes.filterMap fun n =>
      if n.isLeaf || kid n.id then some n else if n.mask = 0 then none else some { n with st := .ready, turn := g.issues }
    stack := stack }

/-- Restore entries from the overflow stack while there is room (R88); their turn comes after that of every leaf there (R87). -/
def Group.restore (g : Group) : Nat → Group
  | 0 => g
  | fuel + 1 => match g.stack with
    | [] => g
    | n :: ns =>
      let h := { g with stack := ns }.sinkJoin
      if h.hasRoom then Group.restore { h with nodes := h.nodes ++ [{ n with turn := h.issues }] } fuel else g

/-- Complete joins from the leaves up, then restore the stack. -/
def Group.normPass (g : Group) : Group := ((List.range (g.nodes.length + 1)).foldl (fun g _ => g.normStep) g).restore 32

/-- Bring the split table to rest; a join entry that the stack gives back may be complete. -/
def Group.norm (g : Group) : Group := if g.stack.isEmpty then g.normPass else g.normPass.normPass

/-- Lanes leave every mask at once (R86). -/
def Group.dropLanes (g : Group) (m : Mask) : Group :=
  { g with nodes := g.nodes.map fun n => { n with mask := n.mask &&& ~~~m }, stack := g.stack.map fun n => { n with mask := n.mask &&& ~~~m } }

/-- The lowest lane of a mask, for ordering parts. -/
def lowLane (m : Mask) : Nat := ((List.range 128).find? fun i => m.getLsbD i).getD 128

/-- One (mask, target) pair per distinct target, in ascending order of lowest lane (R85, R119). -/
def partsOf (ts : List (Nat × DWord)) : List (Mask × DWord) :=
  ts.foldl (fun ps (l, t) =>
    if ps.any fun p => p.2 = t then ps.map fun p => if p.2 = t then (p.1 ||| (1#128 <<< l), p.2) else p
    else ps ++ [(1#128 <<< l, t)]) []

/-- Continue the lanes of a fragment at their targets, which are listed by ascending lane: one target moves the PC,
several split the fragment (R119). -/
def Group.goto (g : Group) (f : Node) (ts : List (Nat × DWord)) (rj : Nat) : Group :=
  match partsOf ts with
  | [] => g
  | [(_, t)] => g.setNode { f with pc := t, fatal := [] }
  | ps => (g.split f ps rj).norm

/-- The private address of thread `g` at offset `o` (R166). -/
def privVa (r : LaunchRec) (g o : Nat) : Nat := (r.savebase.toNat + 2 ^ 45 + g * 2 ^ 16 + o) % 2 ^ 64

/-- The parts of entry `i` of a group's overflow stack, cut at page boundaries: address and length (R88). -/
def Group.entryParts (g : Group) (r : LaunchRec) (i : Nat) : List (Nat × Nat) :=
  let va := privVa r (g.block * r.blockSize + g.k * g.grant) (0x20 + 48 * i)
  let n := min 48 (4096 - va % 4096)
  if n = 48 then [(va, 48)] else [(va, n), (va + n, 48 - n)]

/-- The parts of the overflow entries that a group pushes beyond `old`. -/
def Group.pushed (g : Group) (r : LaunchRec) (old : Nat) : List (Nat × Nat) :=
  (List.range (g.stack.length - old)).flatMap fun i => g.entryParts r (old + i)

/-- The bytes of a part of an overflow entry go to the base thread's private memory; no rule states their values (R88, log 15). A
part that may not be written is dropped. -/
def State.stackPart (s : State) (c ctx va n : Nat) : State :=
  match s.translate c ctx [] .w va with
  | .hit pa =>
    let val := (List.range n).foldl (fun acc j => acc + (Config.freeByte (s.free + j)).toNat * 256 ^ j) 0
    { ((s.coreWrite c pa n val).getD s) with free := s.free + n }
  | _ => s

/-- Entry `i` of a group's overflow stack is written, or, where a page has no translation, waits for it (R88, R171; log 15). -/
def State.stackEntry (s : State) (c sl : Nat) (r : LaunchRec) (i : Nat) : State :=
  match s.group? c sl with
  | none => s
  | some g =>
    let ps := g.entryParts r i
    let misses := (ps.filter fun p => s.translate c g.ctx [] .w p.1 == .miss).map fun p => pageOf p.1
    if misses.isEmpty then ps.foldl (fun s p => s.stackPart c g.ctx p.1 p.2) s
    else (s.setGroup c sl { g with unwritten := sinsert g.unwritten i }).requestPages (flaskOf c) g.ctx 0 .w (.stack c sl) misses

/-- A group whose overflow stack has grown from `old` entries: none of the new ones is known to miss its page. -/
def Group.grown (g : Group) (old : Nat) : Group :=
  if old < g.stack.length then { g with unwritten := g.unwritten.filter fun i => decide (i < old) } else g

/-- Put a group into its slot; the entries of its overflow stack beyond `old` are new, and reach memory (R88). -/
def State.pushGroup (s : State) (c sl : Nat) (g : Group) (r : LaunchRec) (old : Nat) : State :=
  (List.range (g.stack.length - old)).foldl (fun s i => s.stackEntry c sl r (old + i)) (s.setGroup c sl (g.grown old))

/-- A page that overflow entries of a group wait for is present, or its miss was made fatal: those still on the stack are written,
or dropped (R88, R172). -/
def State.wakeStack (s : State) (c sl page : Nat) (fatal : Bool) (r : LaunchRec) : State :=
  match s.group? c sl with
  | none => s
  | some g =>
    let lost (i : Nat) : Bool := fatal && (g.entryParts r i).any fun p => pageOf p.1 == page
    (g.unwritten.filter fun i => decide (i < g.stack.length) && !lost i).foldl (fun s i => s.stackEntry c sl r i)
      (s.setGroup c sl { g with unwritten := [] })

/-- What the pushes of a group need: pages that miss, or an address that is refused (R166, R171). -/
inductive PushNeeds | ready | miss (pages : List Nat) | bad (va : Nat) deriving DecidableEq, Repr

def State.pushNeeds (s : State) (c : Nat) (g : Group) (r : LaunchRec) (old : Nat) (fatal : List Nat) : PushNeeds :=
  let xs := (g.pushed r old).map fun p => (p.1, s.translate c g.ctx fatal .w p.1)
  match xs.filter fun x => x.2 == .miss with
  | [] => match xs.find? fun x => x.2 == .perm || x.2 == .fatal with
    | some x => .bad x.1
    | none => .ready
  | ms => .miss (sunion [] (ms.map fun x => pageOf x.1))

/-- Put a group back after its fragments changed: entries that overflowed reach its base thread's memory. -/
def State.putGroup (s : State) (v : View) (g : Group) : State := s.pushGroup v.c v.slot g v.l.rec_ v.g.stack.length

end Sys2Proof.Machine
end

