-- ==== Sys2Proof/Machine/Place.lean ====
section
/-! DEFINITION. Placing blocks on cores: capacity and grants (R81), the cores of a block (R78), forming groups (R79)
and rebuilding them from their threads (R110, R125, R286). -/

namespace Sys2Proof.Machine

/-! ### Capacity (R15, R81, R83) -/

/-- Gmax (R81). -/
def gmax (quads : Nat) : Nat := if quads ≥ 4 then 128 else if quads ≥ 2 then 64 else if quads = 1 then 32 else 0

/-- The groups of a core that hold cells and entries: remnants hold neither (R123); those of block `own` count as free (R125). -/
def Core.holding (k : Core) (own : Option (Nat × Nat)) : List Group :=
  ((k.groups.map (·.2)).filter fun g => !g.remnant && !(own == some (g.launch, g.block)))

/-- A core with no group and no remnant (R401). -/
def Core.idle (k : Core) : Bool := k.groups.isEmpty

/-- How many groups of width `G` and window `W` fit on a core (R81). A group takes its width of the 4,096 threads, a lane
without a thread too (log 129). -/
def Core.fits (k : Core) (own : Option (Nat × Nat)) (win G : Nat) : Nat :=
  if k.barred || decide (gmax k.quads < G) then 0
  else
    let gs := k.holding own
    let cells := gs.foldl (fun n g => n + g.grant * g.win) 0
    let ths := gs.foldl (fun n g => n + g.grant) 0
    min ((32768 * k.quads - cells) / (G * win)) (min (64 - gs.length) ((4096 - ths) / G))

/-- Q, the size of each of a block's windows (R167). -/
def windowSize (scratch : Nat) : Nat := 256 * ((scratch + 1023) / 1024)

/-- One quarter of a core's scratchpad (R15, R16). -/
def Core.quarter (k : Core) : Nat := k.split * 32768

/-- Whether a block's four windows fit on a core; the split of an empty core may change (R15, R81). -/
def Core.windowsFit (k : Core) (q : Nat) : Bool :=
  if k.idle && k.wins.isEmpty then decide (q ≤ 262144)
  else decide (k.wins.foldl (fun n w => n + w.q) 0 + q ≤ k.quarter)

/-! ### The cores of a block (R78) -/

/-- The domain code of level `i` (R77). -/
def LaunchRec.dom (r : LaunchRec) (i : Nat) : Nat := r.domain.getD i 0
def LaunchRec.siz (r : LaunchRec) (i : Nat) : Nat := r.size.getD i 1

/-- The local core on which R78 places a thread of a flask-domain block, if it fixes one. -/
def LaunchRec.fixedCore (r : LaunchRec) (tid : Nat) : Option Nat :=
  let b := r.coop
  if r.dom b = 4 ∧ 1 ≤ b then
    if r.dom (b - 1) = 2 then some (tid / r.siz (b - 1))
    else if r.dom (b - 1) = 3 ∧ 2 ≤ b ∧ r.dom (b - 2) = 2 then
      some (2 * (tid / r.siz (b - 1)) + tid % r.siz (b - 1) / r.siz (b - 2))
    else none
  else none

/-- The local pair that R78 fixes for a thread. -/
def LaunchRec.fixedPair (r : LaunchRec) (tid : Nat) : Option Nat :=
  let b := r.coop
  if r.dom b = 4 ∧ 1 ≤ b ∧ r.dom (b - 1) = 3 then some (tid / r.siz (b - 1)) else none

/-- The largest unit of domain `d` below the cooperative level. -/
def LaunchRec.unitSize (r : LaunchRec) (d : Nat) : Option Nat :=
  ((List.range r.coop).filter fun i => r.dom i == d).getLast?.map r.siz

/-- Groups that must share a core, because their threads share units of core domain: their indices, the unit of pair domain that
they share with others, and the core or the pair that they must lie on. -/
structure Atom where
  ks : List Nat
  pair : Option Nat
  core : Option Nat
  hwPair : Option Nat
  deriving DecidableEq, Repr

/-- Whether two neighbouring threads lie in one unit of some size. -/
def sameUnit (u : Option Nat) (t t' : Nat) : Bool :=
  match u with | some n => t / n == t' / n | none => false

/-- Join what two parts of an atom must lie on; none where they differ. -/
def sameOr (a b : Option Nat) : Option (Option Nat) :=
  match a, b with | some x, some y => if x = y then some a else none | none, y => some y | x, none => some x

/-- The core that every thread of a list must lie on, if any must; none where they differ. -/
def oneHome (home : Nat → Option Nat) (ts : List Nat) : Option (Option Nat) :=
  ts.foldl (fun acc t => acc.bind fun x => sameOr x (home t)) (some none)

/-- The atoms of a block's groups, from the threads that they hold, in ascending order; none where a group's
threads must lie apart (R78, R110). `home` gives a thread's core where something fixes it. -/
def atomsOf (r : LaunchRec) (base : Nat) (home : Nat → Option Nat) (groups : List (Nat × List Nat)) : Option (List Atom) :=
  (groups.foldl (fun acc (k, ts) => acc.bind fun (as, prev) =>
    let t := ts.headD 0
    let fixed (f : Nat → Option Nat) : Option (Option Nat) := oneHome f [t, ts.getLastD 0]
    match oneHome home ts, fixed r.fixedCore, fixed r.fixedPair with
    | some h, some j, some p =>
      (sameOr h (j.map (base + ·))).bind fun core =>
        let me : Atom := { ks := [k], pair := (r.unitSize 3).map fun _ => as.length, core := core, hwPair := p.map fun p => (base + 2 * p) / 2 }
        match as.getLast?, prev with
        | some last, some u =>
          let me := if sameUnit (r.unitSize 3) u t then { me with pair := last.pair } else me
          if sameUnit (r.unitSize 2) u t then
            match sameOr last.core me.core, sameOr last.hwPair me.hwPair with
            | some c, some p => some (as.dropLast ++ [{ last with ks := last.ks ++ [k], core := c, hwPair := p }], some (ts.getLastD 0))
            | _, _ => none
          else some (as ++ [me], some (ts.getLastD 0))
        | _, _ => some (as ++ [me], some (ts.getLastD 0))
    | _, _, _ => none) (some (([] : List Atom), (none : Option Nat)))).map (·.1)

/-- Insert an atom behind those at least as large. -/
def insertAtom (a : Atom) : List Atom → List Atom
  | [] => [a]
  | b :: bs => if a.ks.length ≤ b.ks.length then b :: insertAtom a bs else a :: b :: bs

/-- The order in which atoms are placed: those bound to a core, the others of their pair units, then the rest, the largest first
where no pair unit binds them. -/
def orderAtoms (as : List Atom) : List Atom :=
  let bound := as.filter (·.core.isSome)
  let near (a : Atom) : Bool := a.pair.isSome && bound.any fun b => b.pair == a.pair
  let free := as.filter fun a => a.core.isNone
  let rest := free.filter fun a => !near a
  bound ++ free.filter near ++ if rest.any (·.pair.isSome) then rest else rest.foldl (fun acc a => insertAtom a acc) []

/-- The first of each class of cores with the same room. -/
def classes (key : Nat × Nat → Nat × Nat) : List (Nat × Nat) → List (Nat × Nat) → List (Nat × Nat)
  | seen, [] => seen
  | seen, x :: xs => if seen.any fun y => key y == key x then classes key seen xs else classes key (seen ++ [x]) xs

/-- Place every atom, by trying: `room` gives the groups that each core still takes, `pairs` the hardware pair of each pair unit
placed so far, `last` the size and the core of the atom before, where that was free (of equal atoms the later goes no lower).
Each core of one room stands for all of them. -/
def pack : List Atom → List (Nat × Nat) → Table Nat → Option (Nat × Nat) → Option (List (Nat × Nat))
  | [], _, _, _ => some []
  | a :: rest, room, pairs, last =>
    let n := a.ks.length
    let free := a.core.isNone && a.pair.isNone
    let from_ : Nat := match last with | some (m, c) => if free && m == n then c else 0 | none => 0
    let fit := room.filter fun e => decide (n ≤ e.2) && decide (from_ ≤ e.1) && (a.core.all fun c => c == e.1) &&
      (a.hwPair.all fun p => p == e.1 / 2) && ((a.pair.bind fun u => tfind pairs u).all fun p => p == e.1 / 2)
    let left := (a :: rest).foldl (fun m b => m + b.ks.length) 0
    let like := 1 + (rest.takeWhile fun b => b.core.isNone && b.pair.isNone && b.ks.length == n).length
    if room.foldl (fun m e => m + e.2) 0 < left || (free && decide ((fit.map fun e => e.2 / n).sum < like)) then none
    else
      let mate (e : Nat × Nat) : Nat := if a.pair.isSome then ((room.find? fun x => x.1 == 2 * (e.1 / 2) + (1 - e.1 % 2)).map (·.2)).getD 0 else 0
      (classes (fun e => (e.2, mate e)) [] fit).findSome? fun e =>
        let pairs := match a.pair with | some u => tput pairs u (e.1 / 2) | none => pairs
        (pack rest (room.map fun x => if x.1 = e.1 then (x.1, x.2 - n) else x) pairs (if free then some (n, e.1) else none)).map fun done =>
          a.ks.map (fun k => (k, e.1)) ++ done

/-- Insert by group index. -/
def insertK (x : Nat × Nat) : List (Nat × Nat) → List (Nat × Nat)
  | [] => [x]
  | y :: t => if y.1 < x.1 then y :: insertK x t else x :: y :: t

/-- Whether a thread of a block may lie on core `c`, as far as R78 or `home` fixes its place. -/
def LaunchRec.mayLie (r : LaunchRec) (base : Nat) (home : Nat → Option Nat) (c t : Nat) : Bool :=
  ((r.fixedCore t).all fun j => base + j == c) && ((r.fixedPair t).all fun p => base + 2 * p == 2 * (c / 2)) && (home t).all (· == c)

/-- Assign groups to cores, if any assignment keeps R78 and the room that each core has; beyond that the choice among them is the
model's (log 21). -/
def assignGroups (r : LaunchRec) (base : Nat) (cores : List Nat) (cap : Nat → Nat) (home : Nat → Option Nat) (groups : List (Nat × List Nat)) :
    Option (List (Nat × Nat)) :=
  match cores with
  | [c] => if groups.length ≤ cap c ∧ groups.all (fun e => e.2.all (r.mayLie base home c)) then some (groups.map fun e => (e.1, c)) else none
  | _ => (atomsOf r base home groups).bind fun as =>
    (pack (orderAtoms as) (cores.map fun c => (c, cap c)) [] none).map fun xs => xs.foldl (fun acc x => insertK x acc) []

/-- The widths of R74, largest first. -/
def widths : List Nat := [128, 64, 32, 16, 8]

/-- The groups of width `G` that hold threads of a block, in ascending index, each with its threads: those given, or all. -/
def liveGroups (r : LaunchRec) (G : Nat) (tids : Option (List Nat)) : List (Nat × List Nat) :=
  let ts (k : Nat) : List Nat := match tids with
    | none => (List.range (min G (r.blockSize - k * G))).map (k * G + ·)
    | some ts => ts.filter fun t => t / G == k
  ((List.range ((r.blockSize + G - 1) / G)).map fun k => (k, ts k)).filter fun e => !e.2.isEmpty

/-- No thread's core is fixed beyond R78. -/
def noHome (_ : Nat) : Option Nat := none

/-- The largest grant that places the groups on some of the cores (R81). -/
def grantOn (r : LaunchRec) (base : Nat) (cores : List Nat) (cap : Nat → Nat → Nat) (tids : Option (List Nat)) (home : Nat → Option Nat := noHome) :
    Option (Nat × List (Nat × Nat)) :=
  widths.findSome? fun G =>
    if r.wreq < G then none
    else (assignGroups r base cores (fun c => cap c G) home (liveGroups r G tids)).map fun a => (G, a)

/-! ### Forming groups (R43, R79) -/

/-- A thread at its start (R79). -/
def startThread (r : LaunchRec) (g : Nat) : Thread :=
  { g := g, tid := g % r.blockSize, alive := true, v := [], pred := 0, pr := r.prinit &&& 0x30FFF, fpflags := 0, trapcause := 0,
    trappc := 0, hmask := 0x1FFFE, top := 16, badCells := [] }

/-- The Crucible and Ladle sides of a new group (R30, R264, R267). -/
def CrucState.start : CrucState :=
  { queue := [], open_ := 1, closed := [], rm := 0, sat := false, tiles := 0, masks := 0, relTiles := 0, relMasks := 0, paired := false, saved := [] }
def LadleState.start : LadleState := { queue := [], open_ := 1, closed := [], saved := [] }

/-- k1-k31 of a new group (R79). -/
def startK (r : LaunchRec) : Table Word := (r.kinit.mapIdx fun i w => (i + 1, w)).filter fun e => e.2 ≠ 0

/-- A thread on its way into a new group: what R110 rebuilds the group from. -/
structure Seat where
  t : Thread
  pc : DWord
  hmode : Bool
  chain : List DWord
  st : NodeState
  k : Table Word
  h : Table (BitVec 256)
  classpol : BitVec 2
  /-- STATUS.WAIT of a saved thread (R108). -/
  wait : Nat := 0
  deriving DecidableEq, Repr

/-- What tells one leaf from another when a table is rebuilt: chain, PC, handler mode, wait and its WAITINFO (R110). -/
def Seat.key (x : Seat) : List DWord × DWord × Bool × NodeState × Nat := (x.chain, x.pc, x.hmode, x.st, x.wait)

/-- All prefixes of a chain that are not empty. -/
def prefixes (c : List DWord) : List (List DWord) := (List.range c.length).map fun i => c.take (i + 1)

/-- Rebuild a split table as a tree keyed by chain (R110): each distinct chain prefix is a join entry, and threads with
equal chain, PC, handler mode and wait are a leaf; threads that wait for different things do not share one (log 138). A thread
at a join (5) only belongs to its join entry. -/
def treeOf (seats : List (Nat × Seat)) : List Node × List Node :=
  let ps := seats.foldl (fun acc e => (prefixes e.2.chain).foldl (fun acc p => if acc.contains p then acc else acc ++ [p]) acc) ([] : List (List DWord))
  let idOf (c : List DWord) : Option Nat := ps.idxOf? c
  let upd (c : List DWord) : Option DWord := c.getLast?
  let joins := ps.mapIdx fun i p =>
    let m := maskOf ((seats.filter fun e => p.isPrefixOf e.2.chain).map (·.1))
    { id := i, mask := m, pc := p.getLastD 0, rpc := upd p.dropLast, parent := idOf p.dropLast, hmode := false, st := .join, fatal := [] : Node }
  let kinds := seats.foldl (fun acc e =>
    if e.2.st == .join || acc.contains e.2.key then acc else acc ++ [e.2.key]) ([] : List (List DWord × DWord × Bool × NodeState × Nat))
  let leaves := kinds.mapIdx fun i (c, pc, hm, st, wt) =>
    let m := maskOf ((seats.filter fun e => e.2.key == (c, pc, hm, st, wt)).map (·.1))
    { id := ps.length + i, mask := m, pc := pc, rpc := upd c, parent := idOf c, hmode := hm, st := st, fatal := [] : Node }
  -- a join entry runs in handler mode when all its lanes do
  (joins.map fun j => { j with hmode := (seats.filter fun e => j.mask.getLsbD e.1).all (·.2.hmode) }, leaves)

/-- The group `k` of a block from its threads' seats, in ascending THREADID. -/
def formGroup (r : LaunchRec) (li b k G ctx cyc : Nat) (seats : List Seat) : Group :=
  let at_ := seats.map fun x => (x.t.tid % G, x)
  let (joins, leaves) := treeOf at_
  -- a join entry whose threads all wait at it becomes a leaf at once (R86)
  let kid (j : Node) : Bool := (joins ++ leaves).any fun n => n.parent == some j.id
  let leaves := (joins.filter fun j => !kid j).map (fun j => { j with st := .ready }) ++ leaves
  let numbers := joins.length + leaves.length
  let joins := joins.filter kid
  -- join entries beyond the table's 32 entries go to the bottom of the stack, the oldest lowest (R88)
  let extra := joins.length + min 16 leaves.length - 32
  let low := seats.head?
  let g : Group :=
    { launch := li, block := b, k := k, grant := G, prio := r.prio, ctx := ctx, win := r.win, threads := at_.map fun e => (e.1, e.2.t),
      nodes := joins.drop extra, stack := (joins.take extra).reverse, nextNode := numbers, issues := 0,
      kregs := (low.map (·.k)).getD [], hregs := (low.map (·.h)).getD [], classpol := (low.map (·.classpol)).getD 0, lastIssue := cyc,
      eligibleFor := 0, owed := false, cruc := .start, ladle := .start, fences := [], remnant := false }
  (g.addLeaves leaves).norm

/-- The seats of a new block's threads (R79). -/
def startSeats (r : LaunchRec) (b : Nat) : List Seat :=
  (List.range r.blockSize).map fun t =>
    { t := startThread r (b * r.blockSize + t), pc := r.entry, hmode := false, chain := [], st := .ready, k := startK r, h := [],
      classpol := BitVec.ofNat 2 r.classpol }

/-- The lowest free group slot of a core. Remnants sit above the 64 entries (R81, R123). -/
def Core.freeSlot (k : Core) : Nat := (tfree k.groups 64).getD 64

/-- Invalidate and write back the L1 when the split changes (R15). -/
def State.setSplit (s : State) (c n : Nat) : State :=
  if (s.core c).split = n then s
  else
    let s := s.l1WriteBackAll c
    s.setCore c { s.core c with l1 := [], split := n }

/-- The smallest split whose quarter holds a window (R15). -/
def splitFor (q : Nat) : Nat := max 2 ((q + 32767) / 32768)

/-- The split of an empty core that is to hold a window of `q` bytes: any that holds it, by a free choice (R15; log 132). -/
def State.chooseSplit (s : State) (c q : Nat) : State :=
  if (s.core c).idle && (s.core c).wins.isEmpty then (s.setSplit c (splitFor q + Config.splitChoice s.free % (9 - splitFor q))).fresh else s

/-- Reserve a block's windows on a core once (R82, R167), and record its ENTRY (R401); a launch's first group on the
core empties the constant cache (R168). -/
def State.enterCore (s : State) (li b c : Nat) (r : LaunchRec) : State :=
  let q := windowSize r.scratch
  let s := s.chooseSplit c q
  let k := s.core c
  let firstOfLaunch := k.groups.all fun e => e.2.launch != li
  let held := k.wins.any fun w => w.launch == li && w.block == b
  s.setCore c { k with
    wins := if q = 0 ∨ held then k.wins else k.wins ++ [{ launch := li, block := b, q := q, bytes := [], poison := [] }]
    konst := if firstOfLaunch then [] else k.konst
    aff := some r.entry, skip := 0 }

/-- Place formed groups on their cores. -/
def State.placeGroups (s : State) (li b G ctx : Nat) (r : LaunchRec) (asg : List (Nat × Nat)) (seats : List Seat) : State :=
  asg.foldl (fun s (k, c) =>
    let mine := seats.filter fun x => x.t.tid / G = k
    let s := s.enterCore li b c r
    let g := formGroup r li b k G ctx (s.core c).cyc.toNat mine
    s.pushGroup c (s.core c).freeSlot g r 0) s

/-! ### Batches (R30, R286) -/

/-- n is later than m (R30). -/
def later (n m : BitVec 16) : Bool := let d := (n - m).toNat; decide (1 ≤ d ∧ d ≤ 32767)
/-- The latest of some batch numbers. -/
def latest (ns : List (BitVec 16)) : BitVec 16 := ns.foldl (fun m n => if later n m then n else m) (ns.headD 1)

/-- Close the open batch (R30). -/
def CrucState.close (x : CrucState) : CrucState := { x with closed := x.closed ++ [x.open_], open_ := x.open_ + 1 }
def LadleState.close (x : LadleState) : LadleState := { x with closed := x.closed ++ [x.open_], open_ := x.open_ + 1 }

/-- Merge the closed batches of several old groups, oldest first. -/
def mergeClosed (xs : List (List (BitVec 16))) : List (BitVec 16) :=
  xs.flatten.foldl (fun acc n => if acc.contains n then acc else acc.takeWhile (fun m => later n m) ++ [n] ++ acc.dropWhile (fun m => later n m)) []

/-- Commands of several old groups in one queue: ranks rise from group to group, and within one as they did; the re-slicing moved
threads to other cores where `wide` is set. `top` exceeds every rank so far. -/
def joinCruc (olds : List (List CrucCmd)) (wide : Bool) (top : Nat) : List CrucCmd :=
  (olds.mapIdx fun i q => q.map fun x => { x with inherited := true, wide := x.wide || wide, rank := i * top + x.rank }).flatten
def joinLadle (olds : List (List LadleCmd)) (wide : Bool) (top : Nat) : List LadleCmd :=
  (olds.mapIdx fun i q => q.map fun x => { x with inherited := true, wide := x.wide || wide, rank := i * top + x.rank }).flatten

/-- The Crucible state that a new group receives from old groups in ascending FIRST, and the open number of its part (R286). It
is paired where one of them was (log 139). -/
def CrucState.inherit (olds : List CrucState) (open_ : BitVec 16) (wide : Bool := false) (top : Nat := 1) : CrucState :=
  match olds with
  | [] => { CrucState.start with open_ := open_ }
  | x :: _ =>
    { queue := joinCruc (olds.map (·.queue)) wide top
      open_ := open_, closed := mergeClosed (olds.map (·.closed)), rm := x.rm, sat := x.sat
      tiles := olds.foldl (fun m y => m ||| y.tiles) 0, masks := olds.foldl (fun m y => m ||| y.masks) 0
      relTiles := olds.foldl (fun m y => m ||| y.relTiles) 0, relMasks := olds.foldl (fun m y => m ||| y.relMasks) 0
      paired := olds.any (·.paired), saved := olds.flatMap (·.saved) }

def LadleState.inherit (olds : List LadleState) (open_ : BitVec 16) (wide : Bool := false) (top : Nat := 1) : LadleState :=
  match olds with
  | [] => { LadleState.start with open_ := open_ }
  | _ :: _ =>
    { queue := joinLadle (olds.map (·.queue)) wide top
      open_ := open_, closed := mergeClosed (olds.map (·.closed)), saved := olds.flatMap (·.saved) }

/-! ### Claims and requests of a group -/

/-- The partner core of a core (R278). -/
def partner (c : Nat) : Nat := 2 * (c / 2) + (1 - c % 2)

/-- Change the owner of what a slot of a core claims, on both cores (R264, R278): to another slot, or to none. -/
def State.mapOwner (s : State) (c sl : Nat) (dest : Option Nat) : State :=
  let ren (base : Nat) (t : Table Nat) : Table Nat :=
    t.filterMap fun e => if e.2 = base + sl then dest.map fun d => (e.1, base + d) else some e
  let k := s.core c
  let s := s.setCore c { k with tileOwner := ren 0 k.tileOwner, maskOwner := ren 0 k.maskOwner }
  let p := s.core (partner c)
  s.setCore (partner c) { p with tileOwner := ren 1000 p.tileOwner, maskOwner := ren 1000 p.maskOwner }

/-- Release everything that a slot of a core claims, on both cores, and its requests for more (R264, R278). -/
def State.dropClaims (s : State) (c sl : Nat) : State :=
  let s := s.mapOwner c sl none
  let k := s.core c
  let s := s.setCore c { k with claims := k.claims.filter fun q => !(q.slot == sl && q.forCore.isNone) }
  let p := s.core (partner c)
  s.setCore (partner c) { p with claims := p.claims.filter fun q => !(q.slot == sl && q.forCore == some c) }

/-- Whether a core carries a group of a block; a remnant is one (R123, R167, log 149). -/
def State.carries (s : State) (c li b : Nat) : Bool := (s.core c).groups.any fun e => e.2.launch == li && e.2.block == b

/-- What becomes of the requests that a flask's merge entries and admission queue hold for others: none drops one (R348). -/
def Flask.mapWho (k : Flask) (f : Requester → Option Requester) : Flask :=
  { k with
    merge := k.merge.map fun (e : Nat × MergeEntry) => (e.1, { e.2 with reqs := e.2.reqs.filterMap f })
    admission := k.admission.filterMap fun q => (f q.who).map fun w => { q with who := w } }

/-- A group's parked requests leave their merge entries and the admission queue (R348). -/
def State.leaveMerges (s : State) (c slot : Nat) : State :=
  s.setFlask (flaskOf c) ((s.flask (flaskOf c)).mapWho fun q => match q with
    | .frag c' sl _ => if c' = c ∧ sl = slot then none else some q
    | .ladle c' sl _ => if c' = c ∧ sl = slot then none else some q
    | .stack c' sl => if c' = c ∧ sl = slot then none else some q
    | q => some q)

/-- The requests of a group's Ladle commands go with them to another slot, of the core or of core `c2` of its flask, where their
numbers rise by `by_`; its fragments' and its stack's requests end (R318, R322). -/
def State.moveMerges (s : State) (c slot dest : Nat) (c2 : Nat := c) (by_ : Nat := 0) : State :=
  s.setFlask (flaskOf c) ((s.flask (flaskOf c)).mapWho fun q => match q with
    | .frag c' sl _ => if c' = c ∧ sl = slot then none else some q
    | .ladle c' sl cmd => if c' = c ∧ sl = slot then some (.ladle c2 dest (cmd + by_)) else some q
    | .stack c' sl => if c' = c ∧ sl = slot then none else some q
    | q => some q)

/-- Whether an engine side holds open commands, or batches that have not completed (R30, R123). -/
def CrucState.busy (x : CrucState) : Bool := !x.queue.isEmpty || !x.closed.isEmpty
def LadleState.busy (x : LadleState) : Bool := !x.queue.isEmpty || !x.closed.isEmpty

/-- A group becomes a remnant, kept above the 64 group entries with its claims, its queues and their parked requests; an open
batch with commands closes (R123). -/
def State.toRemnant (s : State) (c sl : Nat) (g : Group) : State :=
  let dest := ((List.range 512).find? fun i => (tfind (s.core c).groups (64 + i)).isNone).getD 512 + 64
  let g := { g with
    remnant := true, nodes := [], stack := [], threads := g.threads.map fun (e : Nat × Thread) => (e.1, { e.2 with alive := false })
    cruc := if g.cruc.queue.any (fun q => q.batch == g.cruc.open_) then g.cruc.close else g.cruc
    ladle := if g.ladle.queue.any (fun q => q.batch == g.ladle.open_) then g.ladle.close else g.ladle }
  let s := s.setCore c { s.core c with groups := tput (tdel (s.core c).groups sl) dest g }
  (s.mapOwner c sl (some dest)).moveMerges c sl dest

/-! ### What groups and seats say of each other -/

/-- Every resident, live group of a block: core, slot, group. -/
def State.groupsOf (s : State) (li b : Nat) : List (Nat × Nat × Group) :=
  s.cores.flatMap fun e => (e.2.groups.filter fun x => x.2.launch == li && x.2.block == b && !x.2.remnant).map fun x => (e.1, x.1, x.2)

/-- What a thread of a group is doing, for its seat: the leaf that holds its lane, or the deepest join entry. -/
def Group.place (g : Group) (lane : Nat) : Option Node :=
  match (g.nodes ++ g.stack).find? fun n => n.isLeaf && n.mask.getLsbD lane with
  | some n => some n
  | none =>
    let js := (g.nodes ++ g.stack).filter fun n => !n.isLeaf && n.mask.getLsbD lane
    minBy (fun n => 64 - (g.chain n).length) js

/-- The seat of a thread as its group stands. A thread that is done waits at its join (R86, R108). -/
def Group.seat (g : Group) (lane : Nat) (t : Thread) : Option Seat :=
  (g.place lane).map fun n =>
    { t := t, pc := n.pc, hmode := n.hmode, chain := if n.isLeaf then g.chain n else g.chain n ++ [n.pc],
      st := n.st, k := g.kregs, h := g.hregs, classpol := g.classpol }

/-- Whether a pre-emption covers a block of its launch. -/
def Save.takes (q : Save) (b : Nat) : Bool := q.only.all (· == b)

/-- Whether a group is being pre-empted: it issues nothing, and its engine queues are stopped (R106). -/
def State.stopping (s : State) (c : Nat) (g : Group) : Bool :=
  !g.remnant && s.saving.any fun q => q.core == c && q.launch == g.launch && q.takes g.block

/-- Insert by THREADID. -/
def insertSeat (x : Seat) : List Seat → List Seat
  | [] => [x]
  | y :: t => if y.t.tid < x.t.tid then y :: insertSeat x t else x :: y :: t

/-- THREADIDs of a group's live threads, ascending. -/
def Group.tids (g : Group) : List Nat := (g.threads.filter (·.2.alive)).map (·.2.tid)

/-! ### Re-slicing (R110, R125, R286, R321) -/

/-- An old group as re-slicing sees it: where it was, its threads, and the group. -/
structure OldGroup where
  core : Nat
  slot : Nat
  tids : List Nat
  g : Group
  deriving DecidableEq, Repr

def OldGroup.first (o : OldGroup) : Nat := o.tids.headD 0

/-- Whether a group has state in the Crucible or the Ladle that a new group can take only on its own core: commands, batches or
claims. -/
def OldGroup.engaged (o : OldGroup) : Bool :=
  o.g.cruc.busy || o.g.ladle.busy || o.g.cruc.tiles != 0 || o.g.cruc.masks != 0 || !o.g.cruc.saved.isEmpty || !o.g.ladle.saved.isEmpty

/-- The threads that keep an engaged old group's state on its core: its FIRST (R286). -/
def keepFirst (olds : List OldGroup) (tid : Nat) : Option Nat := (olds.find? fun o => o.engaged && o.first == tid).map (·.core)

/-- The old groups whose state a new group on core `c` takes, in ascending FIRST: those of that core whose FIRST it holds. -/
def takenBy (olds : List OldGroup) (c : Nat) (g : Group) : List OldGroup :=
  (olds.filter fun o => o.core == c && g.tids.contains o.first).foldl (fun acc o =>
    acc.takeWhile (fun p => p.first < o.first) ++ [o] ++ acc.dropWhile fun p => p.first < o.first) []

/-- Commands that hold entries of a core's time-sorted buffer (R305). -/
def Core.buffered (k : Core) : Nat := k.groups.foldl (fun n e => n + e.2.ladle.queue.length) 0

/-- The bits of a mask below `n`, as of a mask of claims. -/
def setBits (m : Nat) (n : Nat) : List Nat := (List.range n).filter fun i => m.testBit i

/-- Claim tiles and mask pairs of a core for an owner, with the contents that another core gave them. -/
def Core.takeOver (k src : Core) (x : CrucState) (owner : Nat) : Core :=
  let ts := setBits x.tiles.toNat 16
  let ms := setBits x.masks.toNat 8
  { k with
    tileOwner := ts.foldl (fun t i => tput t i owner) k.tileOwner, maskOwner := ms.foldl (fun t i => tput t i owner) k.maskOwner
    tiles := ts.foldl (fun t i => match tfind src.tiles i with | some y => tput t i y | none => tdel t i) k.tiles
    masks := ms.foldl (fun t i => match tfind src.masks i with | some y => tput t i y | none => tdel t i) k.masks
    badTiles := ts.foldl (fun t i => if src.badTiles.contains i then sinsert t i else t.filter (· ≠ i)) k.badTiles }

/-- The state of an old group whose FIRST lands on core `c2` goes there (R286): its queues, where the buffer has room for them, and
its claims, where the indices are free there. Its commands take numbers beyond those of both cores. -/
def State.cross (s : State) (o : OldGroup) (c2 dest : Nat) : Option (State × OldGroup) :=
  let x := o.g.cruc
  let t := s.mapOwner o.core o.slot none
  let free (k : Core) : Bool :=
    (setBits x.tiles.toNat 16).all (fun i => (tfind k.tileOwner i).isNone) && (setBits x.masks.toNat 8).all fun i => (tfind k.maskOwner i).isNone
  if flaskOf c2 = flaskOf o.core ∧ (t.core c2).buffered + o.g.ladle.queue.length ≤ 256 ∧ free (t.core c2) ∧ (x.paired = true → free (t.core (partner c2))) then
    let n := (t.core c2).accepts
    let g := { o.g with
      cruc := { x with queue := x.queue.map fun q => { q with seq := q.seq + n } }
      ladle := { o.g.ladle with queue := o.g.ladle.queue.map fun q => { q with seq := q.seq + n } }
      fences := o.g.fences.map fun q => { q with upTo := q.upTo + n } }
    let t := t.setCore c2 { (t.core c2).takeOver (s.core o.core) x dest with accepts := n + (s.core o.core).accepts }
    let t := if x.paired then t.setCore (partner c2) ((t.core (partner c2)).takeOver (s.core (partner o.core)) x (1000 + dest)) else t
    some (t.moveMerges o.core o.slot dest c2 n, { o with core := c2, slot := dest, g := g })
  else none

/-- Pass engine states to a new group (R286, R321): each old state goes to the new group that holds its FIRST, and owners and
parked requests follow. Where the core's grouping is unchanged, nothing changes. `moved`: threads changed their cores, and the
latest batch numbers are those of the whole block. -/
def State.passEngines (s : State) (olds : List OldGroup) (same moved : Bool) (c sl : Nat) (g : Group) : State :=
  let got := takenBy olds c g
  let led := olds.filter fun o => g.tids.contains o.first
  let here := olds.filter fun o => o.core == c
  let nums := if moved || here.isEmpty then olds else here
  let oc := latest (nums.map fun o => o.g.cruc.close.open_)
  let ol := latest (nums.map fun o => o.g.ladle.close.open_)
  let s := got.foldl (fun s o => (s.mapOwner c o.slot (some (2000 + sl))).moveMerges c o.slot (2000 + sl)) s
  let top := 1 + olds.foldl (fun m o => max m o.g.rank) 0
  let g := match same, got with
    | true, [o] => { g with cruc := o.g.cruc, ladle := o.g.ladle, fences := o.g.fences, rank := o.g.rank }
    | _, _ => { g with
        cruc := { CrucState.inherit (got.map fun o => o.g.cruc.close) oc moved top with
          rm := ((minBy OldGroup.first led).map (·.g.cruc.rm)).getD 0, sat := ((minBy OldGroup.first led).map (·.g.cruc.sat)).getD false
          saved := led.flatMap (·.g.cruc.saved) }
        ladle := .inherit (got.map fun o => o.g.ladle.close) ol moved top
        fences := (got.mapIdx fun i o => o.g.fences.map fun q => { q with lanes := BitVec.allOnes 128, rank := i * top + q.rank }).flatten
        rank := got.length * top }
  s.setGroup c sl g

/-- Settle the slots that `passEngines` named beyond the others. -/
def State.settleOwners (s : State) (c sl : Nat) : State := (s.mapOwner c (2000 + sl) (some sl)).moveMerges c (2000 + sl) sl

/-- A group whose commands count in the batches of the block's other groups from now on (R286). -/
def Group.handOn (g : Group) : Group :=
  { g with
    cruc := { g.cruc with queue := g.cruc.queue.map fun q => { q with inherited := true, wide := true } }
    ladle := { g.ladle with queue := g.ladle.queue.map fun q => { q with inherited := true, wide := true } } }

/-- What re-slicing makes of the old groups' places, `coreOf` giving each thread's new core: a state whose FIRST stays on its core
waits there to be passed on; one whose FIRST lands on another core goes there, if it can; else the old group stays as a remnant
while it has commands, and its claims without commands are released (R286; log 140). Answers the old groups as `passEngines` is
to see them. -/
def State.unseat (s : State) (coreOf : Nat → Option Nat) (olds : List OldGroup) : State × List OldGroup :=
  (olds.mapIdx fun i o => (i, o)).foldl (fun (a : State × List OldGroup) (i, o) =>
    let s := a.1
    let drop (s : State) : State := s.setCore o.core { s.core o.core with groups := tdel (s.core o.core).groups o.slot }
    let stay (s : State) : State × List OldGroup :=
      if o.g.cruc.busy || o.g.ladle.busy then (s.toRemnant o.core o.slot o.g.handOn, a.2 ++ [o])
      else (drop ((s.dropClaims o.core o.slot).leaveMerges o.core o.slot), a.2 ++ [o])
    match coreOf o.first with
    | some c2 =>
      if c2 = o.core then (drop s, a.2 ++ [o])
      else if !o.engaged then stay s
      else match s.cross o c2 (10000 + i) with
        | some (s, o') => (drop s, a.2 ++ [o'])
        | none => stay s
    | none => stay s) (s, [])

/-- The completion of setw (R125): the block is granted again on the cores that it occupies, as R81 with its own resources free, and
rebuilt there; each thread continues after its setw. Among the assignments of the largest grant, one is taken that leaves each
engaged group's FIRST on its core, if there is one (log 140). While no grant fits, the block waits. -/
def State.reslice (s : State) (li b wreq : Nat) : State :=
  match s.launch? li, s.block? li b with
  | some l, some blk =>
    let olds := (s.groupsOf li b).map fun (c, sl, g) => { core := c, slot := sl, tids := g.tids, g := g : OldGroup }
    let seats := (olds.flatMap fun o => (o.g.threads.filter (·.2.alive)).filterMap fun e => o.g.seat e.1 e.2).foldl (fun acc x => insertSeat x acc) []
    let seats := seats.map fun x => { x with pc := x.pc + 16, st := .ready }
    let r := { l.rec_ with wreq := wreq }
    let base := 48 * (blk.cores.headD 0 / 48)
    let grant (home : Nat → Option Nat) : Option (Nat × List (Nat × Nat)) :=
      grantOn r base blk.cores (fun c G => (s.core c).fits (some (li, b)) r.win G) (some (seats.map (·.t.tid))) home
    match grant noHome, grant (keepFirst olds) with
    | none, _ => s
    | some (G, free), kept =>
      let asg := match kept with | some (G', a) => if G' = G then a else free | none => free
      let coreOf (tid : Nat) : Option Nat := (asg.find? fun e => e.1 == tid / G).map (·.2)
      let moved := olds.any fun o => o.tids.any fun t => coreOf t != some o.core
      let (s, olds) := s.unseat coreOf olds
      let s := asg.foldl (fun s (k, c) =>
        let g := formGroup l.rec_ li b k G l.ctx (s.core c).cyc.toNat (seats.filter fun x => x.t.tid / G = k)
        let s := s.setCore c { s.core c with aff := some l.rec_.entry, skip := 0 }
        s.pushGroup c (s.core c).freeSlot g l.rec_ 0) s
      let news := s.groupsOf li b
      let parts (c : Nat) : List (List Nat) := (news.filter fun e => e.1 == c).map fun e => e.2.2.tids
      let same (c : Nat) : Bool := parts c == (olds.filter fun o => o.core == c).map (·.tids)
      let s := news.foldl (fun s (c, sl, g) => s.passEngines olds (same c) moved c sl g) s
      let s := news.foldl (fun s (c, sl, _) => s.settleOwners c sl) s
      s.setBlock li b { blk with grant := G, setwArrived := [], setwReq := 0 }
  | _, _ => s

end Sys2Proof.Machine
end

