-- ==== Sys2Proof/Machine/Ops.lean ====
section
/-! DEFINITION. The shared operations on threads: barriers and the setw rendezvous (R124, R125), the end of threads,
groups, blocks and launches (R123, R398), taking an exception (R102-R104) and returning from one (R136), and waking
what waited for a translation (R344, R345). -/

namespace Sys2Proof.Machine

/-- The trap causes of R102. -/
def causeIllop : Nat := 0x01
def causeIllclass : Nat := 0x02
def causePriv : Nat := 0x03
def causeMisalign : Nat := 0x04
def causeAccess : Nat := 0x05
def causePrecExh : Nat := 0x06
def causeSpillExh : Nat := 0x07
def causeFpe : Nat := 0x08
def causeFmt : Nat := 0x09
def causeCrucBank : Nat := 0x0A
def causeCrucFmt : Nat := 0x0B
def causeLadle : Nat := 0x0C
def causePoison : Nat := 0x0D
def causeWatchdog : Nat := 0x0E
def causeDbgbrk : Nat := 0x0F
def causeSoft : Nat := 0x10

/-! ### Interrupts (R390, R467, R485) -/

/-- A word of the MSI-X table: address, then data with the mask bit at 32, which is set at reset (log 10). -/
def State.msixWord (s : State) (fn vec i : Nat) : DWord := tget (if i = 1 then 1#64 <<< 32 else 0) s.box.msix ((1024 * fn + vec) * 2 + i)

/-- The physical address of a host address (R330; log 24). -/
def hostPa (a : Nat) : Nat := 2 ^ 51 + a % 2 ^ 51

/-- Send a vector's message: a posted write of its data to its address (R467). -/
def State.sendMsix (s : State) (fn vec : Nat) : State :=
  let s := { s with box := { s.box with delivered := s.box.delivered ++ [(fn, vec)] } }
  (s.homeWrite (hostPa (s.msixWord fn vec 0).toNat) 4 (bits (s.msixWord fn vec 1).toNat 0 32)).getD s

/-- Vectors of a function (R467). -/
def vectorsOf (fn : Nat) : Nat := if fn = 0 then 536 else 24

/-- Raise a vector of a function: its message is sent, or held pending while the vector is masked. A number is local to the
function: one beyond its vectors names none (log 117). -/
def State.raise (s : State) (fn vec : Nat) : State :=
  if vectorsOf fn ≤ vec then s
  else if (s.msixWord fn vec 1).getLsbD 32 then
    { s with box := { s.box with msixPending := if s.box.msixPending.contains (fn, vec) then s.box.msixPending else s.box.msixPending ++ [(fn, vec)] } }
  else s.sendMsix fn vec

/-- Set a bit of MGMTCAUSE; a bit that becomes set raises vector 0 of function 0 (R485). -/
def State.mgmt (s : State) (i : Nat) : State :=
  if s.box.mgmtcause.getLsbD i then s
  else { s with box := { s.box with mgmtcause := s.box.mgmtcause ||| (1#64 <<< i) } }.raise 0 0

/-! ### Release and acquire at a block's scope (R124, R125) -/

/-- Whether the scope of a block is flk or wider: its cooperative level has domain pair or flask (R13, R77). -/
def LaunchRec.wideScope (r : LaunchRec) : Bool := decide (3 ≤ r.dom r.coop)
/-- Whether a SCOPE code is flk or wider (R10, R183). -/
def wideScope (sc : Nat) : Bool := decide (3 ≤ sc)

def State.releaseIf (s : State) (c : Nat) (wide : Bool) : State := if wide then (s.settleReds.release c).1 else s.settleReds
/-- An acquire after the latest logged release. -/
def State.acquireIf (s : State) (c : Nat) (wide : Bool) : State := if wide then s.acquire c (s.hearth.nextEpoch - 1) else s

/-! ### Barriers (R124) and setw (R125) -/

/-- Barrier 0 to 15 at its start. -/
def Barrier.start : Barrier := { phase := 0, arrived := [], later := [] }
def Block.bar (b : Block) (n : Nat) : Barrier := tget .start b.bars n

/-- Every live thread of the block is among these. -/
def Block.allIn (b : Block) (size : Nat) (xs : List Nat) : Bool :=
  !xs.isEmpty && decide (size ≤ (xs.filter fun t => !b.ended.contains t).length + b.ended.length)

/-- Fragments of a block that wait at a barrier in a phase go on, with an acquire (R124). -/
def State.freeBar (s : State) (li b n ph : Nat) (wide : Bool) : State :=
  (s.groupsOf li b).foldl (fun s (c, sl, g) =>
    if (g.nodes ++ g.stack).any fun x => x.st == .bar n ph then
      let f := fun (x : Node) => if x.st == .bar n ph then { x with st := .ready, pc := x.pc + 16 } else x
      (s.setGroup c sl { g with nodes := g.nodes.map f, stack := g.stack.map f }).acquireIf c wide
    else s) s

/-- Complete a barrier's phases while every live thread has arrived (R124). -/
def State.checkBar (s : State) (li b n : Nat) : Nat → State
  | 0 => s
  | fuel + 1 =>
    match s.launch? li, s.block? li b with
    | some l, some blk =>
      let x := blk.bar n
      if blk.allIn l.rec_.blockSize x.arrived then
        let s := s.setBlock li b { blk with bars := tput blk.bars n { phase := (x.phase + 1) % 65536, arrived := x.later, later := [] } }
        State.checkBar (s.freeBar li b n x.phase l.rec_.wideScope) li b n fuel
      else s
    | _, _ => s

/-- Complete the setw rendezvous once every live thread has arrived (R125); while no grant fits, it stays as it is. -/
def State.checkSetw (s : State) (li b : Nat) : State :=
  match s.launch? li, s.block? li b with
  | some l, some blk =>
    if blk.allIn l.rec_.blockSize blk.setwArrived then
      let t := s.reslice li b blk.setwReq
      if (t.block? li b).all fun x => x.setwArrived.isEmpty then blk.cores.foldl (fun s c => s.acquireIf c l.rec_.wideScope) t else s
    else s
  | _, _ => s

/-! ### The end of launches, blocks and groups (R123, R398) -/

/-- A launch has ended when its last block and every continuation it spawned have, and no fault entry of it is
unwritten (R123, R317, R398, R486). -/
def State.launchOver (s : State) (li : Nat) : Bool :=
  match s.launch? li with
  | none => false
  | some l =>
    decide (l.rec_.blockCount ≤ l.nextBlock) && l.blocks.all (fun e => e.2.place == .ended) &&
    !(s.faultQ.any fun e => e.launch == li) && !(s.launches.any fun e => e.2.parent == some li)

/-- No flask holds anything up for a block of a launch that is gone (R400). -/
def State.dropWaits (s : State) (li : Nat) : State :=
  { s with flasks := s.flasks.map fun (e : Nat × Flask) => (e.1, { e.2 with blockWait := e.2.blockWait.filter (·.1 ≠ li) }) }

/-- End a launch: a sys-scope release of every core's events, its threads' among them, and the launch-end signal for the next
phase 2 (R398). -/
def State.endLaunch (s : State) (li : Nat) : State :=
  match s.launch? li with
  | none => s
  | some l =>
    let s := (s.cores.map (·.1)).foldl (fun s c => (s.release c).1) s.settleReds
    let q : List SigReq := match l.sig with
      | some (v, m, _, x) => [{ ctx := l.ctx, sem := v.toNat, op := m, value := x }]
      | none => []
    { s.dropWaits li with launches := tdel s.launches li, stoker := { s.stoker with sigQ := s.stoker.sigQ ++ q } }

/-- A block ends when its last group and remnant end (R123), and its windows with it. -/
def State.checkBlock (s : State) (li b : Nat) : State :=
  match s.launch? li, s.block? li b with
  | some l, some blk =>
    let left := s.cores.any fun e => e.2.groups.any fun x => x.2.launch == li && x.2.block == b
    if decide (l.rec_.blockSize ≤ blk.ended.length) && !left then
      let s := { s with cores := s.cores.map fun (e : Nat × Core) => (e.1, { e.2 with wins := e.2.wins.filter fun w => !(w.launch == li && w.block == b) }) }
      s.setLaunch li { l with blocks := tput l.blocks b { blk with place := .ended }, watchdog := 0 }
    else s
  | _, _ => s

/-- A block leaves a core that carries no group or remnant of it any more: its windows there are free, and, unless it was the
block's last core, it occupies the core no longer (R123, R125, R167). -/
def State.leaveCore (s : State) (c li b : Nat) : State :=
  if s.carries c li b then s
  else
    let s := s.setCore c { s.core c with wins := (s.core c).wins.filter fun w => !(w.launch == li && w.block == b) }
    match s.block? li b with
    | some blk => if (blk.cores.filter (· ≠ c)).isEmpty then s else s.setBlock li b { blk with cores := blk.cores.filter (· ≠ c) }
    | none => s

/-- Free a group's entry, claims and, with the block's last group or remnant on the core, its windows (R123, R167). -/
def State.freeGroup (s : State) (c sl : Nat) : State :=
  match s.group? c sl with
  | none => s
  | some g =>
    let s := s.dropClaims c sl
    let k := s.core c
    ((s.setCore c { k with groups := tdel k.groups sl }).leaveCore c g.launch g.block).checkBlock g.launch g.block

/-- A group whose last thread has ended frees its cells and entry; with incomplete batches it stays as a remnant (R123). -/
def State.endGroup (s : State) (c sl : Nat) : State :=
  match s.group? c sl with
  | none => s
  | some g => if g.cruc.busy || g.ladle.busy then s.toRemnant c sl g else (s.leaveMerges c sl).freeGroup c sl

/-- End threads as by exit (R123): they leave every mask and every barrier count; a group, a block and a launch end
with their last. -/
def State.endLanes (s : State) (c sl : Nat) (lanes : List Nat) : State :=
  match s.group? c sl with
  | none => s
  | some g =>
    if lanes.isEmpty then s
    else
      let g' := g.mapThreads lanes fun t => { t with alive := false }
      let g' := (g'.dropLanes (maskOf lanes)).norm
      let s := s.setGroup c sl g'
      let tids := lanes.map fun l => (g.thread l).tid
      let s := match s.block? g.launch g.block with
        | some b => s.setBlock g.launch g.block { b with ended := sunion b.ended tids }
        | none => s
      let s := if g'.threads.all fun e => !e.2.alive then s.endGroup c sl else s
      let s := (List.range 16).foldl (fun s n => s.checkBar g.launch g.block n 2) s
      s.checkSetw g.launch g.block

/-! ### Taking an exception (R102-R104) -/

/-- Queue an entry for a launch's fault record (R80, R486). -/
def State.fault (s : State) (e : FaultEntry) : State := { s with faultQ := s.faultQ ++ [e] }

/-- The entry of a thread that ends on a trap (R104). -/
def threadEntry (launch c : Nat) (t : Thread) (cause : Nat) (double : Bool) (pc detail : DWord) : FaultEntry :=
  { launch := launch, cause := cause, double := double, engine := false, core := c, batch := 0, thread := t.g, pc := pc, detail := detail, counted := none }

/-- Whether a trap is routed to the handler: there is one, the thread's handler mask has the cause's bit, and the trap
does not arise in handler mode (R104, R134). -/
def routed (r : LaunchRec) (hmode : Bool) (t : Thread) (cause : Nat) : Bool :=
  r.trapentry != 0 && t.hmask.getLsbD cause && !hmode

/-- The trap detail: CAUSE, PC, DETAIL and zeros (R103). -/
def detailBytes (cause : Nat) (pc detail : DWord) : Nat := cause + pc.toNat * 2 ^ 64 + detail.toNat * 2 ^ 128

/-- Step 1 of R103: TRAPCAUSE and TRAPPC of each trapping thread. -/
def Group.noteTrap (g : Group) (pc : DWord) (info : Table (Nat × DWord)) : Group :=
  info.foldl (fun g e => { g with threads := tput g.threads e.1 { g.thread e.1 with trapcause := BitVec.ofNat 8 e.2.1, trappc := pc } }) g

/-- Take the trap of a leaf whose state is `trapping`: threads that are not routed end with an entry; if every detail
write has its translation, each is written, and the leaf enters the handler; else the leaf waits, its threads' TRAPCAUSE
and TRAPPC set (R103, R104). A leaf that has waited holds routed threads only: `again` says so, since a handler mask written
meanwhile governs later traps (R134). -/
def State.enterTrap (s : State) (c sl id : Nat) (again : Bool := false) : State :=
  match s.group? c sl with
  | none => s
  | some g => match g.anyNode? id, s.launch? g.launch with
    | some nd, some l => match nd.st with
      | .trapping info _ =>
        let tr (e : Nat × Nat × DWord) : Tr := s.translate c g.ctx nd.fatal .w (privVa l.rec_ (g.thread e.1).g 0)
        let goes (e : Nat × Nat × DWord) : Bool := again || routed l.rec_ nd.hmode (g.thread e.1) e.2.1
        let gone := info.filter fun e => !goes e
        let come := info.filter goes
        let misses := (come.filter fun e => tr e == .miss).map fun e => pageOf (privVa l.rec_ (g.thread e.1).g 0)
        let entry (e : Nat × Nat × DWord) : FaultEntry := threadEntry g.launch c (g.thread e.1) e.2.1 nd.hmode nd.pc e.2.2
        if misses.isEmpty then
          let hit (e : Nat × Nat × DWord) : Bool := match tr e with | .hit _ => true | _ => false
          let good := come.filter hit
          let bad := gone ++ come.filter fun e => !hit e
          let s := good.foldl (fun s e => match tr e with
            | .hit pa => (s.coreWrite c pa 32 (detailBytes e.2.1 nd.pc e.2.2)).getD s
            | _ => s) s
          let g := g.noteTrap nd.pc good
          let g := g.setNode { nd with pc := l.rec_.trapentry, hmode := true, st := .ready, fatal := [] }
          let s := s.setGroup c sl g
          (bad.foldl (fun s e => s.fault (entry e)) s).endLanes c sl (bad.map (·.1))
        else
          let ps := sunion [] misses
          let s := s.setGroup c sl ((g.noteTrap nd.pc come).setNode { nd with st := .trapping come ps })
          let s := s.requestPages (flaskOf c) g.ctx 0 .w (.frag c sl id) ps
          (gone.foldl (fun s e => s.fault (entry e)) s).endLanes c sl (gone.map (·.1))
      | _ => s
    | _, _ => s

/-- Taking an exception: the lanes of `info` (cause and DETAIL by lane) split off fragment `nd`, whose instruction lies
at `nd.pc`, as a leaf with the same RPC and parent, and the trap is taken there (R103). `g` is the group as the other
lanes left it. -/
def State.takeTrap (s : State) (c sl : Nat) (g : Group) (nd : Node) (info : Table (Nat × DWord)) : State :=
  let m := maskOf (info.map (·.1))
  match g.anyNode? nd.id with
  | none => s.setGroup c sl g
  | some cur =>
    if cur.mask &&& ~~~m = 0 then
      (s.setGroup c sl (g.setNode { cur with pc := nd.pc, st := .trapping info [] })).enterTrap c sl nd.id
    else
      let g := g.setNode { cur with mask := cur.mask &&& ~~~m }
      let (g, ns) := g.number [{ leafNode m nd.pc cur.rpc cur.parent cur.hmode with st := .trapping info [], fatal := nd.fatal }]
      let id := (ns.head?.map (·.id)).getD 0
      let g' := g.addLeaves ns
      let s := match s.launch? g.launch with | some l => s.pushGroup c sl g' l.rec_ g.stack.length | none => s.setGroup c sl g'
      s.enterTrap c sl id

/-- A decode trap, or a trap of a U or H form, takes the whole fragment (R103). -/
def View.trapAll (v : View) (cause : Nat) (detail : DWord) : State :=
  v.s.takeTrap v.c v.slot v.g v.nd (v.lanes.map fun l => (l, cause, detail))

/-- The WATCHDOG traps that a group's fragments owe are taken at the boundary at which they stand: of the ready ones, or of all
(R100, R105). -/
def State.takeOwed (s : State) (c sl : Nat) (all : Bool) : State :=
  match s.group? c sl with
  | none => s
  | some g => ((g.nodes ++ g.stack).filter fun n => n.owes && n.isLeaf && (all || n.st == .ready)).foldl (fun s n =>
      match s.group? c sl with
      | none => s
      | some g => match g.anyNode? n.id, s.launch? g.launch with
        | some nd, some l =>
          let nd := { nd with owes := false, st := .ready }
          ({ s := s, c := c, slot := sl, g := g.setNode nd, nd := nd, l := l } : View).trapAll causeWatchdog 0
        | _, _ => s) s

/-- Park a fragment until the pages are present (R171); the lanes of `early` split off and trap first. `reads` are pages that
only a read misses (R344). -/
def View.park (v : View) (early : Table (Nat × DWord)) (need : Need) (pages : List Nat) (reads : List Nat := []) : State :=
  let ps := sunion [] (reads ++ pages)
  let g := v.g.setNode { v.nd with st := .parked ps }
  let s := if early.isEmpty then v.s.setGroup v.c v.slot g else v.s.takeTrap v.c v.slot g v.nd early
  let ask (s : State) (need : Need) (ps : List Nat) : State :=
    if ps.isEmpty then s else s.requestPages (flaskOf v.c) v.g.ctx 0 need (.frag v.c v.slot v.nd.id) ps
  ask (ask s .r (sunion [] reads)) need (sunion [] pages)

/-- A word that leaves group `g1` performs as `go` unless the entries it pushes on the overflow stack must wait for a page, or
may not be written (R88, R166, R171). -/
def View.guardPush (v : View) (g1 : Group) (go : State) : State :=
  match v.s.pushNeeds v.c g1 v.l.rec_ v.g.stack.length v.nd.fatal with
  | .ready => go
  | .miss ps => v.park [] .w ps
  | .bad va => v.trapAll causeAccess (BitVec.ofNat 64 va)

/-- Return from an exception (R136): handler mode off, TRAPCAUSE 0, each lane at its TRAPPC, whose bits 3:0 a PC takes as zero
(R47). -/
def View.tret (v : View) : State :=
  let g := v.g.mapThreads v.lanes fun t => { t with trapcause := 0 }
  let nd := { v.nd with hmode := false, fatal := [] }
  let g1 := (g.setNode nd).goto nd (v.lanes.map fun l => (l, (v.g.thread l).trappc &&& ~~~15#64)) 0
  v.guardPush g1 (v.s.putGroup v g1)

/-! ### Waking what waited for a page (R171, R318, R345, R347) -/

/-- Remove a page from what an entry waits for; `fatal` marks it for the replay (R172). -/
def Node.gotPage (n : Node) (page : Nat) (fatal : Bool) : Node :=
  let f := if fatal then sinsert n.fatal page else n.fatal
  match n.st with
  | .parked ps => let ps := ps.filter (· ≠ page); { n with fatal := f, st := if ps.isEmpty then .ready else .parked ps }
  | .trapping info ps => { n with fatal := f, st := .trapping info (ps.filter (· ≠ page)) }
  | .waitv _ _ _ => { n with fatal := f }
  | _ => n

/-- Resolve a page for one requester. -/
def State.wake (s : State) (page : Nat) (fatal : Bool) (who : Requester) : State :=
  match who with
  | .frag c sl id => match s.group? c sl with
    | none => s
    | some g => match g.anyNode? id with
      | none => s
      | some nd =>
        let nd' := nd.gotPage page fatal
        let s := s.setGroup c sl (g.setNode nd')
        match nd'.st with
        | .trapping _ [] => s.enterTrap c sl id true
        | _ => s
  | .cruc _ _ => s
  | .stack c sl => match (s.group? c sl).bind fun g => s.launch? g.launch with
    | none => s
    | some l => s.wakeStack c sl page fatal l.rec_
  | .ladle c sl q => match s.group? c sl with
    | none => s
    | some g =>
      s.setGroup c sl { g with ladle := { g.ladle with queue := g.ladle.queue.map fun x =>
        if x.seq = q then { x with parked := none, fatal := if fatal then sinsert x.fatal page else x.fatal } else x } }
  | .window i => match tfind s.hearth.windows i with
    | none => s
    | some w => { s with hearth := { s.hearth with windows := tput s.hearth.windows i { w with fatal := if fatal then sinsert w.fatal page else w.fatal } } }
  | .faultWrite li =>
    if fatal then
      match s.launch? li with
      | none => s
      | some l =>
        let on (e : FaultEntry) : Bool := match e.counted with
          | none => pageOf l.rec_.faultrec.toNat == page
          | some i => pageOf (l.rec_.faultrec.toNat + 0x40 + 32 * i) == page
        { s with faultQ := s.faultQ.filter fun e => !(e.launch == li && on e) }
    else s
  | .save _ li =>
    if fatal then
      match s.launch? li with
      | none => s
      | some l => s.setLaunch li { l with saveFatal := sinsert l.saveFatal page }
    else s

end Sys2Proof.Machine
end

