-- ==== Sys2Proof/Machine/Operands.lean ====
section
/-! DEFINITION. Operand forms of the casting words: cells of the v and k files, immediates, predicates, narrow values
(R42, R48-R53, R140, R142); the decode checks at issue (R58); and the shared way in which a word acts on the lanes of
its fragment (R55, R103). -/

namespace Sys2Proof.Machine

/-! ### Cells -/

/-- `n` cells of a cell file as one value, the low cell first. -/
def cellsAt (read : Nat → Word) (i : Nat) : Nat → Nat
  | 0 => 0
  | n + 1 => (read i).toNat + 2 ^ 32 * cellsAt read (i + 1) n

/-- A v cell, and `n` of them. -/
def Thread.cell (t : Thread) (i : Nat) : Word := tget 0#32 t.v i
def Thread.cells (t : Thread) (i n : Nat) : Nat := cellsAt t.cell i n

/-- Write `n` v cells; the cells written no longer hold an error (R357). -/
def Thread.setCells (t : Thread) (i : Nat) : Nat → Nat → Thread
  | 0, _ => t
  | n + 1, x => Thread.setCells { t with v := tset 0#32 t.v i (BitVec.ofNat 32 x), badCells := t.badCells.filter (· ≠ i) } (i + 1) n (x / 2 ^ 32)

/-- A k register: k0 reads zero (R42). -/
def Group.kreg (g : Group) (i : Nat) : Word := if i = 0 then 0 else tget 0#32 g.kregs i
def Group.kcells (g : Group) (i n : Nat) : Nat := cellsAt g.kreg i n

/-- Write a k register: a write to k0 is discarded (R42). -/
def Group.setK (g : Group) (i : Nat) (x : Word) : Group := if i = 0 then g else { g with kregs := tset 0#32 g.kregs i x }
def Group.setKcells (g : Group) (i : Nat) : Nat → Nat → Group
  | 0, _ => g
  | n + 1, x => Group.setKcells (g.setK i (BitVec.ofNat 32 x)) (i + 1) n (x / 2 ^ 32)

/-- A tensor handle register. -/
def Group.handle (g : Group) (i : Nat) : BitVec 256 := tget 0#256 g.hregs i

/-- Write a predicate. -/
def Thread.setP (t : Thread) (i : Nat) (b : Bool) : Thread :=
  { t with pred := if b then t.pred ||| (1#15 <<< i) else t.pred &&& ~~~(1#15 <<< i) }

/-! ### Sources -/

/-- Source A of `n` cells (R50). -/
def srcA (i : Instr) (g : Group) (w : CastWord) (t : Thread) (n : Nat) : Nat :=
  if kselA i w then g.kcells w.a.toNat n else t.cells w.a.toNat n
/-- Source C of `n` cells. -/
def srcC (i : Instr) (g : Group) (w : CastWord) (t : Thread) (n : Nat) : Nat :=
  if kselC i w then g.kcells w.c.toNat n else t.cells w.c.toNat n
/-- Source B of `n` cells; with IMMB the immediate, sign-extended for s types and zero-extended otherwise (R52). -/
def srcB (i : Instr) (g : Group) (w : CastWord) (t : Thread) (n : Nat) : Nat :=
  if w.mod.getLsbD 0 && !isSprue i && !isCall i then
    (if isSigned w.ty then wrap (32 * n) (sext 32 w.imm.toNat) else w.imm.toNat)
  else if kselB i w then g.kcells w.b.toNat n else t.cells w.b.toNat n

/-! ### Decode checks at issue (R58) -/

/-- The checks of R58 in order: ILLOP, PRIV, ILLCLASS; `none` when all pass. `win` is the window W of the launch that executes the
word, never the W it was assembled for (R73). -/
def checkWord (win : Nat) (hmode : Bool) (tc : Nat) (i : Instr) : Option Nat :=
  match opSpec i with
  | some (sp, w) =>
    if !legalIn win i sp w then some causeIllop
    else if sp.form == .handler && !hmode then some causePriv
    else if w.tc.toNat < sp.cls then some causeIllclass else none
  | none => match plainClass i with
    | some cls => if tc < cls then some causeIllclass else none
    | none => some causeIllop

/-- The checks for the word that the cursor issues. -/
def View.check (v : View) (i : Instr) : Option Nat := checkWord v.g.win v.nd.hmode v.s.cur.tc i

/-- The v cells that a word reads as sources (R51), for the errors of R357. -/
def vReads (i : Instr) : List Nat :=
  match opSpec i with
  | none => []
  | some (sp, w) =>
    let one (kd : Kind) (ksel : Bool) (f : BitVec 11) : List Nat :=
      match kd with
      | .v n => if ksel then [] else (List.range n).map (f.toNat + ·)
      | .vOnly n => (List.range n).map (f.toNat + ·)
      | _ => []
    one sp.a (kselA i w) w.a ++ (if usesImm i sp w then [] else one sp.b (kselB i w) w.b) ++ one sp.c (kselC i w) w.c

/-- Whether a thread reads a register cell with an uncorrectable error (R357). -/
def Thread.readsBad (t : Thread) (i : Instr) : Bool := !t.badCells.isEmpty && (vReads i).any t.badCells.contains

/-! ### Acting on lanes -/

/-- What an instruction does in one lane: the thread as it leaves it, or a trap with its cause and DETAIL. -/
inductive LaneRes | ok (t : Thread) | trap (t : Thread) (cause : Nat) (detail : DWord)
  deriving DecidableEq, Repr

def LaneRes.thread : LaneRes → Thread | .ok t => t | .trap t _ _ => t
def LaneRes.trap? : LaneRes → Option (Nat × DWord) | .ok _ => none | .trap _ c d => some (c, d)

/-- The group with the threads that the lanes' results leave. -/
def Group.apply (g : Group) (outs : List (Nat × LaneRes)) : Group :=
  { g with threads := g.threads.map fun (e : Nat × Thread) => match tfind outs e.1 with | some r => (e.1, r.thread) | none => e }

/-- Lanes of the results that trap. -/
def trapsOf (outs : List (Nat × LaneRes)) : Table (Nat × DWord) := outs.filterMap fun e => e.2.trap?.map fun x => (e.1, x)

/-- Complete an instruction: the other lanes go on at the next word, the trapping ones take their trap (R103). -/
def View.finish (v : View) (s : State) (outs : List (Nat × LaneRes)) : State :=
  let g := v.g.apply outs
  let g := g.setNode { v.nd with pc := v.nd.pc + 16, st := .ready, fatal := [] }
  match trapsOf outs with
  | [] => s.setGroup v.c v.slot g
  | ts => s.takeTrap v.c v.slot g v.nd ts

/-- An L-form word that touches only registers: decode checks, then each active lane (R55, R58, R140). -/
def View.lane (v : View) (i : Instr) (w : CastWord) (f : Nat → Thread → LaneRes) : State :=
  match v.check i with
  | some cause => v.trapAll cause 0
  | none => v.finish v.s ((v.active w).map fun l =>
      let t := v.g.thread l
      (l, if t.readsBad i then .trap t causePoison 0 else f l t))

/-- A U-form word: decode checks, then its one effect (R55). -/
def View.uniform (v : View) (i : Instr) (f : View → State) : State :=
  match v.check i with | some cause => v.trapAll cause 0 | none => f v

/-- The 128-bit word of the instruction being issued: the fetched one, or the encoding of one performed by itself. -/
def State.wordOf (s : State) (i : Instr) : BitVec 128 :=
  if decodeCast s.cur.word = some i then s.cur.word else (encodeCast i).getD 0

/-- The group after a word with no effect on its fragment but the next PC. -/
def View.next (v : View) (g : Group) : State := v.s.setGroup v.c v.slot (g.setNode { v.nd with pc := v.nd.pc + 16, st := .ready, fatal := [] })

end Sys2Proof.Machine
end

