-- ==== Sys2Proof/Machine/Integer.lean ====
section
/-! DEFINITION. The integer unit (R140-R162): one meaning per instruction, over the operand forms of Operands. -/

namespace Sys2Proof.Machine

/-- Write a typed result into D (R49, R140). -/
def putInt (w : CastWord) (t : Thread) (x : Nat) : LaneRes :=
  .ok (t.setCells w.d.toNat (cellsOf w.lc) (extend w.ty (widthOf w.ty w.lc) x))

/-- The common shape of a two-source integer word: val(A, T), val(B, T), result under res (R140). -/
def intTwo (i : Instr) (w : CastWord) (sat : Bool) (f : Int → Int → Int) (s : State) : Out :=
  onFrag s fun v => v.lane i w fun _ t =>
    let n := widthOf w.ty w.lc
    let k := cellsOf w.lc
    putInt w t (resOf w.ty n sat (f (valOf w.ty n (srcA i v.g w t k)) (valOf w.ty n (srcB i v.g w t k))))

/-- R145: iadd. -/
def execIadd (w : CastWord) (s : State) : Out := intTwo (.iadd w) w (w.modBit 1) (· + ·) s
/-- R145: isub. -/
def execIsub (w : CastWord) (s : State) : Out := intTwo (.isub w) w (w.modBit 1) (· - ·) s
/-- R145: imin. -/
def execImin (w : CastWord) (s : State) : Out := intTwo (.imin w) w false (fun a b => if a < b then a else b) s
/-- R145: imax. -/
def execImax (w : CastWord) (s : State) : Out := intTwo (.imax w) w false (fun a b => if a > b then a else b) s
/-- R146: imul. -/
def execImul (w : CastWord) (s : State) : Out := intTwo (.imul w) w (w.modBit 1) (· * ·) s
/-- R146: imulh, the upper n bits of the exact product. -/
def execImulh (w : CastWord) (s : State) : Out :=
  intTwo (.imulh w) w false (fun a b => a * b / 2 ^ widthOf w.ty w.lc) s

/-- The shape of a one-source integer word. -/
def intOne (i : Instr) (w : CastWord) (f : Int → Int) (s : State) : Out :=
  onFrag s fun v => v.lane i w fun _ t =>
    let n := widthOf w.ty w.lc
    putInt w t (resOf w.ty n (w.modBit 1) (f (valOf w.ty n (srcA i v.g w t (cellsOf w.lc)))))

/-- R145: ineg. -/
def execIneg (w : CastWord) (s : State) : Out := intOne (.ineg w) w (fun a => -a) s
/-- R145: iabs. -/
def execIabs (w : CastWord) (s : State) : Out := intOne (.iabs w) w (fun a => if a < 0 then -a else a) s

/-- R146: imad; with WIDE, 32-bit products and a 64-bit addend and result of the same signedness. -/
def execImad (w : CastWord) (s : State) : Out :=
  onFrag s fun v => v.lane (.imad w) w fun _ t =>
    let i := Instr.imad w
    let n := widthOf w.ty w.lc
    let k := cellsOf w.lc
    let a := valOf w.ty n (srcA i v.g w t k)
    let b := valOf w.ty n (srcB i v.g w t k)
    if w.modBit 2 then
      let c := valOf w.ty 64 (srcC i v.g w t 2)
      .ok (t.setCells w.d.toNat 2 (resOf w.ty 64 (w.modBit 1) (a * b + c)))
    else putInt w t (resOf w.ty n (w.modBit 1) (a * b + valOf w.ty n (srcC i v.g w t k)))

/-- One restoring step of R147 on (Q, RM). -/
def divStep (n b : Nat) (st : Nat × Nat) : Nat × Nat :=
  let rm := 2 * st.2 + st.1 / 2 ^ (n - 1) % 2
  let q := 2 * st.1 % 2 ^ n
  if rm ≥ b then (q + 1, rm - b) else (q, rm)

def divSteps (n b : Nat) : Nat → Nat × Nat → Nat × Nat
  | 0, st => st
  | k + 1, st => divSteps n b k (divStep n b st)

/-- R147: idivs, eight quotient bits. -/
def execIdivs (w : CastWord) (s : State) : Out :=
  onFrag s fun v => v.lane (.idivs w) w fun _ t =>
    let n := widthOf w.ty w.lc
    let k := cellsOf w.lc
    let a := srcA (.idivs w) v.g w t (2 * k)
    let (q, rm) := divSteps n (srcB (.idivs w) v.g w t k % 2 ^ n) 8 (a % 2 ^ n, a / 2 ^ n)
    .ok (t.setCells w.d.toNat (2 * k) (q + rm % 2 ^ n * 2 ^ n))

/-- R148: idive, signs and the zero divisor. -/
def execIdive (w : CastWord) (s : State) : Out :=
  onFrag s fun v => v.lane (.idive w) w fun _ t =>
    let n := widthOf w.ty w.lc
    let k := cellsOf w.lc
    let a := srcA (.idive w) v.g w t (2 * k)
    let q : Int := (a % 2 ^ n : Nat)
    let r : Int := (a / 2 ^ n : Nat)
    let b := valOf w.ty n (srcB (.idive w) v.g w t k)
    let c := valOf w.ty n (srcC (.idive w) v.g w t k)
    let (q', r') : Nat × Nat :=
      if b = 0 then (2 ^ n - 1, wrap n c)
      else if isSigned w.ty then
        (wrap n (if decide (c < 0) != decide (b < 0) then -q else q), wrap n (if c < 0 then -r else r))
      else (wrap n q, wrap n r)
    .ok (t.setCells w.d.toNat (2 * k) (q' + r' * 2 ^ n))

/-- The shape of a two-source logic word (R149). -/
def logicTwo (i : Instr) (w : CastWord) (f : Nat → Nat → Nat) (s : State) : Out :=
  onFrag s fun v => v.lane i w fun _ t =>
    let k := cellsOf w.lc
    .ok (t.setCells w.d.toNat k (f (srcA i v.g w t k) (srcB i v.g w t k) % 2 ^ (32 * k)))

/-- R149: and. -/
def execAnd (w : CastWord) (s : State) : Out := logicTwo (.and w) w (· &&& ·) s
/-- R149: or. -/
def execOr (w : CastWord) (s : State) : Out := logicTwo (.or w) w (· ||| ·) s
/-- R149: xor. -/
def execXor (w : CastWord) (s : State) : Out := logicTwo (.xor w) w (· ^^^ ·) s
/-- R149: andn, A ∧ ¬B. -/
def execAndn (w : CastWord) (s : State) : Out := logicTwo (.andn w) w (fun a b => a - (a &&& b)) s

/-- R149: not. -/
def execNot (w : CastWord) (s : State) : Out :=
  onFrag s fun v => v.lane (.not w) w fun _ t =>
    let k := cellsOf w.lc
    .ok (t.setCells w.d.toNat k (2 ^ (32 * k) - 1 - srcA (.not w) v.g w t k))

/-- The bits that a function of the bit position gives. -/
def bitsFrom (n : Nat) (f : Nat → Bool) : Nat := (List.range n).foldl (fun acc i => if f i then acc + 2 ^ i else acc) 0

/-- R150: tern, TT[A[i] + 2 B[i] + 4 C[i]] at each bit. -/
def execTern (w : CastWord) (s : State) : Out :=
  onFrag s fun v => v.lane (.tern w) w fun _ t =>
    let k := cellsOf w.lc
    let a := srcA (.tern w) v.g w t k
    -- MOD[0] is not IMMB in tern (R143)
    let b := srcB (.tern w) v.g w t k
    let c := srcC (.tern w) v.g w t k
    .ok (t.setCells w.d.toNat k (bitsFrom (32 * k) fun i =>
      w.imm.toNat.testBit ((a.testBit i).toNat + 2 * (b.testBit i).toNat + 4 * (c.testBit i).toNat)))

/-- The shape of a shift: the count is one cell, read as .z32 whatever the type (R151). -/
def shiftWord (i : Instr) (w : CastWord) (f : Nat → Nat → Nat → Nat) (s : State) : Out :=
  onFrag s fun v => v.lane i w fun _ t =>
    let n := widthOf w.ty w.lc
    let a := srcA i v.g w t (cellsOf w.lc) % 2 ^ n
    putInt w t (f n a (srcB i v.g w t 1 % 2 ^ 32))

/-- R151: shl. -/
def execShl (w : CastWord) (s : State) : Out := shiftWord (.shl w) w (fun n a k => if k < n then a * 2 ^ k % 2 ^ n else 0) s
/-- R151: shr. -/
def execShr (w : CastWord) (s : State) : Out := shiftWord (.shr w) w (fun n a k => if k < n then a / 2 ^ k else 0) s
/-- R151: sar. -/
def execSar (w : CastWord) (s : State) : Out :=
  shiftWord (.sar w) w (fun n a k => wrap n (sext n a / 2 ^ (min k n))) s
/-- R151: rot, to the left. -/
def execRot (w : CastWord) (s : State) : Out :=
  shiftWord (.rot w) w (fun n a k => (a * 2 ^ (k % n) % 2 ^ n) + a / 2 ^ (n - k % n)) s

/-- pos and len of a bit-field word (R152). -/
def fieldPos (b : Nat) : Nat := b % 256
def fieldLen (n b : Nat) : Nat := min (b / 256 % 256) n

/-- R152: bfx. -/
def execBfx (w : CastWord) (s : State) : Out :=
  onFrag s fun v => v.lane (.bfx w) w fun _ t =>
    let n := widthOf w.ty w.lc
    let a := valOf w.ty n (srcA (.bfx w) v.g w t (cellsOf w.lc))
    let b := srcB (.bfx w) v.g w t 1
    let len := fieldLen n b
    let x := wrap len (a / 2 ^ fieldPos b)
    putInt w t (if len = 0 then 0 else wrap n (valOf w.ty len x))

/-- R152: bfi. -/
def execBfi (w : CastWord) (s : State) : Out :=
  onFrag s fun v => v.lane (.bfi w) w fun _ t =>
    let n := widthOf w.ty w.lc
    let k := cellsOf w.lc
    let a := srcA (.bfi w) v.g w t k % 2 ^ n
    let c := srcC (.bfi w) v.g w t k % 2 ^ n
    let b := srcB (.bfi w) v.g w t 1
    let pos := fieldPos b
    let len := fieldLen n b
    putInt w t (bitsFrom n fun i => if pos ≤ i ∧ i < min (pos + len) n then a.testBit (i - pos) else c.testBit i)

/-- R153: popc. -/
def execPopc (w : CastWord) (s : State) : Out :=
  onFrag s fun v => v.lane (.popc w) w fun _ t =>
    let k := cellsOf w.lc
    let a := srcA (.popc w) v.g w t k
    .ok (t.setCells w.d.toNat 1 (((List.range (32 * k)).filter fun i => a.testBit i).length))

/-- R153: clz. -/
def execClz (w : CastWord) (s : State) : Out :=
  onFrag s fun v => v.lane (.clz w) w fun _ t =>
    let k := cellsOf w.lc
    let a := srcA (.clz w) v.g w t k
    .ok (t.setCells w.d.toNat 1 (32 * k - (if a = 0 then 0 else Nat.log2 a + 1)))

/-- R153: brev. -/
def execBrev (w : CastWord) (s : State) : Out :=
  onFrag s fun v => v.lane (.brev w) w fun _ t =>
    let k := cellsOf w.lc
    let a := srcA (.brev w) v.g w t k
    .ok (t.setCells w.d.toNat k (bitsFrom (32 * k) fun i => a.testBit (32 * k - 1 - i)))

/-- R154: perm. -/
def execPerm (w : CastWord) (s : State) : Out :=
  onFrag s fun v => v.lane (.perm w) w fun _ t =>
    let pool := srcA (.perm w) v.g w t 1 + srcB (.perm w) v.g w t 1 * 2 ^ 32
    let c := srcC (.perm w) v.g w t 1
    let byte (i : Nat) : Nat :=
      let sel := c / 256 ^ i % 256
      let b := if sel.testBit 3 then 0 else pool / 256 ^ (sel % 8) % 256
      if sel.testBit 4 then 255 - b else b
    .ok (t.setCells w.d.toNat 1 (byte 0 + byte 1 * 256 + byte 2 * 65536 + byte 3 * 16777216))

/-- The relations of icmp, fcmp and waitv on integers (R155, R206). -/
def CmpOp.holds (m : CmpOp) (a b : Int) : Bool :=
  match m with
  | .eq => a == b | .ne => a != b | .lt => decide (a < b) | .le => decide (a ≤ b) | .gt => decide (a > b) | .ge => decide (a ≥ b)

/-- COMB of icmp and fcmp: alone, ANDed or ORed with predicate C (R155). -/
def combine (w : CastWord) (t : Thread) (r : Bool) : Bool :=
  if w.comb = 1 then r && t.p w.c.toNat else if w.comb = 2 then r || t.p w.c.toNat else r

/-- R155: icmp. -/
def execIcmp (m : CmpOp) (w : CastWord) (s : State) : Out :=
  onFrag s fun v => v.lane (.icmp m w) w fun _ t =>
    let n := widthOf w.ty w.lc
    let k := cellsOf w.lc
    let r := CmpOp.holds m (valOf w.ty n (srcA (.icmp m w) v.g w t k)) (valOf w.ty n (srcB (.icmp m w) v.g w t k))
    .ok (t.setP w.d.toNat (combine w t r))

/-- R156: sel. -/
def execSel (w : CastWord) (s : State) : Out :=
  onFrag s fun v => v.lane (.sel w) w fun _ t =>
    let k := cellsOf w.lc
    .ok (t.setCells w.d.toNat k (if t.p w.c.toNat then srcA (.sel w) v.g w t k else srcB (.sel w) v.g w t k))

/-- R157: mov copies B into D. -/
def execMov (w : CastWord) (s : State) : Out :=
  onFrag s fun v => v.lane (.mov w) w fun _ t =>
    let k := cellsOf w.lc
    .ok (t.setCells w.d.toNat k (srcB (.mov w) v.g w t k))

/-- R158: icvt. -/
def execIcvt (w : CastWord) (s : State) : Out :=
  onFrag s fun v => v.lane (.icvt w) w fun _ t =>
    let st : BitVec 4 := (w.mod >>> 4).setWidth 4
    let n := widthOf st 0
    let a := valOf st n (srcA (.icvt w) v.g w t (if n = 64 then 2 else 1))
    putInt w t (resOf w.ty (widthOf w.ty w.lc) (w.modBit 1) a)

/-- R159: lea, (A + e × 2^SCALE + sext(IMM)) mod 2^64. -/
def execLea (w : CastWord) (s : State) : Out :=
  onFrag s fun v => v.lane (.lea w) w fun _ t =>
    let a := srcA (.lea w) v.g w t 2
    let b := if kselB (.lea w) w then v.g.kcells w.b.toNat 1 else t.cells w.b.toNat 1
    let e : Int := if w.modBit 4 then (b : Int) else sext 32 b
    let scale := ((w.mod >>> 1) &&& 7).toNat
    .ok (t.setCells w.d.toNat 2 (wrap 64 ((a : Int) + e * 2 ^ scale + sext 32 w.imm.toNat)))

/-- R160: lea.glb; a private-aperture pointer becomes its global alias (R165, R166). -/
def execLeaGlb (w : CastWord) (s : State) : Out :=
  onFrag s fun v => v.lane (.leaGlb w) w fun _ t =>
    let a := srcA (.leaGlb w) v.g w t 2
    let base := 0x01FFFFFE00000000
    let x := if base ≤ a ∧ a ≤ base + 0xFFFF then privVa v.l.rec_ t.g (a - base) else a
    .ok (t.setCells w.d.toNat 2 x)

/-- The shape of a dot product of `e` elements of `n` bits (R162). -/
def dotWord (i : Instr) (w : CastWord) (e n : Nat) (s : State) : Out :=
  onFrag s fun v => v.lane i w fun _ t =>
    let a := srcA i v.g w t 1
    -- the immediate of a dot product is extended as its type says, and only 32 bits matter
    let b := srcB i v.g w t 1
    let elem (signed : Bool) (x j : Nat) : Int :=
      let y := x / 2 ^ (n * j) % 2 ^ n
      if signed then sext n y else (y : Int)
    let sum := (List.range e).foldl (fun acc j => acc + elem (w.modBit 2) a j * elem (w.modBit 3) b j) (valOf w.ty 32 (srcC i v.g w t 1))
    .ok (t.setCells w.d.toNat 1 (resOf w.ty 32 (w.modBit 1) sum))

/-- R162: idp4. -/
def execIdp4 (w : CastWord) (s : State) : Out := dotWord (.idp4 w) w 4 8 s
/-- R162: idp2. -/
def execIdp2 (w : CastWord) (s : State) : Out := dotWord (.idp2 w) w 2 16 s

end Sys2Proof.Machine
end

