-- ==== Sys2Proof/Machine/Virt.lean ====
section
/-! DEFINITION. Memory as a fragment reaches it: spaces, apertures and windows (R16, R164-R167), pages (R169-R172),
and the shared driver of the memory words. -/

namespace Sys2Proof.Machine

/-! ### Ranges of virtual memory -/

/-- The parts of `n` bytes at `va`, cut at page boundaries: address and length. -/
def pieces (va n : Nat) : List (Nat × Nat) :=
  if n = 0 then []
  else (List.range ((va + n - 1) / 4096 - va / 4096 + 1)).map fun i =>
    let a := max va ((va / 4096 + i) * 4096)
    (a, min (va + n) ((va / 4096 + i + 1) * 4096) - a)

/-- What translation gives a range: its physical parts, the pages that miss, or the first address refused. -/
inductive RangeTr | ok (ps : List (Nat × Nat)) | miss (pages : List Nat) | bad (va : Nat) deriving DecidableEq, Repr

/-- Combine the translations of a range's parts (R169 steps 3 and 4, R172): any miss waits; then the first refusal. -/
def rangeOf (xs : List ((Nat × Nat) × Tr)) : RangeTr :=
  let misses := (xs.filter fun x => x.2 == .miss).map fun x => pageOf x.1.1
  if !misses.isEmpty then .miss misses
  else match xs.find? fun x => match x.2 with | .hit _ => false | _ => true with
    | some x => .bad x.1.1
    | none => .ok (xs.filterMap fun x => match x.2 with | .hit pa => some (pa, x.1.2) | _ => none)

/-- Translate a range for a core. -/
def State.trRange (s : State) (c ctx : Nat) (fatal : List Nat) (need : Need) (va n : Nat) : RangeTr :=
  rangeOf ((pieces va n).map fun p => (p, s.translate c ctx fatal need p.1))

/-- What a plain load of a core would read, with nothing filled. -/
def State.peek (s : State) (c pa n : Nat) : PRes :=
  if s.l1Used c pa then
    if (sectorsOf pa n).any fun sec => s.l1Poison c sec then .poison else .ok (s.coreBytes c pa n)
  else s.homeRead pa n

/-- Join the reads of a range's parts, the low part first; a refusal or poison of any part is that of the range. -/
def joinRes (n : Nat) (a b : PRes) : PRes :=
  match a, b with
  | .refused, _ => .refused
  | .poison, .refused => .refused
  | .poison, _ => .poison
  | .ok _, .refused => .refused
  | .ok _, .poison => .poison
  | .ok x, .ok y => .ok (x + y * 256 ^ n)

def State.peekParts (s : State) (c : Nat) : List (Nat × Nat) → PRes
  | [] => .ok 0
  | p :: ps => joinRes p.2 (s.peek c p.1 p.2) (State.peekParts s c ps)

/-- Read the parts of a range, as a plain load of a core or at the device point (R181). -/
def State.readParts (s : State) (c : Nat) (home : Bool) : List (Nat × Nat) → State × PRes
  | [] => (s, .ok 0)
  | p :: ps =>
    let (s, a) := if home then let s := (s.l1Flush c p.1 p.2).cacheTouch p.1 p.2 false; (s, s.homeRead p.1 p.2) else s.coreRead c p.1 p.2
    let (s, b) := State.readParts s c home ps
    (s, joinRes p.2 a b)

/-- The lowest poisoned address of a range that lies at these parts (R192). -/
def State.poisonAt (s : State) (va n : Nat) (ps : List (Nat × Nat)) : Nat :=
  (((pieces va n).zip ps).findSome? fun (p, q) =>
    (sectorsOf q.1 q.2).findSome? fun sec => if s.mem.poison.contains sec then some (p.1 + (max (32 * sec) q.1 - q.1)) else none).getD va

/-- Write the parts of a range; answers whether the home slice accepted every part (R39). -/
def State.writeParts (s : State) (c : Nat) (home : Bool) (k : WKind) : List (Nat × Nat) → Nat → State × Bool
  | [], _ => (s, true)
  | p :: ps, x =>
    let r := if home then s.pointWrite c p.1 p.2 (x % 256 ^ p.2) k else s.coreWrite c p.1 p.2 (x % 256 ^ p.2) k
    let (s, good) := match r with | some s => (s, true) | none => (s, false)
    let (s, rest) := State.writeParts s c home k ps (x / 256 ^ p.2)
    (s, good && rest)

/-! ### Scratchpad windows (R16, R167) -/

/-- The window record of a block on a core. -/
def State.window? (s : State) (c li b : Nat) : Option Window := (s.core c).wins.find? fun w => w.launch == li && w.block == b

/-- Whether each of `n` bytes at an offset lies in one of the block's windows: windows of 2^18 bytes adjoin (R167). -/
def Window.holds (w : Window) (off n : Nat) : Bool :=
  decide (off < 2 ^ 20 ∧ off + n ≤ 2 ^ 20 ∧ (off % 2 ^ 18 + n ≤ w.q ∨ w.q = 2 ^ 18))

/-- A change to a block's windows on a core. -/
def State.mapWindow (s : State) (c li b : Nat) (f : Window → Window) : State :=
  s.setCore c { s.core c with wins := (s.core c).wins.map fun w => if w.launch == li && w.block == b then f w else w }

/-- The `n` bytes at an offset of a window. -/
def Window.read (w : Window) (off : Nat) : Nat → Nat
  | 0 => 0
  | n + 1 => (tget 0#8 w.bytes off).toNat + 256 * Window.read w (off + 1) n

def Window.write (w : Window) (off : Nat) : Nat → Nat → Window
  | 0, _ => w
  | n + 1, x => Window.write { w with bytes := tset 0#8 w.bytes off (BitVec.ofNat 8 x) } (off + 1) n (x / 256)

def Window.poisoned (w : Window) (off n : Nat) : Bool := (sectorsOf off n).any w.poison.contains

/-- A store to a window; a whole sector written loses its marker (R192). -/
def Window.store (w : Window) (off n x : Nat) : Window :=
  let w := w.write off n x
  { w with poison := w.poison.filter fun p => !(decide (off ≤ 32 * p) && decide (32 * p + 32 ≤ off + n)) }

/-! ### Resolving an address (R164-R167) -/

/-- Where an access goes: a global virtual address, or an offset of the block's windows on a core. -/
inductive Loc | glob (va : Nat) | pad (core off : Nat) deriving DecidableEq, Repr

/-- The windows of a block on a core, if the access lies inside them. -/
def State.padLoc (s : State) (li b c off n : Nat) : Option Loc :=
  match s.window? c li b with
  | some w => if w.holds off n then some (.pad c off) else none
  | none => none

/-- A flask-scratchpad offset names the core of this flask in bits 25:20 (R16); it must carry a group of the block (R167). -/
def State.fpadLoc (s : State) (li b c off n : Nat) : Option Loc :=
  let k := 48 * flaskOf c + bits off 20 6
  if off < 2 ^ 26 ∧ bits off 20 6 < 48 ∧ s.carries k li b then s.padLoc li b k (off % 2 ^ 20) n else none

/-- A private offset of a thread (R166). -/
def privLoc (r : LaunchRec) (g off n : Nat) : Option Loc := if off + n ≤ 65536 then some (.glob (privVa r g off)) else none

/-- A global or constant address (R165): canonical and below the apertures. -/
def globLoc (a n : Nat) : Option Loc := if a + n ≤ 0x01FFFFFC00000000 then some (.glob a) else none

/-- Resolve an address of `n` bytes in a space, for a block's thread with global index `g` on core `c`; none is ACCESS
under R169 step 1. -/
def State.resolve (s : State) (r : LaunchRec) (li b c g space a n : Nat) : Option Loc :=
  match space with
  | 0 =>
    if a < 0x01FFFFFC00000000 then globLoc a n
    else if a ≤ 0x01FFFFFC03FFFFFF then s.fpadLoc li b c (a - 0x01FFFFFC00000000) n
    else if 0x01FFFFFD00000000 ≤ a ∧ a ≤ 0x01FFFFFD000FFFFF then s.padLoc li b c (a - 0x01FFFFFD00000000) n
    else if 0x01FFFFFE00000000 ≤ a ∧ a ≤ 0x01FFFFFE0000FFFF then privLoc r g (a - 0x01FFFFFE00000000) n
    else none
  | 2 => s.padLoc li b c a n
  | 3 => s.fpadLoc li b c a n
  | 4 => privLoc r g a n
  -- image space takes only the .b types of R198, which the image words check themselves (log 128)
  | 6 => none
  | _ => globLoc a n

/-- The address that a lane forms (R164). -/
def addressOf (w : CastWord) (g : Group) (t : Thread) : Nat :=
  let n := if w.space = 2 ∨ w.space = 3 ∨ w.space = 4 then 1 else 2
  let base := if w.ka then g.kcells w.a.toNat n else t.cells w.a.toNat n
  wrap (32 * n) ((base : Int) + sext 32 w.imm.toNat)

/-- Resolve a lane's access. -/
def View.locate (v : View) (t : Thread) (space a n : Nat) : Option Loc :=
  v.s.resolve v.l.rec_ v.g.launch v.g.block v.c t.g space a n

/-! ### Reads and writes of a place -/

/-- Whether the parts of an access lie in host memory (R191). -/
def State.isHost (s : State) (pa : Nat) : Bool := match s.paRegion pa with | some .host => true | _ => false

/-- Translate a place for the fragment; a window needs no translation. -/
def View.trLoc (v : View) (need : Need) (loc : Loc) (n : Nat) : RangeTr :=
  match loc with
  | .glob va => v.s.trRange v.c v.g.ctx v.nd.fatal need va n
  | .pad _ _ => .ok []

/-- Read a place of `n` bytes. -/
def View.read (v : View) (s : State) (home : Bool) (loc : Loc) (n : Nat) : State × PRes :=
  match loc with
  | .glob _ => match v.trLoc .r loc n with
    | .ok ps => s.readParts v.c home ps
    | _ => (s, .refused)
  | .pad c off => match s.window? c v.g.launch v.g.block with
    | some w => (s, if w.poisoned off n then .poison else .ok (w.read off n))
    | none => (s, .refused)

/-- Read a place with nothing filled. -/
def View.peek (v : View) (loc : Loc) (n : Nat) : PRes :=
  match loc with
  | .glob _ => match v.trLoc .r loc n with
    | .ok ps => v.s.peekParts v.c ps
    | _ => .refused
  | .pad c off => match v.s.window? c v.g.launch v.g.block with
    | some w => if w.poisoned off n then .poison else .ok (w.read off n)
    | none => .refused

/-- Write a place of `n` bytes; answers whether the home slice accepted it (R39). -/
def View.write (v : View) (s : State) (home : Bool) (k : WKind) (loc : Loc) (n x : Nat) : State × Bool :=
  match loc with
  | .glob _ => match v.trLoc .w loc n with
    | .ok ps => s.writeParts v.c home k ps x
    | _ => (s, true)
  | .pad c off => (s.mapWindow c v.g.launch v.g.block fun w => w.store off n x, true)

/-! ### The driver of the memory words (R169-R172, R188) -/

/-- What the checks of R169 say of a lane: steps 1 and 2, a miss, a miss of a plain read that the word makes besides, step
4, or that it may perform. -/
inductive LaneAct | early (cause : Nat) (detail : DWord) | miss (pages : List Nat) | missRead (pages : List Nat) | late (cause : Nat) (detail : DWord) | ready
  deriving DecidableEq, Repr

/-- The check of one access of `n` bytes at address `a`, aligned to `al` (R169, R170). -/
def View.checkAccess (v : View) (t : Thread) (space a n al : Nat) (need : Need) : LaneAct :=
  let d := BitVec.ofNat 64 a
  match v.locate t space a n with
  | none => .early causeAccess d
  | some loc =>
    if a % al ≠ 0 then .early causeMisalign d
    else match v.trLoc need loc n with
      | .miss ps => .miss ps
      | .bad _ => .late causeAccess d
      | .ok _ => .ready

/-- The pages that some lanes wait for: those of the access, and those of a plain read beside it. -/
def missing (acts : List (Nat × LaneAct)) : List Nat := acts.flatMap fun e => match e.2 with | .miss ps => ps | _ => []
def missingReads (acts : List (Nat × LaneAct)) : List Nat := acts.flatMap fun e => match e.2 with | .missRead ps => ps | _ => []
/-- The lanes that failed steps 1 and 2. -/
def earlyOf (acts : List (Nat × LaneAct)) : Table (Nat × DWord) :=
  acts.filterMap fun e => match e.2 with | .early c d => some (e.1, c, d) | _ => none

/-- Perform the ready lanes in ascending order (R188); the others trap. -/
def View.performLanes (v : View) (perform : State → Nat → Thread → State × LaneRes) :
    State → List (Nat × LaneAct) → State × List (Nat × LaneRes)
  | s, [] => (s, [])
  | s, (l, a) :: rest =>
    let t := v.g.thread l
    let (s, r) := match a with
      | .early c d => (s, .trap t c d)
      | .late c d => (s, .trap t c d)
      | .miss _ => (s, .ok t)
      | .missRead _ => (s, .ok t)
      | .ready => perform s l t
    let (s, rs) := View.performLanes v perform s rest
    (s, (l, r) :: rs)

/-! ### qfence (R184, R205) -/

/-- Whether a command of a rank and acceptance number comes before a qfence. -/
def QFence.after (q : QFence) (rank seq : Nat) : Bool := decide (rank < q.rank) || (rank == q.rank && decide (seq < q.upTo))
/-- Whether a Crucible or Ladle command accepted before a qfence has not performed. -/
def QFence.crucLeft (q : QFence) (g : Group) : Bool := q.names.getLsbD 1 && g.cruc.queue.any fun x => q.after x.rank x.seq && !x.done
def QFence.ladleLeft (q : QFence) (g : Group) : Bool := q.names.getLsbD 2 && g.ladle.queue.any fun x => q.after x.rank x.seq && !x.done
def QFence.left (q : QFence) (g : Group) : Bool := q.crucLeft g || q.ladleLeft g

/-- Whether a qfence holds the memory events of some lanes, a Crucible command, or a Ladle command. -/
def Group.lsqHeld (g : Group) (m : Mask) : Bool := g.fences.any fun q => q.names.getLsbD 0 && (q.lanes &&& m) != 0 && q.left g
def Group.crucHeld (g : Group) (rank seq : Nat) : Bool := g.fences.any fun q => q.names.getLsbD 1 && !q.after rank seq && q.left g
def Group.ladleHeld (g : Group) (rank seq : Nat) : Bool := g.fences.any fun q => q.names.getLsbD 2 && !q.after rank seq && q.left g

/-- A memory word: decode checks, then the checks of every active lane; a miss parks the fragment; else `before` once,
every lane in order, and `after` once. A qfence that names LSQ holds it (R184). -/
def View.memory (v : View) (i : Instr) (w : CastWord) (need : Need) (plan : Nat → Thread → LaneAct)
    (perform : State → Nat → Thread → State × LaneRes) (before : State → State := id) (after : State → State := id) : State :=
  match v.check i with
  | some cause => v.trapAll cause 0
  | none =>
    if v.g.lsqHeld v.nd.mask then v.s
    else
    let acts := (v.active w).map fun l =>
      let t := v.g.thread l
      (l, if t.readsBad i then .early causePoison 0 else plan l t)
    match missing acts, missingReads acts with
    | [], [] =>
      let s := if acts.any (fun e => e.2 == .ready) then before v.s.settleReds else v.s
      let (s, outs) := v.performLanes perform s acts
      v.finish (if acts.any (fun e => e.2 == .ready) then after s else s) outs
    | pages, reads => v.park (earlyOf acts) need pages reads

/-! ### The spill stack (R90, R91, R208) -/

/-- The virtual address of offset `o` of a thread's spill area (R90). -/
def spillVa (r : LaunchRec) (t : Thread) (o : Nat) : Nat := (r.spillbase.toNat + t.g * r.spillstride + o) % 2 ^ 64

/-- SPILLLIMIT, read again by a plain load of the launch's context (R76). A miss gives the page to wait for. -/
def View.spillLimit (v : View) : List Nat × Nat :=
  let a := v.l.recAddr.toNat + 0x2C
  match v.s.trRange v.c v.g.ctx v.nd.fatal .r a 4 with
  | .miss ps => (ps, 0)
  | .bad _ => ([], v.l.rec_.spilllimit)
  | .ok ps => match v.s.peekParts v.c ps with
    | .ok x => ([], x)
    | _ => ([], v.l.rec_.spilllimit)

end Sys2Proof.Machine
end

