-- ==== Sys2Proof/Machine/Runner.lean ====
section
/-! DEFINITION. The Runner's instructions (R117-R138), but gred and gscan, which round as the Kiln does. -/

namespace Sys2Proof.Machine

/-! ### Control transfer -/

/-- Insert a part by its lowest lane. -/
def insertPart (p : Mask × DWord) : List (Mask × DWord) → List (Mask × DWord)
  | [] => [p]
  | q :: t => if lowLane q.1 < lowLane p.1 then q :: insertPart p t else p :: q :: t

/-- The parts of R119: one per distinct target among the taken lanes, and the others at the next word. -/
def transferParts (taken : List (Nat × DWord)) (rest : Mask) (next : DWord) : List (Mask × DWord) :=
  (partsOf taken ++ if rest = 0 then [] else [(rest, next)]).foldl (fun acc p => insertPart p acc) []

/-- Continue a fragment at its parts (R85, R119). -/
def Group.gotoParts (g : Group) (f : Node) (ps : List (Mask × DWord)) (rj : Nat) : Group :=
  match ps with
  | [] => g
  | [(_, t)] => g.setNode { f with pc := t, st := .ready, fatal := [] }
  | ps => (g.split f ps rj).norm

/-- Complete a control transfer: the trapping lanes leave first (R103), then the lanes that exit; of the others, those
with a target take it and the rest go on at the next word. -/
def View.transfer (v : View) (s : State) (g : Group) (traps : Table (Nat × DWord)) (exits : List Nat) (taken : List (Nat × DWord))
    (rj : Nat) : State :=
  let moved := maskOf (taken.map (·.1))
  let gone (l : Nat) : Bool := (tfind traps l).isSome || exits.contains l
  let stay := maskOf (v.lanes.filter fun l => !gone l && !moved.getLsbD l)
  v.guardPush (v.g.gotoParts { v.nd with mask := v.nd.mask &&& ~~~maskOf (v.lanes.filter gone) } (transferParts taken stay (v.nd.pc + 16)) rj) <|
  let s := if traps.isEmpty then s.setGroup v.c v.slot g else s.takeTrap v.c v.slot g v.nd traps
  let s := s.endLanes v.c v.slot exits
  if v.lanes.all fun l => (tfind traps l).isSome || exits.contains l then s
  else match s.group? v.c v.slot with
    | none => s
    | some g => match g.anyNode? v.nd.id with
      | none => s
      | some nd =>
        let m := maskOf (taken.map (·.1))
        let rest := maskOf ((g.lanes nd.mask).filter fun l => !m.getLsbD l)
        let v' : View := { v with s := s, g := g }
        s.putGroup v' (g.gotoParts nd (transferParts taken rest (nd.pc + 16)) rj)

/-- The target of bra and call: PC + 16 + 16 sext(IMM) modulo 2^57 (R119). -/
def View.target (v : View) (w : CastWord) : DWord :=
  BitVec.ofNat 64 (wrap 57 ((v.nd.pc.toNat : Int) + 16 + 16 * sext 32 w.imm.toNat))

/-- R118: nop. -/
def execNop (w : CastWord) (s : State) : Out :=
  onFrag s fun v => v.uniform (.nop w) fun v => v.next v.g

/-- R119: bra. -/
def execBra (w : CastWord) (s : State) : Out :=
  onFrag s fun v => v.uniform (.bra w) fun v =>
    v.transfer v.s v.g [] [] ((v.active w).map fun l => (l, v.target w)) w.rj

/-- The checks of a target taken from registers (R119). -/
def targetTrap (x : Nat) : Option (Nat × DWord) :=
  if x % 16 ≠ 0 then some (causeMisalign, BitVec.ofNat 64 x)
  else if 2 ^ 57 ≤ x then some (causeAccess, BitVec.ofNat 64 x) else none

/-- R119: brx. -/
def execBrx (w : CastWord) (s : State) : Out :=
  onFrag s fun v => v.uniform (.brx w) fun v =>
    let act := (v.active w).map fun l =>
      let t := v.g.thread l
      let x := srcA (.brx w) v.g w t 2
      (l, x, if t.readsBad (.brx w) then some (causePoison, (0 : DWord)) else targetTrap x)
    let traps := act.filterMap fun e => e.2.2.map fun x => (e.1, x)
    v.transfer v.s v.g traps [] ((act.filter fun e => e.2.2.isNone).map fun e => (e.1, BitVec.ofNat 64 e.2.1)) w.rj

/-! ### Calls (R89-R92, R120, R121) -/

/-- The 16 cells of chunk `j` of a record. -/
def chunkCells (t : Thread) (j : Nat) : List Word := (List.range 16).map fun i => t.cell (16 * j + i)

/-- The kind of a chunk (R91): 3 if all equal, 1 if the differences fit in 8 bits, 2 in 16 bits, else 0. -/
def chunkKind (cs : List Word) : Nat :=
  let c0 := cs.headD 0
  let fits (n : Nat) : Bool := cs.all fun c => decide (-(2 ^ (n - 1) : Int) ≤ (c - c0).toInt ∧ (c - c0).toInt < 2 ^ (n - 1))
  if cs.all (· == c0) then 3 else if fits 8 then 1 else if fits 16 then 2 else 0

/-- Bytes of a chunk of a kind. -/
def chunkBytes (kind : Nat) : Nat := match kind with | 0 => 68 | 1 => 24 | 2 => 40 | _ => 8

/-- Values of `n` bytes each, the first lowest. -/
def packLE (n : Nat) : List Nat → Nat
  | [] => 0
  | x :: t => x % 256 ^ n + 256 ^ n * packLE n t

/-- The bytes of a chunk as a value. -/
def chunkValue (cs : List Word) : Nat :=
  let c0 := cs.headD 0
  let diffs := (cs.drop 1).map fun c => (c - c0).toNat
  match chunkKind cs with
  | 0 => packLE 4 (cs.map (·.toNat)) * 2 ^ 32
  | 1 => 1 + c0.toNat * 2 ^ 32 + packLE 1 diffs * 2 ^ 64
  | 2 => 2 + c0.toNat * 2 ^ 32 + packLE 2 diffs * 2 ^ 64
  | _ => 3 + c0.toNat * 2 ^ 32

/-- Bytes with their length, one after the other. -/
def joinBytes : List (Nat × Nat) → Nat × Nat
  | [] => (0, 0)
  | (n, x) :: t => let (m, y) := joinBytes t; (n + m, x + y * 256 ^ n)

/-- The spill record of `d` cells: its length and bytes (R91). -/
def spillRecord (t : Thread) (d : Nat) (ret : DWord) : Nat × Nat :=
  let (n, x) := joinBytes ((List.range (d / 16)).map fun j => (chunkBytes (chunkKind (chunkCells t j)), chunkValue (chunkCells t j)))
  let pad := (n + 7) / 8 * 8
  let len := pad + 16
  (len, x + (ret.toNat + len * 2 ^ 64 + d * 2 ^ 96) * 256 ^ pad)

/-- Raise the window base by `d` cells: the top cells become zero (R120). -/
def Thread.raise (t : Thread) (d : Nat) : Thread :=
  { t with v := (t.v.filter fun (e : Nat × Word) => decide (d ≤ e.1)).map fun (e : Nat × Word) => (e.1 - d, e.2)
           badCells := (t.badCells.filter fun i => decide (d ≤ i)).map (· - d) }

/-- Lower the window base by `d` cells in a window of `win`; the cells given enter below (R121). -/
def Thread.lower (t : Thread) (win d : Nat) (cells : Nat) : Thread :=
  ({ t with
      v := (t.v.filter fun (e : Nat × Word) => decide (e.1 + d < win)).map fun (e : Nat × Word) => (e.1 + d, e.2)
      badCells := (t.badCells.filter fun i => decide (i + d < win)).map (· + d) }).setCells 0 d cells

/-- call and callx, given each lane's target or trap (R120). A lane that saves a cell with an uncorrectable error reads it (R357). -/
def View.call (v : View) (w : CastWord) (tgt : Nat → Thread → (Option (Nat × DWord)) × DWord) : State :=
  let d := 16 * w.mod.toNat
  let r := v.l.rec_
  let lanes := v.active w
  let (limPages, limit) := if lanes.isEmpty then ([], 0) else v.spillLimit
  let acts := lanes.map fun l =>
    let t := v.g.thread l
    let (len, _) := spillRecord t d (v.nd.pc + 16)
    let a := spillVa r t t.top
    let act : LaneAct := match (tgt l t).1 with
      | some (c, x) => .early c x
      | none =>
        if t.badCells.any (· < d) then .early causePoison 0
        else if !limPages.isEmpty then .missRead limPages
        else if limit < t.top + len then .late causeSpillExh 0
        else match v.s.trRange v.c v.g.ctx v.nd.fatal .w a len with
          | .miss ps => .miss ps
          | .bad _ => .late causeAccess (BitVec.ofNat 64 a)
          | .ok _ => .ready
    (l, act)
  match missing acts, missingReads acts with
  | [], [] =>
    let perform (s : State) (_ : Nat) (t : Thread) : State × LaneRes :=
      let (len, x) := spillRecord t d (v.nd.pc + 16)
      let s := (v.write s false {} (.glob (spillVa r t t.top)) len x).1
      (s, .ok ({ t with top := t.top + len }.raise d))
    let (s, outs) := v.performLanes perform v.s acts
    let traps := trapsOf outs
    v.transfer s (v.g.apply outs) traps [] ((lanes.filter fun l => (tfind traps l).isNone).map fun l => (l, (tgt l (v.g.thread l)).2)) w.rj
  | pages, reads => v.park (earlyOf acts) .w pages reads

/-- R120: call. -/
def execCall (w : CastWord) (s : State) : Out :=
  onFrag s fun v => v.uniform (.call w) fun v => v.call w fun _ _ => (none, v.target w)

/-- R120: callx; its targets are checked as those of brx. -/
def execCallx (w : CastWord) (s : State) : Out :=
  onFrag s fun v => v.uniform (.callx w) fun v => v.call w fun _ t =>
    let x := srcA (.callx w) v.g w t 2
    (if t.readsBad (.callx w) then some (causePoison, 0) else targetTrap x, BitVec.ofNat 64 x)

/-- Decode `k` chunks from the bytes of a record: the cells and the bytes used (R91, R121). -/
def readChunks (x avail : Nat) : Nat → Option (Nat × List Nat)
  | 0 => some (0, [])
  | k + 1 =>
    let kind := x % 2 ^ 32
    if 3 < kind ∨ avail < chunkBytes kind then none
    else
      let c0 := bits x 32 32
      let cs : List Nat := match kind with
        | 0 => (List.range 16).map fun i => bits x (32 + 32 * i) 32
        | 1 => c0 :: (List.range 15).map fun i => wrap 32 (c0 + sext 8 (bits x (64 + 8 * i) 8))
        | 2 => c0 :: (List.range 15).map fun i => wrap 32 (c0 + sext 16 (bits x (64 + 16 * i) 16))
        | _ => List.replicate 16 c0
      match readChunks (x / 256 ^ chunkBytes kind) (avail - chunkBytes kind) k with
      | none => none
      | some (n, rest) => some (chunkBytes kind + n, cs ++ rest)

/-- What ret does in a lane (R121). -/
inductive RetRes | exit | act (a : LaneAct) | go (len d : Nat) (pc : DWord) (cells : Nat) deriving DecidableEq, Repr

/-- The trailer and record of a lane's top spill record. -/
def View.ret1 (v : View) (t : Thread) : RetRes :=
  let r := v.l.rec_
  let fmt : RetRes := .act (.early causeFmt 0)
  let access (a : Nat) (n : Nat) (k : Nat → RetRes) : RetRes :=
    match v.trLoc .r (.glob a) n with
    | .miss ps => .act (.miss ps)
    | .bad _ => .act (.late causeAccess (BitVec.ofNat 64 a))
    | .ok _ => match v.peek (.glob a) n with
      | .ok x => k x
      | .poison => .act (.late causePoison (BitVec.ofNat 64 a))
      | .refused => .act (.late causeAccess (BitVec.ofNat 64 a))
  if t.top = 16 then .exit
  else access (spillVa r t (t.top - 16)) 16 fun tr =>
    let pc := tr % 2 ^ 64
    let len := bits tr 64 32
    let d := bits tr 96 16
    if len < 16 ∨ t.top - 16 < len ∨ v.g.win < d ∨ d % 16 ≠ 0 ∨ pc % 16 ≠ 0 then fmt
    else if len = 16 then (if d = 0 then .go len d (BitVec.ofNat 64 pc) 0 else fmt)
    else access (spillVa r t (t.top - len)) (len - 16) fun x =>
      match readChunks x (len - 16) (d / 16) with
      | none => fmt
      | some (n, cs) => if (n + 7) / 8 * 8 + 16 = len then .go len d (BitVec.ofNat 64 pc) (packLE 4 cs) else fmt

/-- R121: ret. -/
def execRet (w : CastWord) (s : State) : Out :=
  onFrag s fun v => v.uniform (.ret w) fun v =>
    let rs := (v.active w).map fun l => (l, v.ret1 (v.g.thread l))
    let acts := rs.map fun e => (e.1, match e.2 with | .act a => a | _ => LaneAct.ready)
    match missing acts with
    | [] =>
      let outs : List (Nat × LaneRes) := rs.map fun e =>
        let t := v.g.thread e.1
        (e.1, match e.2 with
          | .exit => .ok t
          | .act (.early c x) => .trap t c x
          | .act (.late c x) => .trap t c x
          | .act _ => .ok t
          | .go len d _ cells => .ok ({ t with top := t.top - len }.lower v.g.win d cells))
      let taken := rs.filterMap fun e => match e.2 with | .go _ _ pc _ => some (e.1, pc) | _ => none
      let exits := rs.filterMap fun e => match e.2 with | .exit => some e.1 | _ => none
      v.transfer v.s (v.g.apply outs) (trapsOf outs) exits taken 0
    | pages => v.park (earlyOf acts) .r pages

/-! ### Joins, exits, barriers, widths -/

/-- R122: join acts under R86 if the guard is true in every lane; otherwise as nop. -/
def execJoin (w : CastWord) (s : State) : Out :=
  onFrag s fun v => v.uniform (.join w) fun v =>
    if decide ((v.active w).length = v.lanes.length) && v.nd.rpc == some v.nd.pc then
      v.s.putGroup v ({ v.g with nodes := v.g.nodes.filter fun n => n.id != v.nd.id }.norm)
    else v.next v.g

/-- R123: exit ends each lane whose guard is true; the others go on. -/
def execExit (w : CastWord) (s : State) : Out :=
  onFrag s fun v => v.uniform (.exit w) fun v => (v.next v.g).endLanes v.c v.slot (v.active w)

/-- The arrivals of a fragment at barrier `n`: lanes that arrive first in the phase, and lanes that arrive again (R124). -/
def View.arrive (v : View) (n : Nat) (waits : Bool) : State :=
  match v.s.block? v.g.launch v.g.block with
  | none => v.next v.g
  | some b =>
    let wide := v.l.rec_.wideScope
    let s := v.s.releaseIf v.c wide
    let x := b.bar n
    let again := v.lanes.filter fun l => x.arrived.contains (v.g.thread l).tid
    let first := v.lanes.filter fun l => !x.arrived.contains (v.g.thread l).tid
    let x' : Barrier :=
      { x with arrived := sunion x.arrived (first.map fun l => (v.g.thread l).tid)
               later := sunion x.later (again.map fun l => (v.g.thread l).tid) }
    let s := s.setBlock v.g.launch v.g.block { b with bars := tput b.bars n x' }
    -- bar waits for the phase it counts in; arrive waits only to be counted in the next
    let stFirst : NodeState := if waits then .bar n x.phase else .ready
    let stAgain : NodeState := if waits then .bar n ((x.phase + 1) % 65536) else .bar n x.phase
    let put (nd : Node) (st : NodeState) : Node :=
      { nd with st := st, pc := if st == .ready then nd.pc + 16 else nd.pc, fatal := [] }
    let g :=
      if again.isEmpty then v.g.setNode (put v.nd stFirst)
      else if first.isEmpty then v.g.setNode (put v.nd stAgain)
      else
        let (g, ns) := (v.g.setNode { put v.nd stFirst with mask := maskOf first }).number
          [put { leafNode (maskOf again) v.nd.pc v.nd.rpc v.nd.parent v.nd.hmode with st := .ready } stAgain]
        g.addLeaves ns
    v.guardPush g ((s.putGroup { v with s := s } g).checkBar v.g.launch v.g.block n 2)

/-- R124: bar. -/
def execBar (w : CastWord) (s : State) : Out :=
  onFrag s fun v => v.uniform (.bar w) fun v => v.arrive (w.imm &&& 0xF).toNat true

/-- R124: arrive. -/
def execArrive (w : CastWord) (s : State) : Out :=
  onFrag s fun v => v.uniform (.arrive w) fun v => v.arrive (w.imm &&& 0xF).toNat false

/-- The value of setw and sleep: k(A), or IMM when A is 0 (R117). -/
def kOrImmVal (g : Group) (w : CastWord) : Nat := if w.a = 0 then w.imm.toNat else (g.kreg w.a.toNat).toNat

/-- R125: setw arrives at the block's rendezvous. -/
def execSetw (w : CastWord) (s : State) : Out :=
  onFrag s fun v => v.uniform (.setw w) fun v =>
    let n := kOrImmVal v.g w
    if !widths.contains n then v.trapAll causeIllop 0
    else match v.s.block? v.g.launch v.g.block with
      | none => v.next v.g
      | some b =>
        let s := v.s.releaseIf v.c v.l.rec_.wideScope
        let s := s.setBlock v.g.launch v.g.block { b with
          setwArrived := sunion b.setwArrived (v.lanes.map fun l => (v.g.thread l).tid)
          setwReq := if b.setwArrived.isEmpty then n else min b.setwReq n }
        (s.setGroup v.c v.slot (v.g.setNode { v.nd with st := .setw, fatal := [] })).checkSetw v.g.launch v.g.block

/-! ### Cross-lane words (R126-R128) -/

/-- S, the segment size (R126). -/
def segSize (g : Group) (w : CastWord) : Nat := if w.seg = 0 then g.grant else min (2 ^ w.seg) g.grant
/-- The active lanes of a lane's segment. -/
def segOf (act : List Nat) (sz l : Nat) : List Nat := act.filter fun j => j / sz == l / sz

/-- The source lane of shfl, if it lies in the segment (R127). -/
def shflLane (m : ShflOp) (sz l b : Nat) : Option Nat :=
  let base := l - l % sz
  match m with
  | .pick => some (base + b % sz)
  | .rot => some (base + (l - base + b) % sz)
  | .shift => let x := (l : Int) + sext 32 b; if (base : Int) ≤ x ∧ x < base + sz then some x.toNat else none
  | .pair => let x := (l - base) ^^^ b; if x < sz then some (base + x) else none

/-- R127: shfl. A lane that reads a cell with an error, its own or its source's, traps (R357). -/
def execShfl (m : ShflOp) (w : CastWord) (s : State) : Out :=
  onFrag s fun v =>
    let i := Instr.shfl m w
    let n := cellsOf w.lc
    let act := v.active w
    v.lane i w fun l t =>
      let b := srcB i v.g w t 1 % 2 ^ 32
      let src := match shflLane m (segSize v.g w) l b with | some x => if act.contains x then x else l | none => l
      let t' := v.g.thread src
      if !kselA i w && (List.range n).any (fun j => t'.badCells.contains (w.a.toNat + j)) then .trap t causePoison 0
      else .ok (t.setCells w.d.toNat n (srcA i v.g w t' n))

/-- R128: vote. -/
def execVote (m : VoteOp) (w : CastWord) (s : State) : Out :=
  onFrag s fun v =>
    let act := v.active w
    let p (l : Nat) : Bool := (v.g.thread l).p w.a.toNat
    v.lane (.vote m w) w fun l t =>
      let seg := segOf act (segSize v.g w) l
      match m with
      | .all => .ok (t.setP w.d.toNat (seg.all p))
      | .any => .ok (t.setP w.d.toNat (seg.any p))
      | .uni => .ok (t.setP w.d.toNat (seg.all p || seg.all fun j => !p j))
      | .ballot => .ok (t.setCells w.d.toNat 4 (maskOf (seg.filter p)).toNat)

/-- R128: elect. -/
def execElect (w : CastWord) (s : State) : Out :=
  onFrag s fun v =>
    let act := v.active w
    v.lane (.elect w) w fun l t => .ok (t.setP w.d.toNat ((segOf act (segSize v.g w) l).head? == some l))

/-! ### System registers (R114-R116, R131) -/

/-- LEVELID i of a thread (R78). -/
def levelId (r : LaunchRec) (g i : Nat) : Nat :=
  if i + 1 < r.nlev then g % r.siz (i + 1) / r.siz i else if i + 1 = r.nlev then g / r.siz i else 0

/-- The value of a system register in a lane (R114). -/
def View.sysVal (v : View) (l : Nat) (t : Thread) (n : Nat) : Nat :=
  if n = 0x00 then t.pr.toNat
  else if n = 0x01 then v.g.grant
  else if n = 0x02 then l
  else if n = 0x03 then t.tid
  else if n = 0x04 then v.g.k
  else if 0x08 ≤ n ∧ n ≤ 0x0F then levelId v.l.rec_ t.g (n - 8)
  else if n = 0x10 then (v.s.core v.c).cyc.toNat
  else if n = 0x11 then v.s.tick.toNat
  else if n = 0x12 then v.g.classpol.toNat
  else if n = 0x13 then t.trapcause.toNat
  else if n = 0x14 then t.trappc.toNat
  else t.fpflags.toNat

/-- R131: rdsys. -/
def execRdsys (w : CastWord) (s : State) : Out :=
  onFrag s fun v => v.lane (.rdsys w) w fun l t => .ok (t.setCells w.d.toNat (cellsOf w.lc) (v.sysVal l t w.a.toNat))

/-- The value that a write leaves in PR, or none where R115 forbids it. -/
def prWrite (x : Nat) : Option Word :=
  let p := bits x 0 8
  let rm := bits x 8 3
  if p = 1 ∨ 242 ≤ p ∨ 6 ≤ rm then none else some (BitVec.ofNat 32 x &&& 0x30FFF)

/-- R131: wrsys; the values are checked under R115 and R116. -/
def execWrsys (w : CastWord) (s : State) : Out :=
  onFrag s fun v =>
    let i := Instr.wrsys w
    let val (t : Thread) : Nat := srcA i v.g w t (cellsOf w.lc)
    let good := (v.active w).filter fun l => !(v.g.thread l).readsBad i && val (v.g.thread l) % 4 != 3
    let g := if w.d = 0x12 ∧ v.check i = none then match good.head? with
        | some l => { v.g with classpol := BitVec.ofNat 2 (val (v.g.thread l)) }
        | none => v.g
      else v.g
    let v : View := { v with g := g }
    v.lane i w fun _ t =>
      let x := val t
      if w.d = 0x00 then match prWrite x with
        | some p => .ok { t with pr := p }
        | none => .trap t causeIllop 0
      else if w.d = 0x12 then (if x % 4 = 3 then .trap t causeIllop 0 else .ok t)
      else if w.d = 0x14 then (if x % 16 ≠ 0 ∨ 2 ^ 57 ≤ x then .trap t causeIllop 0 else .ok { t with trappc := BitVec.ofNat 64 x })
      else .ok { t with fpflags := BitVec.ofNat 32 (x % 32) }

/-! ### k registers, predicates, handler masks -/

/-- R132: kset. -/
def execKset (w : CastWord) (s : State) : Out :=
  onFrag s fun v => v.uniform (.kset w) fun v =>
    let lane? := if w.modBit 1 then v.lanes.head? else if v.lanes.contains w.imm.toNat then some w.imm.toNat else none
    match lane? with
    | none => v.trapAll causeIllop 0
    | some l =>
      let t := v.g.thread l
      if t.readsBad (.kset w) then v.trapAll causePoison 0
      else v.next (v.g.setK w.d.toNat (BitVec.ofNat 32 (srcA (.kset w) v.g w t 1)))

/-- R132: kget. -/
def execKget (w : CastWord) (s : State) : Out :=
  onFrag s fun v => v.lane (.kget w) w fun _ t =>
    .ok (t.setCells w.d.toNat 1 (v.g.kreg (srcA (.kget w) v.g w t 1 % 128)).toNat)

/-- R133: plop. -/
def execPlop (m : PlopOp) (w : CastWord) (s : State) : Out :=
  onFrag s fun v => v.lane (.plop m w) w fun _ t =>
    let a := t.p w.a.toNat
    let b := t.p w.b.toNat
    .ok (t.setP w.d.toNat (match m with | .and => a && b | .or => a || b | .xor => a != b | .andn => a && !b | .not => !a))

/-- R134: hmk writes the handler mask of every live thread of the group. -/
def execHmk (w : CastWord) (s : State) : Out :=
  onFrag s fun v => v.uniform (.hmk w) fun v =>
    v.next { v.g with threads := v.g.threads.map fun (e : Nat × Thread) => if e.2.alive then (e.1, { e.2 with hmask := w.imm }) else e }

/-! ### Traps -/

/-- R135: trap raises SOFT in every lane whose guard is true. -/
def execTrap (w : CastWord) (s : State) : Out :=
  onFrag s fun v => v.lane (.trap w) w fun _ t => .trap t causeSoft (w.imm.setWidth 64)

/-- HALTBRK of a context (R393). -/
def State.haltBreak (s : State) (ctx : Nat) : Bool := (tget 0#64 s.sup.ctxctl ctx).getLsbD 2

/-- Halt a core for debug (R111, R484); WATCHDOG traps that its fragments owe come first (R105). -/
def State.haltCore (s : State) (c : Nat) : State :=
  let s := ((s.core c).groups.map (·.1)).foldl (fun s sl => s.takeOwed c sl false) s
  s.setCore c { s.core c with halted := true }

/-- R135: dbrk halts the core where the context's halt-on-break is enabled, and raises DBGBRK otherwise. -/
def execDbrk (w : CastWord) (s : State) : Out :=
  onFrag s fun v =>
    if v.check (.dbrk w) = none ∧ v.s.haltBreak v.g.ctx then
      if (v.active w).isEmpty then v.next v.g
      else
        ((v.next v.g).haltCore v.c).mgmt 5
    else v.lane (.dbrk w) w fun _ t => .trap t causeDbgbrk (w.imm.setWidth 64)

/-- R136: tret. -/
def execTret (w : CastWord) (s : State) : Out := onFrag s fun v => v.uniform (.tret w) fun v => v.tret

/-! ### Yielding (R137, R138) -/

/-- The effect of yield: its group counts as the one that issued last, and its fragment as the last of its group. -/
def View.yields (v : View) : State :=
  v.next { v.g with lastIssue := (v.s.core v.c).cyc.toNat }

/-- R137: yield. -/
def execYield (s : State) : Out := onFrag s fun v => v.uniform .yield fun v => v.yields

/-- R137: sleep, to TICK at issue plus the count; a count of 0 acts as yield. The PC stays at the sleep until it ends (R107). -/
def execSleep (w : CastWord) (s : State) : Out :=
  onFrag s fun v => v.uniform (.sleep w) fun v =>
    let n := kOrImmVal v.g w
    if n = 0 then v.yields
    else v.s.setGroup v.c v.slot (v.g.setNode { v.nd with st := .asleep (v.s.tick.toNat + n), fatal := [] })

/-- R138: ifence. Every fetch of the model reads the word at its home when it issues, so no older word can follow. -/
def execIfence (s : State) : Out := onFrag s fun v => v.uniform .ifence fun v => v.next v.g

end Sys2Proof.Machine
end

