-- ==== Sys2Proof/Machine/Kiln.lean ====
section
/-! DEFINITION. The Kiln's instructions (R239-R254), and gred and gscan (R129, R130, R255). -/

namespace Sys2Proof.Machine

/-! ### Operands and targets -/

/-- P, RM, XA of a PR value (R115). -/
def prP (pr : Word) : Nat := bits pr.toNat 0 8
def prRm (pr : Word) : Nat := bits pr.toNat 8 3
def prXa (pr : Word) : Bool := pr.getLsbD 11

/-- The mode of a word in a lane: RMS, or PR.RM when it names none (R237). -/
def laneMode (w : CastWord) (pr : Word) : RMode := if w.rms = 0 then rmodeOf (prRm pr) else rmodeOf (w.rms - 1)

/-- The effective precision for a capacity, and whether precision is exhausted (R231). -/
def effPrec (pr : Word) (c : Nat) : Nat × Bool := let p := prP pr; if p = 0 then (c, false) else if p ≤ c then (p, false) else (c, true)

/-- Whether a TYPE is .v. -/
def isV (ty : BitVec 4) : Bool := ty == 0xC

/-- The bits of a floating-point value of a type in its cells. -/
def fltBits (f : Fmt) (x : Nat) : Nat := x % 2 ^ f.width

/-- A value of `n` cells as operand words; a narrow value has its upper bits zero (R229). -/
def wordsOf (width n x : Nat) : List Nat := (List.range n).map fun j => bits (x % 2 ^ width) (32 * j) 32

/-- The encoding that an IMMB operand has in a format: binary32, converted in rne without flags (R52, R230). -/
def immBits (f : Fmt) (imm : Word) : Nat := f.encode (roundFV (f.target .rne 0) ((fmtOf 0xA 0).decode imm.toNat)).v

/-- The bits of sources A, B and C of a word whose operands have its own type. -/
def fltA (i : Instr) (g : Group) (w : CastWord) (t : Thread) : Nat := fltBits (fmtOf w.ty w.lc) (srcA i g w t (cellsOf w.lc))
def fltB (i : Instr) (g : Group) (w : CastWord) (t : Thread) : Nat :=
  let f := fmtOf w.ty w.lc
  if w.modBit 0 then immBits f w.imm else fltBits f (srcB i g w t (cellsOf w.lc))
def fltC (i : Instr) (g : Group) (w : CastWord) (t : Thread) : Nat := fltBits (fmtOf w.ty w.lc) (srcC i g w t (cellsOf w.lc))

/-- Operand words of the sources that a word reads, for sst (R229). -/
def wordsA (i : Instr) (g : Group) (w : CastWord) (t : Thread) : List Nat :=
  wordsOf (fmtOf w.ty w.lc).width (cellsOf w.lc) (srcA i g w t (cellsOf w.lc))
def wordsB (i : Instr) (g : Group) (w : CastWord) (t : Thread) : List Nat :=
  if w.modBit 0 then [w.imm.toNat] else wordsOf (fmtOf w.ty w.lc).width (cellsOf w.lc) (srcB i g w t (cellsOf w.lc))
def wordsC (i : Instr) (g : Group) (w : CastWord) (t : Thread) : List Nat :=
  wordsOf (fmtOf w.ty w.lc).width (cellsOf w.lc) (srcC i g w t (cellsOf w.lc))

/-! ### Steps 3 and 4 of R234 -/

/-- OR flags into FPFLAGS. -/
def Thread.flags (t : Thread) (n : Nat) : Thread := { t with fpflags := t.fpflags ||| BitVec.ofNat 32 n }

/-- The sticky bits that exhaustion sets under XA 1 (R231). -/
def Thread.exhausted (t : Thread) (exh inexact : Bool) : Thread :=
  if exh then { t with pr := t.pr ||| (0x10000#32 ||| if inexact then 0x20000#32 else 0) } else t

/-- The FPE check (R233), then the writes. -/
def fpeThen (w : CastWord) (t : Thread) (flags : Nat) (put : Thread → Thread) : LaneRes :=
  if w.modBit 4 && flags &&& (flagNV + flagDZ + flagOF) != 0 then .trap t causeFpe (BitVec.ofNat 64 flags)
  else .ok ((put t).flags flags)

/-- The detail of PREC_EXH (R231). -/
def exhDetail (p c : Nat) : DWord := BitVec.ofNat 64 (p + 256 * c)

/-- A word that rounds to a format: PREC_EXH for a .v result, the operation, FPE, and the writes (R230, R231, R234). -/
def roundLane (w : CastWord) (v : View) (f : Fmt) (vf : Bool) (words : Thread → List Nat) (op : Thread → Target → Rounded) (t : Thread) : LaneRes :=
  let (p, exh) := if vf then effPrec t.pr f.prec else (f.prec, false)
  if exh && !prXa t.pr then .trap t causePrecExh (exhDetail (prP t.pr) f.prec)
  else
    let mode := laneMode w t.pr
    let rnd := if mode == .sst then draw (v.g.kreg 127) t.g (words t) else 0
    let r := op t { f.target mode rnd with p := p }
    fpeThen w t r.flags fun t => (t.setCells w.d.toNat (cellsOf w.lc) (f.encode r.v)).exhausted exh r.inexact

/-- The shape of a word with operands and result of one type; `n` sources. -/
def fltWord (i : Instr) (w : CastWord) (n : Nat) (op : Target → List FV → Rounded) (s : State) : Out :=
  onFrag s fun v => v.lane i w fun _ t =>
    let f := fmtOf w.ty w.lc
    let words (t : Thread) : List Nat :=
      wordsA i v.g w t ++ (if 2 ≤ n then wordsB i v.g w t else []) ++ (if 3 ≤ n then wordsC i v.g w t else [])
    roundLane w v f (isV w.ty) words (fun t tg => op tg
      ([f.decode (fltA i v.g w t)] ++ (if 2 ≤ n then [f.decode (fltB i v.g w t)] else []) ++ (if 3 ≤ n then [f.decode (fltC i v.g w t)] else []))) t

def fv0 (xs : List FV) : FV := xs.getD 0 (.nan false)
def fv1 (xs : List FV) : FV := xs.getD 1 (.nan false)
def fv2 (xs : List FV) : FV := xs.getD 2 (.nan false)

/-! ### Arithmetic (R239-R243) -/

/-- R239: fadd. -/
def execFadd (w : CastWord) (s : State) : Out := fltWord (.fadd w) w 2 (fun t xs => roundSum t xs) s
/-- R239: fsub. -/
def execFsub (w : CastWord) (s : State) : Out := fltWord (.fsub w) w 2 (fun t xs => roundSum t [fv0 xs, (fv1 xs).negate]) s
/-- R239: fmul. -/
def execFmul (w : CastWord) (s : State) : Out := fltWord (.fmul w) w 2 (fun t xs => roundMul t (fv0 xs) (fv1 xs)) s
/-- R240: ffma. -/
def execFfma (w : CastWord) (s : State) : Out := fltWord (.ffma w) w 3 (fun t xs => roundFma t (fv0 xs) (fv1 xs) (fv2 xs)) s
/-- R241: fsum3. -/
def execFsum3 (w : CastWord) (s : State) : Out := fltWord (.fsum3 w) w 3 (fun t xs => roundSum t xs) s

/-- The operand that fmin or fmax delivers (R242). -/
def minMaxBits (f : Fmt) (max : Bool) (a b : Nat) : Nat :=
  let x := f.decode a
  let y := f.decode b
  if x.isNan && y.isNan then f.canonNan
  else if x.isNan then b else if y.isNan then a
  else if ltFV x y then (if max then b else a) else if max then a else b

/-- The shape of fmin and fmax. -/
def minMaxWord (i : Instr) (w : CastWord) (max : Bool) (s : State) : Out :=
  onFrag s fun v => v.lane i w fun _ t =>
    let f := fmtOf w.ty w.lc
    let a := fltA i v.g w t
    let b := fltB i v.g w t
    fpeThen w t (if (f.decode a).isSig || (f.decode b).isSig then flagNV else 0) fun t =>
      t.setCells w.d.toNat (cellsOf w.lc) (minMaxBits f max a b)

/-- R242: fmin. -/
def execFmin (w : CastWord) (s : State) : Out := minMaxWord (.fmin w) w false s
/-- R242: fmax. -/
def execFmax (w : CastWord) (s : State) : Out := minMaxWord (.fmax w) w true s

/-- R243: fabs clears the sign bit. -/
def execFabs (w : CastWord) (s : State) : Out :=
  onFrag s fun v => v.lane (.fabs w) w fun _ t =>
    let f := fmtOf w.ty w.lc
    .ok (t.setCells w.d.toNat (cellsOf w.lc) (fltA (.fabs w) v.g w t % 2 ^ (f.width - 1)))

/-- R243: fneg inverts the sign bit. -/
def execFneg (w : CastWord) (s : State) : Out :=
  onFrag s fun v => v.lane (.fneg w) w fun _ t =>
    let f := fmtOf w.ty w.lc
    .ok (t.setCells w.d.toNat (cellsOf w.lc) (fltA (.fneg w) v.g w t ^^^ 2 ^ (f.width - 1)))

/-! ### Comparison and classes (R244, R245) -/

/-- The relation of fcmp and its NV flag (R244). -/
def fcmpRes (m : FCmpOp) (a b : FV) : Bool × Bool :=
  let nan := a.isNan || b.isNan
  let sig := a.isSig || b.isSig
  let o := cmpFV a b
  match m with
  | .eq => (!nan && o == .eq, sig)
  | .ne => (nan || o != .eq, sig)
  | .lt => (!nan && o == .lt, nan)
  | .le => (!nan && o != .gt, nan)
  | .gt => (!nan && o == .gt, nan)
  | .ge => (!nan && o != .lt, nan)
  | .uno => (nan, sig)
  | .ord => (!nan, sig)

/-- R244: fcmp. -/
def execFcmp (m : FCmpOp) (w : CastWord) (s : State) : Out :=
  onFrag s fun v => v.lane (.fcmp m w) w fun _ t =>
    let f := fmtOf w.ty w.lc
    let (r, nv) := fcmpRes m (f.decode (fltA (.fcmp m w) v.g w t)) (f.decode (fltB (.fcmp m w) v.g w t))
    fpeThen w t (if nv then flagNV else 0) fun t => t.setP w.d.toNat (combine w t r)

/-- The class bit of a datum (R245). -/
def classOf (f : Fmt) (v : FV) : Nat :=
  match v with
  | .nan true => 2 ^ 8
  | .nan false => 2 ^ 9
  | .inf true => 2 ^ 0
  | .inf false => 2 ^ 7
  | .fin s 0 _ => if s then 2 ^ 3 else 2 ^ 4
  | .fin s m _ => if m < 2 ^ f.fbits then (if s then 2 ^ 2 else 2 ^ 5) else if s then 2 ^ 1 else 2 ^ 6

/-- R245: fclass. -/
def execFclass (w : CastWord) (s : State) : Out :=
  onFrag s fun v => v.lane (.fclass w) w fun _ t =>
    let f := fmtOf w.ty w.lc
    .ok (t.setCells w.d.toNat 1 (classOf f (f.decode (fltA (.fclass w) v.g w t))))

/-! ### Division, roots and transcendental functions (R246-R248) -/

/-- Bits wanted of an inexact function: those of the target and the 64 that sst compares (R229). -/
def Target.need (t : Target) : Nat := t.p + 68

/-- An infinity with DZ. -/
def divZero (neg : Bool) : Rounded := ⟨.inf neg, flagDZ⟩
/-- A result taken exactly. -/
def exactly (v : FV) : Rounded := ⟨v, 0⟩
def oneFV : FV := .fin false 1 0

/-- A NaN operand gives the canonical NaN, with NV when it is signalling (R246). -/
def orNan (a : FV) (r : Rounded) : Rounded := if a.isNan then quietNan a.isSig else r

/-- R246: a / b. -/
def divFV (t : Target) (a b : FV) : Rounded :=
  if a.isNan || b.isNan then quietNan (a.isSig || b.isSig)
  else
    let sg := a.neg != b.neg
    match a, b with
    | .inf _, .inf _ => invalid
    | .inf _, _ => exactly (.inf sg)
    | _, .inf _ => exactly (.fin sg 0 0)
    | .fin _ 0 _, .fin _ 0 _ => invalid
    | _, .fin _ 0 _ => divZero sg
    | .fin _ 0 _, _ => exactly (.fin sg 0 0)
    | .fin _ m e, .fin _ n k => roundMag t sg (divMag m e n k t.need)
    | _, _ => invalid

/-- R246: fdiv. -/
def execFdiv (w : CastWord) (s : State) : Out := fltWord (.fdiv w) w 2 (fun t xs => divFV t (fv0 xs) (fv1 xs)) s

/-- The shape of a one-operand function: NaNs apart. -/
def fltOne (i : Instr) (w : CastWord) (op : Target → FV → Rounded) (s : State) : Out :=
  fltWord i w 1 (fun t xs => orNan (fv0 xs) (op t (fv0 xs))) s

/-- R246: 1 / a of an operand that is no NaN. -/
def rcpFV (t : Target) (a : FV) : Rounded :=
  match a with
  | .fin n 0 _ => divZero n
  | .inf n => exactly (.fin n 0 0)
  | a => divFV t oneFV a

/-- R246: 1 / √a of an operand that is no NaN. -/
def rsqrtFV (t : Target) (a : FV) : Rounded :=
  match a with
  | .fin n 0 _ => divZero n
  | .inf false => exactly (.fin false 0 0)
  | .fin false m e => roundMag t false (rsqrtMag m e t.need)
  | _ => invalid

/-- R246: √a of an operand that is no NaN. -/
def sqrtFV (t : Target) (a : FV) : Rounded :=
  match a with
  | .fin n 0 _ => exactly (.fin n 0 0)
  | .inf false => exactly (.inf false)
  | .fin false m e => roundMag t false (sqrtMag m e t.need)
  | _ => invalid

/-- R246: frcp. -/
def execFrcp (w : CastWord) (s : State) : Out := fltOne (.frcp w) w rcpFV s

/-- R246: fsqrt. -/
def execFsqrt (w : CastWord) (s : State) : Out :=
  fltOne (.fsqrt w) w sqrtFV s

/-- R246: frsqrt. -/
def execFrsqrt (w : CastWord) (s : State) : Out := fltOne (.frsqrt w) w rsqrtFV s

/-- The special operands of fexp2 and fexp (R246). -/
def expFV (a : FV) (f : Bool → Nat → Int → Rounded) : Rounded :=
  match a with
  | .fin _ 0 _ => exactly oneFV
  | .inf false => exactly (.inf false)
  | .inf true => exactly (.fin false 0 0)
  | .fin n m e => f n m e
  | _ => invalid

/-- R246: 2^a and e^a of an operand that is no NaN. -/
def exp2FV (t : Target) (a : FV) : Rounded := expFV a fun n m e => roundMag t false (exp2Mag t.need n m e)
def expEFV (t : Target) (a : FV) : Rounded := expFV a fun n m e => roundMag t false (expMag t.need n m e)

/-- R246: fexp2. -/
def execFexp2 (w : CastWord) (s : State) : Out := fltOne (.fexp2 w) w exp2FV s
/-- R246: fexp. -/
def execFexp (w : CastWord) (s : State) : Out := fltOne (.fexp w) w expEFV s

/-- The special operands of flog2 and flog (R246). -/
def logFV (a : FV) (f : Nat → Int → Rounded) : Rounded :=
  match a with
  | .fin _ 0 _ => divZero true
  | .inf false => exactly (.inf false)
  | .fin false m e => if cmpFV a oneFV == .eq then exactly (.fin false 0 0) else f m e
  | _ => invalid

/-- R246: log₂ a and ln a of an operand that is no NaN. -/
def log2FV (t : Target) (a : FV) : Rounded := logFV a fun m e => let (n, x) := log2Mag t.need m e; roundMag t n x
def lnFV (t : Target) (a : FV) : Rounded := logFV a fun m e => let (n, x) := lnMag t.need m e; roundMag t n x

/-- R246: sin a, cos a and tanh a of an operand that is no NaN. -/
def sinFV (t : Target) (a : FV) : Rounded :=
  match a with
  | .fin n 0 _ => exactly (.fin n 0 0)
  | .fin n m e => let (k, x) := sinCosMag t.need false m e; roundMag t (k != n) x
  | _ => invalid
def cosFV (t : Target) (a : FV) : Rounded :=
  match a with
  | .fin _ 0 _ => exactly oneFV
  | .fin _ m e => let (k, x) := sinCosMag t.need true m e; roundMag t k x
  | _ => invalid
def tanhFV (t : Target) (a : FV) : Rounded :=
  match a with
  | .fin n 0 _ => exactly (.fin n 0 0)
  | .inf n => exactly (.fin n 1 0)
  | .fin n m e => roundMag t n (tanhMag t.need m e)
  | _ => invalid

/-- R246: flog2. -/
def execFlog2 (w : CastWord) (s : State) : Out := fltOne (.flog2 w) w log2FV s
/-- R246: flog. -/
def execFlog (w : CastWord) (s : State) : Out := fltOne (.flog w) w lnFV s
/-- R246: fsin. -/
def execFsin (w : CastWord) (s : State) : Out := fltOne (.fsin w) w sinFV s
/-- R246: fcos. -/
def execFcos (w : CastWord) (s : State) : Out := fltOne (.fcos w) w cosFV s
/-- R246: ftanh. -/
def execFtanh (w : CastWord) (s : State) : Out := fltOne (.ftanh w) w tanhFV s

/-- R247: the angle of (x = b, y = a). -/
def atan2FV (t : Target) (a b : FV) : Rounded :=
  if a.isNan || b.isNan then quietNan (a.isSig || b.isSig)
  else
    let q (n : Nat) : Rounded := roundMag t a.neg (piMag t.need n)
    match a, b with
    | .inf _, .inf x => q (if x then 3 else 1)
    | .inf _, _ => q 2
    | .fin n 0 _, b => if b.neg then q 4 else exactly (.fin n 0 0)
    | .fin n _ _, .inf x => if x then q 4 else exactly (.fin n 0 0)
    | _, .fin _ 0 _ => q 2
    | .fin n m e, .fin x k j => roundMag t n (atanMag t.need m e x k j)
    | _, _ => invalid

/-- R247: fatan2. -/
def execFatan2 (w : CastWord) (s : State) : Out := fltWord (.fatan2 w) w 2 (fun t xs => atan2FV t (fv0 xs) (fv1 xs)) s

/-- Whether a finite datum is an integer, and an odd one. -/
def isIntFV (m : Nat) (e : Int) : Bool := decide (0 ≤ e) || m % 2 ^ (-e).toNat == 0
def isOddFV (m : Nat) (e : Int) : Bool := isIntFV m e && shiftBy m e % 2 == 1

/-- a^b for b an infinity or a datum whose sign decides, where the result is +∞ or +0. -/
def infOrZero (inf neg : Bool) : Rounded := exactly (if inf then .inf neg else .fin neg 0 0)

/-- Whether a datum is +1. -/
def isOneFV (a : FV) : Bool := match a with | .fin false _ _ => cmpFV a oneFV == .eq | _ => false

/-- R248: a^b, by the rows of its table in order. The result for −∞ is that for −0 and −b; its infinities are not from
finite operands, so they raise no DZ (R232). -/
def powFV (t : Target) (a b : FV) : Rounded :=
  if b.isZero then ⟨oneFV, if a.isSig then flagNV else 0⟩
  else if isOneFV a then ⟨oneFV, if b.isSig then flagNV else 0⟩
  else if a.isNan || b.isNan then quietNan (a.isSig || b.isSig)
  else
    let odd : Bool := match b with | .fin _ m e => isOddFV m e | _ => false
    match a, b with
    | .fin n 0 _, b =>
      if b.neg then (if b.isInf then exactly (.inf false) else divZero (n && odd)) else exactly (.fin (n && odd) 0 0)
    | .inf n, b => infOrZero (!b.neg) (n && odd)
    | .fin _ m e, .inf x =>
      let c := cmpFV (.fin false m e) oneFV
      if c == .eq then exactly oneFV else infOrZero ((c == .lt) == x) false
    | .fin n m e, .fin x k j =>
      if n && !isIntFV k j then invalid
      else if cmpFV (.fin false m e) oneFV == .eq then exactly (.fin (n && odd) 1 0)
      else roundMag t (n && odd) (powMag t.need m e x k j)
    | _, _ => invalid

/-- R248: fpow. -/
def execFpow (w : CastWord) (s : State) : Out := fltWord (.fpow w) w 2 (fun t xs => powFV t (fv0 xs) (fv1 xs)) s

/-! ### Conversions (R249-R254) -/

/-- R249: fcvt of a datum. -/
def cvtFV (t : Target) (sat : Bool) (a : FV) : Rounded :=
  match a with
  | .nan g => quietNan g
  | .inf n =>
    if t.e4m3 then (if sat then exactly (.fin n t.maxSig (t.emax - t.p + 1)) else invalid) else exactly (.inf n)
  | .fin n m e =>
    let r := roundFin t n m e
    if sat && r.flags &&& flagOF != 0 then ⟨.fin n t.maxSig (t.emax - t.p + 1), flagNX⟩ else r

/-- R249: fcvt. -/
def execFcvt (w : CastWord) (s : State) : Out :=
  onFrag s fun v => v.lane (.fcvt w) w fun _ t =>
    let i := Instr.fcvt w
    let sf := fmtOf w.styp w.slc
    let src (t : Thread) : Nat := fltBits sf (srcA i v.g w t (cellsOf w.slc))
    roundLane w v (fmtOf w.ty w.lc) (isV w.ty) (fun t => wordsOf sf.width (cellsOf w.slc) (src t))
      (fun t tg => cvtFV tg (w.modBit 5) (sf.decode (src t))) t

/-- The integer that a mode gives for a finite datum, and whether it differs (R250, R252). -/
def toInteger (mode : RMode) (rnd : Nat) (n : Bool) (m : Nat) (e : Int) : Nat × Bool := roundAt mode n rnd ⟨m, e, false⟩ 0

/-- R250: the integer of type `ty` and width `n` for a datum, and the flags. -/
def cvtiFV (ty : BitVec 4) (n : Nat) (mode : RMode) (rnd : Nat) (a : FV) : Int × Nat :=
  match a with
  | .nan _ => (0, flagNV)
  | .inf neg => (if neg then minOf ty n else maxOf ty n, flagNV)
  | .fin neg m e =>
    -- a magnitude beyond 2^70 is out of range of every result type
    if e + blen m > 70 then (if neg then minOf ty n else maxOf ty n, flagNV)
    else
      let (k, inex) := toInteger mode rnd neg m e
      let z : Int := if neg then -(k : Int) else k
      if z < minOf ty n then (minOf ty n, flagNV)
      else if z > maxOf ty n then (maxOf ty n, flagNV)
      else (z, if inex then flagNX else 0)

/-- R250: fcvti. -/
def execFcvti (w : CastWord) (s : State) : Out :=
  onFrag s fun v => v.lane (.fcvti w) w fun _ t =>
    let i := Instr.fcvti w
    let sf := fmtOf w.styp w.slc
    let x := fltBits sf (srcA i v.g w t (cellsOf w.slc))
    let n := widthOf w.ty w.lc
    let mode := laneMode w t.pr
    let rnd := if mode == .sst then draw (v.g.kreg 127) t.g (wordsOf sf.width (cellsOf w.slc) x) else 0
    let r := cvtiFV w.ty n mode rnd (sf.decode x)
    fpeThen w t r.2 fun t => t.setCells w.d.toNat (cellsOf w.lc) (extend w.ty n (wrap n r.1))

/-- R251: icvtf. -/
def execIcvtf (w : CastWord) (s : State) : Out :=
  onFrag s fun v => v.lane (.icvtf w) w fun _ t =>
    let i := Instr.icvtf w
    let n := widthOf w.styp w.slc
    let src (t : Thread) : Nat := srcA i v.g w t (cellsOf w.slc) % 2 ^ n
    roundLane w v (fmtOf w.ty w.lc) (isV w.ty) (fun t => wordsOf n (cellsOf w.slc) (src t))
      (fun t tg => let z := valOf w.styp n (src t); roundFin tg (decide (z < 0)) z.natAbs 0) t

/-- R252: the integral datum that the mode chooses. -/
def rintFV (mode : RMode) (rnd : Nat) (a : FV) : Rounded :=
  match a with
  | .nan g => quietNan g
  | .fin n m e => if 0 ≤ e then exactly (.fin n m e) else let (k, inex) := toInteger mode rnd n m e; ⟨.fin n k 0, if inex then flagNX else 0⟩
  | x => exactly x

/-- R252: frint, exact in the class of a. -/
def execFrint (w : CastWord) (s : State) : Out :=
  onFrag s fun v => v.lane (.frint w) w fun _ t =>
    let f := fmtOf w.ty w.lc
    let a := fltA (.frint w) v.g w t
    let mode := laneMode w t.pr
    let rnd := if mode == .sst then draw (v.g.kreg 127) t.g (wordsA (.frint w) v.g w t) else 0
    let r := rintFV mode rnd (f.decode a)
    fpeThen w t r.flags fun t => t.setCells w.d.toNat (cellsOf w.lc) (f.encode r.v)

/-- R253: a × 2^n. A count beyond 70,000 acts as 70,000: both leave every format. -/
def scaleFV (t : Target) (a : FV) (n : Int) : Rounded :=
  match a with
  | .fin s m e => if m = 0 then exactly (.fin s 0 0) else roundFin t s m (e + max (-70000) (min 70000 n))
  | .nan g => quietNan g
  | x => exactly x

/-- R253: fscale; B is one .s32 cell, or IMM as .s32. -/
def execFscale (w : CastWord) (s : State) : Out :=
  onFrag s fun v => v.lane (.fscale w) w fun _ t =>
    let i := Instr.fscale w
    let f := fmtOf w.ty w.lc
    let b (t : Thread) : Nat := if w.modBit 0 then w.imm.toNat else srcB i v.g w t 1
    roundLane w v f (isV w.ty) (fun t => wordsA i v.g w t ++ [b t])
      (fun t tg => scaleFV tg (f.decode (fltA i v.g w t)) (sext 32 (b t))) t

/-- R254: floor(log₂ |a|) as a cell, and the flags. -/
def getExp (a : FV) : Nat × Nat :=
  match a with
  | .fin _ m e => if m = 0 then (0x80000000, flagNV) else (wrap 32 (e + blen m - 1), 0)
  | .inf _ => (0x7FFFFFFF, flagNV)
  | .nan _ => (0x80000000, flagNV)

/-- R254: fgetexp. -/
def execFgetexp (w : CastWord) (s : State) : Out :=
  onFrag s fun v => v.lane (.fgetexp w) w fun _ t =>
    let f := fmtOf w.ty w.lc
    let x := getExp (f.decode (fltA (.fgetexp w) v.g w t))
    fpeThen w t x.2 fun t => t.setCells w.d.toNat 1 x.1

/-! ### gred and gscan (R129, R130, R255) -/

/-- Members of a reduction, gred's and gscan's together. -/
inductive Fold | add | min | max | and | or | xor | seq deriving DecidableEq, Repr

def redFold : RedOp → Fold
  | .add => .add | .min => .min | .max => .max | .and => .and | .or => .or | .xor => .xor | .seq => .seq
def scanFold : ScanOp → Fold
  | .add => .add | .min => .min | .max => .max | .seq => .seq

/-- An integer or logic reduction of `n`-bit values; the identity of an empty set is R130's. -/
def foldInt (m : Fold) (ty : BitVec 4) (n : Nat) (xs : List Nat) : Nat :=
  let vals := xs.map (valOf ty n)
  match m with
  | .add | .seq => wrap n (vals.foldl (· + ·) 0)
  | .min => wrap n (vals.foldl (fun a b => if b < a then b else a) (maxOf ty n))
  | .max => wrap n (vals.foldl (fun a b => if b > a then b else a) (minOf ty n))
  | .and => xs.foldl (· &&& ·) (2 ^ n - 1)
  | .or => xs.foldl (· ||| ·) 0
  | .xor => xs.foldl (· ^^^ ·) 0

/-- Minimum or maximum of encodings: NaNs are ignored unless all are; the identity of an empty set is an infinity. -/
def foldMinMax (f : Fmt) (max : Bool) (xs : List Nat) : Nat × Nat :=
  let sig := xs.any fun x => (f.decode x).isSig
  let num := xs.filter fun x => !(f.decode x).isNan
  let r := match num with
    | [] => if xs.isEmpty then f.encode (.inf max) else f.canonNan
    | x :: rest => rest.foldl (fun a b => minMaxBits f max a b) x
  (r, if sig then flagNV else 0)

/-- seq: fold in ascending order, rounding at each step; each step draws with its own two addends (R129, R255). -/
def foldSeq (f : Fmt) (tg : Nat → Nat → Target) : List Nat → Nat × Nat
  | [] => (0, 0)
  | x :: xs =>
    let x0 := f.decode x
    let start : Nat × Nat := if x0.isNan then (f.canonNan, if x0.isSig && xs.isEmpty then flagNV else 0) else (x, 0)
    let sig0 := if x0.isSig then flagNV else 0
    xs.foldl (fun (acc, fl) y =>
      let r := roundSum (tg acc y) [f.decode acc, f.decode y]
      (f.encode r.v, fl ||| r.flags ||| sig0)) start

/-- The reduction of the A values of some lanes for a leader of the segment: the bits, the flags, and inexactness. -/
def foldFlt (m : Fold) (f : Fmt) (n : Nat) (k127 : Word) (g p : Nat) (mode : RMode) (xs : List Nat) : Nat × Nat :=
  let tgt (ws : List Nat) : Target :=
    { f.target mode (if mode == .sst then draw k127 g ws else 0) with p := p }
  match m with
  | .min => foldMinMax f false xs
  | .max => foldMinMax f true xs
  | .seq => foldSeq f (fun a b => tgt (wordsOf f.width n a ++ wordsOf f.width n b)) xs
  | _ =>
    if xs.isEmpty then (0, 0)
    else let r := roundSum (tgt (xs.flatMap (wordsOf f.width n))) (xs.map f.decode); (f.encode r.v, r.flags)

/-- One lane of gred or gscan: `set` is the lanes that enter its result, `seg` the active lanes of its segment. -/
def foldLane (i : Instr) (m : Fold) (w : CastWord) (v : View) (seg set : List Nat) (t : Thread) : LaneRes :=
  let n := cellsOf w.lc
  let bad (l : Nat) : Bool := (v.g.thread l).readsBad i
  let val (l : Nat) : Nat := srcA i v.g w (v.g.thread l) n
  if set.any bad then .trap t causePoison 0
  else if w.ty.toNat < 8 ∨ isB w.ty then putInt w t (foldInt m w.ty (widthOf w.ty w.lc) (set.map fun l => val l % 2 ^ widthOf w.ty w.lc))
  else
    let f := fmtOf w.ty w.lc
    let lead := v.g.thread (seg.headD 0)
    let rounds := isV w.ty && !(m == .min || m == .max)
    let (p, exh) := if rounds then effPrec lead.pr f.prec else (f.prec, false)
    if exh && !prXa lead.pr then .trap t causePrecExh (exhDetail (prP lead.pr) f.prec)
    else
      let (x, fl) := foldFlt m f n (v.g.kreg 127) lead.g p (rmodeOf (prRm lead.pr)) (set.map fun l => fltBits f (val l))
      .ok (((t.setCells w.d.toNat n x).flags fl).exhausted exh (fl % 2 == 1))

/-- R129: gred. -/
def execGred (m : RedOp) (w : CastWord) (s : State) : Out :=
  onFrag s fun v =>
    let act := v.active w
    v.lane (.gred m w) w fun l t =>
      let seg := segOf act (segSize v.g w) l
      foldLane (.gred m w) (redFold m) w v seg seg t

/-- R130: gscan; lanes j ≤ l, or j < l with EXCL. -/
def execGscan (m : ScanOp) (w : CastWord) (s : State) : Out :=
  onFrag s fun v =>
    let act := v.active w
    v.lane (.gscan m w) w fun l t =>
      let seg := segOf act (segSize v.g w) l
      foldLane (.gscan m w) (scanFold m) w v seg (seg.filter fun j => if w.modBit 1 then decide (j < l) else decide (j ≤ l)) t

end Sys2Proof.Machine
end

