-- ==== Sys2Proof/Machine/Sprue.lean ====
section
/-! DEFINITION. The Sprue's instructions on bytes: loads and stores, Decdal elements, atomics, ordering, waits, spills,
queues, k loads and cache operations (R197-R208, R213-R217). Image space is in Image. -/

namespace Sys2Proof.Machine

/-! ### Accesses of a lane -/

/-- n, the bytes of an access (R170). -/
def accBytes (w : CastWord) : Nat := widthOf w.ty w.lc / 8

/-- The data operand B of `n` cells (R194). -/
def dataB (g : Group) (w : CastWord) (t : Thread) (n : Nat) : Nat := if w.kd then g.kcells w.b.toNat n else t.cells w.b.toNat n

/-- Whether a word acquires or releases at a scope that reaches the home slices (R181, R183). -/
def acquiresWide (w : CastWord) : Bool := (w.ord == 1 || w.ord == 3) && wideScope w.scope
def releasesWide (w : CastWord) : Bool := decide (2 ≤ w.ord) && wideScope w.scope

/-- How a word's write reaches a state word (R37): release at dev or wider, a compare-and-swap at dev or wider. -/
def wkindOf (w : CastWord) (cas : Bool) : WKind := { rel := decide (2 ≤ w.ord ∧ 5 ≤ w.scope), cas := cas && decide (5 ≤ w.scope) }

/-- A release before a word's writes (R183). -/
def beforeRelease (v : View) (w : CastWord) (s : State) : State := if releasesWide w then (s.release v.c).1 else s

/-- The acquire of a read that performed at `loc`: of the latest release that its sectors keep, or, at a scratchpad,
host or peer byte, of the latest release logged (R177, R183). -/
def View.acquireAt (v : View) (s : State) (loc : Loc) (n : Nat) : State :=
  match loc with
  | .pad _ _ => s.acquire v.c (s.hearth.nextEpoch - 1)
  | .glob _ => match v.trLoc .r loc n with
    | .ok ps => s.acquire v.c (ps.foldl (fun e p => max e (if s.isHomed p.1 then s.epochOf p.1 p.2 else s.hearth.nextEpoch - 1)) 0)
    | _ => s

/-- Keep the epoch of a write at the home slice with its sectors (R183). -/
def View.stamp (v : View) (s : State) (loc : Loc) (n : Nat) : State :=
  match v.trLoc .w loc n with
  | .ok ps => ps.foldl (fun s p => if s.isHomed p.1 then s.stampEpoch p.1 p.2 (s.hearth.nextEpoch - 1) else s) s
  | _ => s

/-- What a read gives a lane (R169 step 5, R192, R479). -/
def lanePut (r : PRes) (t : Thread) (a : Nat) (f : Nat → LaneRes) : LaneRes :=
  match r with
  | .ok x => f x
  | .poison => .trap t causePoison (BitVec.ofNat 64 a)
  | .refused => .trap t causeAccess (BitVec.ofNat 64 a)

/-- A constant-space read: bytes of a sector that the constant cache does not hold are filled first (R168). -/
def State.constRead (s : State) (c : Nat) : List (Nat × Nat) → State × PRes
  | [] => (s, .ok 0)
  | p :: ps =>
    let (s, a) :=
      if !s.isHomed p.1 then (s, s.homeRead p.1 p.2)
      else
        let cold := (sectorsOf p.1 p.2).filter fun sec => (tfind (s.core c).konst sec).isNone
        if cold.any s.mem.poison.contains then (s, .poison)
        else
          let s := cold.foldl (fun s sec => s.cacheTouch (32 * sec) 32 false) s
          let s := s.setCore c { s.core c with
            konst := cold.foldl (fun t sec => tput t sec (BitVec.ofNat 256 (s.rawRead (32 * sec) 32))) (s.core c).konst }
          let byte (x : Nat) : Nat := bits (tget 0#256 (s.core c).konst (x / 32)).toNat (8 * (x % 32)) 8
          (s, .ok (packLE 1 ((List.range p.2).map fun i => byte (p.1 + i))))
    let (s, b) := State.constRead s c ps
    (s, joinRes p.2 a b)

/-- Read a place in a space, for a word of the given ordering: a wide acquire reads at the home slice in constant space
too (R168, R181). -/
def View.load (v : View) (s : State) (w : CastWord) (loc : Loc) (n : Nat) : State × PRes :=
  match w.space, loc with
  | 5, .glob _ => match v.trLoc .r loc n with
    | .ok ps => if acquiresWide w then s.readParts v.c true ps else s.constRead v.c ps
    | _ => (s, .refused)
  | _, _ => v.read s (acquiresWide w) loc n

/-! ### ld and st (R197) -/

/-- The load of one lane, and what it leaves in D. -/
def View.loadLane (v : View) (w : CastWord) (n : Nat) (put : Thread → Nat → LaneRes) (s : State) (t : Thread) : State × LaneRes :=
  let a := addressOf w v.g t
  match v.locate t w.space a n with
  | none => (s, .trap t causeAccess (BitVec.ofNat 64 a))
  | some loc =>
    let (s, r) := v.load s w loc n
    let s := if acquiresWide w then v.acquireAt s loc n else s
    (s, lanePut r t a (put t))

/-- The store of one lane. A write that the home slice rejects is reported, and the thread goes on (R39). -/
def View.storeLane (v : View) (w : CastWord) (n x : Nat) (s : State) (t : Thread) : State :=
  let a := addressOf w v.g t
  match v.locate t w.space a n with
  | none => s
  | some loc =>
    let (s, good) := v.write s (releasesWide w) (wkindOf w false) loc n x
    let s := if releasesWide w then v.stamp s loc n else s
    if good then s else s.fault (threadEntry v.g.launch v.c t causeAccess false v.nd.pc (BitVec.ofNat 64 a))

/-- R197: ld outside image space. -/
def View.ld (v : View) (i : Instr) (w : CastWord) : State :=
  let n := accBytes w
  v.memory i w .r (fun _ t => v.checkAccess t w.space (addressOf w v.g t) n n .r)
    (fun s _ t => v.loadLane w n (fun t x => putInt w t x) s t)

/-- R197: st outside image space. -/
def View.st (v : View) (i : Instr) (w : CastWord) : State :=
  let n := accBytes w
  v.memory i w .w (fun _ t => v.checkAccess t w.space (addressOf w v.g t) n n .w)
    (fun s _ t => (v.storeLane w n (dataB v.g w t (cellsOf w.lc) % 256 ^ n) s t, .ok t)) (beforeRelease v w)

/-! ### Decdal elements (R199, R224, R225) -/

/-- The size code, MOD[7:5]. -/
def sizeCode (w : CastWord) : Nat := (w.mod >>> 5).toNat

/-- The cells of the address operand, which sst draws with (R229). -/
def addrWords (g : Group) (w : CastWord) (t : Thread) : List Nat :=
  let n := if w.space = 2 ∨ w.space = 3 ∨ w.space = 4 then 1 else 2
  wordsOf (32 * n) n (if w.ka then g.kcells w.a.toNat n else t.cells w.a.toNat n)

/-- R199: the element's value in the class LC, converted under PR; FMT where the element is malformed. -/
def View.elemIn (v : View) (w : CastWord) (t : Thread) (e : Nat) : LaneRes :=
  let f := fmtOf 0xC w.lc
  match decdalRead (sizeCode w) e with
  | none => .trap t causeFmt 0
  | some x =>
    let (p, exh) := effPrec t.pr f.prec
    let mode := rmodeOf (prRm t.pr)
    let rnd := if mode == .sst then draw (v.g.kreg 127) t.g (addrWords v.g w t) else 0
    let r := match x with | .nan _ => quietNan false | x => roundFV { f.target mode rnd with p := p } x
    .ok (((t.setCells w.d.toNat (cellsOf w.lc) (f.encode r.v)).exhausted exh r.inexact).flags r.flags)

/-- R199: ldd. The check of R231 comes before the operation (R234). -/
def execLdd (w : CastWord) (s : State) : Out :=
  onFrag s fun v =>
    let n := decdalBytes (sizeCode w)
    let f := fmtOf 0xC w.lc
    v.memory (.ldd w) w .r
      (fun _ t =>
        let (_, exh) := effPrec t.pr f.prec
        if exh && !prXa t.pr then .early causePrecExh (exhDetail (prP t.pr) f.prec)
        else v.checkAccess t w.space (addressOf w v.g t) n 2 .r)
      (fun s _ t => v.loadLane w n (fun t e => v.elemIn w t e) s t)

/-- R199: std, the value rounded to the precision of the size under PR.RM. -/
def execStd (w : CastWord) (s : State) : Out :=
  onFrag s fun v =>
    let n := decdalBytes (sizeCode w)
    let f := fmtOf 0xC w.lc
    let ef := decdalFmt n
    v.memory (.std w) w .w (fun _ t => v.checkAccess t w.space (addressOf w v.g t) n 2 .w)
      (fun s _ t =>
        let mode := rmodeOf (prRm t.pr)
        let k := cellsOf w.lc
        let x := t.cells w.b.toNat k
        let rnd := if mode == .sst then draw (v.g.kreg 127) t.g (addrWords v.g w t ++ wordsOf (32 * k) k x) else 0
        let r := roundFV (ef.target mode rnd) (f.decode x)
        (v.storeLane w n (decdalWrite (sizeCode w) r.v) s t, .ok (t.flags r.flags)))
      (beforeRelease v w)

/-! ### Atomics (R200-R202) -/

/-- The checks of an atomic: on host memory only add, exch and cas (R191), and, for red, the poison of its bytes. -/
def View.checkAtom (v : View) (w : CastWord) (t : Thread) (hostOk red : Bool) : LaneAct :=
  let n := accBytes w
  let a := addressOf w v.g t
  match v.checkAccess t w.space a n n .rw with
  | .ready => match v.locate t w.space a n with
    | some loc => match v.trLoc .rw loc n with
      | .ok ps =>
        if !hostOk && ps.any (fun p => v.s.isHost p.1) then .late causeAccess (BitVec.ofNat 64 a)
        else if red && ps.any (fun p => v.s.mem.poisoned p.1 p.2) then .late causePoison (BitVec.ofNat 64 a)
        else if ps.any (fun p => v.s.peerRefused p.1) then .late causeAccess (BitVec.ofNat 64 a)
        else .ready
      | _ => .ready
    | none => .ready
  | x => x

/-- One read-modify-write at its point (R190): the old value, or what stops it; a new value the home slice rejects is
not written (R39). `new` gives none where nothing is written. -/
def View.rmw (v : View) (s : State) (w : CastWord) (cas : Bool) (loc : Loc) (n : Nat) (new : Nat → Option Nat) : State × PRes × Bool :=
  let (s, r) := v.read s true loc n
  match r with
  | .ok old => match new old with
    | some x =>
      let (s, good) := v.write s true (wkindOf w cas) loc n x
      (if good then v.stamp s loc n else s, .ok old, good)
    | none => (s, .ok old, true)
  | r => (s, r, true)

/-- The shape of atom and cas: the old value goes to D. -/
def View.atomic (v : View) (i : Instr) (w : CastWord) (cas hostOk : Bool) (new : Thread → Nat → Option Nat) : State :=
  let n := accBytes w
  v.memory i w .rw (fun _ t => v.checkAtom w t hostOk false)
    (fun s _ t =>
      let a := addressOf w v.g t
      match v.locate t w.space a n with
      | none => (s, .trap t causeAccess (BitVec.ofNat 64 a))
      | some loc =>
        let (s, r, _) := v.rmw s w cas loc n (new t)
        let s := if acquiresWide w then v.acquireAt s loc n else s
        (s, lanePut r t a fun x => .ok (t.setCells w.d.toNat (cellsOf w.lc) (extend w.ty (8 * n) x))))
    (beforeRelease v w)

/-- R200: atom. -/
def execAtom (m : AtomOp) (w : CastWord) (s : State) : Out :=
  onFrag s fun v => v.atomic (.atom m w) w false (m == .add || m == .exch) fun t old =>
    let n := accBytes w
    some (atomVal m w.ty (8 * n) old (dataB v.g w t (cellsOf w.lc) % 256 ^ n))

/-- R202: cas writes C if old equals B. -/
def execCas (w : CastWord) (s : State) : Out :=
  onFrag s fun v => v.atomic (.cas w) w true true fun t old =>
    let n := accBytes w
    if old = dataB v.g w t (cellsOf w.lc) % 256 ^ n then some (t.cells w.c.toNat (cellsOf w.lc)) else none

/-- R201: red. A plain one on global memory travels through the routers (R349); any other performs at its point now. -/
def execRed (m : RedMemOp) (w : CastWord) (s : State) : Out :=
  onFrag s fun v =>
    let n := accBytes w
    v.memory (.red m w) w .rw (fun _ t => v.checkAtom w t (m == .add) true)
      (fun s _ t =>
        let a := addressOf w v.g t
        let b := dataB v.g w t (cellsOf w.lc) % 256 ^ n
        match v.locate t w.space a n with
        | none => (s, .trap t causeAccess (BitVec.ofNat 64 a))
        | some loc =>
          let parts := match v.trLoc .rw loc n with | .ok ps => ps | _ => []
          match w.ord, parts with
          | 0, [(pa, _)] =>
            if s.isHomed pa then
              let s := (s.l1WriteBackAll v.c).l1Flush v.c pa n
              -- the core's own dirty copy may have taken its marker home (R357)
              if s.mem.poisoned pa n then (s, .trap t causePoison (BitVec.ofNat 64 a))
              else
                let r : RedReq :=
                  { ctx := v.g.ctx, pa := pa, n := n, op := m, ty := w.ty, val := BitVec.ofNat 64 b
                    srcs := [{ launch := v.g.launch, thread := t.g, core := v.c, pc := v.nd.pc, addr := BitVec.ofNat 64 a, val := BitVec.ofNat 64 b }]
                    since := s.tick.toNat, prio := 3, evict := bits s.cur.word.toNat 40 3 }
                (s.enterRouter r, .ok t)
            else
              let (s, x, _) := v.rmw s w false loc n fun old => some (atomVal (redAtom m) w.ty (8 * n) old b)
              (s, lanePut x t a fun _ => .ok t)
          | _, _ =>
            let (s, x, good) := v.rmw s w false loc n fun old => some (atomVal (redAtom m) w.ty (8 * n) old b)
            (if good then s else s.fault (threadEntry v.g.launch v.c t causeAccess false v.nd.pc (BitVec.ofNat 64 a)), lanePut x t a fun _ => .ok t))
      (beforeRelease v w)

/-! ### Ordering (R203-R205) -/

/-- R203: fence. An acquire takes the latest release logged; fence.ar its own epoch (R183). -/
def execFence (w : CastWord) (s : State) : Out :=
  onFrag s fun v => v.uniform (.fence w) fun v =>
    if (v.active w).isEmpty then v.next v.g
    else
      let s := v.s.settleReds
      let s := if releasesWide w then (s.release v.c).1 else s
      let s := if acquiresWide w then s.acquire v.c (s.hearth.nextEpoch - 1) else s
      { v with s := s }.next v.g

/-- R204: mark orders the lanes' events; every event of the model has performed when the next word issues, but reds on
their way. -/
def execMark (w : CastWord) (s : State) : Out :=
  onFrag s fun v => v.uniform (.mark w) fun v =>
    if (v.active w).isEmpty then v.next v.g else { v with s := v.s.settleReds }.next v.g

/-- R205: qfence does not stall issue; it holds later events of the named queues (R184). -/
def execQfence (w : CastWord) (s : State) : Out :=
  onFrag s fun v => v.uniform (.qfence w) fun v =>
    let k := v.s.core v.c
    let q : QFence := { names := (w.mod >>> 5).setWidth 3, lanes := v.nd.mask, upTo := k.accepts, rank := v.g.rank }
    let fences := (v.g.fences ++ [q]).filter fun x => x.left v.g
    { v with s := v.s.settleReds }.next { v.g with fences := fences }

/-! ### waitv (R206) -/

/-- One round of reads of the lanes that still wait: the values of those whose condition holds, the traps, and the lanes
left. -/
def View.waitRound (v : View) (w : CastWord) (m : CmpOp) : State → List Nat → State × Table DWord × Table (Nat × DWord) × List Nat
  | s, [] => (s, [], [], [])
  | s, l :: ls =>
    let t := v.g.thread l
    let n := accBytes w
    let a := addressOf w v.g t
    let (s, one) : State × (Table DWord × Table (Nat × DWord) × List Nat) :=
      match v.locate t w.space a n with
      | none => (s, [], [(l, causeAccess, BitVec.ofNat 64 a)], [])
      | some loc => match v.trLoc .r loc n with
        | .miss _ => (s, [], [], [l])
        | .bad _ => (s, [], [(l, causeAccess, BitVec.ofNat 64 a)], [])
        | .ok _ =>
          let (s, r) := v.read s true loc n
          match r with
          | .poison => (s, [], [(l, causePoison, BitVec.ofNat 64 a)], [])
          | .refused => (s, [], [(l, causeAccess, BitVec.ofNat 64 a)], [])
          | .ok x =>
            let b := dataB v.g w t (cellsOf w.lc) % 256 ^ n
            if CmpOp.holds m (valOf w.ty (8 * n) x) (valOf w.ty (8 * n) b) then
              (if acquiresWide w then v.acquireAt s loc n else s, [(l, BitVec.ofNat 64 x)], [], [])
            else (s, [], [], [l])
    let (s, rest) := View.waitRound v w m s ls
    (s, one.1 ++ rest.1, one.2.1 ++ rest.2.1, one.2.2 ++ rest.2.2)

/-- Pages that the waiting lanes miss. -/
def View.waitPages (v : View) (w : CastWord) (ls : List Nat) : List Nat :=
  ls.flatMap fun l =>
    let t := v.g.thread l
    let n := accBytes w
    match v.locate t w.space (addressOf w v.g t) n with
    | some loc => match v.trLoc .r loc n with | .miss ps => ps | _ => []
    | none => []

/-- Reads of a wait: when no lane is left, each lane gets its value and the fragment goes on; else it waits. Lanes that
trap leave the wait with D unchanged (R206). -/
def View.waitStep (v : View) (w : CastWord) (m : CmpOp) (word : BitVec 128) (pending : List Nat) (vals : Table DWord) : State :=
  let (s, got, traps, left) := v.waitRound w m v.s.settleReds pending
  let vals := got.foldl (fun t e => tput t e.1 e.2) vals
  let g := if left.isEmpty then
      let g := vals.foldl (fun (g : Group) e =>
        { g with threads := tput g.threads e.1 ((g.thread e.1).setCells w.d.toNat (cellsOf w.lc) (extend w.ty (8 * accBytes w) e.2.toNat)) }) v.g
      g.setNode { v.nd with pc := v.nd.pc + 16, st := .ready, fatal := [] }
    else v.g.setNode { v.nd with st := .waitv word (maskOf left) vals, fatal := [] }
  let s := if traps.isEmpty then s.setGroup v.c v.slot g else s.takeTrap v.c v.slot g v.nd traps
  match v.waitPages w left with
  | [] => s
  | ps => s.requestPages (flaskOf v.c) v.g.ctx 0 .r (.frag v.c v.slot v.nd.id) (sunion [] ps)

/-- R206: waitv. -/
def execWaitv (m : CmpOp) (w : CastWord) (s : State) : Out :=
  onFrag s fun v =>
    let i := Instr.waitv m w
    let n := accBytes w
    match v.check i with
    | some cause => v.trapAll cause 0
    | none =>
      if v.g.lsqHeld v.nd.mask then v.s
      else
        let acts := (v.active w).map fun l =>
          let t := v.g.thread l
          (l, if t.readsBad i then LaneAct.early causePoison 0 else v.checkAccess t w.space (addressOf w v.g t) n n .r)
        match missing acts with
        | [] =>
          let late := acts.filterMap fun e => match e.2 with | .late c d => some (e.1, c, d) | _ => none
          let traps := (earlyOf acts) ++ late
          let ready := (acts.filter fun e => e.2 == .ready).map (·.1)
          -- the lanes that trap leave first; the others begin the wait
          let s := if traps.isEmpty then v.s else v.s.takeTrap v.c v.slot v.g v.nd traps
          if ready.isEmpty && !(v.lanes.any fun l => !(traps.any fun e => e.1 == l)) then s
          else match s.group? v.c v.slot with
            | none => s
            | some g => match g.anyNode? v.nd.id with
              | none => s
              | some nd => { v with s := s, g := g, nd := nd }.waitStep w m (v.s.wordOf i) ready []
        | pages => v.park (earlyOf acts) .r pages

/-! ### waitb (R207) -/

/-- The batch numbers that have not completed, of an engine (R30, R31). -/
def Group.closed (g : Group) (e : EngineSel) : List (BitVec 16) := match e with | .cruc => g.cruc.closed | .ladle => g.ladle.closed
def Group.openBatch (g : Group) (e : EngineSel) : BitVec 16 := match e with | .cruc => g.cruc.open_ | .ladle => g.ladle.open_
def Group.savedBatches (g : Group) (e : EngineSel) : List (BitVec 16) := match e with | .cruc => g.cruc.saved | .ladle => g.ladle.saved

/-- Whether a command of the batch is in the group's queue. -/
def Group.queued (g : Group) (e : EngineSel) (n : BitVec 16) : Bool :=
  match e with
  | .cruc => g.cruc.queue.any fun q => !q.done && q.batch == n
  | .ladle => g.ladle.queue.any fun q => !q.done && q.batch == n

/-- Whether a command that re-slicing passed on has this batch number, as seen on the group's core or on another (R286, R321). -/
def Group.inherits (g : Group) (e : EngineSel) (n : BitVec 16) (here : Bool) : Bool :=
  match e with
  | .cruc => g.cruc.queue.any fun q => q.inherited && (here || q.wide) && q.batch == n
  | .ladle => g.ladle.queue.any fun q => q.inherited && (here || q.wide) && q.batch == n

/-- Whether batch `n` of a group's queue has completed (R31, R207); commands that re-slicing passed to other groups of the block
part count, and, where threads changed their cores, those of the whole block (R286; log 140). -/
def State.batchDone (s : State) (c : Nat) (g : Group) (e : EngineSel) (n : BitVec 16) : Bool :=
  decide ((g.openBatch e - n).toNat = 32768) ||
  (!(g.closed e).contains n && !g.queued e n &&
    !(s.cores.any fun k => k.2.groups.any fun x =>
      x.2.launch == g.launch && x.2.block == g.block && x.2.inherits e n (k.1 == c)))

/-- R207: waitb; a batch that a save instruction holds cannot complete (R297, R329). -/
def execWaitb (e : EngineSel) (w : CastWord) (s : State) : Out :=
  onFrag s fun v => v.uniform (.waitb e w) fun v =>
    let m := v.g.openBatch e
    let x : BitVec 16 := if w.a = 0 then w.imm.setWidth 16 else (v.g.kreg w.a.toNat).setWidth 16
    let n := if w.modBit 5 then m - x else x
    if n = m ∨ later n m = true ∨ (v.g.savedBatches e).contains n = true then v.trapAll causeIllop 0
    else if v.s.batchDone v.c v.g e n then v.next v.g
    else v.s.setGroup v.c v.slot (v.g.setNode { v.nd with st := .batch e n, fatal := [] })

/-! ### spill and fill (R208) -/

/-- Bytes of a spilled operand, padded to 8. -/
def spillSize (w : CastWord) : Nat := (4 * cellsOf w.lc + 7) / 8 * 8

/-- R208: spill. -/
def execSpill (w : CastWord) (s : State) : Out :=
  onFrag s fun v =>
    let r := v.l.rec_
    let (limPages, limit) := if (v.active w).isEmpty then ([], 0) else { v with s := v.s.settleReds }.spillLimit
    let n := spillSize w
    v.memory (.spill w) w .w
      (fun _ t =>
        if !limPages.isEmpty then .missRead limPages
        else if limit < t.top + n then .late causeSpillExh 0
        else match v.s.trRange v.c v.g.ctx v.nd.fatal .w (spillVa r t t.top) n with
          | .miss ps => .miss ps
          | .bad _ => .late causeAccess (BitVec.ofNat 64 (spillVa r t t.top))
          | .ok _ => .ready)
      (fun s _ t =>
        ((v.write s false {} (.glob (spillVa r t t.top)) n (t.cells w.b.toNat (cellsOf w.lc))).1, .ok { t with top := t.top + n }))

/-- R208: fill. -/
def execFill (w : CastWord) (s : State) : Out :=
  onFrag s fun v =>
    let r := v.l.rec_
    let n := spillSize w
    v.memory (.fill w) w .r
      (fun _ t =>
        if t.top < 16 + n then .early causeFmt 0
        else match v.s.trRange v.c v.g.ctx v.nd.fatal .r (spillVa r t (t.top - n)) n with
          | .miss ps => .miss ps
          | .bad _ => .late causeAccess (BitVec.ofNat 64 (spillVa r t (t.top - n)))
          | .ok _ => .ready)
      (fun s _ t =>
        let a := spillVa r t (t.top - n)
        let (s, x) := v.read s false (.glob a) n
        (s, lanePut x t a fun x => .ok ({ t with top := t.top - n }.setCells w.d.toNat (cellsOf w.lc) x)))

/-! ### Scratchpad queues (R213, R214) -/

/-- The header of a queue: HEAD, TAIL, CAP, element bytes; none where a field breaks its rule. -/
def queueHeader (x bytes : Nat) : Option (Nat × Nat × Nat) :=
  let cap := bits x 64 16
  if 2 ≤ cap ∧ cap ≤ 4096 ∧ 2 ^ Nat.log2 cap = cap ∧ bits x 80 8 = (if bytes = 8 then 1 else 0) ∧ bits x 88 40 = 0 then
    some (bits x 0 32, bits x 32 32, cap)
  else none

/-- The place of a queue header or slot that a lane reaches. -/
def View.queueAt (v : View) (w : CastWord) (t : Thread) (off n : Nat) : Option Loc := v.locate t w.space ((addressOf w v.g t + off) % 2 ^ 32) n

/-- A queue word in one lane: `act` is given HEAD, TAIL, CAP, the index it works on, and that slot (R214); it answers the
thread, the new slot and the new header. -/
def View.queueLane (v : View) (w : CastWord) (tail : Bool) (s : State) (t : Thread)
    (act : Nat → Nat → Nat → Thread × Option (Nat × Nat × Nat)) : State × LaneRes :=
  let a := addressOf w v.g t
  let bad : LaneRes := .trap t causeAccess (BitVec.ofNat 64 a)
  match v.queueAt w t 0 16 with
  | none => (s, bad)
  | some hl =>
    let (s, h) := v.read s true hl 16
    match h with
    | .poison => (s, .trap t causePoison (BitVec.ofNat 64 a))
    | .refused => (s, bad)
    | .ok hx => match queueHeader hx (accBytes w) with
      | none => (s, bad)
      | some (head, tl, cap) =>
        match v.queueAt w t (16 + 16 * ((if tail then tl else head) % cap)) 16 with
        | none => (s, bad)
        | some sl =>
          let (s, x) := v.read s true sl 16
          match x with
          | .poison => (s, .trap t causePoison (BitVec.ofNat 64 a))
          | .refused => (s, bad)
          | .ok x =>
            if bits x 65 7 ≠ 0 ∨ bits x 72 56 ≠ 0 then (s, bad)
            else
              let (t, new) := act head tl x
              match new with
              | none => (s, .ok t)
              | some (slot, head, tl) =>
                let s := (v.write s true {} sl 16 slot).1
                let s := (v.write s true {} hl 16 (hx / 2 ^ 64 * 2 ^ 64 + head + tl * 2 ^ 32)).1
                (s, .ok t)

/-- The shape of a queue word: its header is 16-byte aligned (R170). -/
def View.queueWord (v : View) (i : Instr) (w : CastWord) (tail : Bool)
    (act : Thread → Nat → Nat → Nat → Thread × Option (Nat × Nat × Nat)) : State :=
  v.memory i w .rw (fun _ t => v.checkAccess t w.space (addressOf w v.g t) 16 16 .rw)
    (fun s _ t =>
      let (s, r) := v.queueLane w tail s t (act t)
      (if acquiresWide w then s.acquire v.c (s.hearth.nextEpoch - 1) else s, r))
    (beforeRelease v w)

/-- R214: qpush. A 4-byte element leaves the upper four bytes of the slot's value as they are, which R214 does not say
(log 135). -/
def execQpush (w : CastWord) (s : State) : Out :=
  onFrag s fun v => v.queueWord (.qpush w) w true fun t head tl x =>
    let n := accBytes w
    if bits x 64 1 = 0 then
      (t.setP w.d.toNat true, some (dataB v.g w t (cellsOf w.lc) % 256 ^ n + x % 2 ^ 64 / 256 ^ n * 256 ^ n + 2 ^ 64, head, (tl + 1) % 2 ^ 32))
    else (t.setP w.d.toNat false, none)

/-- R214: qpop. -/
def execQpop (w : CastWord) (s : State) : Out :=
  onFrag s fun v => v.queueWord (.qpop w) w false fun t head tl x =>
    if bits x 64 1 = 1 then
      ((t.setCells w.d.toNat (cellsOf w.lc) (x % 256 ^ accBytes w)).setP w.c.toNat true, some (x % 2 ^ 64, (head + 1) % 2 ^ 32, tl))
    else (t.setP w.c.toNat false, none)

/-- R214: qpeek. -/
def execQpeek (w : CastWord) (s : State) : Out :=
  onFrag s fun v => v.queueWord (.qpeek w) w false fun t _ _ x =>
    if bits x 64 1 = 1 then ((t.setCells w.d.toNat (cellsOf w.lc) (x % 256 ^ accBytes w)).setP w.c.toNat true, none)
    else (t.setP w.c.toNat false, none)

/-! ### ldk, pref, ccop (R215-R217) -/

/-- R215: ldk, a U form: a trap takes the whole fragment. -/
def execLdk (w : CastWord) (s : State) : Out :=
  onFrag s fun v => v.uniform (.ldk w) fun v =>
    if v.g.lsqHeld v.nd.mask then v.s
    else
      let n := accBytes w
      let t := v.g.thread (v.lanes.headD 0)
      let a := addressOf w v.g t
      let d := BitVec.ofNat 64 a
      if !w.ka && t.readsBad (.ldk w) then v.trapAll causePoison 0
      else match v.checkAccess t w.space a n n .r with
        | .early c x => v.trapAll c x
        | .late c x => v.trapAll c x
        | .miss ps => v.park [] .r ps
        | .missRead ps => v.park [] .r ps
        | .ready => match v.locate t w.space a n with
          | none => v.trapAll causeAccess d
          | some loc =>
            let (s, r) := v.load v.s.settleReds w loc n
            match r with
            | .poison => { v with s := s }.trapAll causePoison d
            | .refused => { v with s := s }.trapAll causeAccess d
            | .ok x =>
              let s := if acquiresWide w then v.acquireAt s loc n else s
              { v with s := s }.next (v.g.setKcells w.d.toNat (cellsOf w.lc) x)

/-- Fetch the 128-byte line of a physical address into a core's L1; a poisoned sector is left out (R216). -/
def State.prefetch (s : State) (c pa : Nat) : State :=
  if s.l1Used c pa then
    ((List.range 4).map fun i => pa / 128 * 4 + i).foldl (fun s sec => if s.l1Poison c sec then s else s.l1Fill c sec) s
  else s

/-- The line of a prefetched address goes to the L1, once the reds on their way to it have performed (R174), or, with L2, to the
L2 only (R216). -/
def State.prefAt (s : State) (c pa : Nat) (l2 : Bool) : State :=
  if l2 then s.cacheTouch (pa / 128 * 128) 128 false else s.settleReds.prefetch c pa

/-- A pref of one lane outside image space, into the L1 or with L2 into the L2 only: whatever check fails drops it (R216). -/
def View.prefLane (v : View) (w : CastWord) (s : State) (t : Thread) : State :=
  match v.locate t w.space (addressOf w v.g t) 1 with
  | some (.glob va) => match v.s.translate v.c v.g.ctx v.nd.fatal .r va with
    | .hit pa => s.prefAt v.c pa (w.modBit 5)
    | _ => s
  | _ => s

/-- A cache operation on the lines of a core's L1 (R217). -/
def State.l1Op (s : State) (c : Nat) (m : CacheOp) (on : Nat → Bool) : State :=
  let secs := ((s.core c).l1.map (·.1)).filter fun sec => on (sec / 4)
  let dirty (s : State) (sec : Nat) : Bool := match tfind (s.core c).l1 sec with | some x => x.dirty != 0 | none => false
  secs.foldl (fun s sec =>
    match m with
    | .wb => if dirty s sec then s.l1WriteBackAll c else s
    | .inv => if dirty s sec then s else s.l1Drop c sec
    | .wbinv => (if dirty s sec then s.l1WriteBackAll c else s).l1Drop c sec) s

/-- Lines of the L2 and the Hearth cache are written back (R336). -/
def State.cleanLines (s : State) (on : Nat → Bool) : State :=
  let clean (l : CacheLine) : CacheLine := if on l.line then { l with dirty := 0 } else l
  { s with hearth := { s.hearth with l2 := s.hearth.l2.map clean, hearthLines := s.hearth.hearthLines.map clean } }

/-- Act on the copies of the lines that a physical range overlaps; with scope sys every dirty line of the L2 and the Hearth
cache among them is written back, whatever the member (R217, R336). -/
def State.cacheOp (s : State) (c : Nat) (m : CacheOp) (sys : Bool) (on : Nat → Bool) : State :=
  let s := s.l1Op c m on
  if sys then s.cleanLines on else s

/-- The translation that ccop finds or walks for a page; a walk for ccop writes no fault entry (R217). -/
def State.quietTr (s : State) (c ctx va : Nat) : State × Option Nat :=
  match s.translate c ctx [] .r va with
  | .hit pa => (s, some pa)
  | .miss => match s.walk ctx va (Config.contChoice s.free) with
    | .leaf e => ((s.touchWalk ctx va).fresh, if e.r then some (e.pa + (va - e.va)) else none)
    | _ => ((s.touchWalk ctx va).fresh, none)
  | _ => (s, none)

/-- ccop of one lane: `len` bytes at its address, page by page. -/
def View.ccopLane (v : View) (m : CacheOp) (w : CastWord) (s : State) (t : Thread) (len : Nat) : State :=
  let a := addressOf w v.g t
  (pieces a len).foldl (fun s p =>
    match s.resolve v.l.rec_ v.g.launch v.g.block v.c t.g w.space p.1 p.2 with
    | some (.glob va) =>
      let (s, at_) := s.quietTr v.c v.g.ctx va
      match at_ with
      | some pa => s.cacheOp v.c m (w.scope == 6) fun line => decide (pa / 128 ≤ line ∧ line ≤ (pa + p.2 - 1) / 128)
      | none => s
    | _ => s) s

/-- R217: ccop. It never parks, and its only trap is the ILLOP of a length above 2^24: a lane whose operand cell holds an
uncorrectable error does nothing (log 134). -/
def execCcop (m : CacheOp) (w : CastWord) (s : State) : Out :=
  onFrag s fun v =>
    match v.check (.ccop m w) with
    | some cause => v.trapAll cause 0
    | none =>
      if v.g.lsqHeld v.nd.mask then v.s
      else
        let outs := (v.active w).map fun l =>
          let t := v.g.thread l
          let len := if w.modBit 5 then 0 else dataB v.g w t 1
          (l, t, len, if t.readsBad (.ccop m w) then LaneRes.ok t
            else if 2 ^ 24 < len then LaneRes.trap t causeIllop 0 else LaneRes.ok t)
        let s := outs.foldl (fun s (_, t, len, r) => match r with
          | .trap _ _ _ => s
          | .ok _ =>
            if t.readsBad (.ccop m w) then s
            else if w.modBit 5 then s.cacheOp v.c m (w.scope == 6) fun _ => true else v.ccopLane m w s t len) v.s.settleReds
        v.finish s (outs.map fun e => (e.1, e.2.2.2))

end Sys2Proof.Machine
end

