-- ==== Sys2Proof/Machine/Image.lean ====
section
/-! DEFINITION. Image space (R198, R209-R212): descriptors, levels, residency and feedback, filtered samples; and ld, st
and pref, which reach image space as well as the others. -/

namespace Sys2Proof.Machine

/-! ### Descriptors (R209, R210) -/

/-- An image descriptor. -/
structure ImgDesc where
  base : Nat
  resmap : Nat
  feedback : Nat
  width : Nat
  height : Nat
  fmt : Nat
  levels : Nat
  wrap : Nat
  deriving DecidableEq, Repr

/-- The descriptor that 64 bytes hold, or none where a field breaks its rule. -/
def imgDesc (x : Nat) : Option ImgDesc :=
  let d : ImgDesc :=
    { base := bits x 0 64, resmap := bits x 64 64, feedback := bits x 128 64, width := bits x 192 16 + 1, height := bits x 208 16 + 1,
      fmt := bits x 224 8, levels := bits x 232 8, wrap := bits x 240 8 }
  if d.base % 65536 = 0 ∧ d.resmap % 8 = 0 ∧ d.feedback % 8 = 0 ∧ d.fmt ≤ 3 ∧ 1 ≤ d.levels ∧ d.levels ≤ 15 ∧ d.wrap ≤ 2 ∧ bits x 248 264 = 0 then
    some d
  else none

/-- Bytes of a texel. -/
def ImgDesc.texel (d : ImgDesc) : Nat := [4, 8, 4, 16].getD d.fmt 4
def ImgDesc.w (d : ImgDesc) (l : Nat) : Nat := max 1 (d.width / 2 ^ l)
def ImgDesc.h (d : ImgDesc) (l : Nat) : Nat := max 1 (d.height / 2 ^ l)
/-- The row pitch of a level. -/
def ImgDesc.pitch (d : ImgDesc) (l : Nat) : Nat := (d.w l * d.texel + 255) / 256 * 256
/-- The start of a level. -/
def ImgDesc.start (d : ImgDesc) : Nat → Nat
  | 0 => d.base
  | l + 1 => (d.start l + d.pitch l * d.h l + 65535) / 65536 * 65536
/-- The address of a texel. -/
def ImgDesc.at_ (d : ImgDesc) (l x y : Nat) : Nat := d.start l + y * d.pitch l + x * d.texel
/-- The page of an address, for the residency and feedback maps. -/
def ImgDesc.page (d : ImgDesc) (a : Nat) : Nat := (a - d.base) / 65536

/-- The address of the descriptor: the k pair in C. -/
def descVa (g : Group) (w : CastWord) : Nat := g.kcells w.c.toNat 2

/-- A plan's step: what stops the lane, or a value. -/
abbrev Plan (α : Type) := Except LaneAct α

/-- The translation of one read or write of a global address; `d` is the DETAIL of a failure. -/
def View.planAt (v : View) (need : Need) (a n d : Nat) : Plan Unit :=
  match globLoc a n with
  | none => .error (.early causeAccess (BitVec.ofNat 64 d))
  | some loc => match v.trLoc need loc n with
    | .miss ps => .error (if need == .r then .missRead ps else .miss ps)
    | .bad _ => .error (.late causeAccess (BitVec.ofNat 64 d))
    | .ok _ => .ok ()

/-- The value at an address whose translation is present. -/
def View.planRead (v : View) (a n d : Nat) : Plan Nat := do
  v.planAt .r a n d
  match v.peek (.glob a) n with
  | .ok x => .ok x
  | .poison => .error (.late causePoison (BitVec.ofNat 64 d))
  | .refused => .error (.late causeAccess (BitVec.ofNat 64 d))

/-- The descriptor of a word, read by a plain load (R209). -/
def View.planDesc (v : View) (w : CastWord) : Plan ImgDesc := do
  let a := descVa v.g w
  if a % 64 ≠ 0 then .error (.early causeAccess (BitVec.ofNat 64 a))
  let x ← v.planRead a 64 a
  match imgDesc x with
  | some d => .ok d
  | none => .error (.late causeAccess (BitVec.ofNat 64 a))

/-- Whether a page is resident (R210). -/
def View.planResident (v : View) (d : ImgDesc) (page : Nat) : Plan Bool :=
  if d.resmap = 0 then .ok true
  else do
    let x ← v.planRead (d.resmap + page / 8) 1 (d.resmap + page / 8)
    .ok (x.testBit (page % 8))

/-- The feedback byte of a page is writable, where there is feedback. -/
def View.planFeedback (v : View) (d : ImgDesc) (page : Nat) : Plan Unit :=
  if d.feedback = 0 then .ok () else v.planAt .rw (d.feedback + page / 8) 1 (d.feedback + page / 8)

/-- Set a page's feedback bit at the home slice (R181, R211). -/
def View.feedback (v : View) (s : State) (d : ImgDesc) (page : Nat) : State :=
  if d.feedback = 0 then s
  else
    let loc := Loc.glob (d.feedback + page / 8)
    let (s, r) := v.read s true loc 1
    match r with
    | .ok x => (v.write s true {} loc 1 (x ||| 2 ^ (page % 8))).1
    | _ => s

/-- The act that a plan amounts to. -/
def planAct {α : Type} (p : Plan α) : LaneAct := match p with | .ok _ => .ready | .error a => a

/-- The two coordinate cells in A (R194). -/
def coords (g : Group) (w : CastWord) (t : Thread) : Nat × Nat :=
  let x := if w.ka then g.kcells w.a.toNat 2 else t.cells w.a.toNat 2
  (bits x 0 32, bits x 32 32)

/-! ### Raw texels (R198) -/

/-- Where a raw access lands: outside the level, on a page that is not resident, or at an address. -/
inductive TexelAt | outside | absent (page : Nat) | at_ (a : Nat) deriving DecidableEq, Repr

/-- The checks of a raw access: the type against the format, the level, residency, and the texel's page. -/
def View.planTexel (v : View) (w : CastWord) (t : Thread) (need : Need) : Plan (ImgDesc × TexelAt) := do
  let d ← v.planDesc w
  if !isB w.ty || 4 * cellsOf w.lc ≠ d.texel then .error (.late causeAccess (BitVec.ofNat 64 (descVa v.g w)))
  let (xc, yc) := coords v.g w t
  let x := sext 32 xc
  let y := sext 32 yc
  if x < 0 ∨ y < 0 ∨ (d.width : Int) ≤ x ∨ (d.height : Int) ≤ y then .ok (d, .outside)
  else
    let a := d.at_ 0 x.toNat y.toNat
    if ← v.planResident d (d.page a) then
      v.planAt need a d.texel a
      .ok (d, .at_ a)
    else
      if need = .r then v.planFeedback d (d.page a)
      .ok (d, .absent (d.page a))

/-- R198: an image load of one lane. -/
def View.texelLoad (v : View) (w : CastWord) (s : State) (t : Thread) : State × LaneRes :=
  let put (t : Thread) (x : Nat) : LaneRes := .ok (t.setCells w.d.toNat (cellsOf w.lc) x)
  match v.planTexel w t .r with
  | .error _ => (s, .ok t)
  | .ok (d, .at_ a) =>
    let (s, r) := v.read s (acquiresWide w) (.glob a) d.texel
    (if acquiresWide w then v.acquireAt s (.glob a) d.texel else s, lanePut r t a (put t))
  | .ok (d, .absent p) => (v.feedback s d p, put t 0)
  | .ok (_, .outside) => (s, put t 0)

/-- R198: an image store of one lane. -/
def View.texelStore (v : View) (w : CastWord) (s : State) (t : Thread) : State :=
  match v.planTexel w t .w with
  | .ok (d, .at_ a) =>
    let (s, good) := v.write s (releasesWide w) (wkindOf w false) (.glob a) d.texel (dataB v.g w t (cellsOf w.lc))
    let s := if releasesWide w then v.stamp s (.glob a) d.texel else s
    if good then s else s.fault (threadEntry v.g.launch v.c t causeAccess false v.nd.pc (BitVec.ofNat 64 a))
  | _ => s

/-- The view of an image word, whose checks read memory: the reds before it have performed (R174, R179). -/
def View.settled (v : View) (i : Instr) : View :=
  if (v.check i).isNone && !v.g.lsqHeld v.nd.mask then { v with s := v.s.settleReds } else v

/-- R197, R198: ld. -/
def execLd (w : CastWord) (s : State) : Out :=
  onFrag s fun v =>
    if w.space = 6 then
      let v := v.settled (.ld w)
      v.memory (.ld w) w .rw (fun _ t => planAct (v.planTexel w t .r)) (fun s _ t => v.texelLoad w s t)
    else v.ld (.ld w) w

/-- R197, R198: st. -/
def execSt (w : CastWord) (s : State) : Out :=
  onFrag s fun v =>
    if w.space = 6 then
      let v := v.settled (.st w)
      v.memory (.st w) w .w (fun _ t => planAct (v.planTexel w t .w)) (fun s _ t => (v.texelStore w s t, .ok t)) (beforeRelease v w)
    else v.st (.st w) w

/-- R216: pref; in space 6 the line of the level-0 texel. Whatever check fails drops it, and it never parks. -/
def execPref (w : CastWord) (s : State) : Out :=
  onFrag s fun v => v.uniform (.pref w) fun v =>
    let v := if w.space = 6 then { v with s := v.s.settleReds } else v
    let s := (v.active w).foldl (fun s l =>
      let t := v.g.thread l
      if w.space = 6 then
        match v.planDesc w with
        | .ok d =>
          let (xc, yc) := coords v.g w t
          if xc < d.width ∧ yc < d.height then
            match v.s.translate v.c v.g.ctx v.nd.fatal .r (d.at_ 0 xc yc) with
            | .hit pa => s.prefAt v.c pa (w.modBit 5)
            | _ => s
          else s
        | .error _ => s
      else v.prefLane w s t) v.s
    { v with s := s }.next v.g

/-! ### Samples (R211, R212) -/

/-- A binary32 coordinate in units of 2^-150; NaN and infinity read as 0. -/
def coordFx (x : Nat) : Int :=
  match (fmtOf 0xA 0).decode x with
  | .fin s m e => (if s then -1 else 1) * (m * 2 ^ (e + 150).toNat : Nat)
  | _ => 0

/-- A tap: coordinates before wrapping, and its weight in units of 2^-16. -/
structure Tap where
  x : Int
  y : Int
  wt : Nat
  deriving DecidableEq, Repr

/-- The cells and the fraction of a filtered coordinate, the fraction in units of 2^-8 (R211). -/
def filterAxis (u : Int) (n : Nat) : Int × Nat :=
  let sx := u * n - 2 ^ 149
  let x0 := sx / 2 ^ 150
  (x0, (roundAt .rne false 0 ⟨(sx - x0 * 2 ^ 150).toNat, -150, false⟩ (-8)).1)

/-- The taps of a sample at a level. -/
def tapsOf (d : ImgDesc) (filt : Bool) (l : Nat) (u v : Int) : List Tap :=
  if filt then
    let (x0, fx) := filterAxis u (d.w l)
    let (y0, fy) := filterAxis v (d.h l)
    [⟨x0, y0, (256 - fx) * (256 - fy)⟩, ⟨x0 + 1, y0, fx * (256 - fy)⟩, ⟨x0, y0 + 1, (256 - fx) * fy⟩, ⟨x0 + 1, y0 + 1, fx * fy⟩].filter fun t => t.wt ≠ 0
  else [⟨u * d.w l / 2 ^ 150, v * d.h l / 2 ^ 150, 65536⟩]

/-- A coordinate under WRAP; none where a border tap lies outside. -/
def wrapAxis (wrap n : Nat) (x : Int) : Option Nat :=
  if wrap = 0 then some (max 0 (min x (n - 1))).toNat
  else if wrap = 1 then some (x % n).toNat
  else if 0 ≤ x ∧ x < n then some x.toNat else none

/-- The address of a tap's texel; none outside a border. -/
def tapAt (d : ImgDesc) (l : Nat) (t : Tap) : Option Nat :=
  match wrapAxis d.wrap (d.w l) t.x, wrapAxis d.wrap (d.h l) t.y with
  | some x, some y => some (d.at_ l x y)
  | _, _ => none

/-- The level of a sample: B, at most LEVELS - 1. -/
def sampleLevel (v : View) (w : CastWord) (t : Thread) (d : ImgDesc) : Nat := min (dataB v.g w t 1) (d.levels - 1)

/-- The least of some addresses, 0 of none. -/
def lowest (as : List Nat) : Nat := as.foldl min (as.headD 0)

/-- Several accesses of one lane: the first failing step of R169 over all of them decides, with DETAIL `d` (log 155). -/
def planAll {α : Type} (d : Nat) (ps : List (Plan α)) : Plan (List α) :=
  let bad (f : LaneAct → Bool) : Bool := ps.any fun p => match p with | .error a => f a | .ok _ => false
  let pages (f : LaneAct → List Nat) : List Nat := ps.flatMap fun p => match p with | .error a => f a | .ok _ => []
  let detail := BitVec.ofNat 64 d
  if bad fun a => match a with | .early _ _ => true | _ => false then .error (.early causeAccess detail)
  else match pages fun a => match a with | .missRead ps => ps | _ => [] with
    | p :: qs => .error (.missRead (p :: qs))
    | [] => match pages fun a => match a with | .miss ps => ps | _ => [] with
      | p :: qs => .error (.miss (p :: qs))
      | [] =>
        if bad fun a => match a with | .late c _ => c == causeAccess | _ => false then .error (.late causeAccess detail)
        else if bad fun _ => true then .error (.late causePoison detail)
        else .ok (ps.filterMap fun p => match p with | .ok x => some x | .error _ => none)

/-- The addresses of the taps' texels that are read, and the pages to mark, given what the residency map says. -/
def tapTexels (d : ImgDesc) (res : List (Nat × Bool)) : List Nat × List Nat :=
  ((res.filter (·.2)).map (·.1), (res.filter fun x => !x.2).map fun x => d.page x.1)

/-- The lowest address that a sample reads or marks. -/
def tapLow (d : ImgDesc) (texels pages : List Nat) : Nat :=
  lowest (texels ++ if d.feedback = 0 then [] else pages.map fun p => d.feedback + p / 8)

/-- Check the taps of a sample: the texels to read with their weights, and the pages to mark. A tap outside a border gives
a weight with no address. -/
def View.planTaps (v : View) (d : ImgDesc) (l : Nat) (taps : List Tap) : Plan (List (Nat × Option Nat) × List Nat) := do
  let at_ := taps.map fun t => (t.wt, tapAt d l t)
  let addrs := at_.filterMap (·.2)
  let flags ← planAll (lowest (addrs.map fun a => d.resmap + d.page a / 8)) (addrs.map fun a => v.planResident d (d.page a))
  let res := addrs.zip flags
  let (texels, pages) := tapTexels d res
  let _ ← planAll (tapLow d texels pages) (texels.map (fun a => v.planAt .r a d.texel a) ++ pages.map fun p => v.planFeedback d p)
  .ok (at_.map fun t => (t.1, t.2.filter texels.contains), pages)

/-- The plan of smp. -/
def View.planSmp (v : View) (w : CastWord) (t : Thread) : Plan (ImgDesc × List (Nat × Option Nat) × List Nat) := do
  let d ← v.planDesc w
  let l := sampleLevel v w t d
  let (u, y) := coords v.g w t
  let (taps, pages) ← v.planTaps d l (tapsOf d (w.modBit 5) l (coordFx u) (coordFx y))
  .ok (d, taps, pages)

/-- Channel `c` of a texel of a format other than RGBA8. -/
def channel (fmt c x : Nat) : FV :=
  match fmt with
  | 1 => (fmtOf 8 0).decode (bits x (16 * c) 16)
  | 2 => if c = 0 then (fmtOf 0xA 0).decode x else if c = 3 then oneFV else .fin false 0 0
  | _ => (fmtOf 0xA 0).decode (bits x (32 * c) 32)

/-- The weighted sum of a channel, rounded once to binary32; a texel is none where it gives 0 (R211). -/
def sampleChannel (fmt c : Nat) (taps : List (Nat × Option Nat)) : Nat :=
  let f := fmtOf 0xA 0
  let tg := f.target .rne 0
  if fmt = 0 then
    let n := taps.foldl (fun acc t => match t.2 with | some x => acc + t.1 * bits x (8 * c) 8 | none => acc) 0
    if n = 0 then 0 else f.encode (roundMag tg false (divMag n 0 (255 * 65536) 0 96)).v
  else f.encode (roundSum tg (taps.map fun t => match t.2 with
    | some x => match channel fmt c x with | .nan s => .nan s | y => mulFV (.fin false t.1 (-16)) y
    | none => .fin false 0 0)).v

/-- Read the taps' texels; a refusal of any comes before poison of any (R169). -/
def View.readTaps (v : View) (w : CastWord) (d : ImgDesc) : State → List (Nat × Option Nat) → State × PRes × List (Nat × Option Nat)
  | s, [] => (s, .ok 0, [])
  | s, (wt, none) :: ts => let (s, r, xs) := View.readTaps v w d s ts; (s, r, (wt, none) :: xs)
  | s, (wt, some a) :: ts =>
    let (s, r) := v.read s (acquiresWide w) (.glob a) d.texel
    let s := if acquiresWide w then v.acquireAt s (.glob a) d.texel else s
    let (s, r', xs) := View.readTaps v w d s ts
    (s, joinRes 0 r r', (wt, match r with | .ok x => some x | _ => none) :: xs)

/-- R211: smp. -/
def execSmp (w : CastWord) (s : State) : Out :=
  onFrag s fun v =>
    let v := v.settled (.smp w)
    v.memory (.smp w) w .rw (fun _ t => planAct (v.planSmp w t))
      (fun s _ t => match v.planSmp w t with
        | .error _ => (s, .ok t)
        | .ok (d, taps, pages) =>
          let (s, r, xs) := v.readTaps w d s taps
          match r with
          | .ok _ =>
            let s := pages.foldl (fun s p => v.feedback s d p) s
            (s, .ok (t.setCells w.d.toNat 4 (packLE 4 ((List.range 4).map fun c => sampleChannel d.fmt c xs))))
          | r => (s, lanePut r t (tapLow d (taps.filterMap (·.2)) pages) fun _ => .ok t))

/-- Whether every tap of an unfiltered sample is resident at a level. -/
def View.planLevel (v : View) (d : ImgDesc) (u y : Int) (l : Nat) : Plan Bool :=
  (tapsOf d false l u y).foldlM (fun ok t => match tapAt d l t with
    | none => .ok ok
    | some a => do let r ← v.planResident d (d.page a); .ok (ok && r)) true

/-- The smallest resident level from `l` upward, 15 when none is. -/
def View.planSmallest (v : View) (d : ImgDesc) (u y : Int) : Nat → Nat → Plan Nat
  | 0, _ => .ok 15
  | k + 1, l => do if ← v.planLevel d u y l then .ok l else v.planSmallest d u y k (l + 1)

/-- The plan and value of smpres. -/
def View.planRes (v : View) (w : CastWord) (t : Thread) : Plan Nat := do
  let d ← v.planDesc w
  let l := sampleLevel v w t d
  let (u, y) := coords v.g w t
  let here ← v.planLevel d (coordFx u) (coordFx y) l
  let low ← v.planSmallest d (coordFx u) (coordFx y) (d.levels - l) l
  .ok ((if here then 1 else 0) + 256 * low)

/-- R212: smpres reads no texel and writes no feedback. With FILT 0 a level has one tap. -/
def execSmpres (w : CastWord) (s : State) : Out :=
  onFrag s fun v =>
    let v := v.settled (.smpres w)
    v.memory (.smpres w) w .r (fun _ t => planAct (v.planRes w t))
      (fun s _ t => match v.planRes w t with
        | .error _ => (s, .ok t)
        | .ok x => (s, .ok (t.setCells w.d.toNat 1 x)))
      id (fun s => if acquiresWide w then s.acquire v.c (s.hearth.nextEpoch - 1) else s)

end Sys2Proof.Machine
end

