-- ==== Sys2Proof/Machine/Hash.lean ====
section
/-! DEFINITION. SHA-256, and the verification of an LMS/HSS signature as NIST SP 800-208 fixes it for the parameters of R472
(R472, R474, R476; log 18). -/

namespace Sys2Proof.Machine

/-! ### SHA-256 -/

/-- The 64 round constants. -/
def shaK : List Word :=
  [0x428A2F98, 0x71374491, 0xB5C0FBCF, 0xE9B5DBA5, 0x3956C25B, 0x59F111F1, 0x923F82A4, 0xAB1C5ED5,
   0xD807AA98, 0x12835B01, 0x243185BE, 0x550C7DC3, 0x72BE5D74, 0x80DEB1FE, 0x9BDC06A7, 0xC19BF174,
   0xE49B69C1, 0xEFBE4786, 0x0FC19DC6, 0x240CA1CC, 0x2DE92C6F, 0x4A7484AA, 0x5CB0A9DC, 0x76F988DA,
   0x983E5152, 0xA831C66D, 0xB00327C8, 0xBF597FC7, 0xC6E00BF3, 0xD5A79147, 0x06CA6351, 0x14292967] ++
  [0x27B70A85, 0x2E1B2138, 0x4D2C6DFC, 0x53380D13, 0x650A7354, 0x766A0ABB, 0x81C2C92E, 0x92722C85,
   0xA2BFE8A1, 0xA81A664B, 0xC24B8B70, 0xC76C51A3, 0xD192E819, 0xD6990624, 0xF40E3585, 0x106AA070,
   0x19A4C116, 0x1E376C08, 0x2748774C, 0x34B0BCB5, 0x391C0CB3, 0x4ED8AA4A, 0x5B9CCA4F, 0x682E6FF3,
   0x748F82EE, 0x78A5636F, 0x84C87814, 0x8CC70208, 0x90BEFFFA, 0xA4506CEB, 0xBEF9A3F7, 0xC67178F2]

/-- The eight working words. -/
structure ShaState where
  a : Word
  b : Word
  c : Word
  d : Word
  e : Word
  f : Word
  g : Word
  h : Word
  deriving DecidableEq, Repr

def ShaState.start : ShaState :=
  { a := 0x6A09E667, b := 0xBB67AE85, c := 0x3C6EF372, d := 0xA54FF53A, e := 0x510E527F, f := 0x9B05688C, g := 0x1F83D9AB, h := 0x5BE0CD19 }

/-- Three rotations of a word, or two and a shift, added bit by bit. -/
def rot3 (x : Word) (i j k : Nat) : Word := x.rotateRight i ^^^ x.rotateRight j ^^^ x.rotateRight k
def rot2 (x : Word) (i j k : Nat) : Word := x.rotateRight i ^^^ x.rotateRight j ^^^ (x >>> k)

/-- The next words of the message schedule; `ws` holds those so far, the latest first. -/
def shaWords : Nat → List Word → List Word
  | 0, ws => ws
  | n + 1, ws => shaWords n ((rot2 (ws.getD 1 0) 17 19 10 + ws.getD 6 0 + rot2 (ws.getD 14 0) 7 18 3 + ws.getD 15 0) :: ws)

/-- One round with a constant and a schedule word. -/
def ShaState.round (s : ShaState) (k w : Word) : ShaState :=
  let t := s.h + rot3 s.e 6 11 25 + ((s.e &&& s.f) ^^^ (~~~s.e &&& s.g)) + k + w
  { a := t + rot3 s.a 2 13 22 + ((s.a &&& s.b) ^^^ (s.a &&& s.c) ^^^ (s.b &&& s.c)), b := s.a, c := s.b, d := s.c
    e := s.d + t, f := s.e, g := s.f, h := s.g }

def ShaState.plus (x y : ShaState) : ShaState :=
  { a := x.a + y.a, b := x.b + y.b, c := x.c + y.c, d := x.d + y.d, e := x.e + y.e, f := x.f + y.f, g := x.g + y.g, h := x.h + y.h }

/-- Bytes as a number, high byte first. -/
def beNat (bs : List Byte) : Nat := bs.foldl (fun x b => 256 * x + b.toNat) 0
/-- The low `n` bytes of a number, high byte first. -/
def beBytes : Nat → Nat → List Byte
  | 0, _ => []
  | n + 1, x => beBytes n (x / 256) ++ [BitVec.ofNat 8 x]

/-- One block of 64 bytes. -/
def ShaState.block (s : ShaState) (bs : List Byte) : ShaState :=
  let ws := (List.range 16).foldl (fun acc i => BitVec.ofNat 32 (beNat ((bs.drop (4 * i)).take 4)) :: acc) []
  s.plus ((shaK.zip (shaWords 48 ws).reverse).foldl (fun x e => x.round e.1 e.2) s)

def ShaState.blocks : Nat → ShaState → List Byte → ShaState
  | 0, s, _ => s
  | n + 1, s, bs => ShaState.blocks n (s.block (bs.take 64)) (bs.drop 64)

/-- SHA-256: 32 bytes. -/
def sha256 (bs : List Byte) : List Byte :=
  let n := bs.length
  let padded := bs ++ [0x80#8] ++ List.replicate ((119 - n % 64) % 64) 0#8 ++ beBytes 8 (8 * n)
  let s := ShaState.start.blocks (padded.length / 64) padded
  [s.a, s.b, s.c, s.d, s.e, s.f, s.g, s.h].flatMap fun w => beBytes 4 w.toNat

/-! ### LMOTS_SHA256_N32_W4, LMS_SHA256_M32_H10 and H15, HSS with L = 2 -/

/-- Digit `i` of a string of 4-bit digits. -/
def otsDigit (bs : List Byte) (i : Nat) : Nat := (bs.getD (i / 2) 0).toNat / (if i % 2 = 0 then 16 else 1) % 16

/-- The digits that are signed: those of the message's hash, and those of their checksum. -/
def otsDigits (q : List Byte) : List Nat :=
  let ds := (List.range 64).map (otsDigit q)
  ds ++ (List.range 3).map (otsDigit (beBytes 2 (16 * (ds.map (15 - ·)).sum)))

/-- The rest of a Winternitz chain, from step `j` on. -/
def otsChain (pre : List Byte) : Nat → Nat → List Byte → List Byte
  | 0, _, y => y
  | n + 1, j, y => otsChain pre n (j + 1) (sha256 (pre ++ beBytes 1 j ++ y))

/-- The one-time public key that a signature of 2,180 bytes would have been made under. -/
def otsKey (id : List Byte) (leaf : Nat) (sig msg : List Byte) : Option (List Byte) :=
  if beNat (sig.take 4) ≠ 3 then none
  else
    let pre := id ++ beBytes 4 leaf
    let ds := otsDigits (sha256 (pre ++ [0x81#8, 0x81#8] ++ (sig.drop 4).take 32 ++ msg))
    some (sha256 (pre ++ [0x80#8, 0x80#8] ++ (ds.mapIdx fun i a => otsChain (pre ++ beBytes 2 i) (15 - a) a ((sig.drop (36 + 32 * i)).take 32)).flatten))

/-- The root of the tree above node `n`, by the path of its siblings. -/
def lmsRoot (id : List Byte) : Nat → List Byte → List (List Byte) → List Byte
  | _, x, [] => x
  | n, x, y :: ys =>
    let p := id ++ beBytes 4 (n / 2) ++ [0x83#8, 0x83#8]
    lmsRoot id (n / 2) (sha256 (if n % 2 = 1 then p ++ y ++ x else p ++ x ++ y)) ys

/-- Whether an LMS signature of a message verifies under a public key of 56 bytes, for a tree of height `h` with type code `ty`. -/
def lmsVerifies (h ty : Nat) (key sig msg : List Byte) : Bool :=
  let id := (key.drop 8).take 16
  let leaf := beNat (sig.take 4)
  let path := (List.range h).map fun i => (sig.drop (2188 + 32 * i)).take 32
  beNat (key.take 4) == ty && beNat ((key.drop 4).take 4) == 3 && beNat ((sig.drop 2184).take 4) == ty && decide (leaf < 2 ^ h) &&
  sig.length == 2188 + 32 * h &&
  match otsKey id leaf ((sig.drop 4).take 2180) msg with
  | none => false
  | some k => lmsRoot id (2 ^ h + leaf) (sha256 (id ++ beBytes 4 (2 ^ h + leaf) ++ [0x82#8, 0x82#8] ++ k)) path == (key.drop 24).take 32

/-- Check 4 of R472: whether an HSS signature of 5,236 bytes verifies: the top tree, of height 15, signs the key of the lower tree,
of height 10, which signs the message. -/
def hssVerifies (key msg sig : List Byte) : Bool :=
  let low := (sig.drop 2672).take 56
  beNat (key.take 4) == 2 && sig.length == 5236 && beNat (sig.take 4) == 1 &&
  lmsVerifies 15 7 (key.drop 4) ((sig.drop 4).take 2668) low && lmsVerifies 10 6 low (sig.drop 2728) msg

end Sys2Proof.Machine
end

