-- ==== Sys2Proof/Machine/Crucible.lean ====
section
/-! DEFINITION. The Crucible (R258-R297): tensor handles, acceptance, claims, beats, time slots, pair mode, faults in
execution, images, and its instructions and events. The queue is served in order, which R274 allows. -/

namespace Sys2Proof.Machine

/-- A Crucible instruction: in reduced service it raises ILLOP at step 1 of R273, after its decode checks (R470). -/
def View.crucUniform (v : View) (i : Instr) (f : View → State) : State :=
  v.uniform i fun v => if v.s.box.stage = 4 then f v else v.trapAll causeIllop 0

/-! ### Tensor handles (R258-R261) -/

/-- The fields of a handle. -/
structure Handle where
  trans : Bool
  isLocal : Bool
  sstride : Nat
  sbase : Nat
  blk : Nat
  fmt : Nat
  estride : Nat
  rstride : Nat
  cols : Nat
  rows : Nat
  base : Nat
  deriving DecidableEq, Repr

def handleOf (h : BitVec 256) : Handle :=
  let x := h.toNat
  { trans := bits x 136 1 == 1, isLocal := bits x 137 1 == 1, sstride := bits x 112 16, sbase := bits x 80 26, blk := bits x 76 4,
    fmt := bits x 72 4, estride := bits x 64 8, rstride := bits x 48 16, cols := bits x 40 7 + 1, rows := bits x 32 7 + 1, base := bits x 0 26 }

/-- The field conditions of R258 and R259. -/
def handleOk (h : BitVec 256) : Bool :=
  let x := h.toNat
  let f := handleOf h
  bits x 144 112 == 0 && bits x 138 6 == 0 && bits x 128 8 == 0 && bits x 106 6 == 0 && bits x 47 1 == 0 && bits x 39 1 == 0 &&
  bits x 26 6 == 0 && decide (f.blk ≤ 3) && decide (f.fmt ≤ 7) && f.estride != 0 && (decide (3 ≤ f.fmt) || f.blk == 0) &&
  (!f.isLocal || (bits f.base 20 6 == 0 && bits f.sbase 20 6 == 0))

/-- Stored bits of an element (R259). -/
def Handle.ebits (h : Handle) : Nat := match h.fmt with | 0 => 32 | 1 => 16 | 2 => 16 | 7 => 4 | _ => 8
/-- L, the block length (R261). -/
def Handle.blockLen (h : Handle) : Nat := 8 * 2 ^ h.blk

/-- The byte and nibble of element (r, c) at a displaced base (R260). -/
def Handle.place (h : Handle) (base r c : Nat) : Nat × Nat :=
  let (sr, sc) := if h.trans then (c, r) else (r, c)
  let bp := sc * h.estride * h.ebits
  (base + sr * h.rstride + bp / 8, bp / 4 % 2)

/-- The element span at a displaced base (R260). -/
def Handle.span (h : Handle) (base : Nat) : Nat × Nat :=
  let (sr, sc) := if h.trans then (h.cols, h.rows) else (h.rows, h.cols)
  (base, base + (sr - 1) * h.rstride + ((sc - 1) * h.estride * h.ebits + h.ebits - 1) / 8)

/-- The scale span of `n` rows or columns over `k` reduction elements (R261). -/
def Handle.scaleSpan (h : Handle) (sbase n k : Nat) : Nat × Nat :=
  (sbase, sbase + (n - 1) * h.sstride + (k + h.blockLen - 1) / h.blockLen - 1)

/-- The value of element bits, times the block scale (R259). -/
def elemValue (fmt x : Nat) (scale : Option Nat) : FV :=
  let v : FV := match fmt with
    | 0 => (fmtOf 0xA 0).decode x
    | 1 => (fmtOf 9 0).decode x
    | 2 => (fmtOf 8 0).decode x
    | 3 => (fmtOf 0xD 0).decode x
    | 4 => (fmtOf 0xE 0).decode x
    | 5 => let n := sext 8 x; .fin (decide (n < 0)) n.natAbs (-6)
    | 6 => let n := sext 6 x; .fin (decide (n < 0)) n.natAbs (-4)
    | _ => let n := sext 4 x; .fin (decide (n < 0)) n.natAbs (-2)
  match scale with
  | none => v
  | some 0xFF => .nan false
  | some b => match v with | .fin s m e => .fin s m (e + b - 127) | v => v

/-- Kb, the reduction length of a pair of formats (R270). -/
def reduceLen (fa fb : Nat) : Option Nat :=
  if fa = 0 ∧ fb = 0 then some 4
  else if (fa = 1 ∨ fa = 2) ∧ (fb = 1 ∨ fb = 2) then some 16
  else if (fa = 3 ∨ fa = 4) ∧ (fb = 3 ∨ fb = 4) then some 64
  else if fa = 5 ∧ fb = 5 then some 32
  else if fa = 6 ∧ fb = 6 then some 64
  else if (fa = 5 ∧ fb = 7) ∨ (fa = 7 ∧ fb = 5) then some 64
  else if fa = 7 ∧ fb = 7 then some 128
  else none

/-! ### Walks (R276) -/

/-- A walk: the three counts, and the steps of the A element, A scale, B element and B scale bases. -/
structure Walk where
  n : List Nat
  a : List Int
  sa : List Int
  b : List Int
  sb : List Int
  deriving DecidableEq, Repr

/-- The walk of a single step. -/
def Walk.one : Walk := { n := [1, 1, 1], a := [0, 0, 0], sa := [0, 0, 0], b := [0, 0, 0], sb := [0, 0, 0] }

def walkOf (kv : List Word) : Walk :=
  let c (i : Nat) : Nat := (kv.getD i 0).toNat
  let st (i : Nat) : List Int := [sext 32 (c i), sext 32 (c (i + 1)), sext 32 (c (i + 2))]
  { n := [bits (c 0) 0 16 + 1, bits (c 0) 16 16 + 1, bits (c 1) 0 16 + 1], a := st 2, b := st 5, sa := st 8, sb := st 11 }

/-- The zero fields of a walk descriptor. -/
def walkOk (kv : List Word) : Bool := bits (kv.getD 1 0).toNat 16 16 == 0 && kv.getD 14 0 == 0 && kv.getD 15 0 == 0

def Walk.count (w : Walk) (i : Nat) : Nat := w.n.getD i 1
/-- How many steps. -/
def Walk.steps (w : Walk) : Nat := w.count 0 * w.count 1 * w.count 2
/-- The displacement at loop indices. -/
def dot3 (st : List Int) (i : List Nat) : Int :=
  st.getD 0 0 * i.getD 0 0 + st.getD 1 0 * i.getD 1 0 + st.getD 2 0 * i.getD 2 0
/-- The loop indices of step `s`. -/
def Walk.at_ (w : Walk) (s : Nat) : List Nat := [s % w.count 0, s / w.count 0 % w.count 1, s / (w.count 0 * w.count 1)]
/-- The corners in ascending (i2, i1, i0), i0 varying fastest. -/
def Walk.corners (w : Walk) : List (List Nat) :=
  (List.range 8).map fun j => [j % 2 * (w.count 0 - 1), j / 2 % 2 * (w.count 1 - 1), j / 4 * (w.count 2 - 1)]

/-! ### Spans and their checks (R262, R263) -/

/-- A span on a local core of the flask. -/
structure Span where
  core : Nat
  lo : Nat
  hi : Nat
  deriving DecidableEq, Repr

/-- The local core that a base of a handle names, for a command of core `c` (R258). -/
def Handle.coreOf (h : Handle) (c base : Nat) : Nat := if h.isLocal then c % 48 else bits base 20 6

/-- The lowest byte of a span outside the block's windows, as a 26-bit address (R263). -/
def State.spanFault (s : State) (c li b : Nat) (p : Span) : Option Nat :=
  let at_ (off : Nat) : Option Nat := some ((p.core * 2 ^ 20 + off) % 2 ^ 26)
  if 48 ≤ p.core ∨ !s.carries (48 * flaskOf c + p.core) li b then at_ p.lo
  else match s.window? (48 * flaskOf c + p.core) li b with
    | none => at_ p.lo
    | some w =>
      if p.lo % 2 ^ 18 ≥ w.q ∨ 2 ^ 20 ≤ p.lo then at_ p.lo
      else
        let stop := if w.q = 2 ^ 18 then 2 ^ 20 else p.lo / 2 ^ 18 * 2 ^ 18 + w.q
        if stop ≤ p.hi then at_ stop else none

/-- Whether a span lies in one bank group below 2^20 (R262). -/
def Span.oneBank (p : Span) : Bool := decide (p.hi < 2 ^ 20) && p.lo / 2 ^ 18 == p.hi / 2 ^ 18

/-- The spans of the operands of one mma step: A elements, A scales, B elements, B scales. -/
def mmaSpans (c : Nat) (ha hb : Handle) (wk : Walk) (i : List Nat) : List Span :=
  let pos (base : Nat) (st : List Int) : Nat := (((base % 2 ^ 20 : Nat) : Int) + dot3 st i).toNat
  let sp (k : Nat) (r : Nat × Nat) : Span := { core := k, lo := r.1, hi := r.2 }
  [sp (ha.coreOf c ha.base) (ha.span (pos ha.base wk.a))] ++
  (if ha.blk = 0 then [] else [sp (ha.coreOf c ha.sbase) (ha.scaleSpan (pos ha.sbase wk.sa) ha.rows ha.cols)]) ++
  [sp (hb.coreOf c hb.base) (hb.span (pos hb.base wk.b))] ++
  (if hb.blk = 0 then [] else [sp (hb.coreOf c hb.sbase) (hb.scaleSpan (pos hb.sbase wk.sb) hb.cols hb.rows)])

/-- The first displaced base outside 0 to 2^20 - 1, as DETAIL reports it; every corner examines all four bases (R276). -/
def baseFault (ha hb : Handle) (wk : Walk) : Option Nat :=
  wk.corners.findSome? fun i =>
    ([(ha.base, wk.a), (ha.sbase, wk.sa), (hb.base, wk.b), (hb.sbase, wk.sb)] : List (Nat × List Int)).findSome? fun (base, st) =>
      let x := ((base % 2 ^ 20 : Nat) : Int) + dot3 st i
      if x < 0 ∨ 2 ^ 20 ≤ x then some (base / 2 ^ 20 * 2 ^ 20 + wrap 20 x) else none

/-- Step 4 of R273 for spans. -/
def State.spansFault (s : State) (c li b : Nat) (ps : List Span) : Option Nat :=
  minBy id (ps.filterMap fun p => s.spanFault c li b p)

/-- Step 5 of R273 for the spans of one mma step; the element spans on one core lie in different bank groups. -/
def mmaBank (c : Nat) (ha hb : Handle) (wk : Walk) (i : List Nat) : Option Nat :=
  let ps := mmaSpans c ha hb wk i
  let first (p : Span) : Nat := p.core * 2 ^ 20 + p.lo
  match ps.find? fun p => !p.oneBank with
  | some p => some (first p)
  | none =>
    let a := ps.getD 0 ⟨0, 0, 0⟩
    let b := (if ha.blk = 0 then ps.getD 1 ⟨0, 0, 0⟩ else ps.getD 2 ⟨0, 0, 0⟩)
    if a.core = b.core ∧ a.lo / 2 ^ 18 = b.lo / 2 ^ 18 then some (first b) else none

/-! ### Acceptance (R272, R273) -/

/-- Whether a group may name a tile or a mask pair (R273 step 2). -/
def CrucState.ownsTile (x : CrucState) (t : Nat) : Bool := x.tiles.getLsbD t && !x.relTiles.getLsbD t
def CrucState.ownsMask (x : CrucState) (m : Nat) : Bool := x.masks.getLsbD m && !x.relMasks.getLsbD m
/-- Whether a group holds claims, beyond those released already (R294). -/
def CrucState.holds (x : CrucState) : Bool := (x.tiles &&& ~~~x.relTiles) != 0 || (x.masks &&& ~~~x.relMasks) != 0

/-- The 16 entries are full (R272). -/
def CrucState.full (x : CrucState) : Bool := decide (16 ≤ x.queue.length)

/-- The global index of the group's lowest live thread. -/
def Group.lowG (g : Group) : Nat := ((g.threads.find? fun e => e.2.alive).map (·.2.g)).getD 0

/-- A command as it is accepted (R28, R282). -/
def View.crucCmd (v : View) (i : Instr) : CrucCmd :=
  { word := v.s.wordOf i, pc := v.nd.pc, batch := v.g.cruc.open_, seq := (v.s.core v.c).accepts, rm := v.g.cruc.rm, sat := v.g.cruc.sat,
    ha := 0, hb := 0, kv := [], g := v.g.lowG, paired := v.g.cruc.paired, begun := false, prog := 0, beat := 0, beatB := 0, stop := false,
    held := none, bypass := false, done := false, inherited := false, rank := v.g.rank }

/-- Accept a command: it takes an entry, and the fragment goes on. -/
def View.crucPush (v : View) (g : Group) (x : CrucCmd) : State :=
  let k := v.s.core v.c
  let s := v.s.setCore v.c { k with accepts := k.accepts + 1 }
  { v with s := s }.next { g with cruc := { g.cruc with queue := g.cruc.queue ++ [x] } }

/-- The checks of a command at acceptance, in the order of R273, each a DETAIL where it fails. -/
structure CrucChecks where
  tiles : List Nat := []
  masks : List Nat := []
  fmt : Option Nat := none
  access : Option Nat := none
  bank : Option Nat := none
  deriving DecidableEq, Repr

/-- The first failing check of steps 2 to 5: cause and DETAIL. -/
def CrucState.reject (x : CrucState) (k : CrucChecks) : Option (Nat × Nat) :=
  match k.tiles.find? fun t => !x.ownsTile t with
  | some t => some (causeAccess, 0x100000000 + t)
  | none => match k.masks.find? fun m => !x.ownsMask m with
    | some m => some (causeAccess, 0x200000000 + m)
    | none => match k.fmt with
      | some d => some (causeCrucFmt, d)
      | none => match k.access with
        | some a => some (causeAccess, a)
        | none => k.bank.map fun a => (causeCrucBank, a)

/-- A Crucible command: a full queue stalls it, the checks of R273, then acceptance. -/
def View.crucWord (v : View) (i : Instr) (k : CrucChecks) (mk : CrucCmd → CrucCmd) : State :=
  if v.g.cruc.full then v.s
  else match v.g.cruc.reject k with
    | some (cause, d) => v.trapAll cause (BitVec.ofNat 64 d)
    | none => v.crucPush v.g (mk (v.crucCmd i))

/-- The mask pair that MSK names. -/
def mskOf (w : CastWord) : List Nat := if w.modBit 3 then [w.c.toNat] else []

/-- Step 3 of R273 for mma: handle A, handle B, the walk descriptor, then the pairing and the dimensions (R290). -/
def mmaFmt (ha hb : BitVec 256) (kv : Option (List Word)) (paired : Bool) : Option Nat :=
  let a := handleOf ha
  let b := handleOf hb
  if !handleOk ha then some 1
  else if !handleOk hb then some 2
  else if (match kv with | some k => !walkOk k | none => false) then some 3
  else if (reduceLen a.fmt b.fmt).isNone ∨ (if paired then 128 else 64) < a.rows ∨ a.cols ≠ b.rows ∨ 64 < b.cols then some 0
  else none

/-- Captured k cells. -/
def Group.kvec (g : Group) (i n : Nat) : List Word := (List.range n).map fun j => g.kreg (i + j)

/-- The checks of mma and mmaw. An out-of-range displaced base of R276 gives its DETAIL before any span that faults under R263:
the model's choice, the rules order them nowhere (log 59). -/
def View.mmaChecks (v : View) (w : CastWord) (masks : List Nat) (kv : Option (List Word)) : CrucChecks :=
  let ha := v.g.handle w.a.toNat
  let hb := v.g.handle w.b.toNat
  let a := handleOf ha
  let b := handleOf hb
  let wk := match kv with | some k => walkOf k | none => .one
  let cs := match kv with | some _ => wk.corners | none => [[0, 0, 0]]
  { tiles := [w.d.toNat], masks := masks, fmt := mmaFmt ha hb kv v.g.cruc.paired
    access := match baseFault a b wk with
      | some d => some d
      | none => v.s.spansFault v.c v.g.launch v.g.block (cs.flatMap fun i => mmaSpans v.c a b wk i)
    bank := cs.findSome? fun i => mmaBank v.c a b wk i }

/-- R290: mma. -/
def execMma (w : CastWord) (s : State) : Out :=
  onFrag s fun v => v.crucUniform (.mma w) fun v =>
    v.crucWord (.mma w) (v.mmaChecks w (mskOf w) none)
      fun x => { x with ha := v.g.handle w.a.toNat, hb := v.g.handle w.b.toNat }

/-- R290: mmaw; its mask pair is in IMM. -/
def execMmaw (w : CastWord) (s : State) : Out :=
  onFrag s fun v => v.crucUniform (.mmaw w) fun v =>
    let kv := v.g.kvec w.c.toNat 16
    let masks := if w.modBit 3 then [w.imm.toNat % 8] else []
    v.crucWord (.mmaw w) (v.mmaChecks w masks (some kv))
      fun x => { x with ha := v.g.handle w.a.toNat, hb := v.g.handle w.b.toNat, kv := kv }

/-- R291: azero. -/
def execAzero (w : CastWord) (s : State) : Out :=
  onFrag s fun v => v.crucUniform (.azero w) fun v =>
    v.crucWord (.azero w) { tiles := [w.d.toNat], masks := mskOf w } id

/-- R291: acopy. -/
def execAcopy (w : CastWord) (s : State) : Out :=
  onFrag s fun v => v.crucUniform (.acopy w) fun v =>
    v.crucWord (.acopy w) { tiles := [w.d.toNat, w.a.toNat], masks := mskOf w } id

/-- R291: aadd. -/
def execAadd (w : CastWord) (s : State) : Out :=
  onFrag s fun v => v.crucUniform (.aadd w) fun v =>
    v.crucWord (.aadd w) { tiles := [w.d.toNat, w.a.toNat], masks := mskOf w } id

/-- R291: ascl captures α and β. -/
def execAscl (w : CastWord) (s : State) : Out :=
  onFrag s fun v => v.crucUniform (.ascl w) fun v =>
    v.crucWord (.ascl w) { tiles := [w.d.toNat], masks := mskOf w }
      fun x => { x with kv := [v.g.kreg w.a.toNat, v.g.kreg w.b.toNat] }

/-- The checks of ald and ast (R292). -/
def View.moveChecks (v : View) (w : CastWord) (tile : Nat) : CrucChecks :=
  let hw := v.g.handle w.a.toNat
  let h := handleOf hw
  let good := handleOk hw && decide (h.fmt ≤ 2) && h.blk == 0 && decide (h.rows ≤ if v.g.cruc.paired then 128 else 64) && decide (h.cols ≤ 64)
  let p : Span := { core := h.coreOf v.c h.base, lo := (h.span (h.base % 2 ^ 20)).1, hi := (h.span (h.base % 2 ^ 20)).2 }
  { tiles := [tile], masks := mskOf w, fmt := if good then none else some 1
    access := v.s.spanFault v.c v.g.launch v.g.block p, bank := if p.oneBank then none else some (p.core * 2 ^ 20 + p.lo) }

/-- R292: ald. -/
def execAld (w : CastWord) (s : State) : Out :=
  onFrag s fun v => v.crucUniform (.ald w) fun v =>
    v.crucWord (.ald w) (v.moveChecks w w.d.toNat) fun x => { x with ha := v.g.handle w.a.toNat }

/-- R292: ast. -/
def execAst (w : CastWord) (s : State) : Out :=
  onFrag s fun v => v.crucUniform (.ast w) fun v =>
    v.crucWord (.ast w) (v.moveChecks w w.b.toNat) fun x => { x with ha := v.g.handle w.a.toNat }

/-- R293: mset. With H the handle is written at acceptance and no entry is taken. -/
def execMset (w : CastWord) (s : State) : Out :=
  onFrag s fun v => v.crucUniform (.mset w) fun v =>
    if w.modBit 1 then
      v.next { v.g with hregs := tset 0#256 v.g.hregs w.d.toNat (BitVec.ofNat 256 (v.g.kcells w.a.toNat 8)) }
    else v.crucWord (.mset w) { masks := [w.d.toNat] } fun x => { x with kv := v.g.kvec w.a.toNat 4 }

/-! ### Claims (R264, R265, R278) -/

/-- Whether the tiles and mask pairs given are free on a core. -/
def State.claimFree (s : State) (c : Nat) (tiles : BitVec 16) (masks : BitVec 8) : Bool :=
  let k := s.core c
  (setBits tiles.toNat 16).all (fun t => (tfind k.tileOwner t).isNone) && (setBits masks.toNat 8).all fun m => (tfind k.maskOwner m).isNone

/-- Give tiles and mask pairs of core `c` to an owner: every element +0, every mask all ones (R264). -/
def State.giveClaim (s : State) (c owner : Nat) (tiles : BitVec 16) (masks : BitVec 8) : State :=
  let k := s.core c
  let ts := setBits tiles.toNat 16
  let ms := setBits masks.toNat 8
  s.setCore c { k with
    tileOwner := ts.foldl (fun t i => tput t i owner) k.tileOwner
    maskOwner := ms.foldl (fun t i => tput t i owner) k.maskOwner
    tiles := ts.foldl (fun t i => tdel t i) k.tiles
    masks := ms.foldl (fun t i => tput t i (BitVec.allOnes 128)) k.masks
    badTiles := k.badTiles.filter fun i => !ts.contains i }

/-- The owner number of a request: the slot, or 1000 + slot for the partner's group. -/
def ClaimReq.owner (q : ClaimReq) : Nat := if q.forCore.isSome then 1000 + q.slot else q.slot

/-- Whether a request is a fragment's own. -/
def ClaimReq.of (q : ClaimReq) (slot node : Nat) (forCore : Option Nat) : Bool := q.slot == slot && q.node == node && q.forCore == forCore

/-- A new claim of core `c` for a fragment: it is granted, or waits in the order of the first attempts. -/
def State.claimNew (s : State) (c slot node : Nat) (forCore : Option Nat) (tiles : BitVec 16) (masks : BitVec 8) : State × Bool :=
  let k := s.core c
  let q : ClaimReq := { slot := slot, node := node, tiles := tiles, masks := masks, forCore := forCore, granted := false, word := s.cur.word }
  if s.claimFree c tiles masks && k.claims.all (·.granted) then
    let s := s.setCore c { k with claims := k.claims ++ [{ q with granted := true }] }
    (s.giveClaim c q.owner tiles masks, true)
  else (s.setCore c { k with claims := k.claims ++ [q] }, false)

/-- Drop a granted request. -/
def State.endClaim (s : State) (c slot node : Nat) (forCore : Option Nat) : State :=
  s.setCore c { s.core c with claims := (s.core c).claims.filter fun q => !q.of slot node forCore }

/-- Drop a fragment's request on a core, and what it was given: its word does not issue after all. -/
def State.undoClaim (s : State) (c slot node : Nat) (forCore : Option Nat) : State :=
  let k := s.core c
  match k.claims.find? (·.of slot node forCore) with
  | none => s
  | some q =>
    let k := if q.granted then { k with
        tileOwner := k.tileOwner.filter fun e => !(q.tiles.getLsbD e.1 && e.2 == q.owner)
        maskOwner := k.maskOwner.filter fun e => !(q.masks.getLsbD e.1 && e.2 == q.owner) } else k
    (s.setCore c k).endClaim c slot node forCore

/-- Claim indices of core `c` for a fragment. True once they are granted; the granted request stays until `endClaim`. A request for
other indices, which the group's claims have changed since, is dropped for a new one. -/
def State.claim (s : State) (c slot node : Nat) (forCore : Option Nat) (tiles : BitVec 16) (masks : BitVec 8) : State × Bool :=
  match (s.core c).claims.find? (·.of slot node forCore) with
  | some q =>
    if q.tiles = tiles ∧ q.masks = masks then (s, q.granted) else (s.undoClaim c slot node forCore).claimNew c slot node forCore tiles masks
  | none => s.claimNew c slot node forCore tiles masks

/-- A fragment's requests, on both cores, are dropped, with what they were given. -/
def State.letClaims (s : State) (c slot node : Nat) : State :=
  (s.undoClaim c slot node none).undoClaim (partner c) slot node (some c)

/-- Before a fragment performs a word, or a trap (none): requests that another word of it made are dropped, since that word does not
issue after all (R264, R296). -/
def State.keepClaims (s : State) (c slot node : Nat) (word : Option (BitVec 128)) : State :=
  let other (q : ClaimReq) : Bool := q.slot == slot && q.node == node && word != some q.word
  if ((s.core c).claims.any fun q => q.forCore.isNone && other q) || (s.core (partner c)).claims.any fun q => q.forCore == some c && other q then
    s.letClaims c slot node
  else s

/-- The whole fragment traps at a word that claims: its requests, on both cores, are dropped. -/
def View.trapClaim (v : View) (cause : Nat) (d : DWord) : State := { v with s := v.s.letClaims v.c v.slot v.nd.id }.trapAll cause d

/-- The fragment waits for indices and issues nothing (R265). -/
def View.waitClaim (v : View) (s : State) : State := s.setGroup v.c v.slot (v.g.setNode { v.nd with st := .claim, fatal := [] })

/-- The fragment waits in crest or lrest, a batch wait (R297, R329). -/
def View.waitRestore (v : View) (s : State) (tiles : BitVec 16) (masks : BitVec 8) (pair : Bool) : State :=
  s.setGroup v.c v.slot (v.g.setNode { v.nd with st := .restore tiles masks pair, fatal := [] })

/-- Whether an entry waits for indices. -/
def NodeState.claiming : NodeState → Bool
  | .claim | .restore _ _ _ => true
  | _ => false

/-- The waiting claims of a core, oldest first. -/
def Core.waiting (k : Core) : List ClaimReq := k.claims.filter fun q => !q.granted

/-- Grant the oldest waiting claim of core `c` if its indices are free; its fragment may issue its word again. -/
def State.grantHead (s : State) (c : Nat) (ok : ClaimReq → Bool) : State :=
  match (s.core c).waiting with
  | [] => s
  | q :: _ =>
    if ok q && s.claimFree c q.tiles q.masks then
      let k := s.core c
      let s := s.setCore c { k with claims := k.claims.map fun r => if r == q then { q with granted := true } else r }
      let s := s.giveClaim c q.owner q.tiles q.masks
      let oc := q.forCore.getD c
      match s.group? oc q.slot with
      | none => s
      | some g =>
        let f := fun (n : Node) => if n.id == q.node && n.st.claiming then { n with st := .ready } else n
        s.setGroup oc q.slot { g with nodes := g.nodes.map f, stack := g.stack.map f }
    else s

/-- R264: CLAIM_GRANT. -/
def execClaimGrant (s : State) : Out :=
  match s.cur.arg with
  | .at c _ _ => .next (s.grantHead c fun q => q.forCore.isNone)
  | _ => .next s

/-- R278: PAIR_GRANT of the group in `slot` of a core, on its partner. -/
def execPairGrant (s : State) : Out :=
  match s.cur.arg with
  | .at c slot _ => .next (s.grantHead (partner c) fun q => q.forCore == some c && q.slot == slot)
  | _ => .next s

/-- Free the partner's indices of a group (R279), but those granted to a request of it that waits to be used. -/
def State.freePartner (s : State) (c slot : Nat) : State :=
  let p := partner c
  let k := s.core p
  let kept := k.claims.filter fun q => q.granted && q.slot == slot && q.forCore == some c
  s.setCore p { k with
    tileOwner := k.tileOwner.filter fun e => decide (e.2 ≠ 1000 + slot) || kept.any fun q => q.tiles.getLsbD e.1
    maskOwner := k.maskOwner.filter fun e => decide (e.2 ≠ 1000 + slot) || kept.any fun q => q.masks.getLsbD e.1 }

/-- The fields of a mode word (R294). -/
def tsetOf (w : CastWord) : BitVec 16 := (w.imm >>> 16).setWidth 16
def msetOf (w : CastWord) : BitVec 8 := (w.imm >>> 8).setWidth 8

/-- SETM takes effect at acceptance (R267). -/
def setMode (w : CastWord) (g : Group) : Group :=
  if w.imm.getLsbD 4 then { g with cruc := { g.cruc with rm := (w.imm &&& 7).toNat, sat := w.imm.getLsbD 3 } } else g

/-- The indices that releases in the queue are still to free (R294). -/
def CrucState.releasing (x : CrucState) : BitVec 16 × BitVec 8 :=
  x.queue.foldl (fun (t, m) q => match decodeCast q.word with
    | some (.cmode _) => (t ||| (q.kv.getD 0 0).setWidth 16, m ||| (q.kv.getD 1 0).setWidth 8)
    | _ => (t, m)) (0, 0)

/-- R294: cmode. The word's own ILLOP cases are no decode check of R58, so they come after the class check. A release keeps what it released as its captured cells, for its beat to free. -/
def execCmode (w : CastWord) (s : State) : Out :=
  onFrag s fun v => v.crucUniform (.cmode w) fun v =>
    let ts := tsetOf w
    let ms := msetOf w
    if v.g.cruc.full then v.s
    else if !cmodeOk w then v.trapAll causeIllop 0
    else if !w.imm.getLsbD 5 then v.crucPush (setMode w v.g) (v.crucCmd (.cmode w))
    else if ts = 0 ∧ ms = 0 then
      if v.g.cruc.paired then v.trapAll causeIllop 0
      else
        let x := v.g.cruc
        let rt := x.tiles &&& ~~~x.releasing.1
        let rm := x.masks &&& ~~~x.releasing.2
        let g := { v.g with cruc := { x with relTiles := x.tiles, relMasks := x.masks } }
        v.crucPush (setMode w g) { v.crucCmd (.cmode w) with kv := [rt.setWidth 32, rm.setWidth 32] }
    else if v.g.cruc.holds || v.g.cruc.paired then v.trapClaim causeIllop 0
    else
      let (s, got) := v.s.claim v.c v.slot v.nd.id none ts ms
      if got then
        let s := s.endClaim v.c v.slot v.nd.id none
        let g := { v.g with cruc := { v.g.cruc with tiles := v.g.cruc.tiles ||| ts, masks := v.g.cruc.masks ||| ms } }
        { v with s := s }.crucPush (setMode w g) (v.crucCmd (.cmode w))
      else v.waitClaim s

/-- R296: cpair claims the same indices on the partner core. Indices there that a removed cunpair has left with the group, with no
cunpair queued and no request of the group outstanding, are let go first (log 57). -/
def execCpair (s : State) : Out :=
  onFrag s fun v => v.crucUniform .cpair fun v =>
    let x := v.g.cruc
    if x.full then v.s
    else if !x.holds || x.paired then v.trapClaim causeIllop 0
    else
      let p := partner v.c
      let asked := (v.s.core p).claims.any fun q => q.slot == v.slot && q.forCore == some v.c
      let s := if asked || x.queue.any fun q => decodeCast q.word == some .cunpair then v.s else v.s.freePartner v.c v.slot
      let (s, got) := s.claim p v.slot v.nd.id (some v.c) (x.tiles &&& ~~~x.relTiles) (x.masks &&& ~~~x.relMasks)
      if got then { v with s := s.endClaim p v.slot v.nd.id (some v.c) }.crucPush { v.g with cruc := { x with paired := true } } (v.crucCmd .cpair)
      else v.waitClaim s

/-- R279, R296: cunpair; later commands are unpaired, and its beat frees the partner's indices. -/
def execCunpair (s : State) : Out :=
  onFrag s fun v => v.crucUniform .cunpair fun v =>
    if v.g.cruc.full then v.s
    else if !v.g.cruc.paired then v.trapAll causeIllop 0
    else v.crucPush { v.g with cruc := { v.g.cruc with paired := false } } (v.crucCmd .cunpair)

/-! ### Commits and drains (R30, R295) -/

/-- Whether eight closed batches have not completed, so that a ninth stalls (R30). -/
def CrucState.batchFull (x : CrucState) : Bool := decide (8 ≤ x.closed.length)

/-- R295: ccommit. -/
def execCcommit (s : State) : Out :=
  onFrag s fun v => v.crucUniform .ccommit fun v =>
    if v.g.cruc.batchFull then v.s else v.next { v.g with cruc := v.g.cruc.close }

/-- What ABORT leaves of a queue: the begun commands, each of which stops at its next boundary. A removed release or cunpair has no
further effect: its indices stay as they are (R295; log 57). A begun command that stands at a step boundary runs its next step: the
boundary behind it is its next one, the model's choice (log 166). -/
def CrucState.abort (x : CrucState) : CrucState := { x with queue := (x.queue.filter (·.begun)).map fun q => { q with stop := true } }

/-- R295: cdrain. -/
def execCdrain (w : CastWord) (s : State) : Out :=
  onFrag s fun v => v.crucUniform (.cdrain w) fun v =>
    if v.g.cruc.batchFull then v.s
    else
      let n := v.g.cruc.open_
      let x := (if w.modBit 1 then v.g.cruc.abort else v.g.cruc).close
      v.s.setGroup v.c v.slot ({ v.g with cruc := x }.setNode { v.nd with st := .batch .cruc n, fatal := [] })

/-! ### Beats (R266-R271, R277-R282) -/

/-- Where a command executes: its owner's core and slot, and which half of a pair (0 own rows, 1 the partner's). -/
structure CrucAt where
  core : Nat
  slot : Nat
  half : Nat
  deriving DecidableEq, Repr

/-- The core whose tiles hold a half's rows. -/
def CrucAt.tileCore (a : CrucAt) : Nat := if a.half = 0 then a.core else partner a.core

/-- The rows of `m` logical rows that a half holds. -/
def halfRows (m half : Nat) : Nat := if half = 0 then min m 64 else m - 64

def ceilDiv (a b : Nat) : Nat := (a + b - 1) / b

/-- Steps of a command (R277). -/
def CrucCmd.steps (x : CrucCmd) : Nat := match decodeCast x.word with | some (.mmaw _) => (walkOf x.kv).steps | _ => 1

/-- Beats of one step on a half (R270, R271). An mset of a paired group takes its one beat on the group's own core, and writes both
cores' mask pairs in it (R278; log 143). -/
def CrucCmd.beats (x : CrucCmd) (half : Nat) : Nat :=
  if half = 1 ∧ !x.paired then 0
  else
    let a := handleOf x.ha
    let b := handleOf x.hb
    match decodeCast x.word with
    | some (.mma _) | some (.mmaw _) =>
      ceilDiv (halfRows a.rows half) 16 * ceilDiv b.cols 16 * ceilDiv a.cols ((reduceLen a.fmt b.fmt).getD 1)
    | some (.ald _) | some (.ast _) => ceilDiv (halfRows a.rows half) 16 * ceilDiv a.cols 16
    | some (.azero _) | some (.ascl _) | some (.acopy _) | some (.aadd _) => 16
    | _ => if half = 0 then 1 else 0

def CrucCmd.beatOf (x : CrucCmd) (half : Nat) : Nat := if half = 0 then x.beat else x.beatB

/-- Whether a half has a beat to execute; the partner's half of ast writes after the group's own (R292). -/
def CrucCmd.wants (x : CrucCmd) (half : Nat) : Bool :=
  !x.done && decide (x.beatOf half < x.beats half) &&
  (half == 0 || (match decodeCast x.word with | some (.ast _) => decide (x.beats 0 ≤ x.beat) | _ => true))

/-- An accumulator element, and its update. -/
def State.acc (s : State) (c t i j : Nat) : Word := tget 0#32 (tget [] (s.core c).tiles t) (64 * i + j)
def setAcc (tile : Table Word) (i j : Nat) (x : Word) : Table Word := tset 0#32 tile (64 * i + j) x
def State.tile (s : State) (c t : Nat) : Table Word := tget [] (s.core c).tiles t
def State.setTile (s : State) (c t : Nat) (x : Table Word) : State := s.setCore c { s.core c with tiles := tset [] (s.core c).tiles t x }

/-- Whether element (i, j) of a tile is enabled (R266). -/
def maskOn (m : Option Mask) (i j : Nat) : Bool := match m with | none => true | some m => m.getLsbD i && m.getLsbD (64 + j)

/-- The mask pair in force for a command's half. -/
def State.cmdMask (s : State) (c : Nat) (ms : List Nat) : Option Mask := ms.head?.map fun m => tget 0#128 (s.core c).masks m

/-- beat of R269. -/
def crucSum (rm : Nat) (sat : Bool) (xs : List FV) : Word :=
  let f := fmtOf 0xA 0
  let t := f.target (rmodeOf rm) 0
  let r := roundSum t xs
  BitVec.ofNat 32 (f.encode (if sat && r.flags &&& flagOF != 0 && r.v.isInf then .fin r.v.neg t.maxSig (t.emax - t.p + 1) else r.v))

/-- round(x × α + β) of ascl (R291). -/
def crucFma (rm : Nat) (sat : Bool) (x a b : Word) : Word :=
  let f := fmtOf 0xA 0
  let t := f.target (rmodeOf rm) 0
  let r := roundFma t (f.decode x.toNat) (f.decode a.toNat) (f.decode b.toNat)
  BitVec.ofNat 32 (f.encode (if sat && r.flags &&& flagOF != 0 && r.v.isInf then .fin r.v.neg t.maxSig (t.emax - t.p + 1) else r.v))

/-- A product under R268. -/
def prodFV (neg : Bool) (a b : FV) : FV :=
  if a.isNan || b.isNan || zeroInf a b then .nan false
  else if neg then (mulFV a b).negate else mulFV a b

/-- Bytes of a window as an engine reads them, or the offset of the first that is poisoned (R282). -/
def State.padRead (s : State) (c li b core off n : Nat) : Except Nat Nat :=
  match s.window? (48 * flaskOf c + core) li b with
  | some w => match (List.range n).find? fun i => w.poisoned (off + i) 1 with
    | some i => .error (off + i)
    | none => .ok (w.read off n)
  | none => .ok 0

/-- What a beat does: it writes, or meets an error that stops the command with a DETAIL (R282, R357). -/
inductive BeatRes | ok (s : State) | stop (detail : Nat) deriving DecidableEq, Repr

/-- An element as a beat reads it: its value, or the poisoned address. -/
def State.elem (s : State) (c li b : Nat) (h : Handle) (base sbase r k n : Nat) : Except Nat FV :=
  let (off, nib) := h.place base r k
  let core := h.coreOf c h.base
  match s.padRead c li b core off (if h.ebits = 4 then 1 else h.ebits / 8) with
  | .error a => .error (core * 2 ^ 20 + a)
  | .ok x =>
    let x := if h.ebits = 4 then bits x (4 * nib) 4 else x
    if h.blk = 0 then .ok (elemValue h.fmt x none)
    else
      let so := sbase + n
      let sc := h.coreOf c h.sbase
      match s.padRead c li b sc so 1 with
      | .error a => .error (sc * 2 ^ 20 + a)
      | .ok y => .ok (elemValue h.fmt x (some y))

/-- The lowest poisoned address among reads. -/
def poisonOf (xs : List (Except Nat FV)) : Option Nat := minBy id (xs.filterMap fun x => match x with | .error a => some a | .ok _ => none)
def valueOf (x : Except Nat FV) : FV := match x with | .ok v => v | .error _ => .nan false

/-- One beat of an mma step (R266, R268-R270). -/
def State.mmaBeat (s : State) (a : CrucAt) (li b : Nat) (x : CrucCmd) (w : CastWord) (ms : List Nat) (wk : Walk) (idx : Nat) : BeatRes :=
  let ha := handleOf x.ha
  let hb := handleOf x.hb
  let i := wk.at_ x.prog
  let pos (base : Nat) (st : List Int) : Nat := (((base % 2 ^ 20 : Nat) : Int) + dot3 st i).toNat
  let (ba, sa) := (pos ha.base wk.a, pos ha.sbase wk.sa)
  let (bb, sb) := (pos hb.base wk.b, pos hb.sbase wk.sb)
  let kb := (reduceLen ha.fmt hb.fmt).getD 1
  let T := ceilDiv ha.cols kb
  let nb := ceilDiv hb.cols 16
  let t := idx % T
  let rows := (List.range 16).map (16 * (idx / T / nb) + ·) |>.filter (· < halfRows ha.rows a.half)
  let cols := (List.range 16).map (16 * (idx / T % nb) + ·) |>.filter (· < hb.cols)
  let ks := (List.range (min kb (ha.cols - t * kb))).map (t * kb + ·)
  let tc := a.tileCore
  let m := s.cmdMask tc ms
  let rowsOn := rows.filter fun r => cols.any fun c => maskOn m r c
  let colsOn := cols.filter fun c => rows.any fun r => maskOn m r c
  let av := rowsOn.map fun r =>
    let lr := r + 64 * a.half
    (r, ks.map fun k => s.elem a.core li b ha ba sa lr k (lr * ha.sstride + k / ha.blockLen))
  let bv := colsOn.map fun c => (c, ks.map fun k => s.elem a.core li b hb bb sb k c (c * hb.sstride + k / hb.blockLen))
  let fresh := w.modBit 2 && x.prog == 0
  if !fresh && !rowsOn.isEmpty && (s.core tc).badTiles.contains w.d.toNat then .stop (0x100000000 + w.d.toNat)
  else match poisonOf ((av.flatMap (·.2)) ++ bv.flatMap (·.2)) with
    | some d => .stop d
    | none =>
      let old := s.tile tc w.d.toNat
      let tile := av.foldl (fun tile (r, xs) => bv.foldl (fun tile (c, ys) =>
        if maskOn m r c then
          let c0 : FV := if fresh && t == 0 then .fin false 0 0 else (fmtOf 0xA 0).decode (tget 0#32 old (64 * r + c)).toNat
          setAcc tile r c (crucSum x.rm x.sat (c0 :: (List.zipWith (fun p q => prodFV (w.modBit 1) (valueOf p) (valueOf q)) xs ys)))
        else tile) tile) old
      .ok (s.setTile tc w.d.toNat tile)

/-- One beat of an element-wise command on tile `d`: the 16 × 16 block `idx` of the half (R271, R291). `reads` lists the tiles it
reads. -/
def State.tileBeat (s : State) (a : CrucAt) (d : Nat) (ms reads : List Nat) (idx : Nat) (f : Nat → Nat → Word) : BeatRes :=
  let tc := a.tileCore
  let m := s.cmdMask tc ms
  let cells := (List.range 256).map fun e => (16 * (idx / 4) + e / 16, 16 * (idx % 4) + e % 16)
  let on := cells.filter fun e => maskOn m e.1 e.2
  match reads.find? fun t => !on.isEmpty && (s.core tc).badTiles.contains t with
  | some t => .stop (0x100000000 + t)
  | none =>
    let s' := s.setTile tc d (on.foldl (fun tile e => setAcc tile e.1 e.2 (f e.1 e.2)) (s.tile tc d))
    -- a tile written whole holds no error
    .ok (if idx = 15 ∧ ms.isEmpty ∧ !reads.contains d then
        s'.setCore tc { s'.core tc with badTiles := (s'.core tc).badTiles.filter (· ≠ d) } else s')

/-- The elements that beat `idx` of ald or ast moves: 256 at a time in ascending (r, c) (R260, R292). -/
def moveCells (h : Handle) (half idx : Nat) : List (Nat × Nat) :=
  ((List.range 256).map (256 * idx + ·)).filterMap fun e =>
    if e < halfRows h.rows half * h.cols then some (e / h.cols, e % h.cols) else none

/-- One beat of ald: exact values into the enabled elements. -/
def State.aldBeat (s : State) (a : CrucAt) (li b : Nat) (x : CrucCmd) (w : CastWord) (idx : Nat) : BeatRes :=
  let h := handleOf x.ha
  let tc := a.tileCore
  let m := s.cmdMask tc (mskOf w)
  let core := h.coreOf a.core h.base
  let got := ((moveCells h a.half idx).filter fun e => maskOn m e.1 e.2).map fun (r, c) =>
    ((r, c), s.padRead a.core li b core (h.place (h.base % 2 ^ 20) (r + 64 * a.half) c).1 (h.ebits / 8))
  match minBy id (got.filterMap fun e => match e.2 with | .error p => some (core * 2 ^ 20 + p) | .ok _ => none) with
  | some d => .stop d
  | none =>
    .ok (s.setTile tc w.d.toNat (got.foldl (fun tile (e, x) =>
      let y := match x with | .ok y => y | .error _ => 0
      setAcc tile e.1 e.2 (BitVec.ofNat 32 (if h.fmt = 0 then y else (fmtOf 0xA 0).encode (elemValue h.fmt y none)))) (s.tile tc w.d.toNat)))

/-- One beat of ast: the enabled elements, converted as fcvt does under the mode (R249, R292). -/
def State.astBeat (s : State) (a : CrucAt) (li b : Nat) (x : CrucCmd) (w : CastWord) (idx : Nat) : BeatRes :=
  let h := handleOf x.ha
  let tc := a.tileCore
  let m := s.cmdMask tc (mskOf w)
  let f := match h.fmt with | 0 => fmtOf 0xA 0 | 1 => fmtOf 9 0 | _ => fmtOf 8 0
  let on := (moveCells h a.half idx).filter fun e => maskOn m e.1 e.2
  if !on.isEmpty && (s.core tc).badTiles.contains w.b.toNat then .stop (0x100000000 + w.b.toNat)
  else
    let gc := 48 * flaskOf a.core + h.coreOf a.core h.base
    .ok (on.foldl (fun s (r, c) =>
      let v := (fmtOf 0xA 0).decode (s.acc tc w.b.toNat r c).toNat
      let y := f.encode (cvtFV (f.target (rmodeOf x.rm) 0) x.sat v).v
      s.mapWindow gc li b fun win => win.store (h.place (h.base % 2 ^ 20) (r + 64 * a.half) c).1 (h.ebits / 8) y) s)

/-- Free indices that a group owns on its own core. -/
def State.freeOwn (s : State) (a : CrucAt) (tiles : BitVec 16) (masks : BitVec 8) : State :=
  let k := s.core a.core
  let s := s.setCore a.core { k with
    tileOwner := k.tileOwner.filter fun e => !(e.2 == a.slot && tiles.getLsbD e.1)
    maskOwner := k.maskOwner.filter fun e => !(e.2 == a.slot && masks.getLsbD e.1) }
  match s.group? a.core a.slot with
  | none => s
  | some g => s.setGroup a.core a.slot { g with cruc := { g.cruc with
      tiles := g.cruc.tiles &&& ~~~tiles, masks := g.cruc.masks &&& ~~~masks
      relTiles := g.cruc.relTiles &&& ~~~tiles, relMasks := g.cruc.relMasks &&& ~~~masks } }

/-- Beat `idx` of the current step of a command on one half. -/
def State.beatWork (s : State) (a : CrucAt) (li b : Nat) (x : CrucCmd) (idx : Nat) : BeatRes :=
  let tc := a.tileCore
  match decodeCast x.word with
  | some (.mma w) => s.mmaBeat a li b x w (mskOf w) .one idx
  | some (.mmaw w) => s.mmaBeat a li b x w (if w.modBit 3 then [w.imm.toNat % 8] else []) (walkOf x.kv) idx
  | some (.azero w) => s.tileBeat a w.d.toNat (mskOf w) [] idx fun _ _ => 0
  | some (.acopy w) => s.tileBeat a w.d.toNat (mskOf w) [w.a.toNat] idx fun i j => s.acc tc w.a.toNat i j
  | some (.aadd w) =>
    let f := fmtOf 0xA 0
    s.tileBeat a w.d.toNat (mskOf w) [w.d.toNat, w.a.toNat] idx fun i j =>
      crucSum x.rm x.sat [f.decode (s.acc tc w.d.toNat i j).toNat, f.decode (s.acc tc w.a.toNat i j).toNat]
  | some (.ascl w) =>
    s.tileBeat a w.d.toNat (mskOf w) [w.d.toNat] idx fun i j => crucFma x.rm x.sat (s.acc tc w.d.toNat i j) (x.kv.getD 0 0) (x.kv.getD 1 0)
  | some (.ald w) => s.aldBeat a li b x w idx
  | some (.ast w) => s.astBeat a li b x w idx
  | some (.mset w) =>
    let m := BitVec.ofNat 128 (packLE 4 (x.kv.map (·.toNat)))
    let put (s : State) (c : Nat) : State := s.setCore c { s.core c with masks := tput (s.core c).masks w.d.toNat m }
    .ok (if x.paired then put (put s a.core) (partner a.core) else put s a.core)
  | some (.cmode _) =>
    .ok (if x.kv.isEmpty then s else s.freeOwn a ((x.kv.getD 0 0).setWidth 16) ((x.kv.getD 1 0).setWidth 8))
  | some .cunpair => .ok (s.freePartner a.core a.slot)
  | _ => .ok s

/-- Change the head command of a group's Crucible queue. -/
def State.mapHead (s : State) (c slot : Nat) (f : CrucCmd → CrucCmd) : State :=
  match s.group? c slot with
  | none => s
  | some g => match g.cruc.queue with
    | [] => s
    | x :: xs => s.setGroup c slot { g with cruc := { g.cruc with queue := f x :: xs } }

/-- After a beat: a step ends when both halves are done; the command completes with its last step, or at the boundary
where it was told to stop (R277, R278, R295). -/
def CrucCmd.afterBeat (x : CrucCmd) (half : Nat) : CrucCmd :=
  let x := { x with begun := true, beat := if half = 0 then x.beat + 1 else x.beat, beatB := if half = 1 then x.beatB + 1 else x.beatB }
  if x.beats 0 ≤ x.beat ∧ x.beats 1 ≤ x.beatB then
    let x := { x with prog := x.prog + 1, beat := 0, beatB := 0 }
    if x.steps ≤ x.prog ∨ x.stop then { x with done := true } else x
  else x

/-- Charge the draught allowance of a core's flask; it saturates at -2^31 (R96). -/
def State.charge (s : State) (c : Nat) (n : Nat) : State :=
  let k := s.flask (flaskOf c)
  s.setFlask (flaskOf c) { k with allow := max (-2147483648) (k.allow - n) }

/-- The allowance gate of priority `p`: A > p × L / 8 (R96). -/
def Flask.passes (k : Flask) (p : Nat) : Bool := decide ((p : Int) * (k.capL.toNat * 16) < 8 * k.allow)

/-- Execute one beat of the head command of a group, on the half given, with its charge (R96, R269, R282). -/
def State.crucBeat (s : State) (a : CrucAt) : State :=
  match s.group? a.core a.slot with
  | none => s
  | some g => match g.cruc.queue with
    | [] => s
    | x :: _ =>
      let s := s.charge a.tileCore 80
      match s.beatWork a g.launch g.block x (x.beatOf a.half) with
      | .ok s => s.mapHead a.core a.slot fun x => { x.afterBeat a.half with held := none }
      | .stop d =>
        let s := s.mapHead a.core a.slot fun x => { x with begun := true, done := true }
        s.fault { launch := g.launch, cause := causePoison, double := false, engine := true, source := 1, core := a.core, batch := x.batch, thread := x.g,
                  pc := x.pc, detail := BitVec.ofNat 64 d, counted := none }

/-! ### Service (R280, R281) -/

/-- An entry of a core's time-slot table. -/
def State.slotEntryOf (s : State) (c i : Nat) : Word := tget 0#32 s.sup.timeslot (16 * c + i)
def slotValid (e : Word) : Bool := e.getLsbD 7
def slotLen (e : Word) : Nat := bits e.toNat 8 16
def slotCtx (e : Word) : Nat := bits e.toNat 0 6

/-- The halves of commands that core `c` could serve, in ascending key: its own groups' (key: the slot), then the partner's
groups' (key: 1000 + slot). A group whose queue is being stopped has none: its save runs what has begun to its boundary (R283). -/
def State.crucHalves (s : State) (c : Nat) : List (Nat × CrucAt × Group × CrucCmd) :=
  let of (oc half off : Nat) := (s.core oc).groups.filterMap fun (sl, g) =>
    match g.cruc.queue with
    | x :: _ => if x.wants half && !g.crucHeld x.rank x.seq && !s.stopping oc g then some (off + sl, ({ core := oc, slot := sl, half := half } : CrucAt), g, x) else none
    | [] => none
  of c 0 0 ++ of (partner c) 1 1000

/-- The allowance gate for a command's beat (R281). -/
def State.crucGate (s : State) (c : Nat) (g : Group) (x : CrucCmd) : Bool := x.bypass || (s.flask (flaskOf c)).passes g.prio

/-- The context whose turn it is, or 64 while no time slot is in force: each has a round robin of its own (R281). -/
def Core.turnCtx (k : Core) : Nat := match k.slotNow with | some e => slotCtx e | none => 64

/-- The command that core `c` serves in a cycle: of the context in turn, the one in the middle of a step, else the next in
round robin; a command that the gate holds back is passed over (R281). -/
def State.crucPick (s : State) (c : Nat) : Option (Nat × CrucAt) :=
  let k := s.core c
  let on (g : Group) : Bool := match k.slotNow with | some e => g.ctx == slotCtx e | none => true
  let cs := (s.crucHalves c).filter fun e => on e.2.2.1 && s.crucGate c e.2.2.1 e.2.2.2
  let last := tget 0 k.rrCruc k.turnCtx
  let mid := cs.find? fun (e : Nat × CrucAt × Group × CrucCmd) => e.1 == last && e.2.2.2.beatOf e.2.1.half != 0
  let later := cs.find? fun (e : Nat × CrucAt × Group × CrucCmd) => decide (last < e.1)
  -- a step that a turn cut short continues at the next turn of its context
  let cut := cs.find? fun (e : Nat × CrucAt × Group × CrucCmd) => e.2.2.2.beatOf e.2.1.half != 0
  (mid.orElse fun _ => cut.orElse fun _ => later.orElse fun _ => cs.head?).map fun e => (e.1, e.2.1)

/-- Whether any entry of core `c` is VALID. -/
def State.slotsOn (s : State) (c : Nat) : Bool := (List.range 16).any fun i => slotValid (s.slotEntryOf c i)

/-- Whether a turn has ended: LEN beats have passed, or no command of its context is ready; or none is in force while an
entry is VALID. -/
def State.turnOver (s : State) (c : Nat) : Bool :=
  let k := s.core c
  match k.slotNow with
  | none => s.slotsOn c
  | some e => decide (slotLen e ≤ k.slotBeats) || !((s.crucHalves c).any fun h => h.2.2.1.ctx == slotCtx e)

/-- Move to the next VALID entry in ascending index; the table is read at this boundary (R281). -/
def State.nextTurn (s : State) (c : Nat) : State :=
  let k := s.core c
  let from_ := if k.slotNow.isSome then k.slotEntry + 1 else 0
  match ((List.range 16).map fun i => (from_ + i) % 16).find? fun i => slotValid (s.slotEntryOf c i) with
  | none => s.setCore c { k with slotNow := none, slotEntry := 0, slotBeats := 0 }
  | some i => s.setCore c { k with slotNow := some (s.slotEntryOf c i), slotEntry := i, slotBeats := 0 }

/-- R281: TIMESLOT_TURN_END. -/
def execTimeslotTurnEnd (s : State) : Out :=
  match s.cur.arg with
  | .at c _ _ => .next (if s.turnOver c then s.nextTurn c else s)
  | _ => .next s

/-- Turns that end at the start of a cycle: at most one round of the table. -/
def State.settleTurns (s : State) (c : Nat) : Nat → State
  | 0 => s
  | fuel + 1 => if s.turnOver c then State.settleTurns (s.nextTurn c) c fuel else s

/-- R269: CRUCIBLE_BEAT: the core's Crucible executes one beat. -/
def execCrucibleBeat (s : State) : Out :=
  match s.cur.arg with
  | .at c _ _ => match s.crucPick c with
    | none => .next s
    | some (key, a) =>
      let s := s.setCore c { s.core c with rrCruc := tput (s.core c).rrCruc (s.core c).turnCtx key, slotBeats := (s.core c).slotBeats + 1 }
      .next (s.crucBeat a)
  | _ => .next s

/-- R281: CRUC_GATE_BYPASS: a command whose beats the gate has held back for 2^16 ticks bypasses it from then on. -/
def execCrucGateBypass (s : State) : Out :=
  match s.cur.arg with
  | .at c slot cmd => match s.group? c slot with
    | none => .next s
    | some g =>
      .next (s.setGroup c slot { g with cruc := { g.cruc with queue := g.cruc.queue.map fun x =>
        if x.seq = cmd ∧ (x.held.any fun t => decide (t + 2 ^ 16 ≤ s.tick.toNat)) then { x with bypass := true } else x } })
  | _ => .next s

/-- R275: CRUC_COMMAND_COMPLETE: the completed head command leaves its entry. -/
def execCrucCommandComplete (s : State) : Out :=
  match s.cur.arg with
  | .at c slot cmd => match s.group? c slot with
    | none => .next s
    | some g => match g.cruc.queue with
      | x :: xs =>
        if x.done && x.seq == cmd then .next (s.setGroup c slot { g with cruc := { g.cruc with queue := xs } }) else .next s
      | [] => .next s
  | _ => .next s

/-! ### Completion of batches (R31, R287) -/

/-- Whether an unwritten fault entry belongs to a batch of a group (R486). -/
def State.batchFault (s : State) (g : Group) (n : BitVec 16) : Bool :=
  s.faultQ.any fun e => e.launch == g.launch && e.engine && e.batch == n

/-- Whether the oldest closed batch of an engine may complete: none of its commands is queued or saved, and no entry of it
is unwritten. -/
def State.batchReady (s : State) (g : Group) (e : EngineSel) : Option (BitVec 16) :=
  match g.closed e with
  | [] => none
  | n :: _ =>
    let queued := match e with
      | .cruc => g.cruc.queue.any fun q => q.batch == n
      | .ladle => g.ladle.queue.any fun q => q.batch == n
    if queued || (g.savedBatches e).contains n || s.batchFault g n then none else some n

/-- Fragments whose batch wait has ended go on; the engine's work is published at scope core (R31), which the model's one
copy of a core's memory does by itself. -/
def State.wakeBatch (s : State) (c slot : Nat) (e : EngineSel) : State :=
  match s.group? c slot with
  | none => s
  | some g =>
    let f := fun (n : Node) => match n.st with
      | .batch e' k => if e' == e && s.batchDone c g e k then { n with st := .ready, pc := n.pc + 16 } else n
      | _ => n
    s.setGroup c slot { g with nodes := g.nodes.map f, stack := g.stack.map f }

/-- R31: BATCH_COMPLETE. A batch that re-slicing spread counts in every group of the block (R286, R321); a remnant whose
last batch completes ends (R123). -/
def execBatchComplete (s : State) : Out :=
  match s.cur.arg with
  | .engine e c slot => match s.group? c slot with
    | none => .next s
    | some g => match s.batchReady g e with
      | none => .next s
      | some _ =>
        let g := match e with
          | .cruc => { g with cruc := { g.cruc with closed := g.cruc.closed.drop 1 } }
          | .ladle => { g with ladle := { g.ladle with closed := g.ladle.closed.drop 1 } }
        let s := s.setGroup c slot g
        let s := (s.groupsOf g.launch g.block).foldl (fun s (k, sl, _) => s.wakeBatch k sl e) s
        .next (if g.remnant && !g.cruc.busy && !g.ladle.busy then s.freeGroup c slot else s)
  | _ => .next s

/-! ### Images (R283-R285, R297) -/

/-- Bytes of a tile, row-major, as a value. -/
def tileBytes (t : Table Word) : Nat := packLE 4 ((List.range 4096).map fun i => (tget 0#32 t i).toNat)

/-- A command record (R284). PROG has 4 bytes: a count of 2^32 or more is cut (log 144). -/
def CrucCmd.record (x : CrucCmd) : Nat :=
  let kv := match decodeCast x.word with | some (.cmode _) => [] | _ => x.kv
  x.word.toNat + x.batch.toNat * 2 ^ 128 + (x.rm + if x.sat then 8 else 0) * 2 ^ 144 + (if x.begun then 1 else 0) * 2 ^ 152 +
  x.prog % 2 ^ 32 * 2 ^ 160 + x.ha.toNat * 2 ^ 256 + x.hb.toNat * 2 ^ 512 + packLE 4 (kv.map (·.toNat)) * 2 ^ 768

/-- Whether a group's partner indices are held: it is paired, or its cunpair has not freed them yet. -/
def Group.pairHeld (g : Group) : Bool := g.cruc.paired || g.cruc.queue.any fun x => decodeCast x.word == some .cunpair

/-- Bytes of an image. -/
def imageLen (tiles masks : Nat) (paired : Bool) (ncmd : Nat) : Nat :=
  64 + (16384 * tiles + 16 * masks) * (if paired then 2 else 1) + 160 * ncmd

/-- The image of a group's Crucible state: pieces of (length, value) in ascending offset (R284). -/
def State.crucImage (s : State) (c : Nat) (g : Group) : List (Nat × Nat) :=
  let x := g.cruc
  let pr := g.pairHeld
  let p := partner c
  let q := x.queue.filter fun y => !y.done
  let low := ((g.threads.find? fun e => e.2.alive).map (·.2.tid)).getD 0
  let head := x.tiles.toNat + x.masks.toNat * 2 ^ 16 + (if pr then 1 else 0) * 2 ^ 24 + (x.rm + if x.sat then 8 else 0) * 2 ^ 32 +
    q.length * 2 ^ 40 + x.open_.toNat * 2 ^ 48 + low * 2 ^ 64
  let cs := if pr then [c, p] else [c]
  [(64, head)] ++
  (setBits x.tiles.toNat 16).flatMap (fun t => cs.map fun k => (16384, tileBytes (s.tile k t))) ++
  (setBits x.masks.toNat 8).flatMap (fun m => cs.map fun k => (16, (tget 0#128 (s.core k).masks m).toNat)) ++
  q.map fun y => (160, y.record)

/-- Each command that has begun runs to its next tile-step boundary, on both halves (R283 step 1). -/
def State.runToBoundary (s : State) (c slot : Nat) : Nat → State
  | 0 => s
  | fuel + 1 => match (s.group? c slot).bind fun g => g.cruc.queue.head? with
    | none => s
    | some x =>
      if x.done || (x.beat == 0 && x.beatB == 0) then s
      else
        let half := if x.wants 0 then 0 else 1
        State.runToBoundary (s.crucBeat { core := c, slot := slot, half := half }) c slot fuel

/-- The claims are released on both cores, the queue is empty and the group unpaired (R283 step 3, R297); batches that hold
saved commands are kept from completing. Requests of fragments that wait for claims stay, with what they were granted. -/
def State.clearCruc (s : State) (c slot : Nat) : State :=
  match s.group? c slot with
  | none => s
  | some g =>
    let drop (s : State) (c owner : Nat) : State :=
      let k := s.core c
      s.setCore c { k with
        tileOwner := k.tileOwner.filter fun e => !(g.cruc.tiles.getLsbD e.1 && e.2 == owner)
        maskOwner := k.maskOwner.filter fun e => !(g.cruc.masks.getLsbD e.1 && e.2 == owner) }
    let s := drop s c slot
    let s := if g.pairHeld then drop s (partner c) (1000 + slot) else s
    let left := (g.cruc.queue.filter fun y => !y.done).map (·.batch)
    s.setGroup c slot { g with cruc := { g.cruc with
      queue := [], tiles := 0, masks := 0, relTiles := 0, relMasks := 0, paired := false, saved := g.cruc.saved ++ left } }

/-- A command from its record (R285). PC is not in the record; no rule states it (log 3). -/
def cmdOfRecord (r : Nat) (seq g : Nat) (pc : DWord) (rel : List Word) : CrucCmd :=
  let word := BitVec.ofNat 128 r
  let kv : List Word := (List.range 16).map fun i => BitVec.ofNat 32 (bits r (768 + 32 * i) 32)
  let kv := match decodeCast word with
    | some (.cmode _) => rel
    | some (.mmaw _) => kv
    | some (.ascl _) => kv.take 2
    | some (.mset _) => kv.take 4
    | _ => []
  { word := word, pc := pc, batch := BitVec.ofNat 16 (bits r 128 16), seq := seq, rm := bits r 144 3, sat := bits r 147 1 == 1,
    ha := BitVec.ofNat 256 (bits r 256 256), hb := BitVec.ofNat 256 (bits r 512 256), kv := kv, g := g, paired := false,
    begun := bits r 152 1 == 1, prog := bits r 160 32, beat := 0, beatB := 0, stop := false, held := none, bypass := false, done := false,
    inherited := false }

/-- Whether a record is well formed. -/
def recordOk (r : Nat) : Bool :=
  bits r 148 4 == 0 && bits r 153 7 == 0 && bits r 192 64 == 0 &&
  (match decodeCast (BitVec.ofNat 128 r) with
   | some (.mma _) | some (.mmaw _) | some (.azero _) | some (.acopy _) | some (.aadd _) | some (.ascl _) | some (.ald _) | some (.ast _)
   | some (.mset _) | some (.cmode _) | some .cpair | some .cunpair => true
   | _ => false)

/-- The header of an image. -/
structure CrucImg where
  tiles : BitVec 16
  masks : BitVec 8
  paired : Bool
  rm : Nat
  sat : Bool
  ncmd : Nat
  batch : BitVec 16
  first : Nat
  deriving DecidableEq, Repr

/-- The header in 64 bytes; none where a zero field is not zero or NCMD exceeds 16 (R297). -/
def crucHeader (x : Nat) : Option CrucImg :=
  if bits x 25 7 ≠ 0 ∨ bits x 36 4 ≠ 0 ∨ 4 < bits x 32 3 ∨ 16 < bits x 40 8 ∨ bits x 96 416 ≠ 0 then none
  else some { tiles := BitVec.ofNat 16 x, masks := BitVec.ofNat 8 (bits x 16 8), paired := bits x 24 1 == 1, rm := bits x 32 3,
              sat := bits x 35 1 == 1, ncmd := bits x 40 8, batch := BitVec.ofNat 16 (bits x 48 16), first := bits x 64 32 }

def CrucImg.len (h : CrucImg) : Nat := imageLen (setBits h.tiles.toNat 16).length (setBits h.masks.toNat 8).length h.paired h.ncmd

/-- Offset of the command records. -/
def CrucImg.recAt (h : CrucImg) : Nat := h.len - 160 * h.ncmd

/-- The cmode word of a record, if it is one. -/
def cmodeRec (r : Nat) : Option CastWord := match decodeCast (BitVec.ofNat 128 r) with | some (.cmode w) => some w | _ => none

/-- The tiles and mask pairs that the claims among some records name. -/
def claimedBy (recs : List Nat) : BitVec 16 × BitVec 8 :=
  recs.foldl (fun (t, m) r => match cmodeRec r with
    | some w => if w.imm.getLsbD 5 then (t ||| tsetOf w, m ||| msetOf w) else (t, m)
    | none => (t, m)) (0, 0)

/-- Whether a record is a release: a cmode that claims the empty set (R294). -/
def isRelease (r : Nat) : Bool := (cmodeRec r).any fun w => w.imm.getLsbD 5 && tsetOf w == 0 && msetOf w == 0

/-- What release `i` of an image frees: what the claims between the release before it and it have taken; the first one, everything
of the image that no later claim took (R285, R294; log 63). -/
def relOf (h : CrucImg) (recs : List Nat) (i : Nat) : BitVec 16 × BitVec 8 :=
  if (recs.take i).any isRelease then claimedBy ((recs.take i).reverse.takeWhile fun r => !isRelease r)
  else
    let (t, m) := claimedBy (recs.drop (i + 1))
    (h.tiles &&& ~~~t, h.masks &&& ~~~m)

/-- Whether the claims among an image's records agree with its header: the tiles and mask pairs they took are among those whose data
the image holds (R297). -/
def claimsAgree (h : CrucImg) (recs : List Nat) : Bool :=
  (claimedBy recs).1 &&& ~~~h.tiles == 0 && (claimedBy recs).2 &&& ~~~h.masks == 0

/-- The commands of an image. A command was paired as the cpair and cunpair records around it say. -/
def imgCmds (h : CrucImg) (recs : List Nat) (seq g : Nat) (pc : DWord) : List CrucCmd :=
  let kinds := recs.map fun r => decodeCast (BitVec.ofNat 128 r)
  let start := match kinds.find? fun i => i == some .cpair || i == some .cunpair with
    | some (some .cpair) => false
    | _ => h.paired
  let rel (i : Nat) : List Word := [(relOf h recs i).1.setWidth 32, (relOf h recs i).2.setWidth 32]
  let step (acc : List CrucCmd × Bool) (e : Nat × Nat) : List CrucCmd × Bool :=
    let c := cmdOfRecord e.1 (seq + e.2) g pc (if isRelease e.1 then rel e.2 else [])
    let after := match decodeCast c.word with | some .cpair => true | some .cunpair => false | _ => acc.2
    (acc.1 ++ [{ c with paired := acc.2 }], after)
  (recs.mapIdx (fun i r => (r, i))).foldl step ([], start) |>.1

/-- Restore a group's Crucible from an image whose bytes `read off n` gives; its indices are claimed already (R285). The image holds
no thread for a fault of a restored command: it is the group's lowest live one (log 64). -/
def State.restoreCruc (s : State) (c slot : Nat) (h : CrucImg) (read : Nat → Nat → Nat) : State :=
  let cs := if h.paired then [c, partner c] else [c]
  let ts := (setBits h.tiles.toNat 16).flatMap fun t => cs.map fun k => (t, k)
  let ms := (setBits h.masks.toNat 8).flatMap fun m => cs.map fun k => (m, k)
  let s := (ts.mapIdx fun i e => (i, e)).foldl (fun s (i, t, k) =>
    let x := read (64 + 16384 * i) 16384
    s.setTile k t ((List.range 4096).foldl (fun tile j => tset 0#32 tile j (BitVec.ofNat 32 (bits x (32 * j) 32))) [])) s
  let mAt := 64 + 16384 * ts.length
  let s := (ms.mapIdx fun i e => (i, e)).foldl (fun s (i, m, k) =>
    s.setCore k { s.core k with masks := tput (s.core k).masks m (BitVec.ofNat 128 (read (mAt + 16 * i) 16)) }) s
  match s.group? c slot with
  | none => s
  | some g =>
    let recs := (List.range h.ncmd).map fun i => read (h.recAt + 160 * i) 160
    let q := (imgCmds h recs (s.core c).accepts g.lowG (Config.freeWord s.free)).map fun y => { y with rank := g.rank }
    let batches := (q.map (·.batch)).filter fun n => n != h.batch
    let kept := g.cruc.closed.filter fun n => n != h.batch && !batches.contains n
    let s := s.fresh.setCore c { s.core c with accepts := (s.core c).accepts + h.ncmd }
    s.setGroup c slot { g with cruc := { g.cruc with
      queue := q, open_ := h.batch, closed := mergeClosed [kept, batches], rm := h.rm, sat := h.sat, tiles := h.tiles, masks := h.masks
      relTiles := (CrucState.releasing { CrucState.start with queue := q }).1, relMasks := (CrucState.releasing { CrucState.start with queue := q }).2
      paired := h.paired && !(q.any fun x => decodeCast x.word == some .cunpair), saved := [] } }

/-- The address of csave and crest, in the pair k(A). -/
def imgAddr (v : View) (w : CastWord) : Nat := v.g.kcells w.a.toNat 2

/-- Write pieces one after the other at physical parts; every part is translated already. -/
def View.writePieces (v : View) (s : State) (va : Nat) : List (Nat × Nat) → State
  | [] => s
  | (n, x) :: rest => View.writePieces v (v.write s false {} (.glob va) n x).1 (va + n) rest

/-- R297: csave. Its pages are translated before anything changes. -/
def execCsave (w : CastWord) (s : State) : Out :=
  onFrag s fun v => v.crucUniform (.csave w) fun v =>
    let a := imgAddr v w
    let q := v.g.cruc.queue.filter fun y => !y.done
    let n := imageLen (setBits v.g.cruc.tiles.toNat 16).length (setBits v.g.cruc.masks.toNat 8).length v.g.pairHeld q.length
    if a % 64 ≠ 0 then v.trapAll causeMisalign (BitVec.ofNat 64 a)
    else if (globLoc a n).isNone then v.trapAll causeAccess (BitVec.ofNat 64 a)
    else match v.trLoc .w (.glob a) n with
      | .miss ps => v.park [] .w ps
      | .bad x => v.trapAll causeAccess (BitVec.ofNat 64 x)
      | .ok _ =>
        let s := v.s.settleReds.runToBoundary v.c v.slot 2048
        match s.group? v.c v.slot with
        | none => s
        | some g =>
          let img := s.crucImage v.c g
          let s := (v.writePieces s a img).clearCruc v.c v.slot
          match s.group? v.c v.slot with
          | none => s
          | some g => { v with s := s }.next g

/-- R297: crest. It reads the image after every earlier event of the thread, and waits for its indices as a batch wait. -/
def execCrest (w : CastWord) (s : State) : Out :=
  onFrag s fun v => v.crucUniform (.crest w) fun v =>
    let a := imgAddr v w
    let d := BitVec.ofNat 64 a
    let x := v.g.cruc
    if a % 64 ≠ 0 then v.trapClaim causeMisalign d
    else if x.holds || !x.queue.isEmpty then v.trapClaim causeIllop 0
    else
      let v := { v with s := v.s.settleReds }
      let get (n : Nat) (k : Nat → State) : State :=
        if (globLoc a n).isNone then v.trapClaim causeAccess d
        else match v.trLoc .r (.glob a) n with
          | .miss ps => v.park [] .r ps
          | .bad y => v.trapClaim causeAccess (BitVec.ofNat 64 y)
          | .ok _ => match v.peek (.glob a) n with
            | .poison => v.trapClaim causePoison d
            | .refused => v.trapClaim causeAccess d
            | .ok y => k y
      get 64 fun hd => match crucHeader hd with
        | none => v.trapClaim causeCrucFmt 0
        | some h => get h.len fun img =>
          let read (off n : Nat) : Nat := bits img (8 * off) (8 * n)
          let recs := (List.range h.ncmd).map fun i => read (h.recAt + 160 * i) 160
          if !(recs.all recordOk && claimsAgree h recs) then v.trapClaim causeCrucFmt 0
          else
            let none_ := h.tiles = 0 ∧ h.masks = 0
            let (s, own) := if none_ then (v.s, true) else v.s.claim v.c v.slot v.nd.id none h.tiles h.masks
            let (s, pair) := if !own || !h.paired || decide none_ then (s, own) else s.claim (partner v.c) v.slot v.nd.id (some v.c) h.tiles h.masks
            if own && pair then
              let s := (s.endClaim v.c v.slot v.nd.id none).endClaim (partner v.c) v.slot v.nd.id (some v.c)
              let s := s.restoreCruc v.c v.slot h read
              match s.group? v.c v.slot with
              | none => s
              | some g => { v with s := s }.next g
            else v.waitRestore s h.tiles h.masks h.paired

end Sys2Proof.Machine
end

