-- ==== Sys2Proof/Machine/Launch.lean ====
section
/-! DEFINITION. Launch records (R76, R77), their checks, and the start of a launch (R398), which LAUNCH and lcont share. -/

namespace Sys2Proof.Machine

/-! ### The record (R76) -/

/-- The fields of the 256 bytes of a launch record. -/
def recordOf (x : Nat) : LaunchRec :=
  let f (off n : Nat) : Nat := bits x (8 * off) (8 * n)
  { entry := BitVec.ofNat 64 (f 0 8), trapentry := BitVec.ofNat 64 (f 8 8), faultrec := BitVec.ofNat 64 (f 0x10 8),
    spillbase := BitVec.ofNat 64 (f 0x18 8), savebase := BitVec.ofNat 64 (f 0x20 8), spillstride := f 0x28 4, spilllimit := f 0x2C 4,
    wreq := f 0x30 1, win := 16 * (f 0x31 1 % 128 + 1), classpol := f 0x32 1 % 4, prio := f 0x32 1 / 4 % 4, nlev := f 0x32 1 / 16 % 8 + 1,
    coop := f 0x33 1, scratch := f 0x34 4, prinit := BitVec.ofNat 32 (f 0x38 4) &&& 0x30FFF, context := f 0x3C 2,
    domain := (List.range 8).map fun i => f (0x40 + i) 1, size := (List.range 8).map fun i => f (0x50 + 4 * i) 4, units := f 0x70 4,
    kinit := (List.range 31).map fun i => BitVec.ofNat 32 (f (0x80 + 4 * i) 4) }

/-- The cores of a unit on which a block of a cooperative domain lies, within one flask: single cores, pairs, or the flask. -/
def unitsOf (dom f : Nat) : List (List Nat) :=
  if dom ≤ 2 then (List.range 48).map fun j => [48 * f + j]
  else if dom = 3 then (List.range 24).map fun j => [48 * f + 2 * j, 48 * f + 2 * j + 1]
  else [(List.range 48).map (48 * f + ·)]

/-- Groups that an empty core holds: as it stands, but without its groups (R77). -/
def Core.emptyFits (k : Core) (win G : Nat) : Nat := { k with groups := [] }.fits none win G

/-- Whether one block fits on an empty unit of a flask (R77). -/
def State.fitsEmpty (s : State) (r : LaunchRec) (f : Nat) : Bool :=
  (unitsOf (r.dom r.coop) f).any fun cs => (grantOn r (48 * f) cs (fun c G => (s.core c).emptyFits r.win G) none).isSome

/-- The conditions under which a record is refused, in the order in which they are checked, each with the offset reported
(R76, R77). -/
def State.recordBad (s : State) (x : Nat) : List (Nat × (Unit → Bool)) :=
  let f (off n : Nat) : Nat := bits x (8 * off) (8 * n)
  let r := recordOf x
  let addr (off lo : Nat) : Bool := f off 8 % 2 ^ lo != 0 || decide (2 ^ 57 ≤ f off 8)
  let lev := List.range r.nlev
  let d (i : Nat) : Nat := f (0x40 + i) 1
  let z (i : Nat) : Nat := f (0x50 + 4 * i) 4
  let blocks (_ : Unit) : Nat := f 0x70 4 * z (r.nlev - 1) / z r.coop
  [(0x00, fun _ => addr 0 4), (0x08, fun _ => addr 8 4), (0x10, fun _ => addr 0x10 6), (0x18, fun _ => addr 0x18 8),
   (0x20, fun _ => addr 0x20 12), (0x28, fun _ => f 0x28 4 % 256 != 0 || f 0x28 4 == 0),
   (0x2C, fun _ => decide (f 0x2C 4 < 16) || decide (f 0x28 4 < f 0x2C 4)), (0x30, fun _ => !widths.contains (f 0x30 1)),
   (0x31, fun _ => decide (128 ≤ f 0x31 1)), (0x32, fun _ => f 0x32 1 % 4 == 3 || decide (128 ≤ f 0x32 1)),
   (0x33, fun _ => decide (r.nlev ≤ f 0x33 1)), (0x34, fun _ => decide (1048576 < f 0x34 4)),
   (0x38, fun _ => let p := f 0x38 1; let rm := f 0x39 1 % 8; p == 1 || decide (242 ≤ p) || decide (6 ≤ rm)),
   (0x3C, fun _ => decide (63 < f 0x3C 2)), (0x3E, fun _ => f 0x3E 2 != 0), (0x48, fun _ => f 0x48 8 != 0), (0x70, fun _ => f 0x70 4 == 0),
   (0x74, fun _ => f 0x74 12 != 0), (0xFC, fun _ => f 0xFC 4 != 0)] ++
  [(0x40, fun _ => (List.range 8).any fun i => decide (r.nlev ≤ i) && d i != 0),
   (0x50, fun _ => (List.range 8).any fun i => decide (r.nlev ≤ i) && z i != 0),
   (0x50, fun _ => lev.any fun i => z i == 0),
   (0x40, fun _ => d 0 != 0 || z 0 != 1),
   (0x40, fun _ => lev.any fun i => decide (0 < i ∧ d i < d (i - 1))),
   (0x50, fun _ => lev.any fun i => decide (0 < i) && z i % z (i - 1) != 0),
   (0x50, fun _ => lev.any fun i => d i == 1 && !([1, 2, 4, 8].contains (z i))),
   (0x33, fun _ => decide (4 < d r.coop)), (0x50, fun _ => decide (16384 < z r.coop)),
   (0x101, fun _ => !((List.range 8).any fun k => s.fitsEmpty r k)),
   (0x70, fun _ => decide (2 ^ 29 < f 0x70 4 * z (r.nlev - 1))),
   (0x70, fun _ => decide (2 ^ 26 < blocks () * ((z r.coop + 7) / 8))),
   (0x34, fun _ => f 0x34 4 != 0 && decide (349525 < blocks ())),
   (0x20, fun _ => decide (2 ^ 57 - 2 ^ 48 ≤ f 0x20 8))]

/-- The FLASKS field of a context (R393), ANDed with 0x55 in reduced service (R470). -/
def State.flasksOf (s : State) (ctx : Nat) : Nat :=
  let x := bits (tget 0#64 s.sup.ctxctl ctx).toNat 8 8
  if s.box.stage = 4 then x else x &&& 0x55
/-- VALID and RUN of a context. -/
def State.ctxValid (s : State) (ctx : Nat) : Bool := (tget 0#64 s.sup.ctxctl ctx).getLsbD 0
def State.ctxRun (s : State) (ctx : Nat) : Bool := (tget 0#64 s.sup.ctxctl ctx).getLsbD 1

/-- The first failing check of a record for a launch of context `ctx`, as the offset reported (R77, R398). -/
def State.launchBad (s : State) (ctx x : Nat) : Option Nat :=
  let r := recordOf x
  ((s.recordBad x) ++
    [(0x100, fun _ => r.context != ctx), (0x100, fun _ => !s.ctxValid ctx),
     (0x101, fun _ => !((List.range 8).any fun f => (s.flasksOf ctx).testBit f && s.fitsEmpty r f))]).findSome?
    fun (e : Nat × (Unit → Bool)) => if e.2 () then some e.1 else none

/-! ### Starting a launch (R398) -/

/-- The launch table holds 1,024 live launches (R398). -/
def State.freeLaunch (s : State) : Option Nat := tfree s.launches 1024

/-- Enter a launch in the table. A continuation waits to be placed from its acceptance (R316). -/
def State.startLaunch (s : State) (i : Nat) (r : LaunchRec) (addr : DWord) (ctx : Nat) (queue parent : Option Nat)
    (sig : Option (BitVec 10 × SignalOp × Bool × DWord)) : State :=
  s.setLaunch i { rec_ := r, recAddr := addr, ctx := ctx, queue := queue, parent := parent, sig := sig, blocks := [], nextBlock := 0,
                  watchdog := 0, waiting := parent.isSome, allWaitSince := none
                  order := s.launches.foldl (fun n e => max n (e.2.order + 1)) 0, nextSince := s.tick.toNat, saveFatal := [] }

/-- Continuations of a context that wait to be placed (R316). -/
def State.waitingConts (s : State) (ctx : Nat) : Nat := (s.launches.filter fun e => e.2.ctx == ctx && e.2.waiting).length

end Sys2Proof.Machine
end

