-- ==== Sys2Proof/Machine/Ladle.lean ====
section
/-! DEFINITION. The Ladle (R298-R329): descriptors, acceptance, the time-sorted buffer, transfers, reducing copies and
windows, continuations, images, and its instructions and events. -/

namespace Sys2Proof.Machine

/-! ### Descriptors (R299-R302, R315) -/

/-- The kinds of Ladle command. -/
inductive LKind | copy | fill | gat | arr | ord | cont deriving DecidableEq, Repr

/-- A command's kind and its MOD bits AFTER and SYNC (R324). -/
def ladleKind (i : Instr) : Option (LKind × Bool × Bool) :=
  match i with
  | .lcopy w => some (.copy, w.modBit 1, w.modBit 2)
  | .lfill w => some (.fill, w.modBit 1, w.modBit 2)
  | .lgat w => some (.gat, w.modBit 1, w.modBit 2)
  | .lredArr w => some (.arr, w.modBit 1, w.modBit 2)
  | .lredOrd w => some (.ord, w.modBit 1, false)
  | .lcont w => some (.cont, w.modBit 1, false)
  | _ => none

/-- The fields of a descriptor (R299, R300). -/
structure LDesc where
  src : Nat
  dst : Nat
  time : Nat
  ssp : Nat
  dsp : Nat
  esize : Nat
  etype : Nat
  rop : Nat
  n0 : Nat
  n1 : Nat
  n2 : Nat
  s1 : Int
  s2 : Int
  d1 : Int
  d2 : Int
  aux : Nat
  expect : Nat
  deriving DecidableEq, Repr

def descOf (kv : List Word) : LDesc :=
  let c (i : Nat) : Nat := (kv.getD i 0).toNat
  { src := c 0 + 2 ^ 32 * c 1, dst := c 2 + 2 ^ 32 * c 3, time := c 4 + 2 ^ 32 * c 5, ssp := bits (c 6) 0 3, dsp := bits (c 6) 3 3,
    esize := bits (c 6) 6 3, etype := bits (c 6) 9 4, rop := bits (c 6) 13 2, n0 := bits (c 7) 0 16 + 1, n1 := bits (c 7) 16 16 + 1,
    n2 := bits (c 8) 0 16 + 1, s1 := sext 32 (c 9), s2 := sext 32 (c 10), d1 := sext 32 (c 11), d2 := sext 32 (c 12), aux := c 13,
    expect := bits (c 14) 0 9 }

/-- E, the bytes of an element; the number of elements. -/
def LDesc.E (d : LDesc) : Nat := 2 ^ d.esize
def LDesc.count (d : LDesc) : Nat := d.n0 * d.n1 * d.n2

/-- The bytes of an lred type (R300). -/
def lredSize (ty : Nat) : Option Nat :=
  match ty with | 2 => some 4 | 3 => some 8 | 6 => some 4 | 7 => some 8 | 8 => some 2 | 9 => some 2 | 0xA => some 4 | 0xB => some 8 | _ => none

/-- The first address that global space does not hold (R302). -/
def aperture : Int := 0x01FFFFFC00000000

/-- The offsets of the eight corners of the shape. -/
def corners8 (d : LDesc) (s1 s2 : Int) : List Int :=
  (List.range 8).map fun j => ((j % 2 * ((d.n0 - 1) * d.E) : Nat) : Int) + (j / 2 % 2 : Nat) * (d.n1 - 1 : Nat) * s1 + (j / 4 : Nat) * (d.n2 - 1 : Nat) * s2

/-- The address conditions of a source or destination in cells `lo` and `lo + 1`: alignment, the unused bits of a scratchpad
address, and the corners of a global one. -/
def baseBad (d : LDesc) (kv : List Word) (lo space base : Nat) (s1 s2 : Int) (corners : Bool) : List (Nat × Bool) :=
  let c (i : Nat) : Nat := (kv.getD i 0).toNat
  [(lo, base % d.E != 0)] ++
  (if space = 2 ∨ space = 3 then [(lo, decide (2 ^ (if space = 2 then 20 else 26) ≤ c lo)), (lo + 1, c (lo + 1) != 0)]
   else if corners then [(lo, (corners8 d s1 s2).any fun o => decide ((base : Int) + o < 0) || decide (aperture < (base : Int) + o + d.E))]
   else [(lo, decide (aperture ≤ (base : Int)))])

/-- The cells that break R299 to R302, R304 or R315: each condition with its cell. `time` is the absolute TIME. -/
def ladleBad (k : LKind) (kv : List Word) (tick time : Nat) : List (Nat × Bool) :=
  let c (i : Nat) : Nat := (kv.getD i 0).toNat
  let d := descOf kv
  let horizon : List (Nat × Bool) := [(4, decide (tick + 2 ^ 36 < time))]
  if k == .cont then
    horizon ++ [(0, d.src % 64 != 0 || decide (2 ^ 57 ≤ d.src)), (2, c 2 != 0), (3, c 3 != 0), (14, decide (2 ≤ c 14)), (15, c 15 != 0)]
  else
    let red := k == .arr || k == .ord
    let zeros := match k with | .copy => [13, 14] | .fill => [9, 10, 13, 14] | .gat => [9, 10, 14] | .arr => [13, 14] | _ => []
    let sspOk := match k with | .fill => d.ssp == 0 | .gat => d.ssp == 1 | _ => decide (1 ≤ d.ssp ∧ d.ssp ≤ 3)
    horizon ++
    [(6, decide (2 ^ 15 ≤ c 6) || decide (5 < d.esize) || !sspOk || !(decide (1 ≤ d.dsp ∧ d.dsp ≤ 3)) ||
        (if red then d.rop == 3 || lredSize d.etype != some d.E else d.etype != 0 || d.rop != 0) ||
        (k == .ord && d.dsp != 1) || (k == .fill && decide (3 < d.esize))),
     (8, decide (2 ^ 16 ≤ c 8)), (14, decide (2 ^ 9 ≤ c 14)), (15, c 15 != 0),
     (7, k == .ord && decide (2 ^ 20 < d.count * d.E)), (14, k == .ord && (d.expect == 0 || decide (384 < d.expect))),
     (13, k == .gat && (decide (2 ^ 26 ≤ d.aux) || d.aux % 4 != 0 || d.aux % d.E != 0 || decide (2 ^ 20 < d.aux % 2 ^ 20 + 4 * d.count)))] ++
    zeros.map (fun i => (i, c i != 0)) ++
    ([9, 10, 11, 12].map fun i => (i, c i % d.E != 0)) ++
    (if k == .fill then (if d.esize ≤ 2 then [(0, decide (2 ^ (8 * d.E) ≤ c 0)), (1, c 1 != 0)] else [])
     else baseBad d kv 0 d.ssp d.src d.s1 d.s2 (k != .gat)) ++
    baseBad d kv 2 d.dsp d.dst d.d1 d.d2 true

/-- The lowest failing cell (R303 step 2). -/
def ladleCell (k : LKind) (kv : List Word) (tick time : Nat) : Option Nat :=
  minBy id ((ladleBad k kv tick time).filterMap fun e => if e.2 then some e.1 else none)

/-! ### Elements (R301) -/

/-- The shape's rows: each offset with strides `s1`, `s2`. -/
def LDesc.rows (d : LDesc) (base : Nat) (s1 s2 : Int) : List Int :=
  (List.range d.n2).flatMap fun (i2 : Nat) => (List.range d.n1).map fun (i1 : Nat) => (base : Int) + (i1 : Int) * s1 + (i2 : Int) * s2

/-- The address of element e under strides. -/
def LDesc.at_ (d : LDesc) (base : Nat) (s1 s2 : Int) (e : Nat) : Int :=
  (base : Int) + (e % d.n0 * d.E : Nat) + (e / d.n0 % d.n1 : Nat) * s1 + (e / (d.n0 * d.n1) : Nat) * s2

def LDesc.dstOf (d : LDesc) (e : Nat) : Int := d.at_ d.dst d.d1 d.d2 e

/-- The lowest byte outside the block's windows of `len` bytes at an address of space 2 or 3, as a 26-bit address (R303). -/
def State.padRowFault (s : State) (c li b space : Nat) (a : Int) (len : Nat) : Option Nat :=
  if space ≠ 2 ∧ space ≠ 3 then none
  else
    let a := if space = 2 then a + (c % 48 * 2 ^ 20 : Nat) else a
    if a < 0 ∨ (space = 2 ∧ a / 2 ^ 20 ≠ (c % 48 : Nat)) then some (wrap 26 a)
    else
      let x := a.toNat
      if 2 ^ 26 ≤ x then some (x % 2 ^ 26)
      else
        let k0 := x / 2 ^ 20
        (List.range ((x + len - 1) / 2 ^ 20 - k0 + 1)).findSome? fun j =>
          let lo := if j = 0 then x % 2 ^ 20 else 0
          let hi := min (x + len - 1 - (k0 + j) * 2 ^ 20) (2 ^ 20 - 1)
          if space = 2 ∧ 0 < j then some (((k0 + j) * 2 ^ 20) % 2 ^ 26) else s.spanFault c li b { core := k0 + j, lo := lo, hi := hi }

/-- Step 3 of R303. -/
def State.ladleAccess (s : State) (c li b : Nat) (k : LKind) (d : LDesc) : Option Nat :=
  let run (space base : Nat) (s1 s2 : Int) : List Nat :=
    if space = 2 ∨ space = 3 then (d.rows base s1 s2).filterMap fun a => s.padRowFault c li b space a (d.n0 * d.E) else []
  minBy id ((if k == .gat then (s.padRowFault c li b 3 d.aux (4 * d.count)).toList else []) ++
    (if k == .fill || k == .gat then [] else run d.ssp d.src d.s1 d.s2) ++ run d.dsp d.dst d.d1 d.d2)

/-! ### Acceptance (R298, R303-R305) -/

/-- Whether a command stalls: its queue or the core's buffer is full. -/
def View.ladleFull (v : View) : Bool := decide (16 ≤ v.g.ladle.queue.length) || decide (256 ≤ (v.s.core v.c).buffered)

/-- A Ladle command: a full queue or buffer stalls it; the checks of R303; then acceptance with its descriptor captured, TIME
made absolute (R304). -/
def View.ladleWord (v : View) (i : Instr) (w : CastWord) (k : LKind) (after : Bool) : State :=
  if v.ladleFull then v.s
  else
    let kv := v.g.kvec w.a.toNat 16
    let d := descOf kv
    let tick := v.s.tick.toNat
    let time := if after then (tick + d.time) % 2 ^ 64 else d.time
    match ladleCell k kv tick time with
    | some cell => v.trapAll causeLadle (BitVec.ofNat 64 cell)
    | none => match (if k == .cont then none else v.s.ladleAccess v.c v.g.launch v.g.block k d) with
      | some a => v.trapAll causeAccess (BitVec.ofNat 64 a)
      | none =>
        let desc := (kv.set 4 (BitVec.ofNat 32 time)).set 5 (BitVec.ofNat 32 (time / 2 ^ 32))
        let core := v.s.core v.c
        let x : LadleCmd :=
          { word := v.s.wordOf i, pc := v.nd.pc, batch := v.g.ladle.open_, desc := desc, seq := core.accepts, srcCore := v.c, srcG := v.g.lowG,
            started := false, begun := false, sent := false, sentIn := 0, prog := 0, bypass := false, parked := none, fatal := [], done := false,
            inherited := false, rank := v.g.rank }
        let s := v.s.setCore v.c { core with accepts := core.accepts + 1 }
        { v with s := s }.next { v.g with ladle := { v.g.ladle with queue := v.g.ladle.queue ++ [x] } }

/-- R325: lcopy. -/
def execLcopy (w : CastWord) (s : State) : Out :=
  onFrag s fun v => v.uniform (.lcopy w) fun v => v.ladleWord (.lcopy w) w .copy (w.modBit 1)
/-- R325: lfill. -/
def execLfill (w : CastWord) (s : State) : Out :=
  onFrag s fun v => v.uniform (.lfill w) fun v => v.ladleWord (.lfill w) w .fill (w.modBit 1)
/-- R325: lgat. -/
def execLgat (w : CastWord) (s : State) : Out :=
  onFrag s fun v => v.uniform (.lgat w) fun v => v.ladleWord (.lgat w) w .gat (w.modBit 1)
/-- R312, R325: lred.arr. -/
def execLredArr (w : CastWord) (s : State) : Out :=
  onFrag s fun v => v.uniform (.lredArr w) fun v => v.ladleWord (.lredArr w) w .arr (w.modBit 1)
/-- R313, R325: lred.ord. -/
def execLredOrd (w : CastWord) (s : State) : Out :=
  onFrag s fun v => v.uniform (.lredOrd w) fun v => v.ladleWord (.lredOrd w) w .ord (w.modBit 1)
/-- R326: lcont. -/
def execLcont (w : CastWord) (s : State) : Out :=
  onFrag s fun v => v.uniform (.lcont w) fun v => v.ladleWord (.lcont w) w .cont (w.modBit 1)

/-- R327: lcommit. -/
def execLcommit (s : State) : Out :=
  onFrag s fun v => v.uniform .lcommit fun v =>
    if 8 ≤ v.g.ladle.closed.length then v.s else v.next { v.g with ladle := v.g.ladle.close }

/-! ### Order and starting (R306, R308, R309) -/

/-- What a queued command is. -/
def LadleCmd.kind (x : LadleCmd) : Option (LKind × Bool × Bool) := (decodeCast x.word).bind ladleKind
def LadleCmd.isKind (x : LadleCmd) (k : LKind) : Bool := match x.kind with | some (k', _, _) => k' == k | none => false
def LadleCmd.sync (x : LadleCmd) : Bool := match x.kind with | some (_, _, y) => y | none => false
def LadleCmd.d (x : LadleCmd) : LDesc := descOf x.desc

/-- The index word of a gather's element, or its poisoned address. -/
def State.indexOf (s : State) (c li b : Nat) (d : LDesc) (e : Nat) : Except Nat Nat :=
  let a := d.aux + 4 * e
  match s.padRead c li b (a / 2 ^ 20) (a % 2 ^ 20) 4 with
  | .ok x => .ok x
  | .error p => .error (a / 2 ^ 20 * 2 ^ 20 + p)

/-- The source address of an element. -/
def State.srcOf (s : State) (c li b : Nat) (k : LKind) (d : LDesc) (e : Nat) : Except Nat Int :=
  match k with
  | .gat => match s.indexOf c li b d e with
    | .ok x => .ok ((d.src : Int) + sext 32 x * d.E)
    | .error a => .error a
  | _ => .ok (d.at_ d.src d.s1 d.s2 e)

/-- A run of bytes of a footprint: whether it is global, its start, its length. A scratchpad byte is named by its flask
scratchpad address. -/
structure Run where
  glob : Bool
  lo : Int
  len : Nat
  deriving DecidableEq, Repr

def runOf (c space : Nat) (a : Int) (len : Nat) : Run :=
  { glob := space == 1, lo := if space = 2 then a + (c % 48 * 2 ^ 20 : Nat) else a, len := len }

/-- The bytes that a command reads and writes (R308). -/
def State.footReads (s : State) (c li b : Nat) (k : LKind) (d : LDesc) : List Run :=
  match k with
  | .fill | .cont => []
  | .gat => runOf c 3 d.aux (4 * d.count) :: (List.range d.count).filterMap fun e => match s.srcOf c li b k d e with
    | .ok a => some (runOf c 1 a d.E)
    | .error _ => none
  | _ => (d.rows d.src d.s1 d.s2).map fun a => runOf c d.ssp a (d.n0 * d.E)
def footWrites (c : Nat) (k : LKind) (d : LDesc) : List Run :=
  if k == .cont then [] else (d.rows d.dst d.d1 d.d2).map fun a => runOf c d.dsp a (d.n0 * d.E)

/-- Whether two runs share a byte. -/
def Run.meets (x y : Run) : Bool := x.glob == y.glob && decide (x.lo < y.lo + y.len) && decide (y.lo < x.lo + x.len)
def meetAny (xs ys : List Run) : Bool := xs.any fun x => ys.any x.meets

/-- Whether two commands of a queue conflict, the first being earlier (R308, R309). -/
def State.ladleConflict (s : State) (c li b : Nat) (x y : LadleCmd) : Bool :=
  match x.kind, y.kind with
  | some (kx, _, _), some (ky, _, sy) =>
    if kx == .cont || ky == .cont || sy then true
    else
      let wx := footWrites c kx x.d
      let wy := footWrites c ky y.d
      meetAny wx wy || meetAny wx (s.footReads c li b ky y.d) || meetAny wy (s.footReads c li b kx x.d)
  | _, _ => true

/-- TIME of a command. -/
def LadleCmd.time (x : LadleCmd) : Nat := x.d.time

/-- Whether a command is free to start: every earlier conflicting command of its queue has completed, and no qfence holds it. -/
def State.ladleFree (s : State) (c : Nat) (g : Group) (x : LadleCmd) : Bool :=
  !g.ladleHeld x.rank x.seq &&
  ((g.ladle.queue.takeWhile fun y => y.seq != x.seq).filter fun y => !y.done).all fun y => !s.ladleConflict c g.launch g.block y x

/-- Buffer order: TIME, then acceptance (R305). -/
def LadleCmd.before (x y : LadleCmd) : Bool := decide (x.time < y.time) || (x.time == y.time && decide (x.seq < y.seq))

/-- The earliest of some entries in buffer order. -/
def firstCmd : List (Nat × Group × LadleCmd) → Option (Nat × Group × LadleCmd)
  | [] => none
  | x :: t => match firstCmd t with
    | none => some x
    | some y => if y.2.2.before x.2.2 then some y else some x

/-- Every queued command of a core, with its slot and group. -/
def Core.ladleCmds (k : Core) : List (Nat × Group × LadleCmd) :=
  k.groups.flatMap fun (sl, g) => g.ladle.queue.map fun x => (sl, g, x)

/-- Change one queued command. -/
def State.mapLadle (s : State) (c slot seq : Nat) (f : LadleCmd → LadleCmd) : State :=
  match s.group? c slot with
  | none => s
  | some g => s.setGroup c slot { g with ladle := { g.ladle with queue := g.ladle.queue.map fun x => if x.seq = seq then f x else x } }

/-- The command that would start next on a core, if any is due and free. -/
def State.nextStart (s : State) (c : Nat) : Option (Nat × Group × LadleCmd) :=
  firstCmd ((s.core c).ladleCmds.filter fun e =>
    !e.2.2.started && !e.2.2.done && !e.2.2.isKind .cont && !s.stopping c e.2.1 && decide (e.2.2.time ≤ s.tick.toNat) && s.ladleFree c e.2.1 e.2.2)

/-- R306: LADLE_START. -/
def execLadleStart (s : State) : Out :=
  match s.cur.arg with
  | .at c _ _ => match s.nextStart c with
    | some (sl, _, x) => .next (s.mapLadle c sl x.seq fun x => { x with started := true })
    | none => .next s
  | _ => .next s

/-! ### Moving elements (R307, R309-R312, R318) -/

/-- What reading or writing an element gives: a miss carries the access that missed, which the fault entry's KIND names (R346). -/
inductive ElemRes | ok (v : Nat) | miss (page : Nat) (need : Need) | fault (cause : Nat) (addr : Nat) deriving DecidableEq, Repr

/-- The global core and offset of a scratchpad address in a descriptor's space. -/
def padOf (c space a : Nat) : Nat × Nat :=
  if space = 2 then (c, a % 2 ^ 20) else (48 * flaskOf c + a / 2 ^ 20 % 64, a % 2 ^ 20)

/-- Read one element through the L1 of the core (R310). -/
def State.ladleRead (s : State) (c ctx li b : Nat) (fatal : List Nat) (space a n : Nat) : State × ElemRes :=
  if space = 1 then
    match s.translate c ctx fatal .r a with
    | .miss => (s, .miss (pageOf a) .r)
    | .hit pa =>
      let (s, r) := s.coreRead c pa n
      (s, match r with | .ok x => .ok x | .poison => .fault causePoison a | .refused => .fault causeAccess a)
    | _ => (s, .fault causeAccess a)
  else
    let (gc, off) := padOf c space a
    match s.window? gc li b with
    | some w => (s, if w.poisoned off n then .fault causePoison a else .ok (w.read off n))
    | none => (s, .fault causeAccess a)

/-- The entry of a command's fault (R318). -/
def ladleEntry (g : Group) (c : Nat) (x : LadleCmd) (cause : Nat) (detail : Nat) : FaultEntry :=
  { launch := g.launch, cause := cause, double := false, engine := true, source := 2, core := c, batch := x.batch, thread := x.srcG, pc := x.pc,
    detail := BitVec.ofNat 64 detail, counted := none }

/-- Write one element; with SYNC each write is a release of scope dev (R309). The home slice may reject it (R39); a write to a
peer that cannot be reached is discarded and counted (R479). -/
def State.ladleWrite (s : State) (c : Nat) (g : Group) (x : LadleCmd) (space a n v : Nat) : State × ElemRes :=
  if space = 1 then
    match s.translate c g.ctx x.fatal .w a with
    | .miss => (s, .miss (pageOf a) .w)
    | .hit pa =>
      let r := if x.sync then
          ((s.release c).1.pointWrite c pa n v { rel := true }).map fun s => if s.isHomed pa then s.stampEpoch pa n (s.hearth.nextEpoch - 1) else s
        else s.coreWrite c pa n v
      (match r with | some s => s | none => s.fault (ladleEntry g c x causeAccess a), .ok 0)
    | _ => (s, .fault causeAccess a)
  else
    let s := if x.sync then (s.release c).1 else s
    let (gc, off) := padOf c space a
    (s.mapWindow gc g.launch g.block fun w => w.store off n v, .ok 0)

/-- combine of R311: the destination value d and the source value c. -/
def lredCombine (rop ty n d c : Nat) : Nat :=
  let t := BitVec.ofNat 4 ty
  if 8 ≤ ty then
    match rop with
    | 0 => faddBits t d c
    | 1 => minMaxBits (fmtOf t 0) false d c
    | _ => minMaxBits (fmtOf t 0) true d c
  else atomVal (match rop with | 0 => .add | 1 => .min | _ => .max) t (8 * n) d c

/-- One element of lred.arr as an RMW at its point (R312). -/
def State.ladleRmw (s : State) (c : Nat) (g : Group) (x : LadleCmd) (a n v : Nat) : State × ElemRes :=
  let d := x.d
  let s := if x.sync then (s.release c).1 else s
  if d.dsp = 1 then
    match s.translate c g.ctx x.fatal .rw a with
    | .miss => (s, .miss (pageOf a) .rw)
    | .hit pa =>
      if !s.isHomed pa then (s, .fault causeAccess a)
      else
        let s := (s.l1WriteBackAll c).l1Flush c pa n
        match s.homeRead pa n with
        | .ok old => match s.homeWrite pa n (lredCombine d.rop d.etype n old v) { rel := x.sync } with
          | some s => (s.stampEpoch pa n (s.hearth.nextEpoch - 1), .ok 0)
          | none => (s.fault (ladleEntry g c x causeAccess a), .ok 0)
        | .poison => (s, .fault causePoison a)
        | .refused => (s, .fault causeAccess a)
    | _ => (s, .fault causeAccess a)
  else
    let (gc, off) := padOf c d.dsp a
    match s.window? gc g.launch g.block with
    | some w =>
      if w.poisoned off n then (s, .fault causePoison a)
      else (s.mapWindow gc g.launch g.block fun w => w.store off n (lredCombine d.rop d.etype n (w.read off n) v), .ok 0)
    | none => (s, .fault causeAccess a)

/-- The source value of element e. -/
def State.ladleSource (s : State) (c : Nat) (g : Group) (x : LadleCmd) (k : LKind) (e : Nat) : State × ElemRes :=
  let d := x.d
  match k with
  | .fill => (s, .ok (d.src % 256 ^ d.E))
  | _ => match s.srcOf c g.launch g.block k d e with
    | .error a => (s, .fault causePoison a)
    | .ok a =>
      if d.ssp = 1 ∧ (a < 0 ∨ aperture < a + d.E) then (s, .fault causeAccess (wrap 64 a))
      else s.ladleRead c g.ctx g.launch g.block x.fatal d.ssp (wrap 64 a) d.E

/-- One element of a transfer (R325); lred.ord reads when it is sent (R313), so a transfer of it moves nothing. -/
def State.ladleElem (s : State) (c : Nat) (g : Group) (x : LadleCmd) (k : LKind) (e : Nat) : State × ElemRes :=
  let d := x.d
  match s.ladleSource c g x k e with
  | (s, .ok v) =>
    let a := wrap 64 (d.dstOf e)
    match k with
    | .ord => (s, .ok 0)
    | .arr => s.ladleRmw c g x a d.E v
    | _ => s.ladleWrite c g x d.dsp a d.E v
  | (s, r) => (s, r)

/-- The elements of a transfer, in order, to the first that misses or faults: how many completed, and what stopped it. Where source
and destination overlap, a byte that an earlier element has written reads as written: the model's choice of the two that R301
allows (log 165). -/
def State.ladleRun (c : Nat) (g : Group) (x : LadleCmd) (k : LKind) : State → List Nat → State × Nat × ElemRes
  | s, [] => (s, 0, .ok 0)
  | s, e :: es => match s.ladleElem c g x k e with
    | (s, .ok _) =>
      let (s, n, r) := State.ladleRun c g x k s es
      (s, n + 1, r)
    | (s, r) => (s, 0, r)

/-- A transfer: whole elements of up to 64 bytes within one 64-byte block of the destination (R307). -/
def LadleCmd.transfer (x : LadleCmd) : List Nat :=
  let d := x.d
  let blk := d.dstOf x.prog / 64
  ((List.range (64 / d.E)).map (x.prog + ·)).takeWhile fun e => decide (e < d.count) && d.dstOf e / 64 == blk

/-! ### Windows of lred.ord (R313, R314) -/

/-- The open window of a name that collects arrivals: one that holds EXPECT of them collects no more (R313). -/
def State.windowOf (s : State) (ctx : Nat) (dst : DWord) (aux : Word) : Option (Nat × OrdWindow) :=
  s.hearth.windows.find? fun e => e.2.ctx == ctx && e.2.dst == dst && e.2.aux == aux && decide (e.2.arrived < e.2.expect)

/-- The name that a command's descriptor gives: DST and AUX. -/
def LadleCmd.dstName (x : LadleCmd) : DWord := BitVec.ofNat 64 x.d.dst
def LadleCmd.auxName (x : LadleCmd) : Word := BitVec.ofNat 32 x.d.aux

/-- Whether a command's window collects or can open: at most 256 are open (R314). -/
def State.windowCan (s : State) (ctx : Nat) (x : LadleCmd) : Bool :=
  (s.windowOf ctx x.dstName x.auxName).isSome || decide (s.hearth.windows.length < 256)

/-- The descriptor cells that name a window's shape. -/
def shapeCells : List Nat := [6, 7, 8, 11, 12, 14]

/-- The lowest cell in which an arrival differs from its window's first. -/
def shapeDiff (w : OrdWindow) (desc : List Word) : Option Nat := shapeCells.find? fun i => desc.getD i 0 != w.desc.getD i 0

/-- A command's arrival, with the values it contributes; with none, it arrives with nothing to contribute. -/
def LadleCmd.arrival (x : LadleCmd) (g : Group) (vals : Option (List DWord)) : Arrival :=
  { ctx := g.ctx, desc := x.desc, empty := vals.isNone
    con := { core := x.srcCore, g := x.srcG, seq := x.seq, launch := g.launch, batch := x.batch, pc := x.pc, values := vals.getD [] } }

/-- The entry of a contributing command (R313, R314). -/
def Contrib.entry (c : Contrib) (cause addr : Nat) : FaultEntry :=
  { launch := c.launch, cause := cause, double := false, engine := true, source := 2, core := c.core, batch := c.batch, thread := c.g, pc := c.pc,
    detail := BitVec.ofNat 64 addr, counted := none }

def State.setWindow (s : State) (i : Nat) (w : OrdWindow) : State := { s with hearth := { s.hearth with windows := tput s.hearth.windows i w } }

/-- An arrival at a window, which opens at its first (R313). One that differs from the first contributes nothing and is
reported; one whose window cannot open waits (R314). -/
def State.arrive (s : State) (a : Arrival) : State :=
  let d := descOf a.desc
  match s.windowOf a.ctx (BitVec.ofNat 64 d.dst) (BitVec.ofNat 32 d.aux) with
  | some (i, w) => match shapeDiff w a.desc with
    | some cell => (s.setWindow i { w with arrived := w.arrived + 1 }).fault (a.con.entry causeLadle cell)
    | none => s.setWindow i { w with arrived := w.arrived + 1, contribs := w.contribs ++ if a.empty then [] else [a.con] }
  | none =>
    if s.hearth.windows.length < 256 then
      s.setWindow ((tfree s.hearth.windows (s.hearth.windows.length + 1)).getD 0)
        { ctx := a.ctx, dst := BitVec.ofNat 64 d.dst, aux := BitVec.ofNat 32 d.aux, desc := a.desc, expect := d.expect, arrived := 1
          contribs := if a.empty then [] else [a.con], fatal := [] }
    else { s with hearth := { s.hearth with late := s.hearth.late ++ [a] } }

/-- Read every source element of an lred.ord. -/
def State.readAll (c : Nat) (g : Group) (x : LadleCmd) : State → List Nat → State × List DWord × ElemRes
  | s, [] => (s, [], .ok 0)
  | s, e :: es => match s.ladleSource c g x .ord e with
    | (s, .ok v) =>
      let (s, vs, r) := State.readAll c g x s es
      (s, BitVec.ofNat 64 v :: vs, r)
    | (s, r) => (s, [], r)

/-- Stop a command at a fault (R318); an lred.ord that was not sent arrives with nothing to contribute (R314). -/
def State.ladleFault (s : State) (c slot : Nat) (g : Group) (x : LadleCmd) (cause addr : Nat) : State :=
  let s := (s.mapLadle c slot x.seq fun x => { x with begun := true, done := true }).fault (ladleEntry g c x cause addr)
  if x.isKind .ord then s.arrive (x.arrival g none) else s

/-- Park a command for a page (R318). -/
def State.ladlePark (s : State) (c slot : Nat) (g : Group) (x : LadleCmd) (need : Need) (page : Nat) : State :=
  (s.mapLadle c slot x.seq fun x => { x with parked := some page }).requestPages (flaskOf c) g.ctx 2 need (.ladle c slot x.seq) [page]

/-- The command of a core that takes the transfer slot: started, not parked, with elements left, past the gate. Those still to
issue their first transfer go first, in buffer order; the others take turns (R306, R307). -/
def State.nextTransfer (s : State) (c : Nat) : Option (Nat × Group × LadleCmd) :=
  let k := s.core c
  let cs := k.ladleCmds.filter fun e =>
    let x := e.2.2
    x.started && !x.done && x.parked.isNone && !x.isKind .cont && !s.stopping c e.2.1 && decide (x.prog < x.d.count) &&
    (x.bypass || (s.flask (flaskOf c)).passes e.2.1.prio) && (!x.isKind .ord || x.begun || s.windowCan e.2.1.ctx x)
  let seq := fun (e : Nat × Group × LadleCmd) => e.2.2.seq
  (firstCmd (cs.filter fun e => !e.2.2.begun)).orElse fun _ =>
    (minBy seq (cs.filter fun e => decide (k.rrLadle < seq e))).orElse fun _ => minBy seq cs

/-- R307: LADLE_TRANSFER: the core's Ladle issues one transfer, and it performs. -/
def execLadleTransfer (s : State) : Out :=
  match s.cur.arg with
  | .at c _ _ => match s.nextTransfer c with
    | none => .next s
    | some (sl, g, x) => match x.kind with
      | none => .next s
      | some (k, _, _) =>
        let s := (if x.begun then s.setCore c { s.core c with rrLadle := x.seq } else s).settleReds.charge c 20
        let (s, n, r) := State.ladleRun c g x k s x.transfer
        let p := x.prog + n
        let s := s.mapLadle c sl x.seq fun y => { y with begun := true, prog := p, done := decide (x.d.count ≤ p) && k != .ord }
        .next (match r with
          | .ok _ => s
          | .miss page need => s.ladlePark c sl g x need page
          | .fault cause a => s.ladleFault c sl g { x with prog := p } cause a)
  | _ => .next s

/-- R307: LADLE_GATE_BYPASS: a command whose TIME lies 2^16 ticks or more in the past. -/
def execLadleGateBypass (s : State) : Out :=
  match s.cur.arg with
  | .at c slot cmd => .next (s.mapLadle c slot cmd fun x => if x.time + 2 ^ 16 ≤ s.tick.toNat then { x with bypass := true } else x)
  | _ => .next s

/-- R318: LADLE_COMMAND_COMPLETE: a completed command leaves its queue and buffer entries. -/
def execLadleCommandComplete (s : State) : Out :=
  match s.cur.arg with
  | .at c slot cmd => match s.group? c slot with
    | none => .next s
    | some g =>
      .next (s.setGroup c slot { g with ladle := { g.ladle with queue := g.ladle.queue.filter fun x => !(x.seq == cmd && x.done) } })
  | _ => .next s

/-- R313, R314: WINDOW_ARRIVAL of a command: it reads its elements, is sent, and arrives. One whose window cannot open waits, not
begun. -/
def execWindowArrival (s : State) : Out :=
  match s.cur.arg with
  | .at c slot cmd => match s.group? c slot with
    | none => .next s
    | some g => match g.ladle.queue.find? fun x => x.seq == cmd with
      | none => .next s
      | some x =>
        if !(x.isKind .ord && x.started && !x.sent && !x.done && x.parked.isNone && !s.stopping c g && decide (x.d.count ≤ x.prog)) then .next s
        else if !s.windowCan g.ctx x then .next (s.mapLadle c slot cmd fun x => { x with begun := false, prog := 0 })
        else match State.readAll c g x s.settleReds (List.range x.d.count) with
          | (s, vs, .ok _) =>
            let differs := (s.windowOf g.ctx x.dstName x.auxName).any fun w => (shapeDiff w.2 x.desc).isSome
            .next ((s.arrive (x.arrival g (some vs))).mapLadle c slot cmd fun x => { x with sent := true, sentIn := g.launch, done := differs })
          | (s, _, .miss page need) => .next (s.ladlePark c slot g x need page)
          | (s, _, .fault cause a) => .next (s.ladleFault c slot g x cause a)
  | _ => .next s

/-- The order of R313: core, g, acceptance. -/
def Contrib.before (x y : Contrib) : Bool :=
  decide (x.core < y.core) || (x.core == y.core && (decide (x.g < y.g) || (x.g == y.g && decide (x.seq < y.seq))))
def insertContrib (x : Contrib) : List Contrib → List Contrib
  | [] => [x]
  | y :: t => if y.before x then y :: insertContrib x t else x :: y :: t

/-- Whether a sent command's contribution is one of these. -/
def LadleCmd.gave (x : LadleCmd) (cs : List Contrib) : Bool :=
  cs.any fun c => c.launch == x.sentIn && c.core == x.srcCore && c.g == x.srcG && c.batch == x.batch

/-- Close a window: its contributors complete, with an entry each where a fault stopped the application; arrivals that waited
for a window to open come again (R314). -/
def State.closeWindow (s : State) (i : Nat) (w : OrdWindow) (fault : Option (Nat × Nat)) : State :=
  let s := { s with hearth := { s.hearth with windows := tdel s.hearth.windows i } }
  let s := match fault with
    | none => s
    | some (cause, a) => w.contribs.foldl (fun (s : State) (c : Contrib) => s.fault (c.entry cause a)) s
  let mine (g : Group) (x : LadleCmd) : Bool :=
    (x.isKind .ord) && x.sent && g.ctx == w.ctx && x.dstName == w.dst && x.auxName == w.aux && x.gave w.contribs
  let ends (g : Group) (x : LadleCmd) : LadleCmd := { x with done := x.done || mine g x }
  let close (g : Group) : Group := { g with ladle := { g.ladle with queue := g.ladle.queue.map (ends g) } }
  let closeAll (k : Core) : Core := { k with groups := k.groups.map fun (h : Nat × Group) => (h.1, close h.2) }
  s.hearth.late.foldl State.arrive
    { s with cores := s.cores.map fun (e : Nat × Core) => (e.1, closeAll e.2), hearth := { s.hearth with late := [] } }

/-- Apply contributions to the elements from `e` on; a fault stops at its element (R313). A rejected change of a state word is
reported and the application goes on (R39). -/
def State.applyWindow (s : State) (tr : Nat → Tr) (w : OrdWindow) : List Nat → State × Option (Nat × Nat)
  | [] => (s, none)
  | e :: es =>
    let d := descOf w.desc
    let a := wrap 64 (d.dstOf e)
    match tr a with
    | .hit pa =>
      if !s.isHomed pa then (s, some (causeAccess, a))
      else match s.homeRead pa d.E with
        | .ok old =>
          let acc := w.contribs.foldl (fun acc c => lredCombine d.rop d.etype d.E acc (c.values.getD e 0).toNat) old
          let s := match s.homeWrite pa d.E acc with
            | some s => s.stampEpoch pa d.E (s.hearth.nextEpoch - 1)
            | none => w.contribs.foldl (fun (s : State) (c : Contrib) => s.fault (c.entry causeAccess a)) s
          State.applyWindow s tr w es
        | .poison => (s, some (causePoison, a))
        | .refused => (s, some (causeAccess, a))
    | _ => (s, some (causeAccess, a))

/-- Before a window applies, its destination leaves the L1 of every core that contributed or holds a contributing command, with its
dirty bytes written back first: what those threads wrote comes before, and what they read after their wait is new (R31, R184). -/
def State.windowFlush (s : State) (w : OrdWindow) (pas : List Nat) (n : Nat) : State :=
  let gives (g : Group) : Bool :=
    g.ctx == w.ctx && g.ladle.queue.any fun x => x.isKind .ord && x.sent && x.dstName == w.dst && x.auxName == w.aux && x.gave w.contribs
  let holders := (s.cores.filter fun e => e.2.groups.any fun x => gives x.2).map (·.1)
  (sunion holders (w.contribs.map (·.core))).foldl (fun s c => pas.foldl (fun s pa => s.l1Flush c pa n) (s.l1WriteBackAll c)) s

/-- R313: WINDOW_APPLY of a full window, in its context, through the TLB of its first contributor's flask. -/
def execWindowApply (s : State) : Out :=
  match s.cur.arg with
  | .at i _ _ => match tfind s.hearth.windows i with
    | none => .next s
    | some w =>
      if w.arrived < w.expect then .next s
      else
        let w := { w with contribs := w.contribs.foldl (fun acc c => insertContrib c acc) [] }
        match w.contribs with
        | [] => .next (s.closeWindow i w none)
        | con :: _ =>
          let d := descOf w.desc
          let tr (a : Nat) : Tr := s.translate con.core w.ctx w.fatal .rw a
          let addrs := (List.range d.count).map fun e => wrap 64 (d.dstOf e)
          let reach := addrs.takeWhile fun a => match tr a with | .hit pa => s.isHomed pa && !s.mem.poisoned pa d.E | .miss => true | _ => false
          match sunion [] ((reach.filter fun a => tr a == .miss).map pageOf) with
          | [] =>
            let pas := addrs.filterMap fun a => match tr a with | .hit pa => if s.isHomed pa then some pa else none | _ => none
            let (s, f) := State.applyWindow (s.settleReds.windowFlush w pas d.E) tr w (List.range d.count)
            .next (s.closeWindow i w f)
          | ps => .next (s.requestPages (flaskOf con.core) w.ctx 2 .rw (.window i) ps)
  | _ => .next s

/-- R328: lcancel removes every command that has not begun; a removed lred.ord arrives with nothing. -/
def execLcancel (s : State) : Out :=
  onFrag s fun v => v.uniform .lcancel fun v =>
    let gone := v.g.ladle.queue.filter fun x => !x.begun && !x.done
    let g := { v.g with ladle := { v.g.ladle with queue := v.g.ladle.queue.filter fun x => x.begun || x.done } }
    let s := gone.foldl (fun s x => if x.isKind .ord then s.arrive (x.arrival v.g none) else s) v.s
    { v with s := s }.next g

/-! ### Continuations (R316, R317) -/

/-- The 256 bytes of a record with KARG in place of KINIT words 0-7 (R315). -/
def withKarg (x : Nat) (desc : List Word) : Nat :=
  if (desc.getD 14 0).getLsbD 0 then
    let lo := x % 2 ^ 0x400
    let hi := x / 2 ^ 0x500
    lo + packLE 4 ((List.range 8).map fun i => (desc.getD (6 + i) 0).toNat) * 2 ^ 0x400 + hi * 2 ^ 0x500
  else x

/-- The lcont at the head of a group's queue that may perform: TIME is due, no qfence holds it, and the queue is not stopped. -/
def State.contDue (s : State) (c : Nat) (g : Group) : Option LadleCmd :=
  match g.ladle.queue.filter fun x => !x.done with
  | [] => none
  | x :: _ =>
    if x.isKind .cont && x.parked.isNone && !s.stopping c g && decide (x.time ≤ s.tick.toNat) && !g.ladleHeld x.rank x.seq then some x else none

/-- R316: LCONT_PERFORM of the lcont at the head of a group's queue. -/
def execLcontPerform (s : State) : Out :=
  match s.cur.arg with
  | .at c slot _ => match s.group? c slot with
    | none => .next s
    | some g => match s.contDue c g with
      | none => .next s
      | some x =>
        let a := x.d.src
        let fin (s : State) : State := s.mapLadle c slot x.seq fun x => { x with begun := true, done := true }
        let stop (cause addr : Nat) : Out := .next ((fin s).fault (ladleEntry g c x cause addr))
        -- the lowest byte of the record beyond the global addresses, where there is one
        if (globLoc a 256).isNone then stop causeAccess (max a 0x01FFFFFC00000000)
        else match s.trRange c g.ctx x.fatal .r a 256 with
          | .miss ps => .next (s.ladlePark c slot g x .r (ps.headD 0))
          | .bad y => stop causeAccess y
          | .ok ps => match s.settleReds.readParts c true ps with
            | (s, .ok y) =>
              let s := s.acquire c (s.hearth.nextEpoch - 1)
              let y := withKarg y x.desc
              match s.launchBad g.ctx y with
              | some _ => .next ((fin s).fault (ladleEntry g c x causeLadle a))
              | none =>
                let s := s.mapLadle c slot x.seq fun x => { x with begun := true }
                if 64 ≤ s.waitingConts g.ctx then .next s
                else match s.freeLaunch with
                  | none => .next s
                  | some i =>
                    let s := (s.release c).1
                    .next (fin (s.startLaunch i (recordOf y) (BitVec.ofNat 64 a) g.ctx none (some g.launch) none))
            | (s', .poison) => stop causePoison (s'.poisonAt a 256 ps)
            | (_, .refused) => stop causeAccess a
  | _ => .next s

/-! ### Images (R319-R321, R329) -/

/-- The commands that an image holds. -/
def LadleState.saving (x : LadleState) : List LadleCmd := x.queue.filter fun y => !y.done

/-- A command record; an lred.ord that began but was not sent is saved as not begun (R319, R320). -/
def LadleCmd.record (x : LadleCmd) : Nat :=
  let back := x.isKind .ord && !x.sent
  let begun := x.begun && !back
  x.word.toNat + x.batch.toNat * 2 ^ 128 + ((if begun then 1 else 0) + if x.sent then 2 else 0) * 2 ^ 144 + x.srcCore * 2 ^ 160 +
  (if back then 0 else x.prog) * 2 ^ 192 + packLE 4 (x.desc.map (·.toNat)) * 2 ^ 256 + x.srcG * 2 ^ 768

/-- The image of a group's Ladle state: pieces of (length, value) (R320). -/
def ladleImage (g : Group) : List (Nat × Nat) :=
  let q := g.ladle.saving
  let low := ((g.threads.find? fun e => e.2.alive).map (·.2.tid)).getD 0
  (64, q.length + g.ladle.open_.toNat * 2 ^ 16 + low * 2 ^ 32) :: q.map fun x => (128, x.record)

/-- Empty a group's Ladle queue; batches that hold saved commands are kept from completing. -/
def Group.clearLadle (g : Group) : Group :=
  { g with ladle := { g.ladle with queue := [], saved := g.ladle.saved ++ g.ladle.saving.map (·.batch) } }

/-- The first zero field of a header, or NCMD, that is wrong: its byte offset (R329). -/
def byteBad (x : Nat) (fields : List (Nat × Nat)) : Option Nat :=
  fields.findSome? fun (off, n) => (List.range n).findSome? fun i => if bits x (8 * (off + i)) 8 ≠ 0 then some (off + i) else none

def ladleHeadBad (x : Nat) : Option Nat :=
  if 16 < bits x 0 8 then some 0 else byteBad x [(1, 1), (8, 56)]

/-- The first offending byte of a record: a zero field, or the lowest failing cell of its descriptor (R303 step 2). -/
def ladleRecBad (x tick : Nat) : Option Nat :=
  let desc : List Word := (List.range 16).map fun i => BitVec.ofNat 32 (bits x (256 + 32 * i) 32)
  match (decodeCast (BitVec.ofNat 128 x)).bind ladleKind with
  | none => some 0
  | some (k, _, _) =>
    if 4 ≤ bits x 144 8 then some 0x12
    else match byteBad x [(0x13, 1), (0x16, 2), (0x1E, 2)] with
      | some i => some i
      | none => match ladleCell k desc tick (descOf desc).time with
        | some cell => some (0x20 + 4 * cell)
        | none => byteBad x [(0x68, 24)]

/-- A command from its record (R321). A sent command whose window has closed completes: its contribution is the one of its name,
core, thread and batch, of its own launch before another's. -/
def State.ladleOfRecord (s : State) (ctx launch r seq : Nat) (pc : DWord) : LadleCmd :=
  let desc : List Word := (List.range 16).map fun i => BitVec.ofNat 32 (bits r (256 + 32 * i) 32)
  let x : LadleCmd :=
    { word := BitVec.ofNat 128 r, pc := pc, batch := BitVec.ofNat 16 (bits r 128 16), desc := desc, seq := seq, srcCore := bits r 160 16,
      srcG := bits r 768 64, started := bits r 144 1 == 1, begun := bits r 144 1 == 1, sent := bits r 145 1 == 1, sentIn := launch, prog := bits r 192 48,
      bypass := false, parked := none, fatal := [], done := false, inherited := false }
  let cons := s.hearth.windows.flatMap fun (e : Nat × OrdWindow) =>
    if e.2.ctx == ctx && e.2.dst == x.dstName && e.2.aux == x.auxName then
      e.2.contribs.filter fun c => c.core == x.srcCore && c.g == x.srcG && c.batch == x.batch
    else []
  if x.sent then
    match (cons.find? fun c => c.launch == launch).orElse fun _ => cons.head? with
    | some c => { x with sentIn := c.launch }
    | none => { x with done := true }
  else x

/-- Restore a group's Ladle from its records (R321). -/
def State.restoreLadle (s : State) (c slot : Nat) (open_ : BitVec 16) (recs : List Nat) : State :=
  match s.group? c slot with
  | none => s
  | some g =>
    let k := s.core c
    let q := recs.mapIdx fun i r => { s.ladleOfRecord g.ctx g.launch r (k.accepts + i) (Config.freeWord s.free) with rank := g.rank }
    let batches := (q.map (·.batch)).filter fun n => n != open_
    let kept := g.ladle.closed.filter fun n => n != open_ && !batches.contains n
    let s := s.fresh.setCore c { k with accepts := k.accepts + recs.length }
    s.setGroup c slot { g with ladle := { queue := q, open_ := open_, closed := mergeClosed [kept, batches], saved := [] } }

/-- R329: lsave. Its pages are translated before anything changes. -/
def execLsave (w : CastWord) (s : State) : Out :=
  onFrag s fun v => v.uniform (.lsave w) fun v =>
    let a := imgAddr v w
    let n := 64 + 128 * v.g.ladle.saving.length
    if a % 64 ≠ 0 then v.trapAll causeMisalign (BitVec.ofNat 64 a)
    else if (globLoc a n).isNone then v.trapAll causeAccess (BitVec.ofNat 64 a)
    else match v.trLoc .w (.glob a) n with
      | .miss ps => v.park [] .w ps
      | .bad x => v.trapAll causeAccess (BitVec.ofNat 64 x)
      | .ok _ => { v with s := v.writePieces v.s.settleReds a (ladleImage v.g) }.next v.g.clearLadle

/-- The fragment waits in lrest for `n` buffer entries, a batch wait (R329). -/
def View.waitRoom (v : View) (n : Nat) : State := v.s.setGroup v.c v.slot (v.g.setNode { v.nd with st := .room n, fatal := [] })

/-- Fragments of a core that wait in lrest go on once the buffer has the entries. -/
def Core.freeRoom (k : Core) : Core :=
  let go (n : Node) : Node := match n.st with | .room m => if k.buffered + m ≤ 256 then { n with st := .ready } else n | _ => n
  { k with groups := k.groups.map fun (e : Nat × Group) => (e.1, { e.2 with nodes := e.2.nodes.map go, stack := e.2.stack.map go }) }

/-- R329: lrest. It reads the image after every earlier event of the thread, and waits while the core's buffer has no room for
its records. MISALIGN of the address comes before the ILLOP of a queue that holds commands (R303): the model's choice (log 167). -/
def execLrest (w : CastWord) (s : State) : Out :=
  onFrag s fun v => v.uniform (.lrest w) fun v =>
    let a := imgAddr v w
    let d := BitVec.ofNat 64 a
    if a % 64 ≠ 0 then v.trapAll causeMisalign d
    else if !v.g.ladle.queue.isEmpty then v.trapAll causeIllop 0
    else
      let v := { v with s := v.s.settleReds }
      let get (n : Nat) (k : Nat → State) : State :=
        if (globLoc a n).isNone then v.trapAll causeAccess d
        else match v.trLoc .r (.glob a) n with
          | .miss ps => v.park [] .r ps
          | .bad y => v.trapAll causeAccess (BitVec.ofNat 64 y)
          | .ok _ => match v.peek (.glob a) n with
            | .poison => v.trapAll causePoison d
            | .refused => v.trapAll causeAccess d
            | .ok y => k y
      get 64 fun hd => match ladleHeadBad hd with
        | some i => v.trapAll causeLadle (BitVec.ofNat 64 (a + i))
        | none =>
          let n := bits hd 0 8
          get (64 + 128 * n) fun img =>
            let recs := (List.range n).map fun i => bits img (512 + 1024 * i) 1024
            match ((recs.mapIdx fun i r => (i, r)).findSome? fun (e : Nat × Nat) => (ladleRecBad e.2 v.s.tick.toNat).map fun o => 64 + 128 * e.1 + o) with
            | some o => v.trapAll causeLadle (BitVec.ofNat 64 (a + o))
            | none =>
              if 256 < (v.s.core v.c).buffered + n then v.waitRoom n
              else
                let s := v.s.restoreLadle v.c v.slot (BitVec.ofNat 16 (bits hd 16 16)) recs
                match s.group? v.c v.slot with
                | none => s
                | some g => { v with s := s }.next g

end Sys2Proof.Machine
end

