-- ==== Sys2Proof/Machine/Preempt.lean ====
section
/-! DEFINITION. Blocks beyond their issue: fault-record writes (R486), saves and restores (R106-R110, R487, R488), the
dispatchers (R400, R401), swaps and watchdogs (R99, R100), the end of launches (R398), and the ends of sleeps and waits. -/

namespace Sys2Proof.Machine

/-! ### Fault-record writes (R80, R486) -/

/-- The 32 bytes of an entry. -/
def FaultEntry.value (e : FaultEntry) : Nat :=
  e.cause + ((if e.double then 1 else 0) + if e.engine then 2 else 0) * 2 ^ 8 + e.core * 2 ^ 16 +
  (if e.engine then e.batch.toNat else 0) * 2 ^ 32 + e.thread % 2 ^ 64 * 2 ^ 64 + e.pc.toNat * 2 ^ 128 + e.detail.toNat * 2 ^ 192

/-- What an attempt at an entry leaves: the state, the entry if it is still to be written, and the pages it waits for. -/
structure EntryTry where
  s : State
  left : Option FaultEntry
  pages : List Nat
  need : Need
  deriving DecidableEq, Repr

/-- The add to COUNT: the entry is lost where the access fails or the record is full. -/
def State.entryCount (s : State) (l : Launch) (e : FaultEntry) : EntryTry :=
  match s.trRange e.core l.ctx [] .rw l.rec_.faultrec.toNat 16 with
  | .miss ps => ⟨s, some e, ps, .rw⟩
  | .bad _ => ⟨s, none, [], .rw⟩
  | .ok ps => match s.settleReds.readParts e.core true ps with
    | (s, .ok x) =>
      let i := x % 2 ^ 64
      let s := (s.writeParts e.core true {} (ps.map fun p => (p.1, 8)) ((i + 1) % 2 ^ 64)).1
      ⟨s, if i < x / 2 ^ 64 then some { e with counted := some i } else none, [], .w⟩
    | (s, _) => ⟨s, none, [], .rw⟩

/-- The write of entry `i`. -/
def State.entryWrite (s : State) (l : Launch) (e : FaultEntry) (i : Nat) : EntryTry :=
  match s.trRange e.core l.ctx [] .w ((l.rec_.faultrec.toNat + 0x40 + 32 * i) % 2 ^ 64) 32 with
  | .miss ps => ⟨s, some e, ps, .w⟩
  | .bad _ => ⟨s, none, [], .w⟩
  | .ok ps => ⟨(s.writeParts e.core true {} ps e.value).1, none, [], .w⟩

/-- Advance one entry as far as its translations go. -/
def State.entryTry (s : State) (e : FaultEntry) : EntryTry :=
  match s.launch? e.launch with
  | none => ⟨s, none, [], .w⟩
  | some l =>
    match e.counted with
    | some i => s.entryWrite l e i
    | none =>
      let x := s.entryCount l e
      match x.left with
      | some e' => match e'.counted with
        | some i => x.s.entryWrite l e' i
        | none => x
      | none => x

/-- Advance the first entry that does not have to wait; the ones before it wait for their pages. -/
def State.entryFirst (s : State) : List (Nat × FaultEntry) → State
  | [] => s
  | (i, e) :: rest =>
    let x := s.entryTry e
    match x.left with
    | none => { x.s with faultQ := s.faultQ.eraseIdx i }
    | some e' =>
      let t := { x.s with faultQ := s.faultQ.set i e' }
      let t := t.requestPages (flaskOf e.core) (((s.launch? e.launch).map (·.ctx)).getD 0) e.source x.need (.faultWrite e.launch) x.pages
      if e' == e then State.entryFirst t rest else t

/-- R486: FAULT_ENTRY_WRITE. -/
def execFaultEntryWrite (s : State) : Out := .next (s.entryFirst (s.faultQ.mapIdx fun i e => (i, e)))

/-! ### The save area (R107-R109) -/

/-- The address of a thread's save record, and its length. -/
def recordLen (r : LaunchRec) : Nat := 2880 + 4 * r.win
def recordVa (r : LaunchRec) (g : Nat) : Nat := r.savebase.toNat + g * recordLen r
/-- The scratchpad image of a block on local core `c`. -/
def scratchVa (r : LaunchRec) (b c : Nat) : Nat := r.savebase.toNat + 2 ^ 44 + (48 * b + c) * 2 ^ 20
/-- The image slot of group `k` of a block under grant `G` (R109). -/
def imageSlot (r : LaunchRec) (b k G : Nat) : Nat := b * ((r.blockSize + 7) / 8) + k * G / 8
def crucVa (r : LaunchRec) (j : Nat) : Nat := r.savebase.toNat + 2 ^ 46 + j * 2 ^ 20
def ladleVa (r : LaunchRec) (j : Nat) : Nat := r.savebase.toNat + 2 ^ 47 + j * 2 ^ 12

/-- STATUS.WAIT and WAITINFO of a fragment's state (R107, R108). -/
def waitCode : NodeState → Nat × Nat
  | .bar n ph => (1, ph % 65536 + n * 65536)
  | .waitv _ _ _ => (2, 0)
  | .batch _ _ | .restore _ _ _ | .room _ => (3, 0)
  | .asleep t => (4, t % 2 ^ 64)
  | .join => (5, 0)
  | .setw => (6, 0)
  | _ => (0, 0)

/-- A thread's save record (R107, R108). -/
def saveRecord (g : Group) (t : Thread) (x : Seat) : Nat :=
  let (wait, info) := waitCode x.st
  let status := t.pred.toNat + wait * 2 ^ 16 + (if x.hmode then 2 ^ 20 else 0) + x.chain.length * 2 ^ 21
  let grp := g.grant + 0x300 + g.classpol.toNat * 2 ^ 10
  x.pc.toNat + t.trappc.toNat * 2 ^ 64 + t.pr.toNat * 2 ^ 128 + t.fpflags.toNat * 2 ^ 160 + t.tid * 2 ^ 192 + status * 2 ^ 224 +
  t.trapcause.toNat * 2 ^ 256 + t.hmask.toNat * 2 ^ 288 + t.top * 2 ^ 320 + info * 2 ^ 384 + grp * 2 ^ 448 +
  packLE 8 (x.chain.map (·.toNat)) * 2 ^ 512 + packLE 4 ((List.range 128).map fun i => (g.kreg i).toNat) * 2 ^ (8 * 0x140) +
  packLE 32 ((List.range 64).map fun i => (g.handle i).toNat) * 2 ^ (8 * 0x340) +
  packLE 4 ((List.range g.win).map fun i => (t.cell i).toNat) * 2 ^ (8 * 0xB40)

/-- One write of a save: where, what, for which engine's image or none, and the sectors that carry poison with them. -/
structure SaveWrite where
  va : Nat
  n : Nat
  x : Nat
  engine : Nat
  g : Nat
  poison : List Nat
  deriving DecidableEq, Repr

/-- Pieces laid one after the other. -/
def layPieces (engine g : Nat) : Nat → List (Nat × Nat) → List SaveWrite
  | _, [] => []
  | va, (n, x) :: rest => { va := va, n := n, x := x, engine := engine, g := g, poison := [] } :: layPieces engine g (va + n) rest

/-- The image of a block's four windows, in ascending order. -/
def Window.image (w : Window) : Nat := packLE w.q ((List.range 4).map fun b => w.read (b * 2 ^ 18) w.q)

/-- The poisoned sectors of a window as offsets of its image. -/
def Window.imagePoison (w : Window) : List Nat := w.poison.map fun p => (32 * p / 2 ^ 18) * w.q + 32 * p % 2 ^ 18

/-- A launch's groups on a core that are not remnants, of one block or of all. -/
def State.partsOn (s : State) (c li : Nat) (only : Option Nat := none) : List (Nat × Group) :=
  (s.core c).groups.filter fun e => e.2.launch == li && !e.2.remnant && only.all (· == e.2.block)

/-- The windows of a launch on a core that a save writes: those of a block with a group there that is no remnant, or with no group
there any more, its windows being kept for it (R107, R125). -/
def State.padsOn (s : State) (c li : Nat) (only : Option Nat) : List Window :=
  let k := s.core c
  k.wins.filter fun w => w.launch == li && only.all (· == w.block) &&
    ((s.partsOn c li only).any (fun e => e.2.block == w.block) || !(k.groups.any fun e => e.2.launch == li && e.2.block == w.block))

/-- Every write of the save of a launch on a core (R106 step 4, R283, R319). -/
def State.saveWrites (s : State) (c : Nat) (r : LaunchRec) (gs : List (Nat × Group)) (wins : List Window) : List SaveWrite :=
  let recs := gs.flatMap fun (_, g) => (g.threads.filter (·.2.alive)).filterMap fun (l, t) =>
    (g.seat l t).map fun x => { va := recordVa r t.g, n := recordLen r, x := saveRecord g t x, engine := 0, g := t.g, poison := [] : SaveWrite }
  let engs := gs.flatMap fun (_, g) =>
    let j := imageSlot r g.block g.k g.grant
    layPieces 1 g.lowG (crucVa r j) (s.crucImage c g) ++ layPieces 2 g.lowG (ladleVa r j) (ladleImage g)
  let pads := wins.map fun w =>
    let low := ((gs.filter fun e => e.2.block == w.block).map fun e => e.2.lowG).headD (w.block * r.blockSize)
    { va := scratchVa r w.block (c % 48), n := 4 * w.q, x := w.image, engine := 0, g := low, poison := w.imagePoison : SaveWrite }
  recs ++ pads ++ engs

/-! ### Ending a launch from outside (R468, R487) -/

/-- Remove a group and its claims from its core. -/
def State.removeGroup (s : State) (c slot : Nat) : State :=
  let s := (s.dropClaims c slot).leaveMerges c slot
  s.setCore c { s.core c with groups := tdel (s.core c).groups slot }

/-- Discard every resident block, remnant and saved state of a launch (R468, R487). -/
def State.discardLaunch (s : State) (li : Nat) : State :=
  let all := s.cores.flatMap fun e => (e.2.groups.filter fun x => x.2.launch == li).map fun x => (e.1, x.1)
  let s := all.foldl (fun s (c, sl) => s.removeGroup c sl) s
  let s := { s with cores := s.cores.map fun (e : Nat × Core) => (e.1, { e.2 with wins := e.2.wins.filter fun w => w.launch != li })
                    saving := s.saving.filter fun q => q.launch != li }
  let s := s.dropWaits li
  match s.launch? li with
  | none => s
  | some l => s.setLaunch li { l with
      blocks := l.blocks.map fun (e : Nat × Block) => (e.1, { e.2 with place := .ended, kept := [] })
      nextBlock := l.rec_.blockCount, waiting := false }

/-- A save or restore access fails for good: one entry, and the launch is ended (R487). The rule gives the entry no PC, no CORE
for a restore and no THREAD for a scratchpad image: see log 141. -/
def State.saveFault (s : State) (li c cause engine g va : Nat) : State :=
  let s := (s.fault { launch := li, cause := cause, double := false, engine := engine != 0, core := c, batch := 0, thread := g, pc := 0,
                      detail := BitVec.ofNat 64 va, counted := none, source := engine }).discardLaunch li
  match s.launch? li with | some l => s.setLaunch li { l with broken := true } | none => s

/-! ### PREEMPT_SAVE (R106, R487, R488) -/

/-- Perform the writes of a save, every one of them translated. -/
def State.performSave (s : State) (c : Nat) : List (SaveWrite × List (Nat × Nat)) → State
  | [] => s
  | (w, ps) :: rest =>
    let s := (s.writeParts c true {} ps w.x).1
    let s := ps.foldl (fun s p => s.stampEpoch p.1 p.2 s.hearth.nextEpoch) s
    let s := w.poison.foldl (fun s o => s.mark (((ps.getD (o / 4096) (0, 0)).1 + o % 4096) / 32)) s
    State.performSave s c rest

/-- Free what a saved launch held on a core, and mark its blocks (R82, R106 step 5, R488). -/
def State.freeSaved (s : State) (c li : Nat) (swap : Bool) (gs : List (Nat × Group)) (wins : List Window) : State :=
  let s := gs.foldl (fun s (sl, _) => s.removeGroup c sl) s
  let blocks := (gs.map (·.2.block) ++ wins.map (·.block)).eraseDups
  blocks.foldl (fun s b =>
    let rem := (s.core c).groups.any fun e => e.2.launch == li && e.2.block == b
    let s := if rem then s else s.setCore c { s.core c with wins := (s.core c).wins.filter fun w => !(w.launch == li && w.block == b) }
    match s.block? li b with
    | none => s
    | some blk =>
      let mine := gs.filter fun e => e.2.block == b
      let tids := mine.flatMap fun e => e.2.tids
      let arrived := blk.setwArrived.filter fun t => !tids.contains t
      s.setBlock li b { blk with
        place := if (s.groupsOf li b).isEmpty then .saved else blk.place
        since := s.tick.toNat, swapped := swap
        kept := if swap then blk.kept ++ mine.map (fun e => (c, e.1, e.2)) else []
        pinned := if rem then sinsert blk.pinned c else blk.pinned
        homes := tids.foldl (fun t tid => tput t tid c) blk.homes
        imaged := if wins.any (fun w => w.block == b) then sinsert blk.imaged c else blk.imaged
        setwArrived := arrived, setwReq := if arrived.isEmpty then 0 else blk.setwReq }) s

/-- R106: PREEMPT_SAVE of a launch on a core. WATCHDOG traps that are owed come first (R105); then it waits, with the block part
resident, while a page of the save area is absent (R487). Every issued instruction of the model has completed already. -/
def execPreemptSave (s : State) : Out :=
  match s.cur.arg with
  | .at c li _ =>
    match s.saving.find? fun q => q.core == c && q.launch == li, s.launch? li with
    | some q, some l =>
      let s := (s.partsOn c li q.only).foldl (fun s e => (s.takeOwed c e.1 true).runToBoundary c e.1 2048) s.settleReds
      let gs := s.partsOn c li q.only
      let wins := s.padsOn c li q.only
      let ws := s.saveWrites c l.rec_ gs wins
      let tr := ws.map fun w => (w, s.trRange c l.ctx l.saveFatal .w w.va w.n)
      let pages (e : Nat) := sunion [] (tr.flatMap fun x => if x.1.engine = e then (match x.2 with | .miss ps => ps | _ => []) else [])
      let done (s : State) : State := { s with saving := s.saving.filter fun x => !(x == q) }
      match tr.find? fun x => match x.2 with | .bad _ => true | _ => false with
      | some (w, .bad va) => .next (s.saveFault li c causeAccess w.engine w.g va)
      | _ =>
        if tr.any fun x => match x.2 with | .miss _ => true | _ => false then
          .next ([0, 1, 2].foldl (fun s e => s.requestPages (flaskOf c) l.ctx e .w (.save c li) (pages e)) s)
        else
          let s := s.performSave c (tr.filterMap fun x => match x.2 with | .ok ps => some (x.1, ps) | _ => none)
          let s := ((s.release c).1).freeSaved c li q.swap gs wins
          .next (done (match s.launch? li with
            | some l => if q.swap then s.setLaunch li { l with watchdog := 0 } else s
            | none => s))
    | _, _ => .next { s with saving := s.saving.filter fun x => !(x.core == c && x.launch == li) }
  | _ => .next s

/-! ### Where a block goes (R77, R81, R400, R401) -/

/-- Room for groups on a core as a dispatcher of this block sees it: none on one that is gated, or that is to save the block. -/
def State.room (s : State) (r : LaunchRec) (li b c G : Nat) : Nat :=
  let k := s.core c
  let held := k.wins.any fun w => w.launch == li && w.block == b
  if k.gated || s.saving.any (fun q => q.core == c && q.launch == li && q.takes b) || !(held || k.windowsFit (windowSize r.scratch)) then 0 else k.fits none r.win G

/-- A place for a block: its grant and the core of each group. -/
abbrev Place := Nat × List (Nat × Nat)

/-- The places that a flask's units offer for some threads of a block, lowest unit first; `home` gives the core of a unit that a
thread must lie on, if any. -/
def State.placesIn (s : State) (r : LaunchRec) (li b f : Nat) (units : List (List Nat)) (tids : Option (List Nat))
    (home : List Nat → Nat → Option Nat := fun _ => noHome) : List Place :=
  units.filterMap fun cs => grantOn r (48 * f) cs (fun c G => s.room r li b c G) tids (home cs)

/-- The core of a place of one core. -/
def Place.core (p : Place) : Nat := (p.2.head?.map (·.2)).getD 0

/-- R401 among places of one core each; beyond core domain, the largest grant, then the lowest unit. -/
def State.choose (s : State) (r : LaunchRec) (ps : List Place) : Option Place :=
  let single := decide (r.dom r.coop ≤ 2)
  match if single then ps.find? fun p => (s.core (Place.core p)).idle && decide (8 ≤ (s.core (Place.core p)).skip) else none with
  | some p => some p
  | none =>
    let top := ps.foldl (fun n p => max n p.1) 0
    let best := ps.filter fun p => p.1 == top
    if single then (best.find? fun p => (s.core (Place.core p)).aff == some r.entry).orElse fun _ => best.head? else best.head?

/-- The cores of a place, in ascending order, without repeats. -/
def Place.cores (p : Place) : List Nat := sunion [] (p.2.map (·.2))

/-- Each time a block is placed in the flask, SKIP rises on every idle core that could have held it, or a part of it, and was not
chosen (R401): `could` lists those cores. -/
def State.bumpSkip (s : State) (could : List Nat) (p : Place) : State :=
  (sunion [] could).foldl (fun s c =>
    if (s.core c).idle && !(Place.cores p).contains c then s.setCore c { s.core c with skip := (s.core c).skip + 1 } else s) s

/-- The cores that could hold a new block or a part of it: of every unit that takes the block, those with room for a group; where
R78 fixes the threads' cores or pairs, only the fixed ones (R401; log 158). -/
def State.couldHold (s : State) (r : LaunchRec) (li b f : Nat) (units : List (List Nat)) : List Nat :=
  units.flatMap fun cs => match s.placesIn r li b f [cs] none with
    | [] => []
    | p :: _ =>
      let used := Place.cores p
      if (r.fixedCore 0).isSome then used
      else cs.filter fun c => used.contains c ||
        ((r.fixedPair 0).isNone || used.any fun u => u / 2 == c / 2) && (widths.any fun G => decide (G ≤ r.wreq) && decide (0 < s.room r li b c G))

/-- Whether a launch may have blocks placed in a flask now: its context is VALID with RUN set, FLASKS allows it, and no handover
is under way (R400, R475). -/
def State.mayPlace (s : State) (l : Launch) (f : Nat) : Bool := s.ctxValid l.ctx && s.ctxRun l.ctx && (s.flasksOf l.ctx).testBit f && !s.box.handing

/-- R400: ascending PRIO, older launches first. -/
def Launch.before (x y : Launch) : Bool := decide (x.rec_.prio < y.rec_.prio) || (x.rec_.prio == y.rec_.prio && decide (x.order < y.order))
def insertLaunch (x : Nat × Launch) : List (Nat × Launch) → List (Nat × Launch)
  | [] => [x]
  | y :: t => if y.2.before x.2 then y :: insertLaunch x t else x :: y :: t
def State.launchOrder (s : State) : List (Nat × Launch) := s.launches.foldl (fun acc x => insertLaunch x acc) []

/-- Whether the flask may place blocks of a launch while blocks have waited 2^20 ticks: none of them is of an earlier launch
(R400). -/
def State.notHeldUp (s : State) (f li : Nat) (l : Launch) : Bool :=
  (s.flask f).blockWait.all fun w => w.1 == li || (s.launch? w.1).all fun x => l.before x

/-- The waiting block has been placed, or its launch is gone. -/
def State.clearWaits (s : State) (li b : Nat) : State :=
  { s with flasks := s.flasks.map fun (e : Nat × Flask) => (e.1, { e.2 with blockWait := e.2.blockWait.filter (· ≠ (li, b)) }) }

/-- The hardware unit of a domain that a core lies in (R12, R13). -/
def hwUnit (d c : Nat) : Nat := if d ≤ 2 then c else if d = 3 then c / 2 else if d = 4 then flaskOf c else dieOf c

/-- Whether cores lie in the hardware units that other blocks fix for the units of a block above its cooperative level (R78): every
block of such a unit that is placed, or has ended, lies in the same one. -/
def Launch.unitOk (l : Launch) (b : Nat) (cs : List Nat) : Bool :=
  let r := l.rec_
  (List.range r.nlev).all fun i =>
    decide (i ≤ r.coop) || decide (r.dom i < 2) || decide (5 < r.dom i) || l.blocks.all fun e =>
      e.1 == b || e.2.place == .saved || decide (e.1 * r.blockSize / r.siz i ≠ b * r.blockSize / r.siz i) ||
      e.2.cores.all fun o => cs.all fun c => hwUnit (r.dom i) o == hwUnit (r.dom i) c

/-- A core acquires for code, records and saved state that reach it (R186, R317, R398). -/
def State.acquireAll (s : State) (cs : List Nat) : State := cs.foldl (fun s c => s.acquire c (s.hearth.nextEpoch - 1)) s

/-- The units of a flask that can carry a block, gated cores left out for a flask-wide one. -/
def State.unitsIn (s : State) (l : Launch) (b f : Nat) : List (List Nat) :=
  ((unitsOf (l.rec_.dom l.rec_.coop) f).filter (l.unitOk b)).map fun cs => cs.filter fun c => !(s.core c).gated

/-- Place a launch's next block in a flask, if it fits there (R79, R82, R400, R401). -/
def State.placeNext (s : State) (f li : Nat) (l : Launch) : Option State :=
  let r := l.rec_
  let b := l.nextBlock
  if r.blockCount ≤ b then none
  else
    let ps := s.placesIn r li b f (s.unitsIn l b f) none
    (s.choose r ps).map fun p =>
      let s := s.bumpSkip (s.couldHold r li b f (s.unitsIn l b f)) p
      let s := s.placeGroups li b p.1 l.ctx r p.2 (startSeats r b)
      let s := s.acquireAll (Place.cores p)
      let blk : Block :=
        { place := .placed, cores := Place.cores p, grant := p.1, since := s.tick.toNat, bars := [], setwArrived := [], setwReq := 0, ended := [],
          pinned := [], swapped := false, kept := [] }
      (s.setLaunch li { l with
        blocks := tput l.blocks b blk, nextBlock := b + 1, nextSince := s.tick.toNat, watchdog := 0
        waiting := l.waiting && decide (b + 1 < r.blockCount) }).clearWaits li b

/-! ### BLOCK_RESUME (R110, R285, R321, R487, R488) -/

/-- A read of the save area: its value, pages it waits for, or a failure for good. -/
inductive SaveRead | ok (x : Nat) | miss (pages : List Nat) | bad (cause va : Nat) deriving DecidableEq, Repr

/-- Read the save area through a flask's TLB, at the device point. -/
def State.saveRead (s : State) (f : Nat) (l : Launch) (va n : Nat) : SaveRead :=
  match s.trRange (48 * f) l.ctx l.saveFatal .r va n with
  | .miss ps => .miss ps
  | .bad a => .bad causeAccess a
  | .ok ps => match (s.readParts (48 * f) true ps).2 with
    | .ok x => .ok x
    | .poison => .bad causePoison (s.poisonAt va n ps)
    | .refused => .bad causeAccess va

/-- A value read for a thread, with the engine whose image it is. -/
structure Got where
  va : Nat
  engine : Nat
  g : Nat
  r : SaveRead
  deriving DecidableEq, Repr

/-- The pages that reads wait for, and the first that failed for good. -/
def gotPages (xs : List Got) : List Nat := sunion [] (xs.flatMap fun x => match x.r with | .miss ps => ps | _ => [])
def gotBad (xs : List Got) : Option Got := xs.find? fun x => match x.r with | .bad _ _ => true | _ => false
def Got.val (x : Got) : Nat := match x.r with | .ok y => y | _ => 0

/-- A thread as its save record gives it (R107, R108, R110). -/
structure Saved where
  seat : Seat
  /-- It raises ILLOP at its PC. -/
  bad : Bool
  /-- The image slots of its group, where CIMG and LIMG are set. -/
  cimg : Option Nat
  limg : Option Nat
  /-- The barrier and phase it waits at. -/
  bar : Option (Nat × Nat)
  deriving DecidableEq, Repr

/-- Unpack `n` values of `w` bits. -/
def unpack (x w n : Nat) : List Nat := (List.range n).map fun i => bits x (w * i) w

/-- A table of the values that are not zero. -/
def tableOf {k : Nat} (from_ : Nat) (xs : List Nat) : Table (BitVec k) :=
  (xs.mapIdx fun i x => (from_ + i, BitVec.ofNat k x)).filter fun e => e.2 ≠ 0

def savedOf (r : LaunchRec) (b g x : Nat) : Saved :=
  let f (off n : Nat) : Nat := bits x (8 * off) (8 * n)
  let status := f 0x1C 4
  let wait := bits status 16 4
  let grp := f 0x38 8
  let G := bits grp 0 8
  let grpBad := decide (2 ^ 12 ≤ grp) || !(widths.contains G)
  let stBad := bits status 26 6 != 0 || bits status 15 1 != 0 || decide (7 ≤ wait)
  let info := f 0x30 8
  -- PC and the join addresses are PCs, whose bits 3:0 are zero (R47)
  let chain := ((unpack (f 0x40 256) 64 32).take (bits status 21 5)).map fun c => BitVec.ofNat 64 (c / 16 * 16)
  -- a thread that is to raise ILLOP at its PC waits for nothing
  let wait := if stBad || grpBad then 0 else if wait = 5 ∧ chain.isEmpty then 0 else wait
  let tid := g % r.blockSize
  let t : Thread :=
    { g := g, tid := tid, alive := true, v := tableOf 0 (unpack (f 0xB40 (4 * r.win)) 32 r.win), pred := BitVec.ofNat 15 status,
      pr := BitVec.ofNat 32 (f 0x10 4) &&& 0x30FFF, fpflags := BitVec.ofNat 32 (f 0x14 4), trapcause := BitVec.ofNat 8 (f 0x20 1),
      trappc := BitVec.ofNat 64 (f 8 8), hmask := BitVec.ofNat 32 (f 0x24 4), top := f 0x28 8, badCells := [] }
  let seat : Seat :=
    { t := t, pc := BitVec.ofNat 64 (f 0 8 / 16 * 16), hmode := bits status 20 1 == 1, chain := chain,
      st := match wait with | 1 => .bar (bits info 16 4) (bits info 0 16) | 4 => .asleep info | 5 => .join | _ => .ready
      k := tableOf 1 ((unpack (f 0x140 512) 32 128).drop 1), h := tableOf 0 (unpack (f 0x340 2048) 256 64), classpol := BitVec.ofNat 2 (bits grp 10 2)
      wait := wait }
  let j := imageSlot r b (tid / max G 1) G
  { seat := seat, bad := grpBad || stBad, cimg := if !grpBad && bits grp 8 1 == 1 then some j else none,
    limg := if !grpBad && bits grp 9 1 == 1 then some j else none, bar := if wait = 1 then some (bits info 16 4, bits info 0 16) else none }

/-- An image read at a resume: its slot, the thread through which it was found, and its bytes. -/
structure Image where
  j : Nat
  g : Nat
  va : Nat
  head : Nat
  body : Nat
  deriving DecidableEq, Repr

/-- FIRST of an image. -/
def crucFirst (i : Image) : Nat := bits i.head 64 32
def ladleFirst (i : Image) : Nat := bits i.head 32 32

/-- A header as R285 takes it; one that R297 would refuse names nothing. -/
def crucImg (i : Image) : CrucImg :=
  (crucHeader i.head).getD { tiles := 0, masks := 0, paired := false, rm := 0, sat := false, ncmd := 0, batch := 1, first := bits i.head 64 32 }
def ladleCount (i : Image) : Nat := min 16 (bits i.head 0 8)

/-- Whether the indices of an image are free on a core, and on its partner where it was paired (R285). -/
def State.indicesFree (s : State) (c : Nat) (h : CrucImg) : Bool :=
  let free (k : Core) : Bool :=
    (setBits h.tiles.toNat 16).all (fun t => (tfind k.tileOwner t).isNone) && (setBits h.masks.toNat 8).all (fun m => (tfind k.maskOwner m).isNone)
  free (s.core c) && (!h.paired || free (s.core (partner c)))

/-- The core of a place that takes a thread. -/
def Place.coreOf (p : Place) (tid : Nat) : Option Nat := (p.2.find? fun e => e.1 == tid / p.1).map (·.2)

/-- Whether a place can take the images (R285, R321). -/
def State.takesImages (s : State) (p : Place) (cs ls : List Image) : Bool :=
  cs.all (fun i => match Place.coreOf p (crucFirst i) with | some c => s.indicesFree c (crucImg i) | none => true) &&
  (Place.cores p).all fun c =>
    decide ((s.core c).buffered + ((ls.filter fun i => Place.coreOf p (ladleFirst i) == some c).map ladleCount).sum ≤ 256)

/-- The core of a unit that takes what core `o` held when a block was saved: the one core, or the one at the same place of the
pair or the flask (R110). -/
def newCore (r : LaunchRec) (cs : List Nat) (o : Nat) : Option Nat :=
  if r.dom r.coop ≤ 2 then cs.head?
  else if r.dom r.coop = 3 then cs.find? fun c => c % 2 == o % 2
  else cs.find? fun c => c % 48 == o % 48

/-- A window as an image gives it. -/
def Window.load (w : Window) (x : Nat) : Window :=
  (List.range 4).foldl (fun w b => w.write (b * 2 ^ 18) w.q (bits x (8 * b * w.q) (8 * w.q))) w

/-- Claim the indices of an image for a slot, at once. -/
def State.reclaim (s : State) (c slot : Nat) (h : CrucImg) : State :=
  let own (s : State) (k o : Nat) : State :=
    let x := s.core k
    s.setCore k { x with tileOwner := (setBits h.tiles.toNat 16).foldl (fun t i => tput t i o) x.tileOwner
                         maskOwner := (setBits h.masks.toNat 8).foldl (fun t i => tput t i o) x.maskOwner }
  let s := own s c slot
  if h.paired then own s (partner c) (1000 + slot) else s

/-- Restore the images that a new group takes, in ascending FIRST (R285, R286, R321). With one image under the old
grant the batch numbers stay; else every old group's open batch is closed first. -/
def State.restoreEngines (s : State) (c slot : Nat) (same : Bool) (oc ol : BitVec 16) (cs ls : List Image) : State :=
  let one (s : State) (i : Image) : State × Option (CrucState) :=
    let h := crucImg i
    let s := match s.group? c slot with | some g => s.setGroup c slot { g with cruc := .start } | none => s
    let s := (s.reclaim c slot h).restoreCruc c slot h fun off n => bits i.body (8 * off) (8 * n)
    (s, (s.group? c slot).map (·.cruc))
  let oneL (s : State) (i : Image) : State × Option (LadleState) :=
    let s := match s.group? c slot with | some g => s.setGroup c slot { g with ladle := .start } | none => s
    let s := s.restoreLadle c slot (BitVec.ofNat 16 (bits i.head 16 16)) ((List.range (ladleCount i)).map fun n => bits i.body (512 + 1024 * n) 1024)
    (s, (s.group? c slot).map (·.ladle))
  let (s, xs) := cs.foldl (fun (a : State × List CrucState) i => let (s, x) := one a.1 i; (s, a.2 ++ x.toList)) (s, [])
  let (s, ys) := ls.foldl (fun (a : State × List LadleState) i => let (s, y) := oneL a.1 i; (s, a.2 ++ y.toList)) (s, [])
  match s.group? c slot with
  | none => s
  | some g =>
    let cr := match xs with | [x] => if same then x else .inherit [x.close] oc | _ => .inherit (xs.map (·.close)) oc
    let la := match ys with | [y] => if same then y else .inherit [y.close] ol | _ => .inherit (ys.map (·.close)) ol
    s.setGroup c slot { g with
      rank := max xs.length ys.length
      cruc := if same && xs.isEmpty then .start else cr
      ladle := if same && ys.isEmpty then .start else la }

/-- Threads that raise ILLOP at their PC when they resume (R107, R108). -/
def State.illResume (s : State) (c slot : Nat) (tids : List Nat) : State :=
  match s.group? c slot with
  | none => s
  | some g =>
    let lanes := (g.threads.filter fun e => tids.contains e.2.tid).map (·.1)
    let leaves := (g.nodes ++ g.stack).filter fun n => n.isLeaf && lanes.any fun l => n.mask.getLsbD l
    leaves.foldl (fun s n => match s.group? c slot with
      | none => s
      | some g => s.takeTrap c slot g n ((lanes.filter fun l => n.mask.getLsbD l).map fun l => (l, causeIllop, 0))) s

/-- Threads saved at a barrier count as arrived in the phase they hold; one whose phase is over goes on (R110). -/
def Block.rearrive (b : Block) (x : Saved) : Block × Saved :=
  match x.bar with
  | none => (b, x)
  | some (n, ph) =>
    let r := b.bar n
    let t := x.seat.t.tid
    if r.phase % 65536 = ph then ({ b with bars := tput b.bars n { r with arrived := sinsert r.arrived t } }, x)
    else if (r.phase + 1) % 65536 = ph then ({ b with bars := tput b.bars n { r with later := sinsert r.later t } }, x)
    else (b, { x with seat := { x.seat with st := .ready, pc := x.seat.pc + 16 } })

/-- What a try to resume a block gives. -/
inductive Resume | no | wait (s : State) | done (s : State)

/-- The units in which a saved block may resume in a flask: those that contain the cores its remnants hold it to (R110, R488). -/
def State.resumeUnits (s : State) (l : Launch) (li b f : Nat) (blk : Block) : List (List Nat) :=
  let held := blk.pinned.filter fun c => (s.core c).groups.any fun e => e.2.launch == li && e.2.block == b
  ((unitsOf (l.rec_.dom l.rec_.coop) f).filter (l.unitOk b)).filter fun cs => held.all cs.contains

/-- The live threads of a block. -/
def Block.live (b : Block) (r : LaunchRec) : List Nat := (List.range r.blockSize).filter fun t => !b.ended.contains t

/-- The unit of a flask that a place lies in. -/
def Place.unit (r : LaunchRec) (f : Nat) (p : Place) : List Nat := ((unitsOf (r.dom r.coop) f).find? fun cs => cs.contains (Place.core p)).getD []

/-- The places where a saved block may resume in a flask: each thread on the core of its unit that answers to the one it was saved
from, and room for the windows of every core with an image (R110, R488). -/
def State.resumePlaces (s : State) (l : Launch) (li b f : Nat) (blk : Block) : List Place :=
  let r := l.rec_
  let home (cs : List Nat) (t : Nat) : Option Nat := (tfind blk.homes t).bind (newCore r cs)
  (s.placesIn r li b f (s.resumeUnits l li b f blk) (some (blk.live r)) home).filter fun p =>
    blk.imaged.all fun o => (newCore r (Place.unit r f p) o).all fun c =>
      ((s.core c).wins.any fun w => w.launch == li && w.block == b) || (s.core c).windowsFit (windowSize r.scratch)

/-- Place a saved block in a flask: every read, then the choice of cores, then the rebuilding. -/
def State.resumeBlock (s : State) (f li b : Nat) (l : Launch) (blk : Block) : Resume :=
  let r := l.rec_
  let tids := blk.live r
  let ask (xs : List Got) (k : Unit → Resume) : Resume :=
    match gotPages xs, gotBad xs with
    | [], some x => match x.r with
      | .bad cause va => .done (s.saveFault li (48 * f) cause x.engine x.g va)
      | _ => .no
    | [], none => k ()
    | ps, _ => .wait ([0, 1, 2].foldl (fun s e =>
        s.requestPages f l.ctx e .r (.save (48 * f) li) (ps.filter fun p => (gotPages (xs.filter fun x => x.engine == e)).contains p)) s)
  let recs := tids.map fun t =>
    let g := b * r.blockSize + t
    { va := recordVa r g, engine := 0, g := g, r := s.saveRead f l (recordVa r g) (recordLen r) : Got }
  ask recs fun _ =>
    let saved := recs.map fun x => savedOf r b x.g x.val
    let slots (pick : Saved → Option Nat) : List (Nat × Nat) :=
      saved.foldl (fun acc x => match pick x with
        | some j => if acc.any fun e => e.1 == j then acc else acc ++ [(j, x.seat.t.g)]
        | none => acc) []
    let cj := slots (·.cimg)
    let lj := slots (·.limg)
    let heads := cj.map (fun e => { va := crucVa r e.1, engine := 1, g := e.2, r := s.saveRead f l (crucVa r e.1) 64 : Got }) ++
      lj.map fun e => { va := ladleVa r e.1, engine := 2, g := e.2, r := s.saveRead f l (ladleVa r e.1) 64 : Got }
    ask heads fun _ =>
      let img (e : Nat × Nat) (x : Got) : Image := { j := e.1, g := e.2, va := x.va, head := x.val, body := 0 }
      let cs := (cj.zip heads).map fun (e, x) => img e x
      let ls := (lj.zip (heads.drop cj.length)).map fun (e, x) => img e x
      let places := (s.resumePlaces l li b f blk).filter fun p => s.takesImages p cs ls
      match s.choose r places with
      | none => .no
      | some p =>
        let q := windowSize r.scratch
        let pads : List (Nat × Got) := blk.imaged.filterMap fun o => (newCore r (Place.unit r f p) o).bind fun c =>
          if (s.core c).wins.any fun w => w.launch == li && w.block == b then none
          else some
            (c, { va := scratchVa r b (o % 48), engine := 0, g := b * r.blockSize + tids.headD 0, r := s.saveRead f l (scratchVa r b (o % 48)) (4 * q) : Got })
        let bodies := cs.map (fun i => { va := i.va, engine := 1, g := i.g, r := s.saveRead f l i.va (crucImg i).len : Got }) ++
          ls.map fun i => { va := i.va, engine := 2, g := i.g, r := s.saveRead f l i.va (64 + 128 * ladleCount i) : Got }
        ask (pads.map (·.2) ++ bodies) fun _ =>
          let cs := (cs.zip bodies).map fun (i, x) => { i with body := x.val }
          let ls := (ls.zip (bodies.drop cs.length)).map fun (i, x) => { i with body := x.val }
          let (blk, saved) := saved.foldl (fun (a : Block × List Saved) x => let (b, x) := a.1.rearrive x; (b, a.2 ++ [x])) (blk, [])
          let s := s.bumpSkip (places.flatMap Place.cores) p
          let s := pads.foldl (fun s (c, _) => s.enterCore li b c r) s
          let s := s.placeGroups li b p.1 l.ctx r p.2 (saved.map (·.seat))
          let s := s.acquireAll (Place.cores p)
          let s := pads.foldl (fun s (c, x) => s.mapWindow c li b fun w => w.load x.val) s
          let same := p.1 == blk.grant
          let lat (xs : List (BitVec 16)) : BitVec 16 := if xs.isEmpty then 1 else latest xs
          let s := (s.groupsOf li b).foldl (fun s (c, sl, g) =>
            let on (first : Nat) : Bool := Place.coreOf p first == some c
            let mine (first : Nat) : Bool := g.threads.any fun e => e.2.tid == first
            let oc := lat ((cs.filter fun i => on (crucFirst i)).map fun i => (crucImg i).batch + 1)
            let ol := lat ((ls.filter fun i => on (ladleFirst i)).map fun i => BitVec.ofNat 16 (bits i.head 16 16) + 1)
            let byFirst (first : Image → Nat) (xs : List Image) : List Image :=
              (xs.filter fun i => mine (first i)).foldl (fun acc i =>
                acc.takeWhile (fun y => first y < first i) ++ [i] ++ acc.dropWhile (fun y => first y < first i)) []
            s.restoreEngines c sl same oc ol (byFirst crucFirst cs) (byFirst ladleFirst ls)) s
          let placed : Block :=
            { blk with
              place := .placed, cores := sunion (Place.cores p) (pads.map (·.1)), grant := p.1, since := s.tick.toNat, pinned := []
              swapped := false, kept := [], homes := [], imaged := [] }
          let s : State := match s.launch? li with
            | some l => s.setLaunch li { l with watchdog := 0, blocks := tput l.blocks b placed }
            | none => s
          let ill := (saved.filter (·.bad)).map (·.seat.t.tid)
          let s := (s.groupsOf li b).foldl (fun s (c, sl, _) => s.illResume c sl ill) s
          let s := (List.range 16).foldl (fun s n => s.checkBar li b n 2) s
          .done (s.clearWaits li b)

/-- Whether the wait of a fragment that a swap saved can complete now: a batch wait can once the block is back; a waitv once its
condition holds for every lane; a crest or an lrest once a place of `dests` to which the block may return has its indices or its room
(R99, R400). -/
def State.canGoOn (s : State) (l : Launch) (dests : List Place) (c sl : Nat) (g : Group) (nd : Node) : Bool :=
  match nd.st with
  | .batch _ _ => true
  | .waitv word pending _ => match decodeCast word with
    | some (.waitv m w) =>
      let v : View := { s := s, c := c, slot := sl, g := g, nd := nd, l := l }
      -- a scratchpad window that the save has freed holds nothing that could change
      (g.lanes pending).all (fun x => (v.locate (g.thread x) w.space (addressOf w g (g.thread x)) (accBytes w)).isSome) &&
      (v.waitRound w m s (g.lanes pending)).2.2.2.isEmpty
    | _ => true
  | .restore tiles masks pair => dests.any fun p => (Place.coreOf p (g.tids.headD 0)).any fun k =>
      s.claimFree k tiles masks && (!pair || s.claimFree (partner k) tiles masks)
  | .room n => dests.any fun p => (Place.coreOf p (g.tids.headD 0)).any fun k => decide ((s.core k).buffered + n ≤ 256)
  | _ => false

/-- Whether the wait of a block that a swap saved can complete now. -/
def State.blockCan (s : State) (l : Launch) (li b : Nat) (blk : Block) : Bool :=
  let dests := ((List.range 8).filter (s.mayPlace l)).flatMap fun f => s.resumePlaces l li b f blk
  blk.kept.any fun (c, sl, g) => (g.nodes ++ g.stack).any fun nd => s.canGoOn l dests c sl g nd

/-- Whether a saved block may be placed again: a swapped one once its wait can complete, or when no block of its launch
is still to be placed. -/
def State.mayReturn (s : State) (l : Launch) (li b : Nat) (blk : Block) : Bool :=
  !blk.swapped || decide (l.rec_.blockCount ≤ l.nextBlock) || s.blockCan l li b blk

/-- Insert a saved block: one whose wait can complete first, then the one saved first. -/
def insertSaved (x : Nat × Nat × Nat) : List (Nat × Nat × Nat) → List (Nat × Nat × Nat)
  | [] => [x]
  | y :: t => if y.2.1 < x.2.1 ∨ (y.2.1 = x.2.1 ∧ y.2.2 ≤ x.2.2) then y :: insertSaved x t else x :: y :: t

/-- A launch's saved blocks that may return, in the order in which the model tries them (log 142). -/
def State.returning (s : State) (l : Launch) (li : Nat) : List Nat :=
  ((l.blocks.filter fun e => e.2.place == .saved && s.mayReturn l li e.1 e.2).foldl (fun acc e =>
    insertSaved (e.1, if s.blockCan l li e.1 e.2 then 0 else 1, e.2.since) acc) []).map (·.1)

/-- Whether windows of a block, kept without a group, are still to be saved (R106). -/
def State.halfSaved (s : State) (li b : Nat) : Bool :=
  s.saving.any fun q => q.launch == li && q.takes b && (s.core q.core).wins.any fun w => w.launch == li && w.block == b

/-- The saved blocks that a flask may place: launches in the order of R400. -/
def State.resumable (s : State) (f : Nat) : List (Nat × Nat) :=
  s.launchOrder.flatMap fun (li, l) =>
    if s.mayPlace l f && s.notHeldUp f li l then ((s.returning l li).filter fun b => !s.halfSaved li b).map fun b => (li, b) else []

/-- What a flask's dispatcher finds among saved blocks: whether one can be placed, and the state that its try leaves; those that
wait for a page wait on. -/
def State.resumeFirst (s : State) (f : Nat) : List (Nat × Nat) → Bool × State
  | [] => (false, s)
  | (li, b) :: rest =>
    match s.launch? li, s.block? li b with
    | some l, some blk =>
      match s.resumeBlock f li b l blk with
      | .no => State.resumeFirst s f rest
      | .wait s => State.resumeFirst s f rest
      | .done s => (true, s)
    | _, _ => State.resumeFirst s f rest

/-- R110: BLOCK_RESUME of a flask. -/
def execBlockResume (s : State) : Out :=
  match s.cur.arg with
  | .at f _ _ => .next (s.resumeFirst f (s.resumable f)).2
  | _ => .next s

/-- R400: BLOCK_DISPATCH of a flask: the first launch in order whose next block fits, unless a saved block can be placed, which
goes first. -/
def execBlockDispatch (s : State) : Out :=
  match s.cur.arg with
  | .at f _ _ =>
    if (s.resumeFirst f (s.resumable f)).1 then .next s
    else .next ((s.launchOrder.findSome? fun (li, l) => if s.mayPlace l f && s.notHeldUp f li l then s.placeNext f li l else none).getD s)
  | _ => .next s

/-- A launch's blocks that wait to be placed, with the tick since which each has waited: saved ones that may return, then the
next, whose wait counts from the launch's start or from the placement of the block before it: the model's choice (log 142). -/
def State.waits (s : State) (l : Launch) (li : Nat) : List (Nat × Nat) :=
  (l.blocks.filter fun e => e.2.place == .saved && s.mayReturn l li e.1 e.2).map (fun e => (e.1, e.2.since)) ++
  (if l.nextBlock < l.rec_.blockCount then [(l.nextBlock, l.nextSince)] else [])

/-- The blocks that have waited 2^20 ticks and that a flask has not noted yet (R400). -/
def State.overdue (s : State) (f : Nat) : List (Nat × Nat) :=
  (s.launches.flatMap fun (e : Nat × Launch) =>
    if s.mayPlace e.2 f then ((s.waits e.2 e.1).filter fun w => decide (w.2 + 2 ^ 20 ≤ s.tick.toNat)).map fun w => (e.1, w.1) else []).filter fun w =>
      !(s.flask f).blockWait.contains w

/-- R400: BLOCK_WAIT_EXPIRY of a flask: blocks have waited 2^20 ticks. -/
def execBlockWaitExpiry (s : State) : Out :=
  match s.cur.arg with
  | .at f _ _ => .next (s.setFlask f { s.flask f with blockWait := (s.flask f).blockWait ++ s.overdue f })
  | _ => .next s

/-! ### Swaps and watchdogs (R98-R100) -/

/-- An architected wait (R98, R125, R297, R329). -/
def NodeState.waits : NodeState → Bool
  | .bar _ _ | .waitv _ _ _ | .batch _ _ | .restore _ _ _ | .room _ | .setw => true
  | _ => false

/-- Whether every live fragment of every resident group of a launch is in an architected wait. -/
def State.allWait (s : State) (li : Nat) : Bool :=
  let gs := s.cores.flatMap fun e => (e.2.groups.filter fun x => x.2.launch == li && !x.2.remnant).map (·.2)
  !gs.isEmpty && gs.all fun g => (g.nodes ++ g.stack).all fun n => !n.isLeaf || n.st.waits

/-- Whether a launch has a block not placed (R99, R100). -/
def Launch.missing (l : Launch) : Bool := decide (l.nextBlock < l.rec_.blockCount) || l.blocks.any fun e => e.2.place == .saved

/-- Whether free resources admit a missing block of a launch in some flask: the next one, or a saved one that may return (R99). -/
def State.admits (s : State) (li : Nat) (l : Launch) : Bool :=
  (List.range 8).any fun f => s.mayPlace l f &&
    ((decide (l.nextBlock < l.rec_.blockCount) && !(s.placesIn l.rec_ li l.nextBlock f (s.unitsIn l l.nextBlock f) none).isEmpty) ||
      (s.returning l li).any fun b => ((tfind l.blocks b).map fun blk => !(s.resumePlaces l li b f blk).isEmpty).getD false)

/-- Whether a launch's waiting blocks are to be swapped out (R99). -/
def State.swapDue (s : State) (li : Nat) : Bool :=
  match s.launch? li with
  | none => false
  | some l =>
    l.missing && s.ctxRun l.ctx && s.allWait li && !(s.saving.any fun q => q.launch == li) && !s.admits li l

/-- The cores that hold something of a launch that a save writes: a group that is no remnant, or windows kept without a group. -/
def State.coresWith (s : State) (li : Nat) : List Nat :=
  (s.cores.filter fun e => !(s.partsOn e.1 li).isEmpty || !(s.padsOn e.1 li none).isEmpty).map (·.1)

/-- Pre-empt one block at once: its part on every core that carries it is to be saved. -/
def State.preemptBlock (s : State) (li b : Nat) : State :=
  let on (c : Nat) : Bool := !(s.partsOn c li (some b)).isEmpty || !(s.padsOn c li (some b)).isEmpty
  let want := (s.cores.map (·.1)).filter fun c => on c && !(s.saving.any fun q => q.core == c && q.launch == li && q.takes b)
  { s with saving := s.saving ++ want.map fun c => { core := c, launch := li, swap := false, only := some b } }

/-- R99: BLOCK_SWAP of a launch: its waiting blocks are saved as if pre-empted. -/
def execBlockSwap (s : State) : Out :=
  match s.cur.arg with
  | .at li _ _ =>
    if s.swapDue li then
      .next { s with saving := s.saving ++ (s.coresWith li).map fun c => { core := c, launch := li, swap := true } }
    else .next s
  | _ => .next s

/-- Every live leaf of a group owes the WATCHDOG trap; its wait is abandoned (R100). -/
def Group.owe (g : Group) : Group :=
  let f (n : Node) : Node := match n.st with
    | .join => n
    | .parked _ | .trapping _ _ => { n with owes := true }
    | _ => { n with owes := true, st := .ready }
  { g with nodes := g.nodes.map f, stack := g.stack.map f }

/-- R100: WATCHDOG_EXPIRY of a launch. The traps are taken at the fragments' next boundaries. Of the waits that are abandoned, the
arrivals at barriers stay, and those at setw are dropped (log 78). -/
def execWatchdogExpiry (s : State) : Out :=
  match s.cur.arg with
  | .at li _ _ => match s.launch? li with
    | none => .next s
    | some l =>
      if decide (2 ^ 34 ≤ l.watchdog) && l.missing && s.ctxRun l.ctx then
        let s := s.setLaunch li { l with
          watchdog := 0, blocks := l.blocks.map fun (e : Nat × Block) => (e.1, { e.2 with setwArrived := [], setwReq := 0 }) }
        -- waits for claims are abandoned too, with what they were granted
        let mine (c : Nat) (q : ClaimReq) : Bool := (s.group? (q.forCore.getD c) q.slot).any fun g => g.launch == li
        let asked := s.cores.flatMap fun e => (e.2.claims.filter (mine e.1)).map fun q => (e.1, q)
        let s := asked.foldl (fun s (c, q) => s.undoClaim c q.slot q.node q.forCore) s
        .next { s with cores := s.cores.map fun (e : Nat × Core) => (e.1, { e.2 with
          groups := e.2.groups.map fun (x : Nat × Group) => (x.1, if x.2.launch == li && !x.2.remnant then x.2.owe else x.2) }) }
      else .next s
  | _ => .next s

/-- R398: LAUNCH_END. -/
def execLaunchEnd (s : State) : Out :=
  match s.cur.arg with
  | .at li _ _ => .next (if s.launchOver li then s.endLaunch li else s)
  | _ => .next s

/-! ### The ends of sleeps and waits (R137, R206) -/

/-- R137: SLEEP_EXPIRY. -/
def execSleepExpiry (s : State) : Out :=
  match s.cur.arg with
  | .at c slot id => match s.group? c slot with
    | none => .next s
    | some g => match g.anyNode? id with
      | none => .next s
      | some nd => match nd.st with
        | .asleep t => .next (if t ≤ s.tick.toNat then s.setGroup c slot (g.setNode { nd with st := .ready, pc := nd.pc + 16 }) else s)
        | _ => .next s
  | _ => .next s

/-- R206: WAITV_REREAD of a waiting fragment. -/
def execWaitvReread (s : State) : Out :=
  match s.cur.arg with
  | .at c slot id => match s.group? c slot with
    | none => .next s
    | some g => match g.anyNode? id, s.launch? g.launch with
      | some nd, some l => match nd.st with
        | .waitv word pending vals => match decodeCast word with
          | some (.waitv m w) =>
            .next (({ s := s, c := c, slot := slot, g := g, nd := nd, l := l } : View).waitStep w m word (g.lanes pending) vals)
          | _ => .next s
        | _ => .next s
      | _, _ => .next s
  | _ => .next s

end Sys2Proof.Machine
end

