-- ==== Sys2Proof/Machine/Hearth.lean ====
section
/-! DEFINITION. The Hearth's own events: misses, walks and the fault buffer (R342-R348), the L1's timed write-backs
(R182), reds in the network (R349, R350), locks, free frames and gated ways (R334, R352-R356), and errors (R357-R359). -/

namespace Sys2Proof.Machine

/-! ### Misses and walks (R344, R345) -/

/-- A walker that is free takes the oldest entry that waits for one. -/
def Flask.nextWalk (k : Flask) : Flask :=
  if k.walking < 32 then
    match minBy (fun (e : Nat × MergeEntry) => e.2.order) (k.merge.filter fun e => e.2.phase == .queued) with
    | some (i, e) => { k with merge := tput k.merge i { e with phase := .walking } }
    | none => k
  else k

/-- R344: MISS_ADMISSION of a flask: the oldest waiting request joins an entry or takes a free one. -/
def execMissAdmission (s : State) : Out :=
  match s.cur.arg with
  | .at f _ _ =>
    let k := s.flask f
    match k.admission with
    | [] => .next s
    | q :: rest =>
      if (tfree k.merge 4096).isSome || k.merge.any fun e => e.2.ctx == q.ctx && e.2.page == q.page then
        .next (s.setFlask f ({ k with admission := rest }.request q true))
      else .next s
  | _ => .next s

/-- A leaf fills the flask's TLB and the micro-TLBs of the cores that wait for it (R342, R345). -/
def State.fillTlbs (s : State) (f : Nat) (e : TlbEntry) (reqs : List Requester) : State :=
  let s := s.setFlask f { s.flask f with tlb := tlbAdd (s.flask f).tlb 8192 e }
  reqs.foldl (fun s r => match r with
    | .frag c _ _ => s.setCore c { s.core c with utlb := tlbAdd (s.core c).utlb 256 e }
    | _ => s) s

/-- Wake every requester of an entry, which is gone or pending by now. -/
def State.wakeAll (s : State) (e : MergeEntry) (fatal : Bool) : State := e.reqs.foldl (fun s r => s.wake e.page fatal r) s

/-- The entry that a walk's end writes to the device fault buffer (R345, R346). -/
def mergeFault (f i : Nat) (e : MergeEntry) (fatal : Bool) : FbEntry :=
  { va := BitVec.ofNat 64 e.page, ctx := e.ctx, kind := if fatal then e.kind ||| 0x80 else e.kind, source := e.source, unit_ := f,
    merges := e.merges, tick := e.tick, tag := BitVec.ofNat 32 (f * 65536 + i) }

def State.postFault (s : State) (e : FbEntry) : State := { s with hearth := { s.hearth with fbQ := s.hearth.fbQ ++ [e] } }

/-- R345: WALK_COMPLETE of an entry of a flask. -/
def execWalkComplete (s : State) : Out :=
  match s.cur.arg with
  | .at f i _ => match tfind (s.flask f).merge i with
    | none => .next s
    | some e =>
      if e.phase != .walking then .next s
      else
        let (s, r) := s.flaskWalk f e.ctx e.page
        let free (s : State) : State := s.setFlask f ({ s.flask f with merge := tdel (s.flask f).merge i }.nextWalk)
        match r with
        | .leaf t => .next (((free s).fillTlbs f t e.reqs).wakeAll e false)
        | .malformed => .next (((free s).postFault (mergeFault f i e true)).wakeAll e true)
        | .invalid =>
          .next ((s.setFlask f ({ s.flask f with merge := tput (s.flask f).merge i { e with phase := .pending } }.nextWalk)).postFault (mergeFault f i e false))
  | _ => .next s

/-- Log bytes written at the device point under a new release epoch, so that every later acquire lets go of old copies (R183). -/
def State.logWrite (s : State) (pa n : Nat) : State :=
  let e := s.hearth.nextEpoch
  let h := s.hearth.logSig ((sectorsOf pa n).foldl (fun g sec => g ||| sigBits (32 * sec)) 0)
  { s with hearth := { h with sectorEpoch := (sectorsOf pa n).foldl (fun t sec => tset 0 t sec e) h.sectorEpoch } }

/-- A write of the Stoker, the host or another unit at the device point (R181); `none` when the home slice rejects it. -/
def State.deviceWrite (s : State) (pa n v : Nat) (k : WKind) : Option State := (s.homeWrite pa n v k).map fun s => s.logWrite pa n

/-- A write of a unit with a release. -/
def State.unitWrite (s : State) (pa n v : Nat) : State := (s.deviceWrite pa n v { rel := true }).getD s

/-- The 32 bytes of a fault-buffer entry; KIND and MERGES are those of the merge entry when it is written, where that entry is
still pending (R346). -/
def State.fbValue (s : State) (x : FbEntry) : Nat :=
  let f := x.tag.toNat / 65536
  let live := if x.source < 3 then (tfind (s.flask f).merge (x.tag.toNat % 65536)).filter fun e =>
      !x.kind.getLsbD 7 && e.ctx == x.ctx && e.page == x.va.toNat && e.phase == .pending && e.tick == x.tick
    else none
  let kind := (live.map fun e => e.kind).getD x.kind
  let merges := min 65535 ((live.map fun e => e.merges).getD x.merges)
  x.va.toNat + x.ctx * 2 ^ 64 + kind.toNat * 2 ^ 80 + x.source * 2 ^ 88 + x.unit_ * 2 ^ 96 + merges * 2 ^ 112 + x.tick.toNat * 2 ^ 128 +
  x.tag.toNat * 2 ^ 192

/-- R346, R390: FAULT_BUFFER_WRITE: the oldest waiting entry, once the ring has space; its vector is raised (log 80). -/
def execFaultBufferWrite (s : State) : Out :=
  match s.hearth.fbQ with
  | [] => .next s
  | x :: rest =>
    if s.sup.fbput - s.sup.fbget = 16384 then .next s
    else
      let pa := s.sup.fbbase.toNat + 32 * (s.sup.fbput.toNat % 16384)
      let s := { s with hearth := { s.hearth with fbQ := rest } }.unitWrite pa 32 (s.fbValue x)
      .next ({ s with sup := { s.sup with fbput := s.sup.fbput + 1 } }.raise 0 (Config.faultVector % 536))

/-- The pending entry that a TAG names. -/
def State.pendingOf (s : State) (tag : Nat) : Option MergeEntry :=
  if 8 ≤ tag / 65536 then none else (tfind (s.flask (tag / 65536)).merge (tag % 65536)).filter fun e => e.phase == .pending

/-- R347: FBRESOLVE with FATAL 0. -/
def execFbresolveRetry (s : State) : Out :=
  match s.cur.arg with
  | .at tag _ _ => match s.pendingOf tag with
    | none => .next s
    | some e =>
      let f := tag / 65536
      let k := s.flask f
      .next (s.setFlask f ({ k with merge := tput k.merge (tag % 65536) { e with phase := .queued } }.nextWalk))
  | _ => .next s

/-- R347: FBRESOLVE with FATAL 1. -/
def execFbresolveFatal (s : State) : Out :=
  match s.cur.arg with
  | .at tag _ _ => match s.pendingOf tag with
    | none => .next s
    | some e =>
      let f := tag / 65536
      .next ((s.setFlask f { s.flask f with merge := tdel (s.flask f).merge (tag % 65536) }).wakeAll e true)
  | _ => .next s

/-- Remove the translations of a context that meet a range of addresses, from every structure of R342. -/
def State.invalidate (s : State) (ctx va len : Nat) : State :=
  let hit (e : TlbEntry) : Bool := e.ctx == ctx && decide (e.va < va + len) && decide (va < e.va + e.size)
  let keep (es : List TlbEntry) : List TlbEntry := es.filter fun e => !hit e
  { s with
    cores := s.cores.map fun (e : Nat × Core) => (e.1, { e.2 with utlb := keep e.2.utlb })
    flasks := s.flasks.map fun (e : Nat × Flask) => (e.1, { e.2 with
      tlb := keep e.2.tlb
      walkCache := e.2.walkCache.filter fun w => !(w.ctx == ctx && decide (w.va * 0x200000 < va + len) && decide (va < (w.va + 1) * 0x200000)) })
    flue := { s.flue with
      tlb := keep s.flue.tlb
      lines := s.flue.lines.map fun (e : Nat × LineCore) => (e.1, { e.2 with utlb := keep e.2.utlb }) } }

/-! ### The L1's timed events (R182) -/

/-- R182: L1_WRITEBACK, on account of a sector: every dirty sector of the core goes, so that its writes reach home in their
order (R174, R177; log 133). -/
def execL1Writeback (s : State) : Out :=
  match s.cur.arg with
  | .at c _ _ => .next (s.l1WriteBackAll c)
  | _ => .next s

/-- R182: L1_LINE_EXPIRE: the clean bytes of a sector go. -/
def execL1LineExpire (s : State) : Out :=
  match s.cur.arg with
  | .at c sec _ => .next (s.l1Clean c sec)
  | _ => .next s

/-! ### Reds in the network (R181, R190, R349, R350) -/

/-- Whether two reds may be merged (R349). -/
def RedReq.like (x y : RedReq) : Bool := x.ctx == y.ctx && x.pa == y.pa && x.op == y.op && x.ty == y.ty && x.n == y.n

/-- The request that stands for two; each red remains its own event, with its own source (R190, R349). -/
def RedReq.merge (x y : RedReq) : RedReq := { x with srcs := x.srcs ++ y.srcs, since := min x.since y.since, evict := max x.evict y.evict, val := BitVec.ofNat 64 (atomVal (redAtom x.op) x.ty (8 * x.n) x.val.toNat y.val.toNat) }

/-- The first request of a list that may be merged with `x`: of the same router, like it, and with none before it that shares a
source and the address (R349). -/
def mateOf (rest : List RedReq) (x : RedReq) : Option Nat :=
  (List.range rest.length).find? fun j => match rest[j]? with
    | some y => x.like y && x.router == y.router && !(rest.take j).any (y.meets ·)
    | none => false

/-- R349: ROUTER_COMBINE_FLUSH: request `i` leaves its buffer, merged with the next like one, if any, by a free choice. -/
def execRouterCombineFlush (s : State) : Out :=
  match s.cur.arg with
  | .at i _ _ => match s.hearth.routers[i]? with
    | none => .next s
    | some x =>
      let rest := s.hearth.routers.eraseIdx i
      -- a router never reorders two requests from one source to one address
      if (s.hearth.routers.take i).any (x.meets ·) then .next s
      else
        let mate := if Config.happensNow s.free then mateOf rest x else none
        let (x, rest) := match mate with
          | some j => match rest[j]? with
            | some y => (x.merge y, rest.eraseIdx j)
            | none => (x, rest)
          | none => (x, rest)
        .next { s.fresh with hearth := { s.hearth with routers := rest, requests := s.hearth.requests ++ [{ x with since := s.tick.toNat }] } }
  | _ => .next s

/-- R350: P3_PROMOTION: a P3 request that has waited 16,384 ticks is served as P2. -/
def execP3Promotion (s : State) : Out :=
  match s.cur.arg with
  | .at i _ _ => match s.hearth.requests[i]? with
    | none => .next s
    | some x =>
      if x.since + 16384 ≤ s.tick.toNat then
        .next { s with hearth := { s.hearth with requests := s.hearth.requests.set i { x with prio := min x.prio 2 } } }
      else .next s
  | _ => .next s

/-- R181, R350: MEMORY_REQUEST_PERFORM: a request performs once no request of a better class, and no older one of its
class, waits at its slice's port. -/
def execMemoryRequestPerform (s : State) : Out :=
  match s.cur.arg with
  | .at i _ _ => match s.hearth.requests[i]? with
    | none => .next s
    | some x =>
      if (s.hearth.requests.any fun y => y.port == x.port && decide (y.prio < x.prio)) ||
          (s.hearth.requests.take i).any fun y => y.port == x.port && y.prio == x.prio then .next s
      else .next ({ s with hearth := { s.hearth with requests := s.hearth.requests.eraseIdx i } }.performRed x)
  | _ => .next s

/-- R351: RESERVATION_WINDOW_ADVANCE. -/
def execReservationWindowAdvance (s : State) : Out :=
  .next { s with hearth := { s.hearth with resvWindow := (s.hearth.resvWindow + 1) % 64 } }

/-! ### Locks (R334) -/

/-- A write to a lock entry: zero fields are discarded; a BASE at or above graphics memory's end discards the write. -/
def State.writeLock (s : State) (i : Nat) (v : DWord) : State :=
  let base := bits v.toNat 21 31
  if 0x6000000000 ≤ base * 2 ^ 21 then s
  else
    let old := tget 0#64 s.sup.l2lock i
    let new : DWord := BitVec.ofNat 64 (base * 2 ^ 21 + bits v.toNat 0 1)
    let s := { s with sup := { s.sup with l2lock := tset 0#64 s.sup.l2lock i new } }
    if old.getLsbD 0 then
      let off (x : CacheLine) : Bool := decide (128 * x.line / 2 ^ 21 = bits old.toNat 21 31) && !s.inLock (128 * x.line)
      { s with hearth := { s.hearth with l2 := s.hearth.l2.map fun x => if off x then { x with locked := false } else x } }
    else s

/-- R334: L2_LOCK_WRITE. -/
def execL2LockWrite (s : State) : Out :=
  match s.cur.arg with
  | .value i _ v => .next (s.writeLock i (v.setWidth 64))
  | _ => .next s

/-! ### Refresh (R352) -/

/-- The sensor of a graphics-memory device (R481; log 19). -/
def gmemSensor (d : Nat) : Nat := 48 + d

/-- The refresh factor of a temperature in 1/16 degree C (R352). -/
def heatFactor (t : Nat) : Nat := if t ≤ 85 * 16 then 1 else if t ≤ 95 * 16 then 2 else 4

/-- R352: REFRESH_ADJUST of a controller: the factor of each of its two devices, from its temperature. -/
def execRefreshAdjust (s : State) : Out :=
  match s.cur.arg with
  | .at c _ _ =>
    let factor (d : Nat) : Nat := heatFactor (tget 0#16 s.box.therm (gmemSensor (2 * c + d))).toNat
    .next { s with hearth := { s.hearth with refresh := tput (tput s.hearth.refresh (2 * c) (factor 0)) (2 * c + 1) (factor 1) } }
  | _ => .next s

/-- The factor in force for a bank of a device: doubled where the firmware's retention map marks the bank weak, and where a
lasting fault of one of its rows has marked it (R352, R358). -/
def State.bankFactor (s : State) (d bank : Nat) : Nat :=
  tget 1 s.hearth.refresh d * (if Config.retentionWeak (d / 2) bank then 2 else 1) * (if s.hearth.weak.contains (d / 2, bank) then 2 else 1)

/-! ### Free frames (R353, R354) -/

/-- A write to FREECMD: it is rejected while BUSY, with a wrong OP or frame, or with a zero field set; else it starts. -/
def State.writeFree (s : State) (v : DWord) : State :=
  let x := v.toNat
  let op := bits x 56 2
  let bad := s.hearth.freeOp.isSome || bits x 58 4 != 0 || (op != 1 && op != 2) || bits x 18 38 != 0 || decide (196608 ≤ bits x 0 18)
  if bad then { s with sup := { s.sup with freecmd := s.sup.freecmd ||| (1#64 <<< 62) } }
  else { s with sup := { s.sup with freecmd := 1#64 <<< 63 }, hearth := { s.hearth with freeOp := some (op, bits x 0 18) } }

/-- Lines of a frame leave the L2 and the Hearth cache, without write-back, and every core's L1 and constant cache, whose copies
would outlive the frame's contents (R354). -/
def State.dropFrame (s : State) (f : Nat) : State :=
  let out (x : CacheLine) : Bool := decide (128 * x.line / 0x200000 ≠ f)
  let keep (sec : Nat) : Bool := decide (32 * sec / 0x200000 ≠ f)
  { s with
    hearth := { s.hearth with l2 := s.hearth.l2.filter out, hearthLines := s.hearth.hearthLines.filter out }
    cores := s.cores.map fun (e : Nat × Core) =>
      (e.1, { e.2 with l1 := e.2.l1.filter fun x => keep x.1, konst := e.2.konst.filter fun x => keep x.1 }) }

/-- The bytes of a frame read 0x00 and carry no poison. -/
def State.clearFrame (s : State) (f : Nat) : State :=
  { s with mem := { cells := s.mem.cells.filter fun c => decide (c.1 / 0x200000 ≠ f), poison := s.mem.poison.filter fun p => decide (32 * p / 0x200000 ≠ f) } }

/-- R354: FREE_DECLARE of a frame; op 3 marks a command that has performed. -/
def execFreeDeclare (s : State) : Out :=
  match s.cur.arg with
  | .at f _ _ =>
    if s.hearth.freeOp = some (1, f) then
      let s := (s.dropFrame f).clearFrame f
      .next { s with hearth := { s.hearth with freeFrames := sinsert s.hearth.freeFrames f, freeOp := some (3, f) } }
    else .next s
  | _ => .next s

/-- R354: FREE_RECLAIM of a frame. -/
def execFreeReclaim (s : State) : Out :=
  match s.cur.arg with
  | .at f _ _ =>
    if s.hearth.freeOp = some (2, f) then
      let s := (s.dropFrame f).clearFrame f
      .next { s with hearth := { s.hearth with freeFrames := s.hearth.freeFrames.filter (· ≠ f), freeOp := some (3, f) } }
    else .next s
  | _ => .next s

/-- Whether a red on its way goes to a frame (R354). -/
def State.redInFrame (s : State) (f : Nat) : Bool := (s.hearth.routers ++ s.hearth.requests).any fun r => r.pa / 0x200000 == f

/-- R354: FREECMD_COMPLETE, once every access to the frame issued before has performed. -/
def execFreecmdComplete (s : State) : Out :=
  match s.hearth.freeOp with
  | some (3, f) => if s.redInFrame f then .next s else .next { s with hearth := { s.hearth with freeOp := none }, sup := { s.sup with freecmd := s.sup.freecmd &&& ~~~(1#64 <<< 63) } }
  | _ => .next s

/-! ### Gated ways (R355, R356) -/

/-- A bit of a register set or cleared. -/
def setBit64 (x : DWord) (i : Nat) (b : Bool) : DWord := if b then x ||| (1#64 <<< i) else x &&& ~~~(1#64 <<< i)

def State.waygate (s : State) (sl : Nat) : DWord := tget 0#64 s.sup.waygate sl
def State.setWaygate (s : State) (sl : Nat) (x : DWord) : State := { s with sup := { s.sup with waygate := tset 0#64 s.sup.waygate sl x } }

/-- The lines of a way of a slice. -/
def CacheLine.inWay (x : CacheLine) (sl way : Nat) : Bool := x.slice == sl && x.way == way

/-- A way of a slice is emptied: the dirty sectors of its lines are written back, into the Hearth cache (R335, R356). -/
def State.dropWay (s : State) (sl way : Nat) : State :=
  let h := (s.hearth.l2.filter fun x => x.inWay sl way && x.dirty != 0).foldl (fun h x =>
    h.hearthTouch s.sup.hgate { x with valid := x.dirty, evict := 0, used := h.touches }) s.hearth
  { s with hearth := { h with l2 := h.l2.filter fun x => !x.inWay sl way } }

/-- R356: L2_WAY_GATE: a way with a locked line is refused. -/
def execL2WayGate (s : State) : Out :=
  match s.cur.arg with
  | .at sl way _ =>
    let g := s.waygate sl
    if g.getLsbD way && s.hearth.l2.any (fun x => x.inWay sl way && x.locked) then .next (s.setWaygate sl (setBit64 g (32 + way) true)) else .next s
  | _ => .next s

/-- R356: L2_WAY_UNGATE: the way is empty, and its SKIP and DONE bits clear. -/
def execL2WayUngate (s : State) : Out :=
  match s.cur.arg with
  | .at sl way _ =>
    let g := s.waygate sl
    if g.getLsbD way then .next s
    else
      .next ((s.setWaygate sl (setBit64 (setBit64 g (16 + way) false) (32 + way) false)).dropWay sl way)
  | _ => .next s

/-- R356: HEARTH_WAY_GATE: the Mantel ways are refused (R355). -/
def execHearthWayGate (s : State) : Out :=
  match s.cur.arg with
  | .at way _ _ =>
    if s.sup.hgate.getLsbD way && decide (way < s.hearth.mantelWays) then .next { s with sup := { s.sup with hgskip := setBit64 s.sup.hgskip way true } }
    else .next s
  | _ => .next s

/-- R356: HEARTH_WAY_UNGATE. -/
def execHearthWayUngate (s : State) : Out :=
  match s.cur.arg with
  | .at way _ _ =>
    if s.sup.hgate.getLsbD way then .next s
    else .next { s with
      sup := { s.sup with hgate := setBit64 s.sup.hgate (24 + way) false, hgskip := setBit64 s.sup.hgskip way false }
      hearth := { s.hearth with hearthLines := s.hearth.hearthLines.filter fun x => decide (x.way ≠ way) } }
  | _ => .next s

/-- R356: WAY_GATE_DONE: every line of the way has been written back or invalidated. Slice 64 is the Hearth cache. -/
def execWayGateDone (s : State) : Out :=
  match s.cur.arg with
  | .at sl way _ =>
    if sl < 64 then
      let g := s.waygate sl
      if g.getLsbD way && !g.getLsbD (32 + way) then
        .next ((s.setWaygate sl (setBit64 g (16 + way) true)).dropWay sl way)
      else .next s
    else if s.sup.hgate.getLsbD way && !s.sup.hgskip.getLsbD way then
      .next { s with
        sup := { s.sup with hgate := setBit64 s.sup.hgate (24 + way) true }
        hearth := { s.hearth with hearthLines := s.hearth.hearthLines.filter fun x => decide (x.way ≠ way) } }
    else .next s
  | _ => .next s

/-- The events that a change of REQ bits brings about: each bit that rose, then each that fell. -/
def gateEvents (old new n : Nat) (up down : Nat → Turn) : List Turn :=
  ((List.range n).filter fun i => new.testBit i && !old.testBit i).map up ++ ((List.range n).filter fun i => old.testBit i && !new.testBit i).map down

/-- Put turns at the front of the agenda. -/
def State.soon (s : State) (ts : List Turn) : State := { s with agenda := ts ++ s.agenda }

/-- A write to WAYGATE; one that would request every way is discarded. -/
def State.writeWaygate (s : State) (sl : Nat) (v : DWord) : State :=
  let g := s.waygate sl
  let req := bits v.toNat 0 16
  if req = 0xFFFF then s
  else (s.setWaygate sl (BitVec.ofNat 64 (g.toNat / 65536 * 65536 + req))).soon
    (gateEvents (bits g.toNat 0 16) req 16 (fun w => .event .l2WayGate (.at sl w 0)) (fun w => .event .l2WayUngate (.at sl w 0)))

/-- A write to HGATE. -/
def State.writeHgate (s : State) (v : DWord) : State :=
  let g := s.sup.hgate
  let req := bits v.toNat 0 24
  if req = 0xFFFFFF then s
  else { s with sup := { s.sup with hgate := BitVec.ofNat 64 (g.toNat / 2 ^ 24 * 2 ^ 24 + req) } }.soon
    (gateEvents (bits g.toNat 0 24) req 24 (fun w => .event .hearthWayGate (.at w 0 0)) (fun w => .event .hearthWayUngate (.at w 0 0)))

/-! ### Errors (R357-R359) -/

/-- An entry of the error ring, whose vector is raised; a full ring drops it and counts it (R359, R390; log 80). -/
def State.errorEntry (s : State) (loc unit_ ev count : Nat) : State :=
  if s.sup.errput - s.sup.errget = 1024 then { s with sup := { s.sup with errdrop := s.sup.errdrop + 1 } }
  else
    let pa := s.sup.errbase.toNat + 32 * (s.sup.errput.toNat % 1024)
    let s := s.unitWrite pa 32 (loc % 2 ^ 64 + unit_ * 2 ^ 64 + ev * 2 ^ 72 + count * 2 ^ 80 + s.tick.toNat * 2 ^ 128)
    { s with sup := { s.sup with errput := s.sup.errput + 1 } }.raise 0 (Config.errorVector % 536)

/-- The row of R358 that a unit stands in. -/
def unitRow : ErrUnit → Nat
  | .quad _ _ => 0 | .sramRow _ _ => 1 | .accRow _ _ => 2 | .l2Row _ _ => 3 | .hearthRow _ _ => 4 | .gmemRow _ _ => 5 | .linebufRow _ _ => 6

/-- The die that tracks a unit (R11, R358); the stacks count as one more. -/
def unitDie : ErrUnit → Nat
  | .quad c _ => c / 96 | .sramRow c _ => c / 96 | .accRow c _ => c / 96 | .l2Row s _ => s / 16 | .hearthRow _ _ => 5 | .gmemRow c _ => c / 6
  | .linebufRow _ _ => 4

/-- LOC of an entry for a unit (R359). No rule gives the physical address of a memory row: a free value. -/
def State.unitLoc (s : State) (u : ErrUnit) : Nat :=
  match u with
  | .quad c q => c + q * 65536
  | .sramRow c r => c + r % 65536 * 65536
  | .accRow c r => c + r % 65536 * 65536
  | .linebufRow n r => n + r % 65536 * 65536
  | _ => (Config.freeWord s.free).toNat

/-- Spares used so far of an L2 slice, of a stack (from 64) or of a Flue line buffer (from 128). -/
def State.spareOf (s : State) (key : Nat) : Nat := tget 0 s.hearth.rowSpares key
def State.useSpare (s : State) (key : Nat) : State := { s with hearth := { s.hearth with rowSpares := tput s.hearth.rowSpares key (s.spareOf key + 1) } }

/-- A way gated for a worn row, SKIP notwithstanding; which way the row lies in is not given (log 20). -/
def State.wornWay (s : State) (sl : Nat) : State :=
  let way := (Config.freeWord (s.free + 1)).toNat % 16
  (s.setWaygate sl (setBit64 (setBit64 (s.waygate sl) way true) (16 + way) true)).dropWay sl way

/-- A quad of a core is retired (R83). The groups already there keep their grants, their threads on the retired quad in spare
lanes; on a core without lanes to spare, each block with a group wider than Gmax now allows is pre-empted at once (log 79). -/
def State.retireQuad (s : State) (c : Nat) : State :=
  let k := { s.core c with quads := (s.core c).quads - 1 }
  let s := s.setCore c k
  if 32 * (4 - k.quads) ≤ Config.spareLanes c % 129 then s
  else
    let wide := (k.groups.filter fun e => !e.2.remnant && decide (gmax k.quads < e.2.grant)).map fun e => (e.2.launch, e.2.block)
    wide.eraseDups.foldl (fun s p => s.preemptBlock p.1 p.2) s

/-- The action of a fault classed as lasting, and the EVENT of its entry (R358, R359). -/
def State.lasting (s : State) (u : ErrUnit) : State × Nat :=
  match u with
  | .quad c _ => (s.retireQuad c, 3)
  | .sramRow c _ =>
    let k := s.core c
    if k.sramSpares = 0 then (s.setCore c { k with barred := true }, 4) else (s.setCore c { k with sramSpares := k.sramSpares - 1 }, 2)
  | .accRow c _ =>
    let k := s.core c
    if k.accSpares = 0 then (s.setCore c { k with barred := true }, 4) else (s.setCore c { k with accSpares := k.accSpares - 1 }, 2)
  | .l2Row sl _ => if s.spareOf sl < 64 then (s.useSpare sl, 2) else (s.wornWay sl, 4)
  | .hearthRow st _ =>
    if s.spareOf (64 + st) < 4096 then (s.useSpare (64 + st), 2)
    else
      let way := (Config.freeWord (s.free + 1)).toNat % 24
      if way < s.hearth.mantelWays then (s, 5)
      else ({ s with
        sup := { s.sup with hgate := setBit64 (setBit64 s.sup.hgate way true) (24 + way) true }
        hearth := { s.hearth with hearthLines := s.hearth.hearthLines.filter fun x => decide (x.way ≠ way) } }, 4)
  | .gmemRow c r =>
    let b := Config.bankOf r
    ({ s with hearth := { s.hearth with weak := if s.hearth.weak.contains (c, b) then s.hearth.weak else s.hearth.weak ++ [(c, b)] } }, 5)
  | .linebufRow n r =>
    -- how many spare rows a line buffer has is not given (log 154)
    if s.spareOf (128 + n) < Config.lineSpares n then
      let s := s.useSpare (128 + n)
      ({ s with hearth := { s.hearth with lineSpare := if s.hearth.lineSpare.contains (n, r) then s.hearth.lineSpare else s.hearth.lineSpare ++ [(n, r)] } }, 2)
    else (s, 5)

/-- R357, R358: CORRECTED_ERROR of a unit. -/
def execCorrectedError (s : State) : Out :=
  match s.cur.arg with
  | .err u =>
    let es := s.hearth.errUnits
    let known := (es.find? fun e => e.1 == u).map (·.2)
    let ticks := ((known.getD []) ++ [s.tick])
    let ticks := ticks.drop (ticks.length - 9)
    let others := es.filter fun e => e.1 != u
    -- each die tracks 256 units, listed by their latest error: the one whose latest error is oldest gives way
    let mine := others.filter fun e => unitDie e.1 == unitDie u
    let others := if known.isNone ∧ 256 ≤ mine.length then
        match mine.head? with
        | some v => others.filter fun e => e.1 != v.1
        | none => others
      else others
    let set (s : State) (ts : List DWord) : State := { s with hearth := { s.hearth with errUnits := others ++ [(u, ts)] } }
    if ticks.length = 9 ∧ s.tick.toNat - (ticks.headD 0).toNat < 2 ^ 33 then
      let loc := s.unitLoc u
      let (s, ev) := (set s []).lasting u
      .next ({ s with free := s.free + 2 }.errorEntry loc (unitRow u) ev 9)
    else .next (set s ticks)
  | _ => .next s

/-- Poisoned bytes of memory, reported (R359, R424); the level that found them is not given (log 20). -/
def State.memError (s : State) (pa : Nat) : State := s.fresh.errorEntry pa (3 + (Config.freeWord s.free).toNat % 3) 1 0

/-- An uncorrectable error in the store of a line core, reported (R359, R424); its row is not given (log 20). -/
def State.lineError (s : State) (n : Nat) : State := s.fresh.errorEntry (n + (Config.freeWord s.free).toNat % 65536 * 65536) 6 1 0

/-- R357: UNCORRECTABLE_ERROR. A sector keeps its marker wherever it lies; a sector of an L1, a register cell, a tile and a
word of a line core are marked in their own arrays. -/
def execUncorrectableError (s : State) : Out :=
  match s.cur.arg with
  | .bad site =>
    let x := (Config.freeWord s.free).toNat
    let s := s.fresh
    match site with
    | .sector pa => .next ((s.mark (pa / 32)).memError pa)
    | .l1 c pa =>
      .next ((s.setCore c { s.core c with l1 := tmod (s.core c).l1 (pa / 32) fun x => { x with bad := true } }).errorEntry (c + x % 65536 * 65536) 1 1 0)
    | .scratch c li b off =>
      .next ((s.mapWindow c li b fun w => { w with poison := sinsert w.poison (off / 32) }).errorEntry (c + x % 65536 * 65536) 1 1 0)
    | .cell c sl lane i => match s.group? c sl with
      | none => .next s
      | some g =>
        .next ((s.setGroup c sl (g.mapThreads [lane] fun t => { t with badCells := sinsert t.badCells i })).errorEntry (c + x % 4 * 65536) 0 1 0)
    | .tile c t => .next ((s.setCore c { s.core c with badTiles := sinsert (s.core c).badTiles t }).errorEntry (c + x % 65536 * 65536) 2 1 0)
    | .lineWord n a =>
      let k := tget LineCore.reset s.flue.lines n
      .next ({ s with flue := { s.flue with lines := tput s.flue.lines n { k with badWords := sinsert k.badWords a } } }.lineError n)
    | .freg n i =>
      let k := tget LineCore.reset s.flue.lines n
      .next ({ s with flue := { s.flue with lines := tput s.flue.lines n { k with badF := sinsert k.badF i } } }.lineError n)
    | .sreg n i =>
      let k := tget LineCore.reset s.flue.lines n
      .next ({ s with flue := { s.flue with lines := tput s.flue.lines n { k with badS := sinsert k.badS i } } }.lineError n)
  | _ => .next s

/-- R359: ERRDROP_READ. -/
def execErrdropRead (s : State) : Out := .next { s with lastRead := s.sup.errdrop.setWidth 64, sup := { s.sup with errdrop := 0 } }

/-! ### Time-slot entries (R280) -/

/-- A write to a time-slot entry; a malformed one is discarded. -/
def State.writeTimeslot (s : State) (c i : Nat) (v : Word) : State :=
  let x := v.toNat
  if bits x 24 8 ≠ 0 ∨ bits x 6 1 ≠ 0 ∨ (bits x 8 16 = 0 ∧ v.getLsbD 7 = true) then s
  else { s with sup := { s.sup with timeslot := tset 0#32 s.sup.timeslot (16 * c + i) v } }

/-- R280: TIMESLOT_WRITE. -/
def execTimeslotWrite (s : State) : Out :=
  match s.cur.arg with
  | .value c i v => .next (s.writeTimeslot c i (v.setWidth 32))
  | _ => .next s

end Sys2Proof.Machine
end

