-- ==== Sys2Proof/Machine/Stoker.lean ====
section
/-! DEFINITION. The Stoker (R360-R399): lanes and their command words, queues and STATEW, semaphores, the supervisor's
registers and words, and the events of its step. -/

namespace Sys2Proof.Machine

/-! ### Lanes -/

/-- Lane `l`. -/
def State.lane (s : State) (l : Nat) : Lane := tget (Lane.reset l) s.stoker.lanes l
def State.setLane (s : State) (l : Nat) (k : Lane) : State := { s with stoker := { s.stoker with lanes := tput s.stoker.lanes l k } }
/-- Lanes 30 and 31 run firmware (R360). -/
def firmware (l : Nat) : Bool := decide (30 ≤ l)
/-- x register `i`. -/
def Lane.xr (k : Lane) (i : BitVec 4) : DWord := tget 0#64 k.x i.toNat
def Lane.setX (k : Lane) (i : BitVec 4) (v : DWord) : Lane := { k with x := tset 0#64 k.x i.toNat v }

/-! ### Queue descriptors (R367, R368) -/

/-- Bytes of queue `q`'s descriptor in memory. -/
def State.qAddr (s : State) (q off : Nat) : Nat := s.sup.qdbase.toNat + 256 * q + off
def State.qRead (s : State) (q off n : Nat) : Nat := s.rawRead (s.qAddr q off) n
def State.qWrite (s : State) (q off n v : Nat) : State := s.unitWrite (s.qAddr q off) n v

/-- STATEW and its fields. -/
def State.statew (s : State) (q : Nat) : Nat := s.qRead q 0 8
def swPut (w : Nat) : Nat := bits w 32 32
def swWake (w : Nat) : Bool := bits w 16 1 == 1
def swState (w : Nat) : Nat := bits w 0 4
/-- STATEW with new fields. -/
def swWith (w put fault : Nat) (wake : Bool) (st : Nat) : Nat := put % 2 ^ 32 * 2 ^ 32 + fault * 2 ^ 24 + bits w 17 7 * 2 ^ 17 + (if wake then 2 ^ 16 else 0) + bits w 4 12 * 2 ^ 4 + st
def swFault (w : Nat) : Nat := bits w 24 8

/-- The codes of STATE (R368). -/
def qDisabled : Nat := 0
def qIdle : Nat := 1
def qReady : Nat := 2
def qMapped : Nat := 3
def qWaiting : Nat := 4
def qParked : Nat := 5
def qFaulted : Nat := 6

def State.qClass (s : State) (q : Nat) : Nat := s.qRead q 0x11 1 % 4
def State.qCtx (s : State) (q : Nat) : Nat := s.qRead q 0x12 2 % 64
def State.qVector (s : State) (q : Nat) : Nat := s.qRead q 0x14 2
def State.ringBase (s : State) (q : Nat) : Nat := s.qRead q 0x08 8
def State.ringLen (s : State) (q : Nat) : Nat := 2 ^ (s.qRead q 0x10 1 % 32)

/-- The address of the word at which an unmapped queue stands (R360, R369). -/
def State.savedAt (s : State) (q : Nat) : Nat :=
  if s.qRead q 0x20 8 = 0 then s.ringBase q + 8 * (s.qRead q 0x18 4 % s.ringLen q) else s.qRead q 0x20 8

/-- The lines of a descriptor that is read (R332, R367). -/
def State.qTouch (s : State) (q : Nat) : State := s.cacheTouch (s.qAddr q 0) 256 false

/-- Remove a queue's watch entries and its timer, as when it leaves WAITING. -/
def State.unwatch (s : State) (q : Nat) : State :=
  { s with stoker := { s.stoker with watch := s.stoker.watch.filter fun w => w.queue != q, timers := s.stoker.timers.filter fun t => t.1 != q } }

/-- Give a queue a STATE: a READY one joins the tail of its class's list; any other leaves it (R373). -/
def State.setQueue (s : State) (q w : Nat) : State :=
  let s := s.qWrite q 0 8 w
  let s := if swState w = qWaiting then s else s.unwatch q
  let c := s.qClass q
  let out := s.stoker.ready.map fun xs => xs.filter fun x => x != q
  let lists := if swState w = qReady then
      if s.stoker.ready.any fun xs => xs.contains q then s.stoker.ready else out.mapIdx fun i xs => if i = c then xs ++ [q] else xs
    else out
  { s with stoker := { s.stoker with ready := lists } }

/-- The candidates of a class, in order: READY, the context VALID with RUN set (R373). -/
def State.cands (s : State) (c : Nat) : List Nat :=
  (s.stoker.ready.getD c []).filter fun q => s.ctxValid (s.qCtx q) && s.ctxRun (s.qCtx q)

/-- The class whose reserved lane this is, if it is one (R373). -/
def laneClass (l : Nat) : Option Nat := if l < 4 then some 0 else if l < 12 then some 1 else if l < 20 then some 2 else if l < 24 then some 3 else none

/-- The candidate that a lane would take (R374); in reduced service lanes 0, 4, 12 and 20 alone map queues (R470). -/
def State.takes (s : State) (l : Nat) : Option Nat :=
  if 30 ≤ l ∨ s.box.handing = true ∨ (s.box.stage ≠ 4 ∧ l ∉ [0, 4, 12, 20]) then none
  else match laneClass l with
    | some c => (s.cands c).head?
    | none => (List.range 4).findSome? fun c => (s.cands c).head?

/-! ### Faults (R394, R397, R485) -/

/-- Queue fault codes (R397). -/
def fIllcmd : Nat := 1
def fPriv : Nat := 2
def fAccess : Nat := 3
def fMisalign : Nat := 4
def fLaunch : Nat := 5
def fRing : Nat := 6
def fPoison : Nat := 7
/-- A failure of svsem, and an unassigned register, which only lane 31 meets. -/
def fSem : Nat := 8
def fReg : Nat := 9

/-- The cause of a supervisor fault (R394). It lists none for a launch whose record fails its checks, which is 5 here (log 163). -/
def supCause (code : Nat) : Nat :=
  if code = fIllcmd then 1 else if code = fMisalign then 2 else if code = fSem then 3 else if code = fReg then 4 else if code = fPoison then 6
  else if code = fRing then 7 else 5

/-- The address of a lane's current word: in a buffer or the firmware at PC, else in the ring at GET (R360, R369). -/
def State.wordAt (s : State) (l : Nat) : Nat :=
  let k := s.lane l
  match k.queue with
  | some q => if k.pc = 0 then s.ringBase q + 8 * (k.get.toNat % s.ringLen q) else k.pc.toNat
  | none => k.pc.toNat

/-- The context that a lane acts for: that of its queue; lanes 30 and 31 act for context 0. -/
def State.laneCtx (s : State) (l : Nat) : Nat := match (s.lane l).queue with | some q => s.qCtx q | none => 0

/-- WAITINFO and WAITVAL of a lane (R367). -/
def Lane.waitInfo (k : Lane) : Nat × Nat :=
  let xv (v : XVal) : DWord := match v with | .word x => x | .reg r => k.xr r
  match k.st, k.cmd with
  | .waiting, some (w, e0, e1, e2) => match decodeStoker w e0 e1 e2 with
    | some (.wait c sem v) => (sem.toNat + (match c with | .ge => 0 | .eq => 1 | .ne => 2) * 2 ^ 10, (xv v).toNat)
    | some (.waitt _ v) => (2 ^ 12, (BitVec.toNat ((k.due.getD (xv v)) : DWord)))
    | _ => (0, 0)
  | _, _ => if k.prog = 0 then (0, 0) else (2 ^ 13, k.prog)

/-- Whether a lane stands in an unsatisfied wait or waitt (R378). -/
def Lane.inWait (k : Lane) : Bool :=
  match k.st, k.cmd with
  | .waiting, some (w, e0, e1, e2) => match decodeStoker w e0 e1 e2 with
    | some (.wait _ _ _) | some (.waitt _ _) => true
    | _ => false
  | _, _ => false

/-- Step 2 of R378: a lane's registers go to the descriptor, and the lane is free. -/
def State.saveLane (s : State) (l q : Nat) : State :=
  let k := s.lane l
  let (info, val) := k.waitInfo
  let s := s.qWrite q 0x18 4 k.get.toNat
  let s := s.qWrite q 0x20 8 k.pc.toNat
  let s := s.qWrite q 0x28 16 (packLE 8 (((k.rstack ++ [0, 0]).take 2).map (fun (d : DWord) => d.toNat)))
  let s := s.qWrite q 0x38 1 k.rstack.length
  let s := s.qWrite q 0x40 128 (packLE 8 ((List.range 16).map fun i => (tget 0#64 k.x i).toNat))
  let s := s.qWrite q 0xC0 8 info
  let s := s.qWrite q 0xC8 8 val
  s.setLane l (Lane.reset l)

/-- A queue becomes FAULTED with its code, address and detail, and its vector is raised (R397).
    WAKE is cleared by an unmap or a mapping (R368) and stays as it is otherwise. -/
def State.faultQueue (s : State) (q code addr detail : Nat) (wake : Bool := false) : State :=
  let w := s.statew q
  let s := s.setQueue q (swWith w (swPut w) code wake qFaulted)
  let s := (s.qWrite q 0xD0 8 addr).qWrite q 0xD8 8 (detail % 2 ^ 64)
  if s.qVector q = 0xFFFF then s else s.raise (s.qCtx q) (s.qVector q)

/-- The words of the faulting word have no effect; the queue stops, or the firmware lane does (R394, R397, R485). -/
def State.laneFault (s : State) (l code detail : Nat) : State :=
  let a := s.wordAt l
  match (s.lane l).queue with
  | some q => (s.saveLane l q).faultQueue q code a detail
  | none =>
    let s := s.setLane l { s.lane l with st := .stopped, cmd := none }
    if l = 31 then
      { s with sup := { s.sup with supfault := BitVec.ofNat 64 (a % 2 ^ 52 + supCause code * 2 ^ 56) } }.mgmt 0
    else { s with box := { s.box with fsaddr := BitVec.ofNat 64 a } }.mgmt 1

/-! ### Completion -/

/-- Number of extra words of an instruction. -/
def extraWords (i : Instr) : Nat := match encodeStoker i with | some ws => ws.length - 1 | none => 0

/-- The lane is ready for its next word. -/
def Lane.fresh (k : Lane) : Lane := { k with st := .fetch, cmd := none, due := none, prog := 0, waitSince := none }

/-- The current word completes: GET or PC moves past it and its extra words (R369). -/
def State.laneDone (s : State) (l : Nat) (i : Instr) : State :=
  let k := s.lane l
  let n := 1 + extraWords i
  if k.queue.isSome && k.pc == 0 then s.setLane l { k.fresh with get := k.get + BitVec.ofNat 32 n }
  else s.setLane l { k.fresh with pc := k.pc + BitVec.ofNat 64 (8 * n) }

/-- Perform on the lane that the cursor names: a firmware lane, or one that holds a queue. -/
def onLane (s : State) (f : Nat → State) : Out :=
  let l := s.cur.lane
  if l < 32 ∧ (firmware l || (s.lane l).queue.isSome) = true then .next (f l) else .fault .noLane

/-- The first command word of an instruction, the detail of a RING, PRIV or ILLCMD fault. -/
def cmdWord (i : Instr) : Nat := match encodeStoker i with | some (w :: _) => w.toNat | _ => 0

/-- A supervisor word: in lanes 0-29 it is a PRIV fault (R365). -/
def onSup (s : State) (i : Instr) (f : Nat → State) : Out :=
  onLane s fun l => if firmware l then f l else s.laneFault l fPriv (cmdWord i)

/-- The value of an operand. -/
def Lane.val (k : Lane) : XVal → DWord
  | .word x => x
  | .reg r => k.xr r
def Lane.operand (k : Lane) : XOperand → DWord
  | .reg r => k.xr r
  | .imm v => v.signExtend 64

/-! ### Memory as a lane reaches it (R360, R388, R396) -/

/-- What translation gives a lane: physical parts, a page that is absent, or a failure for good. -/
inductive LaneTr | ok (ps : List (Nat × Nat)) | park (va : Nat) | bad (va : Nat) deriving DecidableEq, Repr

/-- A page of a queue lane, walked for this access. -/
def State.stokerPage (s : State) (ctx : Nat) (need : Need) (p : Nat × Nat) : LaneTr :=
  match s.walk ctx p.1 (Config.contChoice s.free) with
  | .leaf e => if e.allows need then .ok [(e.pa + (p.1 - e.va), p.2)] else .bad p.1
  | .invalid => .park p.1
  | .malformed => .bad p.1

/-- The parts of a range, the first failure winning. -/
def State.stokerPages (s : State) (ctx : Nat) (need : Need) : List (Nat × Nat) → LaneTr
  | [] => .ok []
  | p :: ps => match s.stokerPage ctx need p, State.stokerPages s ctx need ps with
    | .ok a, .ok b => .ok (a ++ b)
    | .ok _, x => x
    | x, _ => x

/-- A range of a lane: virtual for a queue, physical for lanes 30 and 31. -/
def State.laneTr (s : State) (l : Nat) (need : Need) (va n : Nat) : LaneTr :=
  if firmware l then
    match s.paRegion va, s.paRegion (va + n - 1) with
    | some a, some b => if (match a, b with | .peer p _, .peer q _ => p == q | a, b => a == b) then .ok [(va, n)] else .bad va
    | _, _ => .bad va
  else if (globLoc va n).isNone then .bad va
  else s.stokerPages (s.laneCtx l) need (pieces va n)

/-- Park a queue on an absent page: a fault entry, and the queue unmaps as PARKED (R396). -/
def State.laneParks (s : State) (l : Nat) (need : Need) (va : Nat) : State :=
  let x : FbEntry :=
    { va := BitVec.ofNat 64 (pageOf va), ctx := s.laneCtx l, kind := need.kind, source := 3, unit_ := 0, merges := 1, tick := s.tick, tag := 0xFFFFFFFF }
  let s := match (s.lane l).queue with
    | some q => { s with stoker := { s.stoker with missed := tput s.stoker.missed q va } }
    | none => s
  (s.postFault x).soon [.event .queueUnmap (.unmap l .miss)]

/-- Read the parts of a range at the device point. -/
def State.readHome (s : State) : List (Nat × Nat) → PRes
  | [] => .ok 0
  | p :: ps => joinRes p.2 (s.homeRead p.1 p.2) (State.readHome s ps)

/-- The PTEs that the walks for some pages read, up to the first that fails (R341). -/
def State.walkPages (s : State) (ctx : Nat) (need : Need) : List (Nat × Nat) → State
  | [] => s
  | p :: ps => match s.stokerPage ctx need p with
    | .ok _ => State.walkPages (s.touchWalk ctx p.1) ctx need ps
    | _ => s.touchWalk ctx p.1

/-- The lines that reads of physical parts fill or touch (R332). -/
def State.touchParts (s : State) (ps : List (Nat × Nat)) : State := ps.foldl (fun s q => s.cacheTouch q.1 q.2 false) s

/-- The walks of a range of a lane, which lanes 30 and 31 make none of. -/
def State.laneWalk (s : State) (l : Nat) (need : Need) (va n : Nat) : State :=
  if firmware l || (globLoc va n).isNone then s else s.walkPages (s.laneCtx l) need (pieces va n)

/-- The lines that a lane's read, and the walks for it, fill or touch (R332, R341). -/
def State.laneTouch (s : State) (l : Nat) (need : Need) (va n : Nat) : State :=
  match s.laneTr l need va n with
  | .ok ps => (s.laneWalk l need va n).touchParts ps
  | _ => s.laneWalk l need va n

/-- Read for a lane, and go on with the value. -/
def State.laneRead (s : State) (l va n : Nat) (k : State → Nat → State) : State :=
  let t := s.laneTouch l .r va n
  match s.laneTr l .r va n with
  | .park a => t.laneParks l .r a
  | .bad a => t.laneFault l fAccess a
  | .ok ps => match s.readHome ps with
    | .ok x => k t x
    | .poison => t.laneFault l fPoison (s.poisonAt va n ps)
    | .refused => t.laneFault l fAccess va

/-- A write to a state word is rejected, or PRESENT is: the queue's error fields, and its vector (R389). -/
def State.laneReject (s : State) (l detail : Nat) : State :=
  match (s.lane l).queue with
  | none => s
  | some q =>
    let n := s.qRead q 0x1C 4
    let s := s.qWrite q 0x1C 4 (min (2 ^ 32 - 1) (n + 1))
    let s := (s.qWrite q 0xD0 8 (s.wordAt l)).qWrite q 0xD8 8 (detail % 2 ^ 64)
    if s.qVector q = 0xFFFF then s else s.raise (s.qCtx q) (s.qVector q)

/-- The state word that the parts of a range touch. -/
def State.wordOfParts (s : State) (ps : List (Nat × Nat)) : Nat :=
  ((ps.findSome? fun p => s.stateWord p.1 p.2).map fun w => s.rawRead w 8).getD 0

/-- Write the parts of a range; answers whether every part was accepted. -/
def State.writeHome (s : State) (k : WKind) : List (Nat × Nat) → Nat → State × Bool
  | [], _ => (s, true)
  | p :: ps, x =>
    let (s, a) := match s.deviceWrite p.1 p.2 (x % 256 ^ p.2) k with | some t => (t, true) | none => (s, false)
    let (s, b) := State.writeHome s k ps (x / 256 ^ p.2)
    (s, a && b)

/-- Write for a lane; a rejected write of a state word is reported and the lane goes on (R389). -/
def State.laneWrite (s : State) (l va n x : Nat) (k : WKind) (next : State → State) : State :=
  let t := s.laneWalk l .w va n
  match s.laneTr l .w va n with
  | .park a => t.laneParks l .w a
  | .bad a => t.laneFault l fAccess a
  | .ok ps =>
    let old := s.wordOfParts ps
    let (s, good) := t.writeHome k ps x
    next (if good then s else s.laneReject l old)

/-! ### Scalar and control words (R386, R387) -/

/-- Write an x register and complete. -/
def State.laneSet (s : State) (l : Nat) (i : Instr) (xd : BitVec 4) (v : DWord) : State := (s.setLane l ((s.lane l).setX xd v)).laneDone l i

/-- A two-operand scalar word. -/
def State.scalar (s : State) (i : Instr) (xd xa : BitVec 4) (b : XOperand) (f : DWord → DWord → DWord) : Out :=
  onLane s fun l => s.laneSet l i xd (f ((s.lane l).xr xa) ((s.lane l).operand b))

/-- R386: ldi. -/
def execLdi (xd : BitVec 4) (v : LdiVal) (s : State) : Out :=
  onLane s fun l => s.laneSet l (.ldi xd v) xd (match v with | .short x => x.signExtend 64 | .long x => x)
/-- R386: add. -/
def execStokerAdd (xd xa : BitVec 4) (b : XOperand) (s : State) : Out := s.scalar (.stokerAdd xd xa b) xd xa b fun x y => x + y
/-- R386: sub. -/
def execStokerSub (xd xa : BitVec 4) (b : XOperand) (s : State) : Out := s.scalar (.stokerSub xd xa b) xd xa b fun x y => x - y
/-- R386: and. -/
def execStokerAnd (xd xa : BitVec 4) (b : XOperand) (s : State) : Out := s.scalar (.stokerAnd xd xa b) xd xa b fun x y => x &&& y
/-- R386: or. -/
def execStokerOr (xd xa : BitVec 4) (b : XOperand) (s : State) : Out := s.scalar (.stokerOr xd xa b) xd xa b fun x y => x ||| y
/-- R386: xor. -/
def execStokerXor (xd xa : BitVec 4) (b : XOperand) (s : State) : Out := s.scalar (.stokerXor xd xa b) xd xa b fun x y => x ^^^ y
/-- R386: shl, by b mod 64. -/
def execStokerShl (xd xa : BitVec 4) (b : XOperand) (s : State) : Out := s.scalar (.stokerShl xd xa b) xd xa b fun x y => x <<< (y.toNat % 64)
/-- R386: shr, by b mod 64, zeros entering. -/
def execStokerShr (xd xa : BitVec 4) (b : XOperand) (s : State) : Out := s.scalar (.stokerShr xd xa b) xd xa b fun x y => x >>> (y.toNat % 64)
/-- R364: nop. -/
def execStokerNop (s : State) : Out := onLane s fun l => s.laneDone l .stokerNop

/-- The length of what lanes 30 and 31 fetch from: the loaded image, or below STAGE 4 the ROM (R360, R470). -/
def State.codeLen (s : State) : Nat := if s.box.stage = 4 then s.box.imageLen else 0x800000

/-- Continue at a buffer address; in lanes 30 and 31 one at or beyond the image's end is an ACCESS fault (R360). -/
def State.laneGoto (s : State) (l : Nat) (a : DWord) (k : Lane → Lane) : State :=
  if firmware l && decide (s.codeLen ≤ a.toNat) then s.laneFault l fAccess a.toNat
  else s.setLane l { (k (s.lane l)).fresh with pc := a }

/-- The condition of br. -/
def BrCondHolds (c : BrCond) (a b : DWord) : Bool :=
  match c with
  | .always => true
  | .z => a == 0
  | .nz => a != 0
  | .lt => decide (a.toNat < b.toNat)
  | .ge => decide (b.toNat ≤ a.toNat)

/-- R387: br. In the ring it is a RING fault. One that is not taken goes on at the next word. -/
def execStokerBr (cond : BrCond) (xa xb : BitVec 4) (off : Word) (s : State) : Out :=
  let i := Instr.stokerBr cond xa xb off
  onLane s fun l =>
    let k := s.lane l
    if k.queue.isSome && k.pc == 0 then s.laneFault l fRing (cmdWord i)
    else if BrCondHolds cond (k.xr xa) (k.xr xb) then s.laneGoto l (k.pc + off.signExtend 64 * 8) id
    else s.laneGoto l (k.pc + 8) id

/-- R387: callb. It pushes the address of the word after its extra word; a third nested one is a RING fault. -/
def execCallb (addr : DWord) (s : State) : Out :=
  onLane s fun l =>
    let k := s.lane l
    if addr.toNat % 8 ≠ 0 then s.laneFault l fMisalign addr.toNat
    else if 2 ≤ k.rstack.length then s.laneFault l fRing (cmdWord (.callb addr))
    else if k.queue.isSome && k.pc == 0 then
      let q := k.queue.getD 0
      let ret := BitVec.ofNat 64 (s.ringBase q + 8 * ((k.get.toNat + 2) % s.ringLen q))
      s.laneGoto l addr fun k => { k with rstack := k.rstack ++ [ret], get := k.get + 2 }
    else s.laneGoto l addr fun k => { k with rstack := k.rstack ++ [k.pc + 16] }

/-- R387: retb. At DEPTH 0 it is a RING fault; a return to the ring goes on at GET with PC 0. -/
def execRetb (s : State) : Out :=
  onLane s fun l =>
    let k := s.lane l
    match k.rstack.getLast? with
    | none => s.laneFault l fRing (cmdWord .retb)
    | some a =>
      let dest := if k.queue.isSome && k.rstack.length == 1 then 0 else a
      s.laneGoto l dest fun k => { k with rstack := k.rstack.dropLast }

/-- R387: yieldq completes, and its queue unmaps; lanes 30 and 31 are never unmapped. -/
def execYieldq (s : State) : Out :=
  onLane s fun l =>
    let s := s.laneDone l .yieldq
    if firmware l then s else s.soon [.event .queueUnmap (.unmap l .quantum)]

/-! ### Memory words (R388, R389) -/

/-- Bytes of an access. -/
def memBytes (f : MemFlags) : Nat := if f.w64 then 8 else 4
/-- How a write reaches a state word: REL makes it a release of scope dev or sys. -/
def memKind (f : MemFlags) : WKind := { rel := f.ordered }

/-- R388: write. -/
def execWrite (f : MemFlags) (addr v : DWord) (s : State) : Out :=
  let i := Instr.write f addr v
  onLane s fun l =>
    if addr.toNat % memBytes f ≠ 0 then s.laneFault l fMisalign addr.toNat
    else if !f.w64 && decide (2 ^ 32 ≤ v.toNat) then s.laneFault l fIllcmd (cmdWord i)
    else s.laneWrite l addr.toNat (memBytes f) v.toNat (memKind f) fun s => s.laneDone l i

/-- R388: stx. -/
def execStx (f : MemFlags) (xs : BitVec 4) (addr : DWord) (s : State) : Out :=
  onLane s fun l =>
    if addr.toNat % memBytes f ≠ 0 then s.laneFault l fMisalign addr.toNat
    else s.laneWrite l addr.toNat (memBytes f) (((s.lane l).xr xs).toNat % 256 ^ memBytes f) (memKind f) fun s => s.laneDone l (.stx f xs addr)

/-- R388: ldx, zero-extending. -/
def execLdx (f : MemFlags) (xd : BitVec 4) (addr : DWord) (s : State) : Out :=
  onLane s fun l =>
    if addr.toNat % memBytes f ≠ 0 then s.laneFault l fMisalign addr.toNat
    else s.laneRead l addr.toNat (memBytes f) fun s x => s.laneSet l (.ldx f xd addr) xd (BitVec.ofNat 64 x)

/-- The first address of a range at which an access of a lane would not perform, and what the lane does then. -/
def State.rangeStop (s : State) (l : Nat) (need : Need) (va n : Nat) : Option (Nat × (State → State)) :=
  (pieces va n).findSome? fun p => match s.laneTr l need p.1 p.2 with
    | .park a => some (a, fun s => s.laneParks l need a)
    | .bad a => some (a, fun s => s.laneFault l fAccess a)
    | .ok ps =>
      if need = .w then none
      else if ps.any fun q => s.peerRefused q.1 then some (p.1, fun s => s.laneFault l fAccess p.1)
      else if ps.any fun q => s.mem.poisoned q.1 q.2 then
        let a := s.poisonAt p.1 p.2 ps
        some (a, fun s => s.laneFault l fPoison (a / 4 * 4))
      else none

/-- What stops a copy of bytes `a` to `n` - 1 before it writes any: of the element that fails first, its read before its write.
A fault leaves no effect (R397), and a miss leaves the word unperformed (R396). -/
def State.copyStop (s : State) (l dst src a n : Nat) : Option (State → State) :=
  match s.rangeStop l .r (src + a) (n - a), s.rangeStop l .w (dst + a) (n - a) with
  | some (r, f), some (w, g) => some (if (r - src) / 4 ≤ (w - dst) / 4 then f else g)
  | some (_, f), none => some f
  | none, some (_, g) => some g
  | none, none => none

/-- The 4-byte elements of a copy, in ascending address. -/
def State.copyRun (s : State) (l dst src : Nat) : List Nat → (State → State) → State
  | [], k => k s
  | e :: es, k =>
    let stop (t : State) : State := t
    let kept (s : State) : State := s.setLane l { s.lane l with prog := 4 * e }
    match s.laneTr l .r (src + 4 * e) 4 with
    | .park a => (kept s).laneParks l .r a
    | .bad a => stop (s.laneFault l fAccess a)
    | .ok rs => match s.readHome rs with
      | .poison => stop (s.laneFault l fPoison (src + 4 * e))
      | .refused => stop (s.laneFault l fAccess (src + 4 * e))
      | .ok x => match s.laneTr l .w (dst + 4 * e) 4 with
        | .park a => (kept s).laneParks l .w a
        | .bad a => stop (s.laneFault l fAccess a)
        | .ok ws =>
          let old := s.wordOfParts ws
          let (s, good) := s.writeHome {} ws x
          State.copyRun (if good then s else s.laneReject l old) l dst src es k

/-- The 4 KiB of a copy or cache word that one turn performs, as its first and last byte (R376). -/
def chunkOf (prog len : Nat) : Nat × Nat := (prog, min len ((prog / 4096 + 1) * 4096))

/-- Progress of a copy or cache word: at its end it completes, else it goes on in the next step. -/
def State.chunkDone (s : State) (l : Nat) (i : Instr) (upTo len : Nat) : State :=
  if len ≤ upTo then s.laneDone l i else s.setLane l { s.lane l with prog := upTo, st := .copying }

/-- R388: copy. A length that is not a multiple of 4, or above 2^20, is ILLCMD: R388 names no code (log 162). -/
def execCopy (dst src len : DWord) (s : State) : Out :=
  let i := Instr.copy dst src len
  onLane s fun l =>
    if dst.toNat % 4 ≠ 0 then s.laneFault l fMisalign dst.toNat
    else if src.toNat % 4 ≠ 0 then s.laneFault l fMisalign src.toNat
    else if len.toNat % 4 ≠ 0 ∨ 2 ^ 20 < len.toNat then s.laneFault l fIllcmd (cmdWord i)
    else
      let (a, b) := chunkOf (s.lane l).prog len.toNat
      let t := (s.laneWalk l .r (src.toNat + a) (len.toNat - a)).laneWalk l .w (dst.toNat + a) (len.toNat - a)
      match s.copyStop l dst.toNat src.toNat a len.toNat with
      | some stop => stop t
      | none => (t.laneTouch l .r (src.toNat + a) (b - a)).copyRun l dst.toNat src.toNat ((List.range ((b - a) / 4)).map (a / 4 + ·)) fun s =>
          s.chunkDone l i b len.toNat

/-- The cache operation on a range of physical memory: every L1, every slice and the Hearth cache (R217, R388). -/
def State.cacheAll (s : State) (m : CacheOp) (pa n : Nat) : State :=
  let on (line : Nat) : Bool := decide (pa / 128 ≤ line ∧ line ≤ (pa + n - 1) / 128)
  ((s.cores.map (·.1)).foldl (fun s c => s.l1Op c m on) s).cleanLines on

/-- R388: cache, for up to 2^30 bytes, more of which are ILLCMD: R388 names no code (log 162); pages that cannot be read are
skipped without a fault. -/
def execCache (m : CacheOp) (addr len : DWord) (s : State) : Out :=
  let i := Instr.cache m addr len
  onLane s fun l =>
    if 2 ^ 30 < len.toNat then s.laneFault l fIllcmd (cmdWord i)
    else
      let (a, b) := chunkOf (s.lane l).prog len.toNat
      let s := (pieces (addr.toNat + a) (b - a)).foldl (fun s p => match s.laneTr l .r p.1 p.2 with
        | .ok ps => ps.foldl (fun s q => s.cacheAll m q.1 q.2) (s.laneWalk l .r p.1 p.2)
        | _ => s.laneWalk l .r p.1 p.2) s
      s.chunkDone l i b len.toNat

/-- R389: present: one atomic on the state word; a word that is not FILLING is rejected. -/
def execPresent (seq : Word) (addr : DWord) (s : State) : Out :=
  let i := Instr.present seq addr
  onLane s fun l =>
    if addr.toNat % 8 ≠ 0 then s.laneFault l fMisalign addr.toNat
    else
      let t := s.laneTouch l .rw addr.toNat 8
      match s.laneTr l .rw addr.toNat 8 with
      | .park a => t.laneParks l .rw a
      | .bad a => t.laneFault l fAccess a
      | .ok ps => match s.readHome ps with
        | .poison => t.laneFault l fPoison addr.toNat
        | .refused => t.laneFault l fAccess addr.toNat
        | .ok old =>
          let new := seq.toNat * 2 ^ 32 + bits old 16 8 * 2 ^ 16 + 2
          if bits old 0 4 ≠ 1 then (t.laneReject l old).laneDone l i
          else
            let (t, good) := t.writeHome { rel := true, present := true } ps new
            (if good then t else t.laneReject l old).laneDone l i

/-- R390: intr. -/
def execIntr (vec : BitVec 11) (s : State) : Out :=
  onLane s fun l =>
    let fn := s.laneCtx l
    if vectorsOf fn ≤ vec.toNat then s.fresh.laneFault l fAccess (Config.freeWord s.free).toNat
    else (s.raise fn vec.toNat).laneDone l (.intr vec)

/-! ### Launches and fences (R391, R398) -/

/-- The queue number under which a lane's launches are kept; firmware lanes use numbers above every queue. -/
def State.laneQueue (s : State) (l : Nat) : Nat := ((s.lane l).queue).getD (8192 + l)

/-- The launch-end signal of SIG; none where the word is ILLCMD (R398): a member of 3, and nonzero bits 15:13, of which R398 says
only that they are zero (log 164). -/
def sigOf (x : DWord) : Option (BitVec 10 × SignalOp × Bool × DWord) :=
  if bits x.toNat 13 3 ≠ 0 then none
  else (signalOpOf (x.extractLsb' 10 2)).map fun m => (x.extractLsb' 0 10, m, x.getLsbD 12, x >>> 16)

/-- R398: launch. While the launch table is full the word has not performed. -/
def execLaunch (rec : DWord) (sig : Option DWord) (s : State) : Out :=
  let i := Instr.launch rec sig
  onLane s fun l =>
    let start (sg : Option (BitVec 10 × SignalOp × Bool × DWord)) : State :=
      s.laneRead l rec.toNat 256 fun s x =>
        match s.launchBad (s.laneCtx l) x with
        | some off => s.laneFault l fLaunch off
        | none => match s.freeLaunch with
          | none => s
          | some n => (s.startLaunch n (recordOf x) rec (s.laneCtx l) (some (s.laneQueue l)) none sg).laneDone l i
    if rec.toNat % 64 ≠ 0 then s.laneFault l fMisalign rec.toNat
    else match sig with
    | none => start none
    | some x => match sigOf x with
      | none => s.laneFault l fIllcmd (cmdWord i)
      | some sg => start (some sg)

/-- R391: fence, and fence.launches, which waits for the end of every launch that the queue started before it. Every
earlier access of the lane has performed. -/
def execStokerFence (launches sys : Bool) (s : State) : Out :=
  onLane s fun l =>
    if launches && s.launches.any (fun e => e.2.queue == some (s.laneQueue l)) then s.setLane l { s.lane l with st := .waiting }
    else s.laneDone l (.stokerFence launches sys)

/-! ### Semaphores (R381-R385) -/

/-- The physical semaphore of a virtual one, if bound. -/
def State.bound (s : State) (ctx v : Nat) : Option Nat := tfind s.stoker.bind (1024 * ctx + v)
def State.phys (s : State) (p : Nat) : DWord := tget 0#64 s.stoker.sems p
/-- The spill word of a virtual semaphore (R381). -/
def State.spillAt (s : State) (ctx v : Nat) : Nat := (tget 0#64 s.sup.semspill ctx).toNat + 8 * v
/-- The value of a virtual semaphore, or the fault that reading its spill word gives: poison, or an address that nothing answers
(R192, R330, R397, R479). -/
def State.semRead (s : State) (ctx v : Nat) : Except (Nat × Nat) DWord :=
  match s.bound ctx v with
  | some p => .ok (s.phys p)
  | none => match s.homeRead (s.spillAt ctx v) 8 with
    | .ok x => .ok (BitVec.ofNat 64 x)
    | .poison => .error (fPoison, s.spillAt ctx v)
    | .refused => .error (fAccess, s.spillAt ctx v)
/-- The lines that reading the spill words of unbound semaphores fills or touches (R332, R381). -/
def State.semTouch (s : State) (ctx v : Nat) : State := if (s.bound ctx v).isSome then s else s.cacheTouch (s.spillAt ctx v) 8 false
def State.setSem (s : State) (ctx v : Nat) (x : DWord) : State :=
  match s.bound ctx v with
  | some p => { s with stoker := { s.stoker with sems := tset 0#64 s.stoker.sems p x } }
  | none => s.unitWrite (s.spillAt ctx v) 8 x.toNat

/-- The new value of a signal (R382). -/
def signalVal (m : SignalOp) (old b : DWord) : DWord :=
  match m with
  | .set => b
  | .add => old + b
  | .max => if old.toNat ≤ b.toNat then b else old

/-- The condition of a wait (R383). -/
def waitHolds (c : WaitCond) (x w : DWord) : Bool :=
  match c with
  | .ge => decide (w.toNat ≤ x.toNat)
  | .eq => x == w
  | .ne => x != w

/-- A satisfied watch or a timer sets WAKE, which makes a WAITING queue READY (R379). -/
def State.setWake (s : State) (q : Nat) : State :=
  let w := s.statew q
  s.setQueue q (swWith w (swPut w) (swFault w) true (if swState w = qWaiting then qReady else swState w))

/-- A virtual semaphore takes a value, and the watch entries that it satisfies wake their queues (R379). -/
def State.semTakes (s : State) (ctx v : Nat) (new : DWord) : State :=
  let s := s.setSem ctx v new
  let hit := s.stoker.watch.filter fun w => w.ctx == ctx && w.sem == v && waitHolds w.cond new w.value
  let s := { s with stoker := { s.stoker with watch := s.stoker.watch.filter fun w => !hit.contains w } }
  hit.foldl (fun s w => s.setWake w.queue) s

/-- A signal of a doorbell or of a launch's end; one whose spill word cannot be read has no effect (log 147). -/
def State.signal (s : State) (ctx v : Nat) (m : SignalOp) (b : DWord) : State :=
  match s.semRead ctx v with
  | .ok x => (s.semTouch ctx v).semTakes ctx v (signalVal m x b)
  | .error _ => s.semTouch ctx v

/-- R382: signal. -/
def execSignal (m : SignalOp) (sys : Bool) (sem : BitVec 10) (v : XVal) (s : State) : Out :=
  onLane s fun l => match s.semRead (s.laneCtx l) sem.toNat with
    | .ok x => ((s.semTouch (s.laneCtx l) sem.toNat).semTakes (s.laneCtx l) sem.toNat (signalVal m x ((s.lane l).val v))).laneDone l (.signal m sys sem v)
    | .error e => (s.semTouch (s.laneCtx l) sem.toNat).laneFault l e.1 e.2

/-- An unsatisfied wait: it waits on, and unmaps at once when a candidate could take its lane (R380). -/
def State.laneWaits (s : State) (l : Nat) : State :=
  let k := s.lane l
  let s := s.setLane l { k with st := .waiting, waitSince := some (k.waitSince.getD s.tick.toNat) }
  if (s.takes l).isSome then s.soon [.event .queueUnmap (.unmap l .waiting)] else s

/-- R383: wait. -/
def execWait (cond : WaitCond) (sem : BitVec 10) (v : XVal) (s : State) : Out :=
  onLane s fun l =>
    let t := s.semTouch (s.laneCtx l) sem.toNat
    match s.semRead (s.laneCtx l) sem.toNat with
    | .ok x => if waitHolds cond x ((s.lane l).val v) then t.laneDone l (.wait cond sem v) else t.laneWaits l
    | .error e => t.laneFault l e.1 e.2

/-- R383: waitt. Its deadline is fixed in the step in which it first begins. -/
def execWaitt (rel : Bool) (v : XVal) (s : State) : Out :=
  onLane s fun l =>
    let k := s.lane l
    let t := k.due.getD (if rel then s.tick + k.val v else k.val v)
    if t.toNat ≤ s.tick.toNat then s.laneDone l (.waitt rel v) else (s.setLane l { k with due := some t }).laneWaits l

/-- The virtual semaphores of an svsem. -/
def semRange (virt : BitVec 10) (countM1 : BitVec 12) : List Nat := (List.range (countM1.toNat + 1)).map (virt.toNat + ·)

/-- R385: svsem.bind. -/
def execSvsemBind (ctx : BitVec 6) (virt : BitVec 10) (countM1 phys : BitVec 12) (s : State) : Out :=
  let i := Instr.svsemBind ctx virt countM1 phys
  onSup s i fun l =>
    let n := countM1.toNat + 1
    let c := ctx.toNat
    let taken (p : Nat) : Bool := s.stoker.bind.any fun e => e.2 == p
    let ps := (List.range n).map (phys.toNat + ·)
    if 1024 < virt.toNat + n ∨ 4096 < phys.toNat + n ∨ ps.any taken = true ∨ (semRange virt countM1).any (fun v => (s.bound c v).isSome) = true then
      s.laneFault l fSem (cmdWord i)
    else
      let a := s.spillAt c virt.toNat
      let t := s.cacheTouch a (8 * n) false
      match s.homeRead a (8 * n) with
      | .poison => t.laneFault l fPoison a
      | .refused => t.laneFault l fAccess a
      | .ok x =>
        let st := (List.range n).foldl (fun (st : Stoker) j =>
          { st with bind := tput st.bind (1024 * c + virt.toNat + j) (phys.toNat + j)
                    sems := tset 0#64 st.sems (phys.toNat + j) (BitVec.ofNat 64 (bits x (64 * j) 64)) }) s.stoker
        { t with stoker := st }.laneDone l i

/-- Spill some semaphores: each bound value goes to its spill word, and the binding ends (R385). -/
def State.unbindAll (s : State) (ctx : Nat) (vs : List Nat) : State :=
  vs.foldl (fun s v => match s.bound ctx v with
    | none => s
    | some p =>
      let s := s.unitWrite (s.spillAt ctx v) 8 (s.phys p).toNat
      { s with stoker := { s.stoker with bind := tdel s.stoker.bind (1024 * ctx + v) } }) s

/-- R385: svsem.unbind. -/
def execSvsemUnbind (ctx : BitVec 6) (virt : BitVec 10) (countM1 : BitVec 12) (s : State) : Out :=
  let i := Instr.svsemUnbind ctx virt countM1
  onSup s i fun l =>
    if 1024 < virt.toNat + countM1.toNat + 1 then s.laneFault l fSem (cmdWord i)
    else if (s.paRegion (s.spillAt ctx.toNat virt.toNat)).isNone then s.laneFault l fAccess (cmdWord i)
    else (s.unbindAll ctx.toNat (semRange virt countM1)).laneDone l i

/-! ### Queue control (R370, R378, R395) -/

/-- Whether a descriptor breaks its rules (R367). -/
def State.descBad (s : State) (q : Nat) : Bool :=
  let f := s.qRead q
  f 0x08 8 % 4096 != 0 || decide (2 ^ 57 ≤ f 0x08 8) || decide (f 0x10 1 < 4) || decide (20 < f 0x10 1) || decide (3 < f 0x11 1) ||
  decide (63 < f 0x12 2) || f 0x16 2 != 0 || decide (2 < f 0x38 1) || f 0x39 7 != 0 || decide (2 ^ 14 ≤ f 0xC0 8) || f 0xE0 32 != 0

/-- The lane that a queue is mapped to. -/
def State.laneOf (s : State) (q : Nat) : Option Nat := (List.range 30).find? fun l => (s.lane l).queue == some q

/-- Disable a queue that no lane holds (R370). -/
def State.disableQueue (s : State) (q : Nat) : State :=
  let w := s.statew q
  s.setQueue q (swWith w (swPut w) (swFault w) (swWake w) qDisabled)

/-- R395: sqctl.enable. -/
def execSqctlEnable (queue : BitVec 13) (s : State) : Out :=
  onSup s (.sqctlEnable queue) fun l =>
    let q := queue.toNat
    let w := s.statew q
    let s := s.qTouch q
    let s := if 1 ≤ swState w ∧ swState w ≤ 6 then s
      else if s.descBad q || bits w 17 7 != 0 || bits w 4 12 != 0 || decide (7 ≤ swState w) then
        s.faultQueue q fRing (s.savedAt q) 0 (swWake w)
      else s.setQueue q (swWith w (swPut w) (swFault w) (swWake w) (if swPut w ≠ s.qRead q 0x18 4 ∨ swWake w = true then qReady else qIdle))
    s.laneDone l (.sqctlEnable queue)

/-- R395: sqctl.disable; a mapped queue is unmapped first. -/
def execSqctlDisable (queue : BitVec 13) (s : State) : Out :=
  onSup s (.sqctlDisable queue) fun l =>
    let s := match s.laneOf queue.toNat with
      | some m => s.soon [.event .queueUnmap (.unmap m .disable)]
      | none => s.disableQueue queue.toNat
    s.laneDone l (.sqctlDisable queue)

/-- R395: sqctl.reset, which clears FAULT and WAKE. -/
def execSqctlReset (queue : BitVec 13) (s : State) : Out :=
  onSup s (.sqctlReset queue) fun l =>
    let w := s.statew queue.toNat
    let s := s.qTouch queue.toNat
    let s := if swState w = qFaulted then s.setQueue queue.toNat (swWith w (swPut w) 0 false qIdle) else s
    s.laneDone l (.sqctlReset queue)

/-- R395: sqctl.unmap. -/
def execSqctlUnmap (queue : BitVec 13) (s : State) : Out :=
  onSup s (.sqctlUnmap queue) fun l =>
    let s := match s.laneOf queue.toNat with
      | some m => s.soon [.event .queueUnmap (.unmap m .quantum)]
      | none => s
    s.laneDone l (.sqctlUnmap queue)

/-- A timer of a waitt, or a watch entry of a wait, for a queue that unmaps in it (R379); none where it becomes READY. A wait whose
spill word cannot be read becomes READY: its lane meets the fault. -/
def State.watchFor (s : State) (ctx q : Nat) (info val : Nat) : Option State :=
  if info / 2 ^ 12 % 2 = 1 then
    if val ≤ s.tick.toNat then none
    else some { s with stoker := { s.stoker with timers := s.stoker.timers ++ [(q, BitVec.ofNat 64 val)] } }
  else
    let cond : WaitCond := match bits info 10 2 with | 0 => .ge | 1 => .eq | _ => .ne
    let sem := info % 1024
    let holds := match s.semRead ctx sem with | .ok x => waitHolds cond x (BitVec.ofNat 64 val) | .error _ => true
    if holds || decide (1024 ≤ s.stoker.watch.length) then none
    else some { s.semTouch ctx sem with stoker := { s.stoker with watch := s.stoker.watch ++ [{ ctx := ctx, sem := sem, cond := cond, value := BitVec.ofNat 64 val, queue := q }] } }

/-- What a lane's fetch gives: nothing to do, no word, an absent page, a fault, or a word with three more. -/
inductive LaneFetch
  | none | noWords | park (va : Nat) | fault (code detail : Nat) | word (w e0 e1 e2 : DWord)
  deriving DecidableEq, Repr

/-- One word of a lane's code. -/
def State.codeWord (s : State) (l a : Nat) : LaneFetch :=
  if firmware l then
    if s.codeLen < a + 8 then .fault fAccess a
    else
      let byte (i : Nat) : Nat := if s.box.stage = 4 then (tget 0#8 s.box.store i).toNat else (Config.romByte i).toNat
      .word (BitVec.ofNat 64 ((List.range 8).foldl (fun x i => x + byte (a + i) * 256 ^ i) 0)) 0 0 0
  else match s.laneTr l .r a 8 with
    | .park va => .park va
    | .bad va => .fault fAccess va
    | .ok ps => match s.readHome ps with
      | .ok x => .word (BitVec.ofNat 64 x) 0 0 0
      | .poison => .fault fPoison a
      | .refused => .fault fAccess a

/-- The address of word `i` after the current one. -/
def State.wordAfter (s : State) (l i : Nat) : Nat :=
  let k := s.lane l
  match k.queue with
  | some q => if k.pc = 0 then s.ringBase q + 8 * ((k.get.toNat + i) % s.ringLen q) else k.pc.toNat + 8 * i
  | none => k.pc.toNat + 8 * i

/-- Words of the ring that the queue still holds (R369); a buffer has no such end. -/
def State.wordsLeft (s : State) (l : Nat) : Nat :=
  let k := s.lane l
  match k.queue with
  | some q => if k.pc = 0 then (swPut (s.statew q) + 2 ^ 32 - k.get.toNat) % 2 ^ 32 else 16
  | none => 16

/-- The alignments that a command word asks of its first extra words (R365 step 4). -/
def stAlign (w : DWord) : List Nat :=
  let n := if bits w.toNat 48 1 = 1 then 8 else 4
  match (stOp w).toNat with
  | 0x11 => [8] | 0x20 => [n] | 0x21 => [n] | 0x22 => [n] | 0x23 => [4, 4] | 0x24 => [8] | 0x30 => [64]
  | 0xE5 => if bits w.toNat 48 1 = 1 then [4096, 4096] else []
  | _ => []

/-- The first of some extra words that breaks the alignment its command word asks (R365 step 4). -/
def misaligned (w : DWord) (es : List DWord) : Option Nat :=
  ((stAlign w).zip es).findSome? fun (e : Nat × DWord) => if e.2.toNat % e.1 = 0 then none else some e.2.toNat

/-- The first misaligned address among the extra words that the ring holds, where it does not hold them all (R365 steps 4 and 5). -/
def State.partMisaligned (s : State) (l : Nat) (w : DWord) : Option Nat :=
  ((stAlign w).mapIdx fun i a => (i, a)).findSome? fun (e : Nat × Nat) =>
    if e.1 + 1 < s.wordsLeft l then
      match s.codeWord l (s.wordAfter l (e.1 + 1)) with
      | .word x _ _ _ => if x.toNat % e.2 = 0 then none else some x.toNat
      | _ => none
    else none

/-- The next command word of a lane with its extra words, after R365; the alignment of a whole word is its own. -/
def State.laneFetch (s : State) (l : Nat) : LaneFetch :=
  let k := s.lane l
  match k.cmd with
  | some (w, e0, e1, e2) => .word w e0 e1 e2
  | none =>
    if k.st == .stopped || (k.queue.isNone && !firmware l) then .none
    else if s.wordsLeft l = 0 then .noWords
    else match s.codeWord l (s.wordAfter l 0) with
      | .word w _ _ _ =>
        if !stAssigned (stOp w) then .fault fIllcmd w.toNat
        else if stPrivileged (stOp w) && !firmware l then .fault fPriv w.toNat
        else if (decodeStoker w 0 0 0).isNone then .fault fIllcmd w.toNat
        else if s.wordsLeft l < 1 + stExtra w then
          match s.partMisaligned l w with
          | some x => .fault fMisalign x
          | none => .noWords
        else
          let get (i : Nat) : LaneFetch := if i ≤ stExtra w then s.codeWord l (s.wordAfter l i) else .word 0 0 0 0
          match get 1, get 2, get 3 with
          | .word a _ _ _, .word b _ _ _, .word c _ _ _ => .word w a b c
          | .word _ _ _ _, .word _ _ _ _, x => x
          | .word _ _ _ _, x, _ => x
          | x, _, _ => x
      | x => x

/-- Whether the ring holds words, but the next one not whole: the lane has no words then (R365 step 5, log 83). -/
def State.partWord (s : State) (l : Nat) : Bool := decide (s.wordsLeft l ≠ 0) && s.laneFetch l == .noWords

/-- The semaphore unit's step for a queue that unmapped in a wait (R378, R379): READY with WAKE, or where the condition holds;
else WAITING. -/
def State.endWait (s : State) (q info val : Nat) : State :=
  let w := s.statew q
  let turn (s : State) (st : Nat) : State := s.setQueue q (swWith w (swPut w) (swFault w) false st)
  if swState w ≠ qMapped then s
  else if swWake w then turn s qReady
  else match s.watchFor (s.qCtx q) q info val with
    | some t => turn t qWaiting
    | none => turn s qReady

/-- The unmap sequence of a lane (R378, R379). In a wait its last step is the semaphore unit's, in phase 3: at once where the wait
itself asks for it, in that phase. -/
def State.unmapLane (s : State) (l : Nat) (why : UnmapReason) : State :=
  let k := s.lane l
  match k.queue with
  | none => s
  | some q =>
    let (info, val) := k.waitInfo
    let more := k.pc != 0
    let part := s.partWord l
    let s := s.saveLane l q
    let w := s.statew q
    let turn (s : State) (st : Nat) : State := s.setQueue q (swWith w (swPut w) (swFault w) false st)
    let words := more || swPut w != k.get.toNat
    match why with
    | .disable => turn s qDisabled
    | .miss => turn s qParked
    | .noWords => turn s (if swWake w || (words && !part) then qReady else qIdle)
    | _ =>
      if k.inWait then
        if why = .waiting then s.endWait q info val
        else { s with stoker := { s.stoker with waits := s.stoker.waits ++ [(q, info, val)] } }
      else turn s (if swWake w || words then qReady else qIdle)

/-- R378: QUEUE_UNMAP of a lane. -/
def execQueueUnmap (s : State) : Out :=
  match s.cur.arg with
  | .unmap l why => .next (s.unmapLane l why)
  | _ => .next s

/-- Lanes that hold a queue of a context. -/
def State.lanesOf (s : State) (ctx : Nat) : List Nat := (List.range 30).filter fun l => match (s.lane l).queue with | some q => s.qCtx q == ctx | none => false

/-- Begin to pre-empt every placed block of a context's launches, on every core (R395). -/
def State.preemptAll (s : State) (ctx : Nat) : State :=
  let want := (s.launches.filter fun e => e.2.ctx == ctx).flatMap fun e => (s.coresWith e.1).map fun c => (c, e.1)
  let new := want.filter fun p => !(s.saving.any fun q => q.core == p.1 && q.launch == p.2 && q.only.isNone)
  { s with saving := s.saving ++ new.map fun p => { core := p.1, launch := p.2, swap := false } }

/-- Set or clear RUN (R393). -/
def State.setRun (s : State) (ctx : Nat) (b : Bool) : State :=
  { s with sup := { s.sup with ctxctl := tset 0#64 s.sup.ctxctl ctx (setBit64 (tget 0#64 s.sup.ctxctl ctx) 1 b) } }

/-- R395: spreempt; it completes when every queue is unmapped, every block saved, and every launch that a failed save ends has
ended (R487). -/
def execSpreempt (keepq : Bool) (ctx : BitVec 6) (s : State) : Out :=
  onSup s (.spreempt keepq ctx) fun l =>
    let c := ctx.toNat
    let s := (s.setRun c false).preemptAll c
    let ls := if keepq then [] else s.lanesOf c
    let placed := (s.stoker.waits.any fun x => s.qCtx x.1 == c) || (s.cores.any fun e => e.2.groups.any fun g => g.2.ctx == c && !g.2.remnant) ||
      s.launches.any fun e => e.2.ctx == c && (e.2.broken || s.saving.any fun q => q.launch == e.1)
    if ls.isEmpty && !placed then s.laneDone l (.spreempt keepq ctx)
    else (s.setLane l { s.lane l with st := .waiting }).soon (ls.map fun m => .event .queueUnmap (.unmap m .quantum))

/-- R395: sresume. -/
def execSresume (ctx : BitVec 6) (s : State) : Out :=
  onSup s (.sresume ctx) fun l => (s.setRun ctx.toNat true).laneDone l (.sresume ctx)

/-- R395: sinval. It completes once the reds that used a removed entry have performed (R343). -/
def execSinval (ctx : BitVec 6) (range : Option (DWord × DWord)) (s : State) : Out :=
  let i := Instr.sinval ctx range
  onSup s i fun l =>
    let s := s.settleReds
    match range with
    | none => (s.invalidate ctx.toNat 0 (2 ^ 57)).laneDone l i
    | some (va, len) =>
      if va.toNat % 4096 ≠ 0 ∨ len.toNat % 4096 ≠ 0 then s.laneFault l fMisalign va.toNat
      else (s.invalidate ctx.toNat va.toNat len.toNat).laneDone l i

/-! ### Supervisor registers (R392, R393) -/

/-- The assigned numbers. -/
def supAssigned (n : Nat) : Bool :=
  decide (n ≤ 0xBF ∨ (0x100 ≤ n ∧ n ≤ 0x10F) ∨ (0x200 ≤ n ∧ n ≤ 0x208) ∨ (0x210 ≤ n ∧ n ≤ 0x213) ∨ n = 0x220 ∨ n = 0x221 ∨ n = 0x300 ∨
    (0x400 ≤ n ∧ n ≤ 0x441) ∨ (0x1000 ≤ n ∧ n ≤ 0x27FF))

/-- The value of a register (R392). -/
def State.supGet (s : State) (n : Nat) : DWord :=
  if n < 0x40 then tget 0#64 s.sup.ctxroot n
  else if n < 0x80 then tget 0#64 s.sup.ctxctl (n - 0x40)
  else if n < 0xC0 then tget 0#64 s.sup.semspill (n - 0x80)
  else if n < 0x110 then tget 0#64 s.sup.l2lock (n - 0x100)
  else if 0x400 ≤ n ∧ n < 0x440 then s.waygate (n - 0x400)
  else if 0x1000 ≤ n then (tget 0#32 s.sup.timeslot (n - 0x1000)).setWidth 64
  else match n with
    | 0x200 => s.sup.qdbase
    | 0x201 => s.sup.fbbase
    | 0x202 => s.sup.fbput.setWidth 64
    | 0x203 => s.sup.fbget.setWidth 64
    | 0x205 => s.sup.errbase
    | 0x206 => s.sup.errput.setWidth 64
    | 0x207 => s.sup.errget.setWidth 64
    | 0x208 => s.sup.errdrop.setWidth 64
    | 0x210 => BitVec.ofNat 64 (s.cands 0).length
    | 0x211 => BitVec.ofNat 64 (s.cands 1).length
    | 0x212 => BitVec.ofNat 64 (s.cands 2).length
    | 0x213 => BitVec.ofNat 64 (s.cands 3).length
    | 0x220 => s.tick
    | 0x221 => s.sup.supfault
    | 0x300 => s.sup.freecmd
    | 0x440 => s.sup.hgate
    | 0x441 => s.sup.hgskip
    | _ => 0

/-- What a read of a register changes: the RC registers clear (R394, R359). -/
def State.supRead (s : State) (n : Nat) : State :=
  if n = 0x208 then { s with sup := { s.sup with errdrop := 0 } }
  else if n = 0x221 then { s with sup := { s.sup with supfault := 0 } } else s

/-- The bits of a value in a range, in their place. -/
def keepBits (v : DWord) (lo n : Nat) : DWord := BitVec.ofNat 64 (bits v.toNat lo n * 2 ^ lo)

/-- A write of a register: RO registers and zero fields take nothing; in reduced service only context 0 may be VALID
(R392, R470). Lock and time-slot entries and FBRESOLVE act as their own events, at once. -/
def State.supSet (s : State) (n : Nat) (v : DWord) : State :=
  if n < 0x40 then { s with sup := { s.sup with ctxroot := tset 0#64 s.sup.ctxroot n (keepBits v 12 40 ||| keepBits v 0 1) } }
  else if n < 0x80 then
    let c := n - 0x40
    let old := tget 0#64 s.sup.ctxctl c
    let valid := if s.box.stage = 4 ∨ c = 0 then keepBits v 0 1 else 0
    { s with sup := { s.sup with ctxctl := tset 0#64 s.sup.ctxctl c (keepBits v 8 8 ||| keepBits v 2 1 ||| keepBits old 1 1 ||| valid) } }
  else if n < 0xC0 then { s with sup := { s.sup with semspill := tset 0#64 s.sup.semspill (n - 0x80) (keepBits v 13 39) } }
  else if n < 0x110 then s.soon [.event .l2LockWrite (.value (n - 0x100) 0 (v.setWidth 256))]
  else if 0x400 ≤ n ∧ n < 0x440 then s.writeWaygate (n - 0x400) v
  else if 0x1000 ≤ n then s.soon [.event .timeslotWrite (.value ((n - 0x1000) / 16) (n % 16) (v.setWidth 256))]
  else match n with
    | 0x200 => { s with sup := { s.sup with qdbase := keepBits v 21 31 } }
    | 0x201 => { s with sup := { s.sup with fbbase := keepBits v 19 33 } }
    | 0x203 => { s with sup := { s.sup with fbget := v.setWidth 32 } }
    | 0x204 =>
      if bits v.toNat 33 31 ≠ 0 then s
      else if v.getLsbD 32 then s.soon [.event .fbresolveFatal (.at (bits v.toNat 0 32) 0 0)]
      else s.soon [.event .fbresolveRetry (.at (bits v.toNat 0 32) 0 0)]
    | 0x205 => { s with sup := { s.sup with errbase := keepBits v 15 37 } }
    | 0x207 => { s with sup := { s.sup with errget := v.setWidth 32 } }
    | 0x300 => s.writeFree v
    | 0x440 => s.writeHgate v
    | _ => s

/-- R392: sgetreg. -/
def execSgetreg (xd : BitVec 4) (reg : BitVec 16) (s : State) : Out :=
  let i := Instr.sgetreg xd reg
  onSup s i fun l =>
    if supAssigned reg.toNat then (s.supRead reg.toNat).laneSet l i xd (s.supGet reg.toNat) else s.laneFault l fReg (cmdWord i)

/-- R392: ssetreg. -/
def execSsetreg (xs : BitVec 4) (reg : BitVec 16) (s : State) : Out :=
  let i := Instr.ssetreg xs reg
  onSup s i fun l =>
    if supAssigned reg.toNat then (s.laneDone l i).supSet reg.toNat ((s.lane l).xr xs) else s.laneFault l fReg (cmdWord i)

/-- R394: SUPFAULT_READ. -/
def execSupfaultRead (s : State) : Out := .next { s.supRead 0x221 with lastRead := s.sup.supfault }

/-! ### Mapping (R374) and fetching -/

/-- Map a queue into a free lane; a PUT too far ahead faults it instead (R369). -/
def State.mapQueue (s : State) (l q : Nat) : State :=
  let w := s.statew q
  let get := s.qRead q 0x18 4
  if s.ringLen q < (swPut w + 2 ^ 32 - get) % 2 ^ 32 then s.faultQueue q fRing (s.savedAt q) 0
  else
    let s := (s.qTouch q).setQueue q (swWith w (swPut w) (swFault w) false qMapped)
    let x := s.qRead q 0x40 128
    let info := s.qRead q 0xC0 8
    let val := s.qRead q 0xC8 8
    s.setLane l
      { queue := some q, x := (List.range 16).foldl (fun t i => tset 0#64 t i (BitVec.ofNat 64 (bits x (64 * i) 64))) []
        get := BitVec.ofNat 32 get, pc := BitVec.ofNat 64 (s.qRead q 0x20 8)
        rstack := ((List.range 2).map fun i => BitVec.ofNat 64 (s.qRead q (0x28 + 8 * i) 8)).take (s.qRead q 0x38 1)
        st := .fetch, cmd := none, due := if bits info 12 1 = 1 then some (BitVec.ofNat 64 val) else none
        prog := if bits info 13 1 = 1 then val else 0, mappedAt := s.tick.toNat, waitSince := none, late := false }

/-- Fill one free lane; a queue that faults when mapped lets the next be tried. -/
def State.fillLane (s : State) (l : Nat) : Nat → State
  | 0 => s
  | fuel + 1 =>
    if (s.lane l).queue.isSome then s
    else match s.takes l with
      | none => s
      | some q => State.fillLane (s.mapQueue l q) l fuel

/-- R374: the slot scheduler, reserved lanes before borrowable ones. -/
def State.mapAll (s : State) : State := (List.range 30).foldl (fun s l => s.fillLane l 64) s

/-- The phase in which a word begins (R361). -/
def phaseOf (op : Nat) : Nat :=
  if 0xE0 ≤ op then 1 else if op = 0x60 then 2 else if op = 0x50 ∨ op = 0x51 then 3 else if op = 0x40 ∨ op = 0x41 then 4
  else if op = 0x30 then 5 else if 0x20 ≤ op ∧ op ≤ 0x25 then 6 else if 0x10 ≤ op ∧ op ≤ 0x13 then 7 else 8

/-- The phase of a lane in this step; one with no word, or one that faults, acts in the last. -/
def State.lanePhase (s : State) (l : Nat) : Option Nat :=
  match s.laneFetch l with
  | .none => none
  | .word w _ _ _ => some (phaseOf (stOp w).toNat)
  | .fault _ d => some (if (s.lane l).queue.isNone then 8 else if stPrivileged (stOp (BitVec.ofNat 64 d)) then 1 else 8)
  | _ => some 8

/-- The turns of the lanes of some phases, by phase and then by lane. -/
def laneTurns (ph : List (Nat × Nat)) (from_ n : Nat) : List Turn :=
  (List.range n).flatMap fun i => (ph.filter fun e => e.2 == from_ + i).map fun e => Turn.lane e.1

/-- The lines that the fetch of a lane's word and its extra words fills or touches; in a ring PUT is read (R369, R372). -/
def State.fetchLane (s : State) (l n : Nat) : State :=
  if firmware l || (s.lane l).cmd.isSome then s
  else
    let t := match (s.lane l).queue with | some q => s.cacheTouch (s.qAddr q 0) 8 false | none => s
    (List.range n).foldl (fun t i => t.laneTouch l .r (s.wordAfter l i) 8) t

/-- A lane presents its next word at the start of a step, and keeps it till its phase, whatever becomes of the memory that it
came from (R361). -/
def State.present (s : State) (l : Nat) : State :=
  match s.laneFetch l with
  | .none => s
  | .word w e0 e1 e2 => (s.fetchLane l (1 + stExtra w)).setLane l { s.lane l with cmd := some (w, e0, e1, e2) }
  | _ => s.setLane l { s.lane l with late := true }

/-- The doorbells and launch-end signals of phase 2, in the order of their arrival, then the posted writes that waited behind a
doorbell; a doorbell among these is one of this phase too (R361, R384, R466; log 7). -/
def State.doorTurn (s : State) : State :=
  (s.stoker.sigQ.foldl (fun (t : State) x => t.signal x.ctx x.sem x.op x.value)
    { s with stoker := { s.stoker with sigQ := [] }, posted := [] }).soon
    (s.posted.map (·.2) ++ if s.posted.isEmpty then [] else [.event .stokerStep (.at 3 0 0)])

/-- R361: STOKER_STEP. Its first part presents the lanes' words and lists them by phase; the part that stands after phase 1 maps
queues and performs what phase 2 begins with; the part before phase 3 ends the unmapping of queues in a wait (R379). -/
def execStokerStep (s : State) : Out :=
  match s.cur.arg with
  | .at 1 _ _ => .next s.mapAll.doorTurn
  | .at 3 _ _ => .next s.doorTurn
  | .at 2 _ _ =>
    .next (s.stoker.waits.foldl (fun s x => s.endWait x.1 x.2.1 x.2.2) { s with stoker := { s.stoker with waits := [] } })
  | _ =>
    let ph := (List.range 32).filterMap fun l => (s.lanePhase l).map fun p => (l, p)
    .next (((List.range 32).foldl State.present s).soon (laneTurns ph 1 1 ++ [.event .stokerStep (.at 1 0 0)] ++ laneTurns ph 2 1 ++ [.event .stokerStep (.at 2 0 0)] ++ laneTurns ph 3 6))

/-- The end of a word of lanes 30 and 31 that would run past the image is a fault of that word (R360). -/
def State.runsOff (s : State) (l : Nat) (i : Instr) : Bool :=
  firmware l && (match i with | .stokerBr _ _ _ _ | .callb _ | .retb => false | _ => true) &&
  decide (s.codeLen ≤ (s.lane l).pc.toNat + 8 * (1 + extraWords i))

/-- Whether a queue was mapped into a lane in this step: it begins its word in the next (R374). -/
def State.justMapped (s : State) (l : Nat) : Bool := (s.lane l).queue.isSome && (s.lane l).cmd.isNone && (s.lane l).mappedAt == s.tick.toNat

/-- What a lane does in its turn before its word's meaning: the state, and the word's instruction if one runs. A lane that presented
no word begins none that has come since: that one waits for the next step. -/
def State.laneTurn (s : State) (l : Nat) : State × Option Instr :=
  let late := (s.lane l).late
  let s := { s with cur := { s.cur with lane := l, word := 0, arg := .none } }
  let s := if late then s.setLane l { s.lane l with late := false } else s
  if s.justMapped l then (s, none)
  else match s.laneFetch l with
  | .none => (s, none)
  | .noWords => (s.soon [.event .queueUnmap (.unmap l .noWords)], none)
  | .park va => (s.laneParks l .r va, none)
  | .fault c d => (s.laneFault l c d, none)
  | .word w e0 e1 e2 =>
    if late then (s, none)
    else match decodeStoker w e0 e1 e2, misaligned w [e0, e1, e2] with
    | none, _ => (s.laneFault l fIllcmd w.toNat, none)
    | some _, some a => (s.laneFault l fMisalign a, none)
    | some i, none =>
      if s.runsOff l i then (s.laneFault l fAccess (s.lane l).pc.toNat, none)
      else ((s.fetchLane l (1 + stExtra w)).setLane l { s.lane l with cmd := some (w, e0, e1, e2) }, some i)

/-! ### The Stoker's other events -/

/-- Whether a class's list, or for a borrowable lane any list, is not empty (R375). -/
def State.othersWait (s : State) (l : Nat) : Bool :=
  match laneClass l with
  | some c => !(s.cands c).isEmpty
  | none => (List.range 4).any fun c => !(s.cands c).isEmpty

/-- A quantum (R375). -/
def quantum : Nat := 2 ^ 20 - 2 ^ 16

/-- R375: QUANTUM_EXPIRY of a lane. Every step of the model is a boundary (R376). -/
def execQuantumExpiry (s : State) : Out :=
  match s.cur.arg with
  | .at l _ _ =>
    let k := s.lane l
    if l < 30 ∧ k.queue.isSome = true ∧ k.mappedAt + quantum ≤ s.tick.toNat ∧ s.othersWait l = true then
      .next (s.soon [.event .queueUnmap (.unmap l .quantum)])
    else .next s
  | _ => .next s

/-- The borrower that a class reclaims: of the lowest class, the one mapped most recently (R375). -/
def State.borrower (s : State) (c : Nat) : Option Nat :=
  if (s.cands c).isEmpty || (List.range 30).any (fun l => laneClass l == some c && (s.lane l).queue.isNone) then none
  else
    let bs := ([24, 25, 26, 27, 28, 29] : List Nat).filterMap fun l => match (s.lane l).queue with
      | some q => if c < s.qClass q then some (l, s.qClass q, (s.lane l).mappedAt) else none
      | none => none
    let low := bs.foldl (fun m b => max m b.2.1) 0
    let same := bs.filter fun b => b.2.1 == low
    let latest := same.foldl (fun m b => max m b.2.2) 0
    ((same.filter fun b => b.2.2 == latest).map (·.1)).getLast?

/-- R375: BORROW_RECLAIM of a class. -/
def execBorrowReclaim (s : State) : Out :=
  match s.cur.arg with
  | .at c _ _ => match s.borrower c with
    | some l => .next (s.soon [.event .queueUnmap (.unmap l .quantum)])
    | none => .next s
  | _ => .next s

/-- R379: WAITT_TIMER of a queue. -/
def execWaittTimer (s : State) : Out :=
  match s.cur.arg with
  | .at q _ _ =>
    if s.stoker.timers.any fun t => t.1 == q && decide (t.2.toNat ≤ s.tick.toNat) then .next (s.setWake q) else .next s
  | _ => .next s

/-- R380: WAIT_TIMEOUT of a lane. -/
def execWaitTimeout (s : State) : Out :=
  match s.cur.arg with
  | .at l _ _ =>
    let k := s.lane l
    if l < 30 ∧ k.queue.isSome = true ∧ (k.waitSince.any fun t => decide (t + 2 ^ 16 ≤ s.tick.toNat)) = true then
      .next (s.soon [.event .queueUnmap (.unmap l .quantum)])
    else .next s
  | _ => .next s

/-- A write of a wake register (R371, R465): a function under reset, or one that does not own the queue, has it discarded. -/
def State.wakeQueue (s : State) (fn q : Nat) (put : Nat) (fatal : Bool) : State :=
  if 8192 ≤ q ∨ s.box.inReset.contains fn = true then s
  else if s.qRead q 0x12 2 ≠ fn then s.qTouch q
  else
    let w := s.statew q
    let st := swState w
    let s := s.qTouch q
    if st = qParked ∧ fatal = true then
      let s := s.setQueue q (swWith w put (swFault w) true st)
      s.faultQueue q fAccess (s.savedAt q) (tget 0 s.stoker.missed q) true
    else s.setQueue q (swWith w put (swFault w) true (if st = qIdle ∨ st = qWaiting ∨ st = qParked then qReady else st))

/-- Whether a doorbell of a function, which waits for its phase 2, holds back the function's later posted writes (R466). -/
def State.postedWaits (s : State) (fn : Nat) : Bool :=
  (s.stoker.sigQ.any fun x => x.door && x.ctx == fn) || s.posted.any fun e => e.1 == fn

/-- A posted write of a function performs, or waits its turn behind a doorbell (R466). -/
def State.postedWrite (s : State) (fn : Nat) (i : Instr) (act : State) : Out :=
  .next (if s.postedWaits fn then { s with posted := s.posted ++ [(fn, .event i s.cur.arg)] } else act)

/-- A doorbell of a function waits its turn only behind other posted writes of the function that wait (R384, R466). -/
def State.doorWrite (s : State) (fn : Nat) (i : Instr) (act : State) : Out :=
  .next (if s.posted.any fun e => e.1 == fn then { s with posted := s.posted ++ [(fn, .event i s.cur.arg)] } else act)

/-- R371: WAKE. -/
def execWake (s : State) : Out :=
  match s.cur.arg with
  | .value fn q put => s.postedWrite fn .wake (s.wakeQueue fn q (put.toNat % 2 ^ 32) false)
  | _ => .next s

/-- R371: WAKE_FATAL. -/
def execWakeFatal (s : State) : Out :=
  match s.cur.arg with
  | .value fn q put => s.postedWrite fn .wakeFatal (s.wakeQueue fn q (put.toNat % 2 ^ 32) true)
  | _ => .next s

/-- A doorbell's signal waits for the next phase 2 (R384). -/
def State.doorbell (s : State) (fn sem : Nat) (m : SignalOp) (v : Nat) : State :=
  if 64 ≤ fn ∨ s.box.inReset.contains fn = true then s
  else { s with stoker := { s.stoker with
    sigQ := s.stoker.sigQ ++ [{ ctx := fn, sem := sem % 1024, op := m, value := BitVec.ofNat 64 (v % 2 ^ 32), door := true }] } }

/-- R384: SEMDOOR_SET. -/
def execSemdoorSet (s : State) : Out :=
  match s.cur.arg with
  | .value fn sem v => s.doorWrite fn .semdoorSet (s.doorbell fn sem .set v.toNat)
  | _ => .next s
/-- R384: SEMDOOR_ADD. -/
def execSemdoorAdd (s : State) : Out :=
  match s.cur.arg with
  | .value fn sem v => s.doorWrite fn .semdoorAdd (s.doorbell fn sem .add v.toNat)
  | _ => .next s
/-- R384: SEMDOOR_MAX. -/
def execSemdoorMax (s : State) : Out :=
  match s.cur.arg with
  | .value fn sem v => s.doorWrite fn .semdoorMax (s.doorbell fn sem .max v.toNat)
  | _ => .next s

end Sys2Proof.Machine
end

