-- ==== Sys2Proof/Machine/Flue.lean ====
section
/-! DEFINITION. The Flue (R403-R445): registers and pending results of a line core, stops, the decision of a band, the
slot ops, and the issue of bundles. -/

namespace Sys2Proof.Machine

/-! ### Accessors -/

/-- Line core `n`. -/
def State.line (s : State) (n : Nat) : LineCore := tget LineCore.reset s.flue.lines n
def State.setLine (s : State) (n : Nat) (k : LineCore) : State := { s with flue := { s.flue with lines := tput s.flue.lines n k } }

/-- Perform on the line core that the cursor names. -/
def onLine (s : State) (f : LineCore → State) : Out := if s.cur.line < 64 then .next (f (s.line s.cur.line)) else .fault .noLine
/-- The line core that the cursor names becomes `k`. -/
def State.putLine (s : State) (k : LineCore) : State := s.setLine s.cur.line k

/-- A lane of an f register, and an s register, as an op reads them: a word with an uncorrectable error reads 0 (R424). -/
def LineCore.fl (k : LineCore) (r l : Nat) : Word := if k.badF.contains (64 * r + l) then 0 else tget 0#32 k.f (64 * r + l)
def LineCore.sr (k : LineCore) (r : Nat) : Word := if k.badS.contains r then 0 else tget 0#32 k.s r
/-- A line-buffer word as ldl and ldlx read it (R405, R424). -/
def LineCore.word (k : LineCore) (a : Nat) : Word := if k.badWords.contains (a % 65536) then 0 else tget 0#32 k.lb (a % 65536)
/-- The words with an uncorrectable error that lanes read in these registers, each once, and at these line-buffer addresses (R424). -/
def LineCore.errF (k : LineCore) (rs : List Nat) : List Nat := (rs.eraseDups.flatMap fun r => (List.range 64).map (64 * r + ·)).filter k.badF.contains
def LineCore.errS (k : LineCore) (rs : List Nat) : List Nat := rs.eraseDups.filter k.badS.contains
def LineCore.errWords (k : LineCore) (as : List Nat) : List Nat := as.filter fun a => k.badWords.contains (a % 65536)
/-- FLCSTAT.PSN after reads of these registers and words (R424). -/
def LineCore.sawF (k : LineCore) (rs : List Nat) : LineCore := { k with psn := k.psn || k.errF rs != [] }
def LineCore.sawS (k : LineCore) (rs : List Nat) : LineCore := { k with psn := k.psn || k.errS rs != [] }
def LineCore.sawWords (k : LineCore) (as : List Nat) : LineCore := { k with psn := k.psn || k.errWords as != [] }
/-- Each lane's read of a bad word of its line core leaves an entry in the error ring (R424; log 160). -/
def State.saw (s : State) (es : List Nat) : State := es.foldl (fun s _ => s.lineError s.cur.line) s

/-- An EMPTY w register. -/
def WReg.empty : WReg := { st := .empty, data := [] }
def LineCore.wr (k : LineCore) (r : Nat) : WReg := tget .empty k.w r

/-- The 64 lanes of a result. -/
def lanes64 (f : Nat → Word) : Table Word := (List.range 64).map fun l => (l, f l)

/-- A result of latency `lat` issued now from slot `slot` (R411). -/
def LineCore.push (k : LineCore) (slot lat : Nat) (d : FDest) (vals : Table Word) : LineCore :=
  { k with pend := k.pend ++ [{ due := k.act + lat - 1, issue := k.act, slot := slot, dest := d, vals := vals }] }

/-- A pending result lands. -/
def LineCore.landOne (k : LineCore) (p : Pending) : LineCore :=
  match p.dest with
  | .f r =>
    { k with f := p.vals.foldl (fun (t : Table Word) (e : Nat × Word) => tset 0#32 t (64 * r + e.1) e.2) k.f
             badF := k.badF.filter fun i => decide (i / 64 ≠ r) }
  | .s r => { k with s := tset 0#32 k.s r (tget 0#32 p.vals 0), badS := k.badS.filter fun i => decide (i ≠ r) }
  | .mem =>
    { k with lb := p.vals.foldl (fun (t : Table Word) (e : Nat × Word) => tset 0#32 t e.1 e.2) k.lb
             badWords := k.badWords.filter fun a => (tfind p.vals a).isNone }

/-- The end of an active cycle: its results land, the op issued later prevailing (R411, R413). `pend` is in the order of issue. -/
def LineCore.land (k : LineCore) : LineCore :=
  let due := k.pend.filter fun p => decide (p.due ≤ k.act)
  let k' := due.foldl LineCore.landOne { k with pend := k.pend.filter fun p => decide (k.act < p.due) }
  { k' with act := k.act + 1 }

/-! ### Geometry of a head (R448, R450, R454) -/

def Head.lead (h : Head) : Nat := bits h.cfg.toNat 4 9
def Head.guard (h : Head) : Nat := bits h.cfg.toNat 16 8
def Head.link (h : Head) : Nat := bits h.cfg.toNat 24 4
/-- B, the lines of a band. -/
def Head.bandLines (h : Head) : Nat := 16 * 2 ^ bits h.cfg.toNat 1 2
def Head.vtotal (h : Head) : Nat := bits h.geom.toNat 32 14 + 1
def Head.vactive (h : Head) : Nat := bits h.geom.toNat 16 13 + 1
def Head.hactive (h : Head) : Nat := bits h.geom.toNat 0 13 + 1
/-- T(J). -/
def Head.at_ (h : Head) (j : Nat) : Nat := h.t0 + j * bits h.period.toNat 0 32 / 2 ^ 16
/-- PW for the smallest K that fits. -/
def Head.partWidth (h : Head) : Nat :=
  let pw (k : Nat) : Nat := 64 * ((h.hactive + 64 * k - 1) / (64 * k))
  (([1, 2, 4, 8, 16].find? fun k => decide (h.bandLines * pw k ≤ 32768)).map pw).getD (pw 16)
/-- The parts of a band. -/
def Head.partCount (h : Head) : Nat := (h.hactive + h.partWidth - 1) / h.partWidth

/-! ### The decision of a band (R40, R416, R419, R455, R457) -/

/-- PINS of a state word changes by one, at the home slice (R40). -/
def State.pin (s : State) (w : Nat) : State := s.rawWrite (w + 2) 1 ((s.byteAt (w + 2) + 1) % 256)
def State.unpin (s : State) (w : Nat) : State := s.rawWrite (w + 2) 1 (s.byteAt (w + 2) - 1)

def Head.band? (h : Head) (n : Nat) : Option Band := h.bands.find? fun b => b.n == n
def Head.setBand (h : Head) (b : Band) : Head := { h with bands := h.bands.map fun x => if x.n = b.n then b else x }

/-- A line core's band program stops: its pending results and arrivals are discarded, its w registers EMPTY, and it is idle
(R416). -/
def State.haltLine (s : State) (n cause : Nat) : State :=
  s.setLine n { s.line n with
    pend := [], w := [], delay := none, running := false, ending := false, band := none, walk := [], walkSince := [], noPage := []
    cause := BitVec.ofNat 8 cause, stopped := true }

/-- Release the regions of a band (R455). -/
def State.dropRegions (s : State) (h n : Nat) : State :=
  { s with flue := { s.flue with lines := s.flue.lines.map fun (e : Nat × LineCore) =>
      (e.1, { e.2 with regions := e.2.regions.filter fun r => !(r.head == h && r.band == n) }) } }

/-- Parts of a band that still run stop with ABORT, all but the one kept (R419). A part whose issue has ended runs no more, and its
results land as they would (log 161). -/
def State.abortBand (s : State) (h n : Nat) (keep : Option Nat) : State :=
  let runs := s.flue.lines.filter fun (e : Nat × LineCore) => e.2.running && match e.2.band with
    | some r => r.head == h && r.band == n && some r.part != keep
    | none => false
  runs.foldl (fun s e => s.haltLine e.1 5) s

/-- A band falls back, unless it is decided (R419, R457). -/
def State.fallBack (s : State) (h n reason : Nat) (keep : Option Nat) : State :=
  let d := s.head h
  match d.band? n with
  | none => s
  | some b =>
    if b.decision = .undecided then
      let last := n / d.vtotal % 2 ^ 32 * 2 ^ 32 + n % d.vtotal * 2 ^ 16 + reason
      let s := match b.pinned, b.slot with | true, some w => s.unpin w | _, _ => s
      let s := s.setHead h ({ s.head h with falls := d.falls + 1, last := BitVec.ofNat 64 last }.setBand { b with decision := .fell, pinned := false })
      (s.dropRegions h n).abortBand h n keep
    else s

/-- A part is marked ready; the band is ready with its last part (R419). -/
def State.markReady (s : State) (h n part : Nat) : State :=
  let d := s.head h
  match d.band? n with
  | none => s
  | some b =>
    if b.decision = .undecided then
      let parts := b.parts.mapIdx fun i p => if i = part then { p with ready := true } else p
      if parts.all (·.ready) then
        let s := match b.pinned, b.slot with | true, some w => s.unpin w | _, _ => s
        s.setHead h ({ s.head h with readies := d.readies + 1 }.setBand { b with parts := parts, decision := .ready, pinned := false })
      else s.setHead h (d.setBand { b with parts := parts })
    else s

/-- A stop of a line core; an undecided band falls back with it (R416). -/
def State.stopLine (s : State) (n cause : Nat) : State :=
  match (s.line n).band with
  | some r => (s.haltLine n cause).fallBack r.head r.band 4 none
  | none => s.haltLine n cause

/-! ### Shapes of the slot ops -/

/-- A scalar result of registers `rs` (R425). -/
def scalarOp (s : State) (d : BitVec 5) (rs : List Nat) (f : LineCore → Word) : Out :=
  onLine s fun k => (s.saw (k.errS rs)).putLine ((k.sawS rs).push s.cur.fslot 1 (.s d.toNat) [(0, f k)])

/-- The register form and the immediate form of the scalar family. -/
def scalarReg (s : State) (d a b : BitVec 5) (f : Word → Word → Word) : Out :=
  scalarOp s d [a.toNat, b.toNat] fun k => f (k.sr a.toNat) (k.sr b.toNat)
def scalarImm (s : State) (d a : BitVec 5) (imm : BitVec 6) (f : Word → Word → Word) : Out :=
  scalarOp s d [a.toNat] fun k => f (k.sr a.toNat) (imm.setWidth 32)

/-- The results of the scalar family (R425). -/
def sShl (a b : Word) : Word := if b.toNat < 32 then a <<< b.toNat else 0
def sShr (a b : Word) : Word := if b.toNat < 32 then a >>> b.toNat else 0
def sSlt (a b : Word) : Word := if a.slt b then 1 else 0

/-- A vector result of latency `lat`, lane by lane, from f registers `rs`. -/
def vecOp (s : State) (lat : Nat) (d : BitVec 6) (rs : List Nat) (f : LineCore → Nat → Word) : Out :=
  onLine s fun k => (s.saw (k.errF rs)).putLine ((k.sawF rs).push s.cur.fslot lat (.f d.toNat) (lanes64 (f k)))

def vec1 (s : State) (lat : Nat) (d a : BitVec 6) (f : Word → Word) : Out := vecOp s lat d [a.toNat] fun k l => f (k.fl a.toNat l)
def vec2 (s : State) (lat : Nat) (d a b : BitVec 6) (f : Word → Word → Word) : Out :=
  vecOp s lat d [a.toNat, b.toNat] fun k l => f (k.fl a.toNat l) (k.fl b.toNat l)
def vec3 (s : State) (lat : Nat) (d a b c : BitVec 6) (f : Word → Word → Word → Word) : Out :=
  vecOp s lat d [a.toNat, b.toNat, c.toNat] fun k l => f (k.fl a.toNat l) (k.fl b.toNat l) (k.fl c.toNat l)
def vecI (s : State) (lat : Nat) (d a imm : BitVec 6) (f : Word → Word → Word) : Out :=
  vecOp s lat d [a.toNat] fun k l => f (k.fl a.toNat l) (imm.setWidth 32)

/-- binary32 under RNE, without flags (R433). -/
def f32 : Fmt := fmtOf 0xA 0
def f32T : Target := f32.target .rne 0
def toF32 (r : Rounded) : Word := BitVec.ofNat 32 (f32.encode r.v)
def ofF32 (x : Word) : FV := f32.decode x.toNat
/-- All ones for a true relation. -/
def flag32 (b : Bool) : Word := if b then 0xFFFFFFFF else 0
/-- A relation of R435. -/
def fcmp32 (f : Ordering → Bool) (a b : Word) : Word :=
  flag32 (!((ofF32 a).isNan || (ofF32 b).isNan) && f (cmpFV (ofF32 a) (ofF32 b)))

/-- Shifts of R436, as those of R151 with 32 bits. -/
def vShl (a b : Word) : Word := if b.toNat < 32 then a <<< b.toNat else 0
def vShr (a b : Word) : Word := if b.toNat < 32 then a >>> b.toNat else 0
def vSar (a b : Word) : Word := if b.toNat < 32 then a.sshiftRight b.toNat else if a.msb then 0xFFFFFFFF else 0

/-! ### Scalar ops (R425-R428) -/

/-- R425: sadd. -/
def execSadd (d a b : BitVec 5) (s : State) : Out := scalarReg s d a b (· + ·)
/-- R425: ssub. -/
def execSsub (d a b : BitVec 5) (s : State) : Out := scalarReg s d a b (· - ·)
/-- R425: sand. -/
def execSand (d a b : BitVec 5) (s : State) : Out := scalarReg s d a b (· &&& ·)
/-- R425: sor. -/
def execSor (d a b : BitVec 5) (s : State) : Out := scalarReg s d a b (· ||| ·)
/-- R425: sxor. -/
def execSxor (d a b : BitVec 5) (s : State) : Out := scalarReg s d a b (· ^^^ ·)
/-- R425: sshl. -/
def execSshl (d a b : BitVec 5) (s : State) : Out := scalarReg s d a b sShl
/-- R425: sshr. -/
def execSshr (d a b : BitVec 5) (s : State) : Out := scalarReg s d a b sShr
/-- R425: smul. -/
def execSmul (d a b : BitVec 5) (s : State) : Out := scalarReg s d a b (· * ·)
/-- R425: sslt. -/
def execSslt (d a b : BitVec 5) (s : State) : Out := scalarReg s d a b sSlt
/-- R425: saddi. -/
def execSaddi (d a : BitVec 5) (imm : BitVec 6) (s : State) : Out := scalarImm s d a imm (· + ·)
/-- R425: ssubi. -/
def execSsubi (d a : BitVec 5) (imm : BitVec 6) (s : State) : Out := scalarImm s d a imm (· - ·)
/-- R425: sandi. -/
def execSandi (d a : BitVec 5) (imm : BitVec 6) (s : State) : Out := scalarImm s d a imm (· &&& ·)
/-- R425: sori. -/
def execSori (d a : BitVec 5) (imm : BitVec 6) (s : State) : Out := scalarImm s d a imm (· ||| ·)
/-- R425: sxori. -/
def execSxori (d a : BitVec 5) (imm : BitVec 6) (s : State) : Out := scalarImm s d a imm (· ^^^ ·)
/-- R425: sshli. -/
def execSshli (d a : BitVec 5) (imm : BitVec 6) (s : State) : Out := scalarImm s d a imm sShl
/-- R425: sshri. -/
def execSshri (d a : BitVec 5) (imm : BitVec 6) (s : State) : Out := scalarImm s d a imm sShr
/-- R425: smuli. -/
def execSmuli (d a : BitVec 5) (imm : BitVec 6) (s : State) : Out := scalarImm s d a imm (· * ·)
/-- R425: sslti. -/
def execSslti (d a : BitVec 5) (imm : BitVec 6) (s : State) : Out := scalarImm s d a imm sSlt
/-- R426: sldl. -/
def execSldl (d : BitVec 5) (imm : BitVec 18) (s : State) : Out := scalarOp s d [] fun _ => imm.setWidth 32
/-- R426: sldh. -/
def execSldh (d : BitVec 5) (imm : BitVec 18) (s : State) : Out :=
  scalarOp s d [d.toNat] fun k => imm ++ (k.sr d.toNat).setWidth 14

/-- R427: sget. FCYC and ACYC are read before they count the issue cycle. -/
def execSget (d : BitVec 5) (sel : BitVec 6) (s : State) : Out :=
  onLine s fun k =>
    let v : Word := match sel.toNat with
      | 0 => s.tick.setWidth 32
      | 1 => k.tickHi
      | 2 => s.flue.fcyc.setWidth 32
      | 3 => k.acyc.setWidth 32
      | _ => BitVec.ofNat 32 s.cur.line
    let k := if sel = 0 then { k with tickHi := (s.tick >>> 32).setWidth 32 } else k
    s.putLine (k.push s.cur.fslot 1 (.s d.toNat) [(0, v)])

/-- R428: vext. -/
def execVext (d : BitVec 5) (a lane : BitVec 6) (s : State) : Out :=
  onLine s fun k =>
    let bad := k.badF.contains (64 * a.toNat + lane.toNat)
    let k' := { k with psn := k.psn || bad }
    (if bad then s.lineError s.cur.line else s).putLine (k'.push s.cur.fslot 1 (.s d.toNat) [(0, k.fl a.toNat lane.toNat)])

/-! ### Branches (R414, R429) -/

/-- A branch with its two delay slots; one that is not taken goes on behind them. -/
def LineCore.branch (k : LineCore) (taken : Bool) (off : Int) : LineCore :=
  { k with delay := some (2, some (if taken then k.pc + off else k.pc + 3)) }

/-- R429: br. -/
def execFlueBr (off : BitVec 18) (s : State) : Out := onLine s fun k => s.putLine (k.branch true off.toInt)
/-- R429: bz. -/
def execBz (a : BitVec 5) (off : BitVec 12) (s : State) : Out :=
  onLine s fun k => (s.saw (k.errS [a.toNat])).putLine ((k.sawS [a.toNat]).branch (k.sr a.toNat == 0) off.toInt)
/-- R429: bnz. -/
def execBnz (a : BitVec 5) (off : BitVec 12) (s : State) : Out :=
  onLine s fun k => (s.saw (k.errS [a.toNat])).putLine ((k.sawS [a.toNat]).branch (k.sr a.toNat != 0) off.toInt)
/-- R419, R429: fend. -/
def execFend (s : State) : Out := onLine s fun k => s.putLine { k with delay := some (2, none) }

/-! ### The line buffer (R430, R432) -/

/-- R430: ldl. -/
def execLdl (d : BitVec 6) (a : BitVec 5) (s : State) : Out :=
  onLine s fun k =>
    let at_ (l : Nat) : Nat := (k.sr a.toNat).toNat + l
    (s.saw (k.errS [a.toNat] ++ k.errWords ((List.range 64).map at_))).putLine
      (((k.sawS [a.toNat]).sawWords ((List.range 64).map at_)).push s.cur.fslot 6 (.f d.toNat) (lanes64 fun l => k.word (at_ l)))
/-- R430: ldlx. -/
def execLdlx (d a : BitVec 6) (s : State) : Out :=
  onLine s fun k =>
    let at_ (l : Nat) : Nat := (k.fl a.toNat l).toNat
    (s.saw (k.errF [a.toNat] ++ k.errWords ((List.range 64).map at_))).putLine
      (((k.sawF [a.toNat]).sawWords ((List.range 64).map at_)).push s.cur.fslot 6 (.f d.toNat) (lanes64 fun l => k.word (at_ l)))

/-- The words that a store writes, by address: the highest lane prevails. -/
def storeVals (at_ : Nat → Nat) (v : Nat → Word) : Table Word :=
  (List.range 64).foldl (fun (t : Table Word) l => tput t (at_ l % 65536) (v l)) []

/-- R432: stl. -/
def execStl (a : BitVec 5) (b : BitVec 6) (s : State) : Out :=
  onLine s fun k =>
    (s.saw (k.errS [a.toNat] ++ k.errF [b.toNat])).putLine (((k.sawS [a.toNat]).sawF [b.toNat]).push s.cur.fslot 1 .mem
      (storeVals (fun l => (k.sr a.toNat).toNat + l) (k.fl b.toNat)))
/-- R432: stlx. -/
def execStlx (a b : BitVec 6) (s : State) : Out :=
  onLine s fun k =>
    (s.saw (k.errF [a.toNat, b.toNat])).putLine
      ((k.sawF [a.toNat, b.toNat]).push s.cur.fslot 1 .mem (storeVals (fun l => (k.fl a.toNat l).toNat) (k.fl b.toNat)))

/-! ### Loads into w registers (R420-R424, R431) -/

/-- The words that a load brings: the state as the reads leave it, the word of each lane, and where lanes met poison. -/
abbrev Gather := State × Table Word × List Nat

/-- Read one word for a lane at the home slice, the host or a peer. What a peer that refuses gives is not stated: a free
value. -/
def State.gatherWord (s : State) (acc : Table Word) (bad : List Nat) (l pa : Nat) : Gather :=
  match s.homeRead pa 4 with
  | .ok v => (s.cacheTouch pa 4 false, acc ++ [(l, BitVec.ofNat 32 v)], bad)
  | .poison => (s.cacheTouch pa 4 false, acc ++ [(l, 0)], bad ++ [pa])
  | .refused => (s.fresh, acc ++ [(l, (Config.freeWord s.free).setWidth 32)], bad)

/-- The lanes that met poison leave their entries in the error ring (R424). -/
def State.gathered (s : State) (bad : List Nat) : State := bad.foldl State.memError s

/-- The header of the slot that a line core's band reads. -/
def State.bandSlot (s : State) (k : LineCore) : Option SlotHdr :=
  k.band.bind fun r => ((s.head r.head).band? r.band).bind fun b => b.hdr

/-- A word clamped to 0 to `n` - 1 (R420, R457). -/
def clampTo (n : Nat) (x : Int) : Nat := (min (max x 0) ((n : Int) - 1)).toNat

/-- R420: ldm of a plane; a register that is not EMPTY stops the band (R431). -/
def ldmWord (s : State) (d : BitVec 3) (a b : BitVec 6) (plane : SlotHdr → Nat) : Out :=
  onLine s fun k =>
    if (k.wr d.toNat).st ≠ .empty then s.stopLine s.cur.line 2
    else
      let k := k.sawF [a.toNat, b.toNat]
      let (s, vals, bad) := (List.range 64).foldl (fun (g : Gather) l =>
        let (s, acc, bad) := g
        match s.bandSlot k with
        | some h =>
          let x := clampTo h.width (k.fl a.toNat l).toInt
          let y := clampTo h.height (k.fl b.toNat l).toInt
          s.gatherWord acc bad l (h.base + plane h + y * h.pitch + 4 * x)
        | none => (s.fresh, acc ++ [(l, (Config.freeWord s.free).setWidth 32)], bad)) (s, [], [])
      ((s.saw (k.errF [a.toNat, b.toNat])).gathered bad).putLine
        { k with w := tput k.w d.toNat { st := .pending, data := vals }, psn := k.psn || bad != [] }

/-- R420: ldm.c. -/
def execLdmC (d : BitVec 3) (a b : BitVec 6) (s : State) : Out := ldmWord s d a b (·.cplane)
/-- R420: ldm.d. -/
def execLdmD (d : BitVec 3) (a b : BitVec 6) (s : State) : Out := ldmWord s d a b (·.dplane)
/-- R420: ldm.m. -/
def execLdmM (d : BitVec 3) (a b : BitVec 6) (s : State) : Out := ldmWord s d a b (·.mplane)

/-- FLUECTL.CONTEXT. -/
def State.flueCtx (s : State) : Nat := bits s.flue.ctl.toNat 1 6

/-- The address of a lane of ldg (R422). -/
def LineCore.ldgVa (k : LineCore) (a : BitVec 5) (b : BitVec 6) (l : Nat) : Nat :=
  ((k.sr a.toNat).toNat + 2 ^ 32 * (k.sr (a.toNat + 1)).toNat + (k.fl b.toNat l).toNat) % 2 ^ 64 / 4 * 4

/-- An address that ldg never translates (R165, R422). -/
def ldgOut (va : Nat) : Bool := decide (0x01FFFFFC00000000 ≤ va)

/-- The pages of an ldg that neither TLB holds and that no walk of it has ended without (R415, R422). -/
def State.ldgMissing (s : State) (k : LineCore) (a : BitVec 5) (b : BitVec 6) : List Nat :=
  (((List.range 64).map (k.ldgVa a b)).filter fun va =>
    !ldgOut va && (tlbFind (k.utlb ++ s.flue.tlb) s.flueCtx va).isNone && !k.noPage.contains (pageOf va)).map pageOf |>.eraseDups

/-- The walks that an ldg asks for; a page keeps the tick at which it was first asked for (R346, R422). -/
def LineCore.askWalks (k : LineCore) (t : Nat) (ps : List Nat) : LineCore :=
  { k with walk := ps, walkSince := ps.foldl (fun (w : Table Nat) p => if (tfind w p).isSome then w else tput w p t) k.walkSince }

/-- R422, R423: ldg. While a page is missing the core freezes, and its walks are asked for. -/
def execLdg (d : BitVec 3) (a : BitVec 5) (b : BitVec 6) (s : State) : Out :=
  onLine s fun k =>
    if (k.wr d.toNat).st ≠ .empty then s.stopLine s.cur.line 2
    else if s.ldgMissing k a b ≠ [] then s.putLine (k.askWalks s.tick.toNat (s.ldgMissing k a b))
    else
      let seen := k.errS [a.toNat, a.toNat + 1] ++ k.errF [b.toNat]
      let k := (k.sawS [a.toNat, a.toNat + 1]).sawF [b.toNat]
      let out (va : Nat) : Bool := ldgOut va || match tlbFind (k.utlb ++ s.flue.tlb) s.flueCtx va with
        | some e => !e.r
        | none => true
      let (s, vals, bad) := (List.range 64).foldl (fun (g : Gather) l =>
        let (s, acc, bad) := g
        let va := k.ldgVa a b l
        match tlbFind (k.utlb ++ s.flue.tlb) s.flueCtx va with
        | some e => if out va then (s, acc ++ [(l, 0)], bad) else s.gatherWord acc bad l (e.pa + (va - e.va))
        | none => (s, acc ++ [(l, 0)], bad)) (s, [], [])
      ((s.saw seen).gathered bad).putLine { k with
        w := tput k.w d.toNat { st := .pending, data := vals }, psn := k.psn || bad != [], noPage := [], walk := [], walkSince := []
        xlf := k.xlf || (List.range 64).any fun l => out (k.ldgVa a b l) }

/-- R431: wtk: a PENDING register freezes the core, an EMPTY one stops the band. -/
def execWtk (d : BitVec 6) (a : BitVec 3) (s : State) : Out :=
  onLine s fun k => match (k.wr a.toNat).st with
    | .full =>
      s.putLine ({ k with w := tput k.w a.toNat .empty }.push s.cur.fslot 1 (.f d.toNat) (lanes64 fun l => tget 0#32 (k.wr a.toNat).data l))
    | .pending => s
    | .empty => s.stopLine s.cur.line 3

/-! ### Vector floating point (R433-R435) -/

/-- R433: vfadd. -/
def execVfadd (d a b : BitVec 6) (s : State) : Out := vec2 s 3 d a b fun x y => toF32 (roundSum f32T [ofF32 x, ofF32 y])
/-- R433: vfsub. -/
def execVfsub (d a b : BitVec 6) (s : State) : Out := vec2 s 3 d a b fun x y => toF32 (roundSum f32T [ofF32 x, (ofF32 y).negate])
/-- R433: vfmul. -/
def execVfmul (d a b : BitVec 6) (s : State) : Out := vec2 s 4 d a b fun x y => toF32 (roundMul f32T (ofF32 x) (ofF32 y))
/-- R433: vffma. -/
def execVffma (d a b c : BitVec 6) (s : State) : Out :=
  vec3 s 5 d a b c fun x y z => toF32 (roundFma f32T (ofF32 x) (ofF32 y) (ofF32 z))
/-- R433: vfmin. -/
def execVfmin (d a b : BitVec 6) (s : State) : Out := vec2 s 3 d a b fun x y => BitVec.ofNat 32 (minMaxBits f32 false x.toNat y.toNat)
/-- R433: vfmax. -/
def execVfmax (d a b : BitVec 6) (s : State) : Out := vec2 s 3 d a b fun x y => BitVec.ofNat 32 (minMaxBits f32 true x.toNat y.toNat)
/-- R433: vfrcp. -/
def execVfrcp (d a : BitVec 6) (s : State) : Out := vec1 s 8 d a fun x => toF32 (orNan (ofF32 x) (rcpFV f32T (ofF32 x)))
/-- R433: vfrsqrt. -/
def execVfrsqrt (d a : BitVec 6) (s : State) : Out := vec1 s 8 d a fun x => toF32 (orNan (ofF32 x) (rsqrtFV f32T (ofF32 x)))

/-- R434: a binary32 value as a signed 32-bit integer. -/
def cvtFI (x : Word) : Word :=
  match ofF32 x with
  | .nan _ => 0
  | .inf n => if n then 0x80000000 else 0x7FFFFFFF
  | .fin n m e =>
    let k := (toInteger .rne 0 n m e).1
    if n then (if 2 ^ 31 < k then 0x80000000 else BitVec.ofInt 32 (-(k : Int))) else if 2 ^ 31 ≤ k then 0x7FFFFFFF else BitVec.ofNat 32 k

/-- R434: a signed integer in binary32. -/
def cvtIF (x : Word) : Word := toF32 (roundFin f32T x.msb x.toInt.natAbs 0)

/-- R434: vcvtfi. -/
def execVcvtfi (d a : BitVec 6) (s : State) : Out := vec1 s 3 d a cvtFI
/-- R434: vcvtif. -/
def execVcvtif (d a : BitVec 6) (s : State) : Out := vec1 s 3 d a cvtIF
/-- R435: vfclt. -/
def execVfclt (d a b : BitVec 6) (s : State) : Out := vec2 s 3 d a b (fcmp32 fun o => o == .lt)
/-- R435: vfcle. -/
def execVfcle (d a b : BitVec 6) (s : State) : Out := vec2 s 3 d a b (fcmp32 fun o => o != .gt)
/-- R435: vfceq. -/
def execVfceq (d a b : BitVec 6) (s : State) : Out := vec2 s 3 d a b (fcmp32 fun o => o == .eq)

/-- binary16. -/
def f16 : Fmt := fmtOf 8 0
/-- R434: vh2f. -/
def execVh2f (d a imm : BitVec 6) (s : State) : Out :=
  vec1 s 3 d a fun x => toF32 (roundFV f32T (f16.decode (bits x.toNat (16 * imm.toNat) 16)))
/-- R434: vf2h. -/
def execVf2h (d a b : BitVec 6) (s : State) : Out :=
  vec2 s 3 d a b fun x y =>
    let h (z : Word) : Nat := f16.encode (roundFV (f16.target .rne 0) (ofF32 z)).v
    BitVec.ofNat 32 (h x + h y * 2 ^ 16)

/-! ### Vector integers and moves (R436, R437) -/

/-- R436: viadd. -/
def execViadd (d a b : BitVec 6) (s : State) : Out := vec2 s 3 d a b (· + ·)
/-- R436: visub. -/
def execVisub (d a b : BitVec 6) (s : State) : Out := vec2 s 3 d a b (· - ·)
/-- R436: vand. -/
def execVand (d a b : BitVec 6) (s : State) : Out := vec2 s 3 d a b (· &&& ·)
/-- R436: vor. -/
def execVor (d a b : BitVec 6) (s : State) : Out := vec2 s 3 d a b (· ||| ·)
/-- R436: vxor. -/
def execVxor (d a b : BitVec 6) (s : State) : Out := vec2 s 3 d a b (· ^^^ ·)
/-- R436: vshl. -/
def execVshl (d a b : BitVec 6) (s : State) : Out := vec2 s 3 d a b vShl
/-- R436: vshr. -/
def execVshr (d a b : BitVec 6) (s : State) : Out := vec2 s 3 d a b vShr
/-- R436: vsar. -/
def execVsar (d a b : BitVec 6) (s : State) : Out := vec2 s 3 d a b vSar
/-- R436: vimul. -/
def execVimul (d a b : BitVec 6) (s : State) : Out := vec2 s 4 d a b (· * ·)
/-- R436: viclt. -/
def execViclt (d a b : BitVec 6) (s : State) : Out := vec2 s 3 d a b fun x y => flag32 (x.slt y)
/-- R436: vieq. -/
def execVieq (d a b : BitVec 6) (s : State) : Out := vec2 s 3 d a b fun x y => flag32 (x == y)
/-- R436: viaddi. -/
def execViaddi (d a imm : BitVec 6) (s : State) : Out := vecI s 3 d a imm (· + ·)
/-- R436: visubi. -/
def execVisubi (d a imm : BitVec 6) (s : State) : Out := vecI s 3 d a imm (· - ·)
/-- R436: vandi. -/
def execVandi (d a imm : BitVec 6) (s : State) : Out := vecI s 3 d a imm (· &&& ·)
/-- R436: vori. -/
def execVori (d a imm : BitVec 6) (s : State) : Out := vecI s 3 d a imm (· ||| ·)
/-- R436: vxori. -/
def execVxori (d a imm : BitVec 6) (s : State) : Out := vecI s 3 d a imm (· ^^^ ·)
/-- R436: vshli. -/
def execVshli (d a imm : BitVec 6) (s : State) : Out := vecI s 3 d a imm vShl
/-- R436: vshri. -/
def execVshri (d a imm : BitVec 6) (s : State) : Out := vecI s 3 d a imm vShr
/-- R436: vsari. -/
def execVsari (d a imm : BitVec 6) (s : State) : Out := vecI s 3 d a imm vSar
/-- R436: vimuli. -/
def execVimuli (d a imm : BitVec 6) (s : State) : Out := vecI s 4 d a imm (· * ·)
/-- R436: viclti. -/
def execViclti (d a imm : BitVec 6) (s : State) : Out := vecI s 3 d a imm fun x y => flag32 (x.slt y)
/-- R436: vieqi. -/
def execVieqi (d a imm : BitVec 6) (s : State) : Out := vecI s 3 d a imm fun x y => flag32 (x == y)

/-- R437: vsel. -/
def execVsel (d a b c : BitVec 6) (s : State) : Out := vec3 s 3 d a b c fun x y z => if z ≠ 0 then x else y
/-- R437: vbcast. -/
def execVbcast (d : BitVec 6) (a : BitVec 5) (s : State) : Out :=
  onLine s fun k => (s.saw (k.errS [a.toNat])).putLine ((k.sawS [a.toNat]).push s.cur.fslot 3 (.f d.toNat) (lanes64 fun _ => k.sr a.toNat))
/-- R437: vlane. -/
def execVlane (d : BitVec 6) (s : State) : Out := vecOp s 3 d [] fun _ l => BitVec.ofNat 32 l
/-- R437: vmov. -/
def execVmov (d a : BitVec 6) (s : State) : Out := vec1 s 3 d a id

/-! ### mmul and the Damper commands (R438, R439, R461) -/

/-- R438: mmul. -/
def execMmul (d a b c : BitVec 6) (s : State) : Out :=
  vecOp s 12 d [a.toNat, b.toNat, c.toNat] fun k l =>
    let i := l / 8
    let j := l % 8
    let h (r n : Nat) : FV := f16.decode (bits (k.fl r n).toNat 0 16)
    crucSum 0 false (ofF32 (k.fl c.toNat l) :: (List.range 8).map fun m => prodFV false (h a.toNat (8 * i + m)) (h b.toNat (8 * m + j)))

/-- R419: dready. -/
def execDready (s : State) : Out :=
  onLine s fun k => match k.band with | some r => s.markReady r.head r.band r.part | none => s
/-- R419: dfall. -/
def execDfall (s : State) : Out :=
  onLine s fun k => match k.band with | some r => s.fallBack r.head r.band 3 (some r.part) | none => s

/-! ### Issue (R407-R415, R419) -/

/-- The op range of a slot (R409). -/
def slotTakes (i op : Nat) : Bool :=
  match i with
  | 0 => decide (1 ≤ op ∧ op ≤ 0x1F)
  | 1 => decide (0x20 ≤ op ∧ op ≤ 0x27)
  | 2 => decide (0x28 ≤ op ∧ op ≤ 0x2F)
  | 7 => decide ((0xA0 ≤ op ∧ op ≤ 0xA7) ∨ (0xE0 ≤ op ∧ op ≤ 0xE7))
  | _ => decide (0x40 ≤ op ∧ op ≤ 0x7F)

/-- A branch or fend. -/
def redirects (i : Instr) : Bool := match i with | .flueBr _ | .bz _ _ | .bnz _ _ | .fend => true | _ => false

/-- Slot `i` of a bundle. -/
def bundleSlot (b : BitVec 256) (i : Nat) : BitVec 32 := b.extractLsb' (32 * i) 32

/-- The ops of a bundle in ascending slot, or none where it fails the check (R409, R414). -/
def bundleOps (b : BitVec 256) (inDelay : Bool) : Option (List (Nat × Instr)) :=
  ((List.range 8).filter fun i => bundleSlot b i != 0).mapM fun i =>
    let w := bundleSlot b i
    match decodeFlue w with
    | some op => if slotTakes i (bits w.toNat 24 8) && !(inDelay && redirects op) then some (i, op) else none
    | none => none

/-- Whether an op stops the band or freezes the core instead of issuing (R415, R431). -/
def State.holdsUp (s : State) (k : LineCore) (op : Instr) : Bool :=
  match op with
  | .wtk _ a => (k.wr a.toNat).st != .full
  | .ldmC d _ _ | .ldmD d _ _ | .ldmM d _ _ => (k.wr d.toNat).st != .empty
  | .ldg d a b => (k.wr d.toNat).st != .empty || s.ldgMissing k a b != []
  | _ => false

/-- Issue ops one by one; each reads the registers as they stood at issue, since no result lands before the cycle ends. -/
def runOps (ex : Instr → State → Out) (n : Nat) : List (Nat × Instr) → State → Out
  | [], s => .next s
  | (i, op) :: rest, s =>
    match ex op { s with cur := { s.cur with line := n, fslot := i } } with
    | .next t => runOps ex n rest t
    | o => o

/-- The program ends its issue: the w registers are EMPTY, and the core is idle once its results have landed (R411, R419). -/
def LineCore.finish (k : LineCore) : LineCore :=
  { k with w := [], delay := none, running := false, ending := !k.pend.isEmpty, band := if k.pend.isEmpty then none else k.band, walk := []
           walkSince := [], noPage := [] }

/-- The end of an issue cycle. `was` is the delay state before the bundle, `redir` whether it redirected issue (R411, R414). -/
def LineCore.endCycle (k : LineCore) (was : Option (Nat × Option Int)) (redir : Bool) : LineCore :=
  let k := { k.land with acyc := k.acyc + 1, pc := k.pc + 1 }
  if redir then k
  else match was with
    | some (1, some t) => { k with delay := none, pc := t }
    | some (1, none) => k.finish
    | some (m, t) => { k with delay := some (m - 1, t) }
    | none => k

/-- A cycle of a core whose issue has ended: results land as in an active cycle (R411). -/
def LineCore.drain (k : LineCore) : LineCore :=
  let k := k.land
  if k.pend.isEmpty then { k with ending := false, band := none } else k

/-- One Flue cycle of a line core: the bundle at its PC issues, stops the band, or waits. -/
def State.bundleTurn (ex : Instr → State → Out) (s : State) (n : Nat) : Out :=
  let k := s.line n
  if k.ending then .next (s.setLine n k.drain)
  else if !k.running then .next s
  else if k.pc < 0 ∨ 8192 ≤ k.pc then .next (s.stopLine n 4)
  else match bundleOps (tget 0#256 s.flue.code k.pc.toNat) k.delay.isSome with
    | none => .next (s.stopLine n 1)
    | some ops =>
      match ops.find? fun (e : Nat × Instr) => s.holdsUp k e.2 with
      | some e => ex e.2 { s with cur := { s.cur with line := n, fslot := e.1 } }
      | none =>
        match runOps ex n ops s with
        | .next t =>
          let k' := t.line n
          .next (if k'.running then t.setLine n (k'.endCycle k.delay (ops.any fun (e : Nat × Instr) => redirects e.2)) else t)
        | o => o

/-! ### Events of the Flue -/

/-- R404: W_ARRIVAL of a w register of a line core. -/
def execWArrival (s : State) : Out :=
  match s.cur.arg with
  | .at n r _ =>
    let k := s.line n
    .next (if (k.wr r).st = .pending then s.setLine n { k with w := tput k.w r { k.wr r with st := .full } } else s)
  | _ => .next s

/-- R422: FLUE_WALK_COMPLETE of a line core: the first of the pages that its ldg misses. -/
def execFlueWalkComplete (s : State) : Out :=
  match s.cur.arg with
  | .at n _ _ =>
    let k := s.line n
    match k.walk with
    | [] => .next s
    | p :: rest =>
      let r := s.walk s.flueCtx p (Config.contChoice s.free)
      let s := (s.touchWalk s.flueCtx p).fresh
      let since := tget s.tick.toNat k.walkSince p
      let k := { k with walk := rest, walkSince := tdel k.walkSince p }
      let fault (fatal : Bool) : FbEntry :=
        { va := BitVec.ofNat 64 p, ctx := s.flueCtx, kind := if fatal then 0x81 else 1, source := 4, unit_ := n, merges := 1
          tick := BitVec.ofNat 64 since, tag := 0xFFFFFFFF }
      match r with
      | .leaf e => .next ({ s with flue := { s.flue with tlb := tlbAdd s.flue.tlb 4096 e } }.setLine n { k with utlb := tlbAdd k.utlb 64 e })
      | .invalid => .next ((s.setLine n { k with noPage := sinsert k.noPage p }).postFault (fault false))
      | .malformed => .next ((s.setLine n { k with noPage := sinsert k.noPage p }).postFault (fault true))
  | _ => .next s

/-- R406: FLUE_CYCLE: FCYC counts the cycle. -/
def execFlueCycle (s : State) : Out := .next { s with flue := { s.flue with fcyc := s.flue.fcyc + 1 } }

/-- A write of one code-store entry reaches every line core (R441). -/
def State.writeFcode (s : State) (b : Nat) (v : BitVec 256) : State :=
  if b < 8192 then { s with flue := { s.flue with code := tset 0#256 s.flue.code b v } } else s

/-- R441: FCODE_WRITE. -/
def execFcodeWrite (s : State) : Out :=
  match s.cur.arg with
  | .value b _ v => .next (s.writeFcode b v)
  | _ => .next s

end Sys2Proof.Machine
end

