-- ==== Sys2Proof/Machine/Damper.lean ====
section
/-! DEFINITION. The Damper (R446-R462): the registers of the heads, the enable checks, the beam, latches, deadlines,
scan-out, memory heads, and the retiring of Mantel slots (R36-R40). -/

namespace Sys2Proof.Machine

/-! ### Mantel slots (R37, R38, R40) -/

/-- Serial comparison: `a` is later than `b` (R37, R452). -/
def laterSeq (a b : Nat) : Bool := decide (1 ≤ (a + 2 ^ 32 - b) % 2 ^ 32 ∧ (a + 2 ^ 32 - b) % 2 ^ 32 ≤ 2 ^ 31 - 1)

/-- The state words of a set, in ascending index. -/
def slotsOf (d : DWord) : List Nat := let (b, k, g) := setOf d; (List.range k).map fun i => b + i * 2 ^ g

/-- The PUBLISHED slot of a set with the latest SEQ; of equal ones the lower index counts as later (R37, R40). -/
def State.newestSlot (s : State) (d : DWord) : Option Nat :=
  (slotsOf d).foldl (fun (best : Option Nat) w =>
    let x := s.rawRead w 8
    if bits x 0 4 ≠ 2 then best
    else match best with
      | none => some w
      | some y => if laterSeq (bits x 32 32) (bits (s.rawRead y 8) 32 32) then some w else best) none

/-- Whether the home slice is to retire the slot at `w` of a set: PUBLISHED, unpinned, and not the latest (R37). -/
def State.mustRetire (s : State) (d : DWord) (w : Nat) : Bool :=
  let x := s.rawRead w 8
  bits x 0 4 == 2 && bits x 16 8 == 0 &&
  (slotsOf d).any fun v =>
    let y := s.rawRead v 8
    v != w && bits y 0 4 == 2 && (laterSeq (bits y 32 32) (bits x 32 32) || (bits y 32 32 == bits x 32 32 && decide (v < w)))

/-- The slots of registered sets that are to be retired now. -/
def State.retirable (s : State) : List Nat :=
  ((s.damper.heads.filter (·.2.enabled)).flatMap fun e => (slotsOf e.2.set).filter (s.mustRetire e.2.set)).eraseDups

/-- Keep, for each slot to be retired, the tick since which it is: it became so in the tick before the one that begins. -/
def State.trackRetire (s : State) : State :=
  let old := s.damper.retire
  let new := s.retirable.foldl (fun (t : Table Nat) w => tput t w (tget (s.tick.toNat - 1) old w)) []
  if new = old then s else { s with damper := { s.damper with retire := new } }

/-- R38: SLOT_RETIRE of the slot whose state word is at the address. -/
def execSlotRetire (s : State) : Out :=
  match s.cur.arg with
  | .at w _ _ =>
    if s.retirable.contains w then
      .next { s.rawWrite w 1 (s.byteAt w / 16 * 16) with damper := { s.damper with retire := tdel s.damper.retire w } }
    else .next s
  | _ => .next s

/-- When a set becomes registered: what the cores' L1s still hold unwritten performs first, as the writes to ordinary memory
that they are, so that no unchecked byte reaches a state word later (log 159); then PINS and the zero fields clear, and a STATE
of 3 to 15 becomes EMPTY (R38). -/
def State.registerSet (s : State) (d : DWord) : State :=
  (slotsOf d).foldl (fun s w =>
    let x := s.rawRead w 8
    s.rawWrite w 8 (bits x 32 32 * 2 ^ 32 + if bits x 0 4 ≤ 2 then bits x 0 4 else 0)) ((s.cores.map (·.1)).foldl State.l1WriteBackAll s)

/-! ### The registers of a head (R448, R449, R460) -/

/-- Whether `n` bytes lie wholly in the Mantel partition. -/
def State.inMantel (s : State) (pa n : Nat) : Bool := s.paRegion pa == some .mantel && s.paRegion (pa + n - 1) == some .mantel
/-- Whether `n` bytes lie wholly in graphics memory or host memory. -/
def State.inGmemOrHost (s : State) (pa n : Nat) : Bool :=
  match s.paRegion pa, s.paRegion (pa + n - 1) with
  | some .gmem, some .gmem => true
  | some .host, some .host => true
  | _, _ => false

/-- LP and FB of a memory head (R458). -/
def Head.linePitch (h : Head) : Nat := (4 * h.hactive + 255) / 256 * 256
def Head.frameBytes (h : Head) : Nat := (h.vactive * h.linePitch + 4095) / 4096 * 4096
def Head.frames (h : Head) : Nat := bits h.ring.toNat 8 4 + 1

/-- Every condition of R449 for head `n` with registers `h`. -/
def State.enableOk (s : State) (n : Nat) (h : Head) : Bool :=
  let (b, k, g) := setOf h.set
  let others := (s.damper.heads.filter fun e => e.2.enabled && e.1 != n).map (·.2)
  decide (8 ≤ h.lead ∧ h.lead ≤ 256 ∧ 1 ≤ h.guard ∧ h.guard < h.lead ∧ h.lead - h.guard ≤ 7 * h.bandLines ∧ h.lead < h.vtotal) &&
  decide (h.vactive % h.bandLines = 0 ∧ h.vactive < h.vtotal ∧ h.vtotal ≤ 16384) &&
  decide (0x400000 ≤ h.period.toNat) &&
  decide (2 ≤ k ∧ 12 ≤ g ∧ g ≤ 30) && (List.range k).all (fun i => s.inMantel (b + i * 2 ^ g) (2 ^ g)) &&
  s.inMantel (bits h.pose.toNat 7 45 * 128) 128 &&
  (if n < 4 then h.link == 1 || h.link == 2
   else h.link == 0 && bits h.cfg.toNat 28 1 == 0 && s.inGmemOrHost (bits h.ring.toNat 12 40 * 4096) (h.frames * h.frameBytes) &&
     s.inGmemOrHost (bits h.dmseq.toNat 3 49 * 8) 8) &&
  others.all fun x => setOf x.set == setOf h.set || !(slotsOf x.set).any (slotsOf h.set).contains

/-- J0 of the band that a head latches as its `i`-th since enable (R450, R451). -/
def Head.bandStart (h : Head) (i : Nat) : Nat :=
  let nb := h.vactive / h.bandLines
  i / nb * h.vtotal + i % nb * h.bandLines

/-- The turns of a head that are due at this tick: the bands that fall back at T0, the start of a line, deadlines, latches (R450, R451). -/
def State.headDue (s : State) (n : Nat) : List Turn :=
  let h := s.head n
  let t := s.tick.toNat
  if h.enabled then
    let next := (List.range 17).map fun i => h.bandStart (h.nextBand + i)
    let early := next.filter fun j => decide (j < h.lead ∧ h.t0 ≤ t)
    let latch := next.filter fun j => decide (h.lead ≤ j ∧ h.at_ (j - h.lead) ≤ t)
    (early.map fun j => .event .bandLatch (.at n j 0)) ++
    (if h.at_ h.line ≤ t then [.event .lineStart (.at n 0 0)] else []) ++
    ((h.bands.filter fun b => b.decision == .undecided && decide (h.at_ (b.n - h.guard) ≤ t)).map fun b => .event .bandDeadline (.at n b.n 0)) ++
    (latch.map fun j => .event .bandLatch (.at n j 0))
  else []

/-- A write that sets ENABLE: all of it, or nothing (R449, R450). The turns that are due in its tick come with those of the other
heads, in ascending head (R443, R453). -/
def State.enableHead (s : State) (n : Nat) (v : DWord) : State :=
  let d := s.head n
  let h := { d with cfg := v }
  if s.enableOk n h then
    let known := s.damper.heads.any fun e => e.2.enabled && setOf e.2.set == setOf h.set
    let s := if known then s else s.registerSet h.set
    let s := s.setHead n { h with
      t0 := (s.tick.toNat + 7) / 8 * 8, line := 0, frame := 0, curLine := 0, falls := 0, readies := 0, bands := [], nextBand := 0, frameDone := [] }
    if s.agenda.contains .heads then s else { s with agenda := s.agenda ++ [.heads] }
  else s

/-- A write that clears ENABLE (R460). -/
def State.disableHead (s : State) (n : Nat) (v : DWord) : State :=
  let s := (s.head n).bands.foldl (fun s b => ((s.fallBack n b.n 5 none).dropRegions n b.n).abortBand n b.n none) s
  s.setHead n { s.head n with cfg := v, bands := [], frameDone := [] }

/-- The bits of each register of a head that are no zero field. -/
def headMask (off : Nat) : Nat :=
  match off with
  | 0x00 => 0x1FFF1FF7 | 0x08 => 0x3FFF1FFF1FFF | 0x10 => 0xFFFFFFFF | 0x18 => 0xFFFFFFFFFFE3F | 0x20 => 0xFFFFFFFFFFF80
  | 0x28 => 0xFFFFFFFF | 0x30 => 0xFFFFFFFFFFF00 | 0x38 => 0xFFFFFFFFFFFF8 | _ => 0

/-- A write to a register of a head (R448). -/
def State.writeHead (s : State) (n off : Nat) (v : DWord) : State :=
  let h := s.head n
  let on := h.enabled
  if 20 ≤ n ∨ v.toNat &&& headMask off ≠ v.toNat then s
  else match off with
    | 0x00 =>
      if bits v.toNat 1 2 = 3 then s
      else if on then (if (v ^^^ h.cfg) &&& ~~~1#64 ≠ 0 then s else if v.getLsbD 0 then s else s.disableHead n v)
      else if v.getLsbD 0 then s.enableHead n v
      else s.setHead n { h with cfg := v }
    | 0x08 => if on then s else s.setHead n { h with geom := v }
    | 0x10 => if on then s else s.setHead n { h with period := v }
    | 0x18 => if on then s else s.setHead n { h with set := v }
    | 0x20 => if on then s else s.setHead n { h with pose := v }
    | 0x28 => s.setHead n { h with fill := v }
    | 0x30 => if on then s else s.setHead n { h with ring := v }
    | 0x38 => s.setHead n { h with dmseq := v }
    | _ => s

/-- R449: HEAD_ENABLE: a write to DHCFG that sets ENABLE. -/
def execHeadEnable (s : State) : Out :=
  match s.cur.arg with
  | .value n _ v => .next (if v.getLsbD 0 && !(s.head n).enabled then s.writeHead n 0 (v.setWidth 64) else s)
  | _ => .next s

/-- R460: HEAD_DISABLE: a write to DHCFG that clears ENABLE. -/
def execHeadDisable (s : State) : Out :=
  match s.cur.arg with
  | .value n _ v => .next (if !v.getLsbD 0 && (s.head n).enabled then s.writeHead n 0 (v.setWidth 64) else s)
  | _ => .next s

/-! ### The latch of a band (R417, R418, R451-R455) -/

/-- The header at a slot's base, if it passes every rule (R417). -/
def State.slotHeader (s : State) (w : Nat) : Option SlotHdr :=
  let x := s.rawRead w 64
  let h : SlotHdr :=
    { base := w, seq := BitVec.ofNat 32 (bits x 32 32), width := bits x 64 16, height := bits x 80 16, pitch := bits x 96 32,
      cplane := bits x 128 32, dplane := bits x 160 32, mplane := bits x 192 32, rtick := BitVec.ofNat 64 (bits x 256 64) }
  let plane (o : Nat) : Bool := o % 256 == 0 && s.inMantel (w + o) (h.height * h.pitch)
  if decide (1 ≤ h.width ∧ h.width ≤ 8192 ∧ 1 ≤ h.height ∧ h.height ≤ 8192 ∧ h.pitch % 256 = 0 ∧ 4 * h.width ≤ h.pitch) &&
     bits x 224 32 == 0 && bits x 320 192 == 0 && plane h.cplane && plane h.dplane && plane h.mplane
  then some h else none

/-- The pose record of the mailbox that the latch takes: the later PSEQ, record 0 on a tie (R452). -/
def State.poseRecord (s : State) (mbox : Nat) : List Word :=
  let r (i : Nat) : List Word := (List.range 16).map fun j => BitVec.ofNat 32 (s.rawRead (mbox + 64 * i + 4 * j) 4)
  if laterSeq ((r 1).getD 15 0).toNat ((r 0).getD 15 0).toNat then r 1 else r 0

/-- Free space of a line buffer (R455). -/
def LineCore.freeSpace (k : LineCore) : Nat :=
  match k.regions with
  | [] => 65536
  | r :: _ => 65536 - (k.rhead + 65536 - r.start) % 65536

/-- Line cores of FCORES(h) that can take a part of `need` words, in ascending order (R418, R455). -/
def State.idleLines (s : State) (h need : Nat) : List Nat :=
  (List.range 64).filter fun n => (tget 0#64 s.flue.fcores h).getLsbD n && (s.line n).band.isNone && decide (need ≤ (s.line n).freeSpace)

/-- Dispatch one part of a band to a line core (R418, R455). -/
def State.dispatchPart (s : State) (n part j0 : Nat) (hd : SlotHdr) (pose : List Word) (core : Nat) : State × Part :=
  let h := s.head n
  let k := s.line core
  let pw := h.partWidth
  let need := h.bandLines * pw
  let first := part * pw
  let cols := min ((part + 1) * pw) h.hactive - first
  let regs : List Nat := [n, j0 % h.vtotal, h.bandLines, cols, k.rhead, pw, h.at_ j0, hd.rtick.toNat, hd.seq.toNat, hd.width + hd.height * 2 ^ 16, first]
  let k' : LineCore := { k with
    s := (regs.mapIdx fun i x => (i, BitVec.ofNat 32 x)).foldl (fun (t : Table Word) (e : Nat × Word) => tset 0#32 t e.1 e.2) k.s
    badS := k.badS.filter fun i => decide (11 ≤ i)
    w := [(7, { st := .full, data := pose.mapIdx fun i x => (i, x) })]
    pc := ((tget 0#64 s.flue.fentry n).toNat : Int)
    delay := none, pend := [], startAt := s.tick.toNat + 32, running := true, ending := false
    band := some { head := n, band := j0, part := part }, walk := [], walkSince := [], noPage := []
    rhead := (k.rhead + need) % 65536
    regions := k.regions ++ [{ start := k.rhead, len := need, head := n, band := j0 }]
    bands := k.bands + 1 }
  (s.setLine core k', { core := core, start := k.rhead, cols := cols, first := first, ready := false })

/-- The latch of a band (R453). -/
def State.latch (s : State) (n j0 : Nat) : State :=
  let h := s.head n
  let slot := s.newestSlot h.set
  let s := match slot with | some w => s.pin w | none => s
  let s := match slot with | some w => s.cacheTouch w 64 false | none => s
  let hdr := slot.bind s.slotHeader
  let s := s.cacheTouch (bits h.pose.toNat 7 45 * 128) 128 false
  let pose := s.poseRecord (bits h.pose.toNat 7 45 * 128)
  let b : Band := { n := j0, decision := .undecided, slot := slot, hdr := hdr, pinned := slot.isSome, dx := pose.getD 0 0, dy := pose.getD 1 0,
                    pw := h.partWidth, parts := [] }
  let s := s.setHead n { s.head n with bands := (s.head n).bands ++ [b] }
  if !s.flue.ctl.getLsbD 0 ∨ s.box.stage ≠ 4 then s.fallBack n j0 2 none
  else match hdr with
    | none => s.fallBack n j0 1 none
    | some hd =>
      let cores := s.idleLines n (h.bandLines * h.partWidth)
      if cores.length < h.partCount then s.fallBack n j0 2 none
      else
        let (s, parts) := ((cores.take h.partCount).zip (List.range h.partCount)).foldl (fun (a : State × List Part) (e : Nat × Nat) =>
          let (s, p) := a.1.dispatchPart n e.2 j0 hd pose e.1
          (s, a.2 ++ [p])) (s, [])
        s.setHead n ((s.head n).setBand { b with parts := parts })

/-- R453: BAND_LATCH of the next band of a head; one that would latch before T0 falls back untouched (R451). -/
def execBandLatch (s : State) : Out :=
  match s.cur.arg with
  | .at n j0 _ =>
    let h := s.head n
    let due := if j0 < h.lead then h.t0 else h.at_ (j0 - h.lead)
    if h.enabled && j0 == h.bandStart h.nextBand && decide (due ≤ s.tick.toNat) then
      let s := s.setHead n { h with nextBand := h.nextBand + 1 }
      if j0 < h.lead then
        let b : Band := { n := j0, decision := .undecided, slot := none, hdr := none, pinned := false, dx := 0, dy := 0, pw := h.partWidth, parts := [] }
        .next ((s.setHead n { s.head n with bands := (s.head n).bands ++ [b] }).fallBack n j0 7 none)
      else .next (s.latch n j0)
    else .next s
  | _ => .next s

/-- R419: BAND_DEADLINE of a band. -/
def execBandDeadline (s : State) : Out :=
  match s.cur.arg with
  | .at n j0 _ =>
    let h := s.head n
    .next (if h.enabled && decide (h.at_ (j0 - h.guard) ≤ s.tick.toNat) then s.fallBack n j0 5 none else s)
  | _ => .next s

/-! ### Scan-out (R456-R458) -/

/-- A displacement of the pose record in whole pixels (R457). -/
def poseShift (x : Word) : Int :=
  match ofF32 x with
  | .nan _ => 0
  | .inf n => if n then -8192 else 8192
  | .fin n m e =>
    let k : Int := (toInteger .rne 0 n m e).1
    max (-8192) (min 8192 (if n then -k else k))

/-- A colour word of the fallback; a poisoned one is a free value. -/
def State.slotWord (s : State) (pa x : Nat) : Word :=
  if s.mem.poisoned pa 4 then (Config.freeWord (s.free + x)).setWidth 32 else BitVec.ofNat 32 (s.rawRead pa 4)

/-- The words of line `y` of a band of head `h` (R456, R457). -/
def State.lineWords (s : State) (h : Head) (b : Band) (y : Nat) : List Word :=
  let fill : Word := h.fill.setWidth 32
  let row := y - b.n % h.vtotal
  match b.decision with
  | .ready => b.parts.flatMap fun p =>
      let k := s.line p.core
      (List.range p.cols).map fun i =>
        let a := (p.start + b.pw * row + i) % 65536
        if k.badWords.contains a then fill else tget 0#32 k.lb a
  | _ => match b.hdr with
    | none => List.replicate h.hactive fill
    | some d =>
      let sy := clampTo d.height ((y : Int) - poseShift b.dy)
      (List.range h.hactive).map fun (x : Nat) => s.slotWord (d.base + d.cplane + sy * d.pitch + 4 * clampTo d.width ((x : Int) - poseShift b.dx)) x

/-- A scan-out word as a pixel: bits 7:0 red, 15:8 green, 23:16 blue (R446). -/
def pixelOf (x : Word) : Pixel := { red := x.extractLsb' 0 8, green := x.extractLsb' 8 8, blue := x.extractLsb' 16 8 }

/-- Words of a ready line that read with an uncorrectable error are reported in their line core, with an entry of the error ring
each (R424, R456); the row of a word is not given (log 20). The words of a fallback line are read at the home slice. -/
def State.reportLine (s : State) (h : Head) (b : Band) (y : Nat) : State :=
  if b.decision = .ready then
    b.parts.foldl (fun s p =>
      let k := s.line p.core
      let as := (List.range p.cols).map fun i => p.start + b.pw * (y - b.n % h.vtotal) + i
      (k.errWords as).foldl (fun s _ => s.lineError p.core) (s.setLine p.core (k.sawWords as))) s
  else match b.hdr with
    | some d =>
      let at_ (x : Int) : Nat := clampTo d.width (x - poseShift b.dx)
      s.cacheTouch (d.base + d.cplane + clampTo d.height ((y : Int) - poseShift b.dy) * d.pitch + 4 * at_ 0) (4 * (at_ (h.hactive - 1) - at_ 0 + 1)) false
    | none => s

/-- Scan out line `y` of frame `f`: a physical head sends it, a memory head writes it to its ring (R446, R458). -/
def State.scanLine (s : State) (n f y : Nat) : State :=
  let h := s.head n
  match h.band? (f * h.vtotal + y / h.bandLines * h.bandLines) with
  | none => s
  | some b =>
    let ws := s.lineWords h b y
    let s := { s.reportLine h b y with free := s.free + h.hactive }
    if n < 4 then s.setHead n { s.head n with sent := ws.map pixelOf }
    else
      let pa := bits h.ring.toNat 12 40 * 4096 + f % h.frames * h.frameBytes + y * h.linePitch
      (ws.mapIdx fun i x => (i, x)).foldl (fun s (e : Nat × Word) => (s.homeWrite (pa + 4 * e.1) 4 e.2.toNat).getD s) s

/-- R450: LINE_START of a head: the line before ends, and line J starts scan-out. -/
def execLineStart (s : State) : Out :=
  match s.cur.arg with
  | .at n _ _ =>
    let h := s.head n
    let j := h.line
    if h.enabled && decide (h.at_ j ≤ s.tick.toNat) then
      let y := j % h.vtotal
      let f := j / h.vtotal
      let done_ := h.bands.filter fun b => b.n + h.bandLines == j
      let s := done_.foldl (fun s b => (s.abortBand n b.n none).dropRegions n b.n) s
      let d := s.head n
      let last := decide (4 ≤ n) && y == h.vactive
      let s := s.setHead n { d with
        bands := d.bands.filter fun b => b.n + h.bandLines != j
        line := j + 1, frame := BitVec.ofNat 32 f, curLine := y
        frameDone := if last then d.frameDone ++ [f] else d.frameDone }
      let s := if last then s.soon [.event .frameWordStore (.at n 0 0)] else s
      .next (if y < h.vactive then s.scanLine n f y else s)
    else .next s
  | _ => .next s

/-- A release of a unit after many writes: the log's signature names every sector (R183). -/
def State.logAll (s : State) (pa n : Nat) : State :=
  let e := s.hearth.nextEpoch
  { s with hearth := s.hearth.logSig (BitVec.allOnes 1024) }.stampEpoch pa n e

/-- R458: FRAME_WORD_STORE of a memory head. -/
def execFrameWordStore (s : State) : Out :=
  match s.cur.arg with
  | .at n _ _ =>
    let h := s.head n
    match h.frameDone with
    | [] => .next s
    | f :: rest =>
      let pa := bits h.dmseq.toNat 3 49 * 8
      let s := s.setHead n { h with frameDone := rest }
      .next (((s.homeWrite pa 8 ((f + 1) % 2 ^ 64) { rel := true }).getD s).logAll pa 8)
  | _ => .next s

/-! ### Reservations and spare rows (R351, R358, R459) -/

/-- Half of the transfer slots of a window: 1,024 ticks of at most 3 ticks each (R350, R351). -/
def resvLimit : Nat := 1024 / 3 / 2

/-- A write to DRESV (R459). -/
def State.writeDresv (s : State) (v : DWord) : State :=
  let x := v.toNat
  let target := bits x 56 8
  let ok := decide (target ≤ 0x17) || decide (0x20 ≤ target ∧ target ≤ 0x3F)
  if !ok || bits x 54 2 != 0 || bits x 16 32 != 0 || decide (resvLimit < bits x 0 16) then s
  else { s with hearth := { s.hearth with resv := tset 0 s.hearth.resv (64 * target + bits x 48 6) (bits x 0 16) } }

/-- R459: DRESV_WRITE. -/
def execDresvWrite (s : State) : Out :=
  match s.cur.arg with
  | .value _ _ v => .next (s.writeDresv (v.setWidth 64))
  | _ => .next s

/-- Whether every head that a line core serves is in its vertical blank (R358). -/
def State.lineBlank (s : State) (n : Nat) : Bool :=
  s.damper.heads.all fun e => !(e.2.enabled && (tget 0#64 s.flue.fcores e.1).getLsbD n) || decide (e.2.vactive ≤ e.2.curLine)

/-- R358: LINEBUF_ROW_SPARE of a row of a line core's buffer. -/
def execLinebufRowSpare (s : State) : Out :=
  match s.cur.arg with
  | .at n row _ =>
    .next (if s.lineBlank n then { s with hearth := { s.hearth with lineSpare := s.hearth.lineSpare.filter fun x => x != (n, row) } } else s)
  | _ => .next s

end Sys2Proof.Machine
end

