-- ==== Sys2Proof/Machine/Issue.lean ====
section
/-! DEFINITION. The cycles of a casting core: the Bellows (R18-R22), fetch and issue (R25, R47, R93-R97, R119), the draught
allowance (R96, R480), and power (R20, R24, R481). -/

namespace Sys2Proof.Machine

/-! ### Fetch (R25, R47, R119, R171) -/

/-- What fetching a fragment's next word gives: the word, a trap, or the page that is missing. -/
inductive Fetched | word (w : BitVec 128) | trap (cause : Nat) (detail : DWord) | miss (page : Nat)
  deriving DecidableEq, Repr

/-- Fetch the 16 bytes at a PC of a context; `fatal` are the fragment's pages marked fatal. -/
def State.fetch (s : State) (c ctx : Nat) (fatal : List Nat) (pc : DWord) : Fetched :=
  if 0x01FFFFFC00000000 ≤ pc.toNat then .trap causeAccess pc
  else match s.translate c ctx fatal .x pc.toNat with
    | .hit pa => match s.homeRead pa 16 with
      | .ok v => .word (BitVec.ofNat 128 v)
      | .poison => .trap causePoison pc
      | .refused => .trap causeAccess pc
    | .perm => .trap causeAccess pc
    | .fatal => .trap causeAccess pc
    | .miss => .miss (pageOf pc.toNat)

/-- A fetch passes through the L2 (R332). -/
def State.fetchTouch (s : State) (c ctx : Nat) (pc : DWord) : State :=
  match s.translate c ctx [] .x pc.toNat with
  | .hit pa => s.cacheTouch pa 16 false
  | _ => s

/-- A fragment whose next word misses in translation is parked for it (R171). -/
def State.parkFetch (s : State) (c slot : Nat) (g : Group) (nd : Node) (page : Nat) : State :=
  (s.setGroup c slot (g.setNode { nd with st := .parked [page] })).requestPages (flaskOf c) g.ctx 0 .x (.frag c slot nd.id) [page]

/-- The timing class that a word carries (R46). -/
def tcOf (w : BitVec 128) : Nat := bits w.toNat 114 2

/-- Perform a fragment's next instruction: a WATCHDOG trap that it owes (R100), or the word at its PC. A word that no
instruction is assigned to raises ILLOP (R59). -/
def State.issueTurn (ex : Instr → State → Out) (s : State) (c slot id : Nat) : Out :=
  let s := { s with cur := { s.cur with core := c, slot := slot, node := id, tc := 0, word := 0 } }
  match s.view with
  | none => .next s
  | some v =>
    if v.nd.st ≠ .ready then .next s
    else if v.nd.owes then .next (({ v with s := s.keepClaims c slot id none, nd := { v.nd with owes := false }, g := v.g.setNode { v.nd with owes := false } } : View).trapAll causeWatchdog 0)
    else match s.fetch c v.g.ctx v.nd.fatal v.nd.pc with
      | .miss p => .next (s.parkFetch c slot v.g v.nd p)
      | .trap cause d => .next ({ v with s := s.keepClaims c slot id none }.trapAll cause d)
      | .word w => match decodeCast w with
        | some i => ex i { (s.keepClaims c slot id (some w)).fetchTouch c v.g.ctx v.nd.pc with cur := { s.cur with tc := tcOf w, word := w } }
        | none => .next ({ v with s := s.keepClaims c slot id none }.trapAll causeIllop 0)

/-! ### The stages and the length of a cycle (R18, R19) -/

/-- Ticks of a cycle of a class (R18). -/
def quanta (cls : Nat) : Nat := match cls with | 0 => 4 | 1 => 5 | 2 => 7 | _ => 10

/-- Passes of an instruction: the vfloat classes of 4 and 8 cells take 4 and 16 (R3, R19). -/
def passesOf (w : BitVec 128) : Nat :=
  let op := bits w.toNat 120 8
  match decodeCast w with
  | some i => match opSpec i with
    | some (_, f) =>
      let of (ty : BitVec 4) (lc : BitVec 2) : Nat := if isV ty then (if lc = 2 then 4 else if lc = 3 then 16 else 1) else 1
      let src := match i with | .fcvt _ | .fcvti _ => of f.styp f.slc | _ => 1
      if 0x40 ≤ op ∧ op ≤ 0x4F then max (of f.ty f.lc) src
      else match i with | .gred _ _ | .gscan _ _ => of f.ty f.lc | _ => 1
    | none => 1
  | none => 1

/-- Advance the stages by one cycle: an instruction leaves a stage once its passes there are done and the next is free. -/
def advanceStages (xs : List Stage) : List Stage :=
  let aged := xs.map fun x => { x with left := x.left - 1 }
  (aged.foldl (fun (out : List Stage) x =>
    if x.left ≠ 0 then out ++ [x]
    else if x.at_ = 3 then out
    else if out.any fun y => y.at_ == x.at_ + 1 then out ++ [x]
    else out ++ [{ x with at_ := x.at_ + 1, left := x.passes }]) [])

/-- E1 is free for a new instruction. -/
def e1Free (xs : List Stage) : Bool := xs.all fun x => x.at_ != 0

/-! ### Choosing an instruction (R87, R93-R95) -/

/-- A fragment that could issue: its class, the quads it lights, its passes (0 for a word that traps undecoded). -/
structure Cand where
  slot : Nat
  g : Group
  nd : Node
  cls : Nat
  quads : Nat
  passes : Nat
  deriving DecidableEq, Repr

/-- Lane quads with a lane among these (R96). -/
def quadsOf (ls : List Nat) : Nat := ((List.range 4).filter fun q => ls.any fun l => l / 32 == q).length

/-- Memory requests of a core that are outstanding: reds on their way. Each that a router has merged counts by itself: the model's
choice (R218; log 156). -/
def State.outstanding (s : State) (c : Nat) : Nat :=
  (s.hearth.routers ++ s.hearth.requests).foldl (fun n r => n + (r.srcs.filter fun x => x.core == c).length) 0

/-- Words that a qfence holding the LSQ stalls (R184). -/
def usesLsq (i : Instr) : Bool :=
  match i with
  | .ld _ | .st _ | .ldd _ | .std _ | .atom _ _ | .red _ _ | .cas _ | .spill _ | .fill _ | .smp _ | .smpres _ | .qpush _ | .qpop _ | .qpeek _
  | .ldk _ | .ccop _ _ => true
  | _ => false

/-- Words that make memory requests of their own: those, waitv and pref (R206, R216, R218). -/
def makesRequests (i : Instr) : Bool := usesLsq i || (match i with | .waitv _ _ | .pref _ => true | _ => false)

/-- Whether a word's memory requests would bring the core above 8,192 outstanding ones (R218). One request is what one active lane
accesses, whatever its taps, pages and sectors: the model's choice (log 156). -/
def View.tooMany (v : View) (i : Instr) : Bool :=
  match opSpec i with
  | some (_, f) => makesRequests i && decide (8192 < v.s.outstanding v.c + (v.active f).length)
  | none => false

/-- Whether a full engine queue, a batch limit, a queue fence or too many requests stall a word (R29, R30, R184, R218). The h form
of mset takes no queue entry (R271, R293). -/
def View.stalled (v : View) (i : Instr) : Bool :=
  match i with
  | .mset w => !w.modBit 1 && v.g.cruc.full
  | .mma _ | .mmaw _ | .azero _ | .acopy _ | .aadd _ | .ascl _ | .ald _ | .ast _ | .cmode _ | .cpair | .cunpair => v.g.cruc.full
  | .ccommit | .cdrain _ => v.g.cruc.batchFull
  | .lcopy _ | .lfill _ | .lgat _ | .lredArr _ | .lredOrd _ | .lcont _ => v.ladleFull
  | .lcommit => decide (8 ≤ v.g.ladle.closed.length)
  | i => (usesLsq i && v.g.lsqHeld v.nd.mask) || v.tooMany i

/-- The candidate of one ready leaf; none where it is stalled or its word is not there. -/
def View.cand (v : View) : Option Cand :=
  let mk (cls quads passes : Nat) : Cand := { slot := v.slot, g := v.g, nd := v.nd, cls := cls, quads := quads, passes := passes }
  if v.nd.owes then some (mk 0 (quadsOf v.lanes) 0)
  else match v.s.fetch v.c v.g.ctx v.nd.fatal v.nd.pc with
    | .miss _ => none
    | .trap _ _ => some (mk 0 (quadsOf v.lanes) 0)
    | .word w => match decodeCast w with
      | none => some (mk (tcOf w) (quadsOf v.lanes) 0)
      | some i =>
        let v := { v with s := { v.s with cur := { v.s.cur with tc := tcOf w } } }
        if (v.check i).isSome then some (mk (tcOf w) (quadsOf v.lanes) 0)
        else if v.stalled i then none
        else
          let ls := match opSpec i with | some (_, f) => v.active f | none => v.lanes
          some (mk (tcOf w) (quadsOf ls) (passesOf w))

/-- Insert a leaf by its turn, behind those of the same turn. -/
def insertTurn (n : Node) : List Node → List Node
  | [] => [n]
  | m :: ms => if m.turn ≤ n.turn then m :: insertTurn n ms else n :: m :: ms

/-- A group's ready leaves in the order of R87: the one that has gone longest without an issue first. -/
def Group.inTurn (g : Group) : List Node :=
  (g.nodes.filter fun n => n.isLeaf && n.st == .ready && (g.lanes n.mask) != []).foldl (fun acc n => insertTurn n acc) []

/-- The eligible fragments of each group of a core, in ascending slot. -/
def State.eligible (s : State) (c : Nat) : List (Nat × Group × List Cand) :=
  (s.core c).groups.filterMap fun (e : Nat × Group) =>
    if e.2.remnant || s.stopping c e.2 then none
    else match s.launch? e.2.launch with
      | none => none
      | some l =>
        match e.2.inTurn.filterMap fun nd => ({ s := s, c := c, slot := e.1, g := e.2, nd := nd, l := l } : View).cand with
        | [] => none
        | cs => some (e.1, e.2, cs)

/-- Whether the CLASSPOL gate holds a class back (R95). -/
def Core.classGate (k : Core) (g : Group) (cls : Nat) : Bool := g.classpol == 2 && cls == 3 && k.dWindow == 0

/-- The CLASSPOL preference: 0 for a preferred instruction, 1 for another (R95). -/
def Core.pref (k : Core) (g : Group) (cls : Nat) : Nat :=
  if k.dWindow ≠ 0 ∧ cls = 3 then 0
  else if g.classpol = 1 then (if decide (cls = k.runClass) == decide (k.runLen < 16) then 0 else 1)
  else 1

/-- R94: an owed group that has gone longest without an issue; else the lowest PRIO, the preference, and the group that issued
least recently. -/
def State.choose1 (s : State) (c : Nat) (xs : List (Nat × Group × List Cand)) : Option Cand :=
  let k := s.core c
  let owed := xs.filter fun e => e.2.1.owed
  match minBy (fun (e : Nat × Group × List Cand) => e.2.1.lastIssue) owed with
  | some e => e.2.2.head?
  | none =>
    let ready := xs.filterMap fun e =>
      if (s.flask (flaskOf c)).passes e.2.1.prio then e.2.2.find? fun x => !k.classGate e.2.1 x.cls else none
    let key (x : Cand) : Nat := (x.g.prio * 2 + k.pref x.g x.cls) * 2 ^ 64 + x.g.lastIssue
    minBy key ready

/-! ### CORE_CYCLE (R18-R22, R93-R97) -/

/-- Whether a core is out of reset: those of flasks 0, 2, 4 and 6 below STAGE 4 (R20, R470). -/
def State.coreOn (s : State) (c : Nat) : Bool := decide (c < 384) && (s.box.stage == 4 || c / 48 % 2 == 0)

/-- Park every ready leaf of a core whose next word misses in translation. -/
def State.fetchAll (s : State) (c : Nat) : State :=
  let want := (s.core c).groups.flatMap fun (e : Nat × Group) => if e.2.remnant then [] else e.2.inTurn.map fun nd => (e.1, nd.id)
  want.foldl (fun s (e : Nat × Nat) => match s.group? c e.1 with
    | none => s
    | some g => match g.node? e.2 with
      | none => s
      | some nd =>
        if nd.owes then s
        else match s.fetch c g.ctx nd.fatal nd.pc with
          | .miss p => s.parkFetch c e.1 g nd p
          | _ => s) s

/-- Note on each head command whose beats the allowance gate holds the tick since which it does (R281). -/
def State.noteHeld (s : State) (c : Nat) : State :=
  (s.crucHalves c).foldl (fun s e =>
    let a := e.2.1
    if s.crucGate c e.2.2.1 e.2.2.2 then s.mapHead a.core a.slot fun x => { x with held := none }
    else s.mapHead a.core a.slot fun x => { x with held := some (x.held.getD s.tick.toNat) }) s

/-- The issue floor's count: cycles with an eligible fragment and no issue (R94, R97). -/
def State.countEligible (s : State) (c : Nat) (xs : List (Nat × Group × List Cand)) (won : Option Nat) : State :=
  s.setCore c { s.core c with groups := (s.core c).groups.map fun (e : Nat × Group) =>
    (e.1, if won = some e.1 then { e.2 with eligibleFor := 0, owed := false }
          else if xs.any fun x => x.1 == e.1 then { e.2 with eligibleFor := e.2.eligibleFor + 1 }
          else { e.2 with eligibleFor := 0, owed := false }) }

/-- How long each gated class-D instruction has waited, but the one that issues, as an owed group's may; four groups with one that
is ready but for the gate count as the full wait (R95). -/
def State.countGated (s : State) (c : Nat) (xs : List (Nat × Group × List Cand)) (won : Option (Nat × Nat)) : State :=
  let k := s.core c
  let gated := xs.flatMap fun e => (e.2.2.filter fun x => k.classGate e.2.1 x.cls && won != some (e.1, x.nd.id)).map fun x => (e.1, x.nd.id)
  let ready := (xs.filter fun e => (e.2.2.any fun x => k.classGate e.2.1 x.cls) && (s.flask (flaskOf c)).passes e.2.1.prio).length
  let groups := k.groups.map fun (e : Nat × Group) => (e.1, { e.2 with
    nodes := e.2.nodes.map fun n => { n with gatedFor := if gated.contains (e.1, n.id) then n.gatedFor + 1 else 0 } })
  let longest := groups.foldl (fun m e => e.2.nodes.foldl (fun m n => max m n.gatedFor) m) 0
  s.setCore c { k with groups := groups, gatedFor := if 4 ≤ ready then max 64 longest else longest }

/-- A leaf of the group issues: it goes behind the others (R87, R94). -/
def Group.issued (g : Group) (cyc id : Nat) : Group :=
  { g with lastIssue := cyc, issues := g.issues + 1, nodes := g.nodes.map fun n => if n.id = id then { n with turn := g.issues + 1 } else n }

/-- The issue of a candidate: RUNCLASS, RUNLEN, the charge, and E1 (R19, R95, R96). -/
def State.issue (s : State) (c : Nat) (x : Cand) : State :=
  let k := s.core c
  let k := { k with
    runClass := x.cls, runLen := if x.cls = k.runClass then k.runLen + 1 else 1
    stages := if x.passes = 0 then k.stages else k.stages ++ [{ cls := x.cls, passes := x.passes, at_ := 0, left := x.passes }]
    groups := k.groups.map fun (e : Nat × Group) => (e.1, if e.1 = x.slot then e.2.issued k.cyc.toNat x.nd.id else e.2) }
  (s.setCore c k).charge c (quanta x.cls * x.quads)

/-- Ticks of the cycle that begins: the slowest class among its occupants; 10 in reduced service (R18, R19, R470). -/
def State.cycleLen (s : State) (c : Nat) (beat transfer : Bool) : Nat :=
  if s.box.stage ≠ 4 then 10
  else
    let base := if beat || transfer then 5 else 4
    (s.core c).stages.foldl (fun n (x : Stage) => max n (quanta x.cls)) base

/-- The start of a cycle: CYC counts, the stages advance, the Crucible's turns settle, words are fetched. -/
def State.openCycle (s : State) (c : Nat) : State :=
  let k := s.core c
  let s := s.setCore c { k with cyc := k.cyc + 1, stages := advanceStages k.stages, dWindow := k.dWindow - 1 }
  ((s.settleTurns c 17).fetchAll c).noteHeld c

/-- The Runner's choice in this cycle, with its counts; a halted core issues nothing (R93-R97, R111). While a word of several passes
holds E1 only an owed group issues, so that R97's 1,024 cycles hold (log 157). -/
def State.selectCycle (s : State) (c : Nat) : State × Option Cand :=
  if (s.core c).halted then (s, none)
  else
    let xs := s.eligible c
    let won := s.choose1 c (if e1Free (s.core c).stages then xs else xs.filter fun e => e.2.1.owed)
    let s := (s.countEligible c xs (won.map (·.slot))).countGated c xs (won.map fun x => (x.slot, x.nd.id))
    match won with
    | some x => (s.issue c x, some x)
    | none => (s, none)

/-- The turns of a cycle: the Crucible's beat, the Ladle's transfer, the instruction. -/
def cycleTurns (c : Nat) (beat transfer : Bool) (won : Option Cand) : List Turn :=
  let xs : List Turn := match won with | some x => [.issue c x.slot x.nd.id] | none => []
  let xs := if transfer then .event .ladleTransfer (.at c 0 0) :: xs else xs
  if beat then .event .crucibleBeat (.at c 0 0) :: xs else xs

/-- A whole cycle. -/
def State.runCycle (s : State) (c : Nat) : State :=
  let s := s.openCycle c
  let beat := (s.crucPick c).isSome
  let transfer := (s.nextTransfer c).isSome
  let r := s.selectCycle c
  let s := r.1
  let len := s.cycleLen c beat transfer
  (s.setCore c { s.core c with nextCycle := s.tick.toNat + len, beatNow := beat, transferNow := transfer }).soon (cycleTurns c beat transfer r.2)

/-- R18: CORE_CYCLE: a cycle of a core begins. What it issues performs in the turns that it puts on the agenda. -/
def execCoreCycle (s : State) : Out :=
  match s.cur.arg with
  | .at c _ _ => .next (if s.coreOn c && !(s.core c).gated && decide ((s.core c).nextCycle ≤ s.tick.toNat) then s.runCycle c else s)
  | _ => .next s

/-- R94: OWED_GROUP: a group with an eligible fragment and no issue for 960 cycles. -/
def execOwedGroup (s : State) : Out :=
  match s.cur.arg with
  | .at c slot _ => match s.group? c slot with
    | some g => .next (if 960 ≤ g.eligibleFor then s.setGroup c slot { g with owed := true } else s)
    | none => .next s
  | _ => .next s

/-- R95: D_WINDOW_OPEN for the 16 cycles that follow; the cycle that begins now counts one down. -/
def execDWindowOpen (s : State) : Out :=
  match s.cur.arg with
  | .at c _ _ =>
    let k := s.core c
    .next (if 64 ≤ k.gatedFor ∧ k.dWindow = 0 then s.setCore c { k with dWindow := 17, gatedFor := 0 } else s)
  | _ => .next s

/-- R95: D_WINDOW_CLOSE after its 16 cycles. -/
def execDWindowClose (s : State) : Out :=
  match s.cur.arg with
  | .at c _ _ =>
    let k := s.core c
    .next (if k.dWindow = 1 then s.setCore c { k with dWindow := 0 } else s)
  | _ => .next s

/-! ### The allowance and power (R20, R24, R480, R481) -/

/-- R480: ALLOWANCE_REFILL: A := min(A + REFILL, L) in every flask. -/
def execAllowanceRefill (s : State) : Out :=
  .next ((List.range 8).foldl (fun s f =>
    let k := s.flask f
    s.setFlask f { k with allow := min (k.allow + (k.refill.toNat : Int)) ((k.capL.toNat * 16 : Nat) : Int) }) s)

/-- R480: REFILL_UPDATE: the firmware sets REFILL and L of a flask. -/
def execRefillUpdate (s : State) : Out :=
  match s.cur.arg with
  | .at f refill cap => .next (if f < 8 then s.setFlask f { s.flask f with refill := BitVec.ofNat 16 refill, capL := BitVec.ofNat 16 cap } else s)
  | _ => .next s

/-- R481: VOLTAGE_TRIM of every column, from 0.550 V in steps of 2.5 mV; VTRIM reads whole millivolts. -/
def execVoltageTrim (s : State) : Out :=
  .next { s with box := { s.box with
    vtrim := (List.range 32).map fun k => (k, BitVec.ofNat 16 (550 + Config.trimStep k s.tick.toNat % 141 * 5 / 2)) } }

/-- R20: CORE_POWER_GATE of a core that holds no group: CYC stops. Its L1 is written back first. -/
def execCorePowerGate (s : State) : Out :=
  match s.cur.arg with
  | .at c _ _ =>
    if (s.core c).groups.isEmpty && !(s.core c).gated then
      let s := s.l1WriteBackAll c
      .next (s.setCore c { s.core c with gated := true, l1 := [], utlb := [], konst := [] })
    else .next s
  | _ => .next s

/-- R20: CORE_POWER_UNGATE: the core's cycles go on from the CYC it holds. -/
def execCorePowerUngate (s : State) : Out :=
  match s.cur.arg with
  | .at c _ _ => .next (if (s.core c).gated then s.setCore c { s.core c with gated := false, nextCycle := s.tick.toNat } else s)
  | _ => .next s

end Sys2Proof.Machine
end

