-- ==== Sys2Proof/Machine/Firebox.lean ====
section
/-! DEFINITION. The Firebox (R463-R485): power, start-up and attestation, function-level resets, context windows, ports and
peers, temperature, debug, and the registers that the host reads and writes. -/

namespace Sys2Proof.Machine

/-! ### Power and stages (R469, R481) -/

/-- All state of the module is lost; the memory of the peers and the host, and the model's own fields, are not the module's. -/
def State.wiped (s : State) (off : Bool) : State :=
  { State.reset with
    free := s.free, inputs := s.inputs, box := { Firebox.reset with off := off }
    mem := { cells := s.mem.cells.filter fun c => decide (0x4000000000000 ≤ c.1), poison := s.mem.poison.filter fun p => decide (0x4000000000000 ≤ 32 * p) } }

/-- R469: POWER_ON. -/
def execPowerOn (s : State) : Out := .next (if s.box.off then s.wiped false else s)
/-- R469: POWER_OFF. -/
def execPowerOff (s : State) : Out := .next (s.wiped true)
/-- R481: THERMAL_TRIP: the supplies are removed. -/
def execThermalTrip (s : State) : Out := .next (s.wiped true)

/-- A change of STAGE raises MGMTCAUSE.BOOT (R485). -/
def State.setStage (s : State) (n : Nat) : State := { s with box := { s.box with stage := n } }.mgmt 4
/-- A failed load: ERR and STAGE 5 (R472). -/
def State.failBoot (s : State) (e : Byte) : State := { s with box := { s.box with err := e } }.setStage 5

/-- R471: BOOT_GO, in STAGE 0 or 5; a GO in any other stage is discarded. -/
def execBootGo (s : State) : Out :=
  let s := { s with box := { s.box with bootgo := false } }
  .next (if s.box.stage = 0 ∨ s.box.stage = 5 then s.setStage 1 else s)

/-- R471, R472: IMAGE_LOADED: the image is in the store, or a read of it failed. -/
def execImageLoaded (s : State) : Out :=
  match s.cur.arg with
  | .at ok _ _ =>
    if s.box.stage ≠ 1 then .next s
    else if ok = 0 then .next (s.failBoot 3)
    else
      let n := min s.box.fwlen.toNat (2 ^ 23)
      let store := (List.range n).foldl (fun (t : Table Byte) i => tset 0#8 t i (BitVec.ofNat 8 (s.byteAt (hostPa s.box.fwaddr.toNat + i)))) []
      .next ({ s with box := { s.box with store := store } }.setStage 2)
  | _ => .next s

/-- `n` bytes of the firmware store. -/
def Firebox.storeRead (b : Firebox) (a : Nat) : Nat → Nat
  | 0 => 0
  | n + 1 => (tget 0#8 b.store a).toNat + 256 * Firebox.storeRead b (a + 1) n

/-- The first `n` bytes of the store. -/
def Firebox.image (b : Firebox) (n : Nat) : List Byte := (List.range n).map fun i => tget 0#8 b.store i

/-- The 5,236 bytes of the image's signature, at SIGOFF (R471). -/
def Firebox.signature (b : Firebox) : List Byte := (List.range 5236).map fun i => tget 0#8 b.store (b.storeRead 0x1C 4 + i)

/-- The configuration record of this device (R473). -/
def Firebox.record (b : Firebox) : Option Nat :=
  let off := b.storeRead 0x14 4
  ((List.range (b.storeRead 0x18 4 / 64)).map fun i => off + 64 * i).find? fun a => b.storeRead a 32 == Config.devid.toNat

/-- Check 2 of R472: LEN, offsets and lengths, and the zero field. -/
def Firebox.layoutOk (b : Firebox) : Bool :=
  let len := b.storeRead 8 4
  decide (len = b.fwlen.toNat ∧ len % 4096 = 0 ∧ len ≤ 2 ^ 23) && decide (b.storeRead 0x0C 4 < len ∧ b.storeRead 0x10 4 < len) &&
  decide (b.storeRead 0x14 4 + b.storeRead 0x18 4 ≤ len ∧ b.storeRead 0x18 4 % 64 = 0) &&
  decide (b.storeRead 0x1C 4 + 5236 = len) && b.storeRead 0x20 32 == 0

/-- The error of the first check of R472 that fails, or 0. -/
def Firebox.imageErr (b : Firebox) : Byte :=
  if b.storeRead 0 4 ≠ 0x4B465731 then 1
  else if !b.layoutOk then 2
  else if !hssVerifies (Config.hssKey.take 60) (b.image (b.storeRead 0x1C 4)) b.signature then 4
  else match b.record with
    | none => 5
    | some a => if 1 ≤ b.storeRead (a + 0x20) 1 ∧ b.storeRead (a + 0x20) 1 ≤ 8 then 0 else 6

/-- R472: IMAGE_VERIFIED: the checks end. -/
def execImageVerified (s : State) : Out :=
  if s.box.stage ≠ 2 then .next s
  else if s.box.imageErr ≠ 0 then .next (s.failBoot s.box.imageErr)
  else .next ({ s with box := { s.box with
      imageLen := s.box.storeRead 8 4, entry30 := s.box.storeRead 0x0C 4, entry31 := s.box.storeRead 0x10 4 } }.setStage 3)

/-- Launches of a context. -/
def State.launchesOf (s : State) (ctx : Nat) : List Nat := (s.launches.filter fun e => e.2.ctx == ctx).map (·.1)
/-- Unmap every mapped lane among some, for a reason. -/
def State.unmapThese (s : State) (ls : List Nat) (why : UnmapReason) : State := ls.foldl (fun s l => s.unmapLane l why) s
/-- Lanes that hold a queue. -/
def State.mappedLanes (s : State) : List Nat := (List.range 30).filter fun l => (s.lane l).queue.isSome

/-- Steps 3 to 6 of R475: Mantel ways, full service, lanes 30 and 31, STAGE 4. -/
def State.endHandover (s : State) : State :=
  let ways := match s.box.record with | some a => s.box.storeRead (a + 0x20) 1 | none => 1
  let start (l entry : Nat) (s : State) : State := s.setLane l { Lane.reset l with pc := BitVec.ofNat 64 entry }
  let s := { s with
    hearth := { s.hearth with mantelWays := ways, hearthLines := s.hearth.hearthLines.filter fun x => decide (x.way = 0 ∨ ways ≤ x.way) }
    box := { s.box with handing := false } }
  (start 31 s.box.entry31 (start 30 s.box.entry30 s)).setStage 4

/-- R475: HANDOVER. It begins by unmapping the queues and pre-empting the placed blocks with RUN left set; a later HANDOVER,
once every block is saved, ends it. -/
def execHandover (s : State) : Out :=
  if s.box.stage ≠ 3 then .next s
  else if s.box.handing then .next (if s.saving.isEmpty && s.mappedLanes.isEmpty then s.endHandover else s)
  else
    let s := s.unmapThese s.mappedLanes .quantum
    .next ((List.range 64).foldl (fun s c => s.preemptAll c) { s with box := { s.box with handing := true } })

/-! ### Attestation (R476) -/

/-- R476: ATTEST_GO, in STAGE 4 only. -/
def execAttestGo (s : State) : Out :=
  let b := s.box
  let i := bits b.attidx.toNat 0 15
  if b.stage ≠ 4 ∨ b.attgo = true then .next s
  else if b.fixedIndex.any fun j => j != i then .next { s with box := { b with atterr := 1 } }
  else if 1024 ≤ b.attCount then .next { s with box := { b with atterr := 2 } }
  else .next { s with box := { b with attgo := true, fixedIndex := some i, atterr := 0 } }

/-- The bytes of a value, low first. -/
def bytesLE (x : Nat) : Nat → List Byte
  | 0 => []
  | n + 1 => BitVec.ofNat 8 x :: bytesLE (x / 256) n

/-- Bytes 0x00 to 0x67 of the attestation record. -/
def State.attestRecord (s : State) : List Byte :=
  (List.range 4).flatMap (fun i => bytesLE (tget 0#64 s.box.chal i).toNat 8) ++ sha256 (s.box.image s.box.imageLen) ++
  bytesLE Config.devid.toNat 32 ++ bytesLE s.tick.toNat 8

/-- Write bytes to host memory. -/
def State.hostBytes (s : State) (pa : Nat) (xs : List Byte) : State :=
  (xs.mapIdx fun i x => (pa + i, x)).foldl (fun s (e : Nat × Byte) => s.unitWrite e.1 1 e.2.toNat) s

/-- R476: ATTEST_DONE: the record and its signature are written. -/
def execAttestDone (s : State) : Out :=
  if !s.box.attgo then .next s
  else
    let r := s.attestRecord
    let s := s.hostBytes (hostPa s.box.outaddr.toNat) (r ++ (List.range 5236).map (Config.attestByte r (s.box.fixedIndex.getD 0)))
    .next ({ s with box := { s.box with attgo := false, attdone := true, attCount := s.box.attCount + 1 } }.mgmt 4)

/-! ### Function-level reset (R467, R468) -/

/-- Queues whose descriptor names a context (R367). -/
def State.queuesOf (s : State) (ctx : Nat) : List Nat := (List.range 8192).filter fun q => s.qRead q 0x12 2 == ctx

/-- Step 2 of R468: RUN clears, the blocks are pre-empted, and the queues disabled. -/
def State.beginFlr (s : State) (fn : Nat) : State :=
  let s := (s.setRun fn false).preemptAll fn
  let s := s.unmapThese (s.lanesOf fn) .disable
  let s := (s.queuesOf fn).foldl (fun s q => s.disableQueue q) s
  { s with box := { s.box with inReset := sinsert s.box.inReset fn, resetAt := tput s.box.resetAt fn s.tick.toNat } }

/-- Drop a launch with no signal; what it still had to write is lost. -/
def State.dropLaunch (s : State) (li : Nat) : State :=
  let s := s.discardLaunch li
  { s with launches := tdel s.launches li, faultQ := s.faultQ.filter fun e => e.launch != li }

/-- Steps 3 to 6 of R468. -/
def State.endFlr (s : State) (fn : Nat) : State :=
  let s := (s.launchesOf fn).foldl (fun s li => s.dropLaunch li) s
  let s := s.unbindAll fn (List.range 1024)
  let mask (t : Table DWord) (v : Nat) : Table DWord := tput t ((1024 * fn + v) * 2 + 1) (s.msixWord fn v 1 ||| (1#64 <<< 32))
  ({ s with
    sup := { s.sup with ctxctl := tdel s.sup.ctxctl fn }
    box := { s.box with msix := (List.range (vectorsOf fn)).foldl mask s.box.msix, inReset := s.box.inReset.filter fun f => f != fn, resetAt := tdel s.box.resetAt fn } }).mgmt 6

/-- 100 ms in ticks (R21, R468). -/
def resetBound : Nat := 800000000

/-- Whether the reset of a function has had its time. -/
def State.resetLate (s : State) (fn : Nat) : Bool := decide (tget 0 s.box.resetAt fn + resetBound ≤ s.tick.toNat)

/-- Whether step 2 of R468 has taken its whole effect: every block of the context is saved and every queue unmapped. -/
def State.resetReady (s : State) (fn : Nat) : Bool :=
  s.saving.all (fun q => (s.launch? q.launch).all fun l => l.ctx != fn) && (s.lanesOf fn).isEmpty

/-- R468: FUNCTION_RESET: that of function 0 is a power-on; one of another function begins, and with a second place of 1 it
completes, once its saves and unmaps are done or its 100 ms are over. -/
def execFunctionReset (s : State) : Out :=
  match s.cur.arg with
  | .at fn ph _ =>
    if 64 ≤ fn then .next s
    else if fn = 0 then .next (s.wiped false)
    else if s.box.inReset.contains fn then .next (if ph = 1 && (s.resetReady fn || s.resetLate fn) then s.endFlr fn else s)
    else .next (if ph = 0 then s.beginFlr fn else s)
  | _ => .next s

/-! ### Context windows (R466) -/

/-- The size of a function's BAR: the register page, function 0's management window, the context window (R464). -/
def barSize (fn i : Nat) : Nat := match i with | 0 => 2 ^ 17 | 1 => if fn = 0 then 2 ^ 23 else 0 | 2 => 2 ^ 36 | _ => 0

/-- The physical parts of a window access, or none where it fails (R466): the window is 64 GiB of a function below 64 (R464). -/
def State.windowTr (s : State) (fn off n : Nat) (need : Need) : Option (List (Nat × Nat)) :=
  let va := (tget 0#64 s.box.cwbase fn).toNat + off
  if 64 ≤ fn ∨ barSize fn 2 < off + n ∨ (globLoc va n).isNone = true then none
  else match s.stokerPages fn need (pieces va n) with
    | .ok ps => some ps
    | _ => none

/-- The PTEs that a window access's walks read, and with `rd` the lines that it reads (R332, R341). -/
def State.windowTouch (s : State) (fn off n : Nat) (need : Need) (rd : Bool) : State :=
  let va := (tget 0#64 s.box.cwbase fn).toNat + off
  if 64 ≤ fn ∨ barSize fn 2 < off + n ∨ (globLoc va n).isNone = true then s
  else
    let t := s.walkPages fn need (pieces va n)
    match s.windowTr fn off n need with
    | some ps => if rd then t.touchParts ps else t
    | none => t

/-- Set FNSTAT.WFAULT of a function. -/
def State.setWfault (s : State) (fn : Nat) : State := { s with box := { s.box with wfault := sinsert s.box.wfault fn } }

/-- R466: CONTEXT_WINDOW_READ; poisoned data are a free value. -/
def execContextWindowRead (s : State) : Out :=
  match s.cur.arg with
  | .window fn off n _ =>
    let ones : DWord := BitVec.ofNat 64 (256 ^ n - 1)
    let t := s.windowTouch fn off n .r true
    match s.windowTr fn off n .r with
    | none => .next { (t.setWfault fn) with lastRead := ones }
    | some ps => match s.readHome ps with
      | .ok x => .next { t with lastRead := BitVec.ofNat 64 x }
      | .poison => .next { t.fresh with lastRead := Config.freeWord s.free }
      | .refused => .next { (t.setWfault fn) with lastRead := ones }
  | _ => .next s

/-- R466: CONTEXT_WINDOW_WRITE; a function under reset has it discarded (R468). -/
def execContextWindowWrite (s : State) : Out :=
  match s.cur.arg with
  | .window fn off n v =>
    s.postedWrite fn .contextWindowWrite
      (if s.box.inReset.contains fn then s
      else
        let t := s.windowTouch fn off n .w false
        match s.windowTr fn off n .w with
        | none => t.setWfault fn
        | some ps =>
          let r := t.writeHome {} ps v.toNat
          if r.2 then r.1 else r.1.setWfault fn)
  | _ => .next s

/-! ### Ports and peers (R477-R479) -/

/-- Change the state of a port; a change raises MGMTCAUSE.LINK (R485). -/
def State.setPort (s : State) (p : Nat) (up : Bool) : State :=
  if tget false s.box.ports p = up then s
  else { s with box := { s.box with ports := tset false s.box.ports p up, replays := tdel s.box.replays p } }.mgmt 3

/-- R477, R479: FLIT_CRC_ERROR of a port: whether it is the flit that failed before is a free choice; the 16th failed replay of
one flit takes the port down. -/
def execFlitCrcError (s : State) : Out :=
  match s.cur.arg with
  | .at p _ _ =>
    if !tget false s.box.ports p then .next s
    else
      let n := if Config.happensNow s.free then tget 0 s.box.replays p + 1 else 1
      let s := { s.fresh with box := { s.box with replays := tput s.box.replays p n } }
      .next (if 17 ≤ n then s.soon [.event .portDown (.at p 0 0)] else s)
  | _ => .next s

/-- R479: PORT_DOWN. -/
def execPortDown (s : State) : Out :=
  match s.cur.arg with
  | .at p _ _ => .next (if p < 8 then s.setPort p false else s)
  | _ => .next s

/-- R477: PORT_UP: the firmware trains the ports after the handover. -/
def execPortUp (s : State) : Out :=
  match s.cur.arg with
  | .at p _ _ => .next (if p < 8 ∧ s.box.stage = 4 then s.setPort p true else s)
  | _ => .next s

/-- Whether a peer may reach `n` bytes at an offset of this module (R477). -/
def State.admitted (s : State) (p off n : Nat) : Bool :=
  let r := (tget 0#64 s.box.ingress p).toNat
  let lo := bits r 0 9 * 2 ^ 30
  s.peerUp p && decide (lo ≤ off ∧ off + n ≤ lo + bits r 32 9 * 2 ^ 30 ∧ off + n ≤ 0x6000000000)

/-- Perform a peer's write at the home slice; one that R39 rejects leaves the word as it is. -/
def State.peerWrite (s : State) (off n v : Nat) : State := (s.deviceWrite off n v {}).getD s

/-- The value that a peer's access returns, as the model records it. -/
def State.peerRead (s : State) (off n : Nat) : State × Option Nat :=
  match s.settleReds.homeRead off n with
  | .ok x => ({ s.settleReds with lastRead := BitVec.ofNat 64 x }, some x)
  | _ => ({ s.settleReds.fresh with lastRead := Config.freeWord s.free }, none)

/-- Perform a request of a peer at this module's graphics memory (R478). -/
def State.peerAct (s : State) : PeerReq → State
  | .read off n => (s.peerRead off n).1
  | .write off n v => s.peerWrite off n v.toNat
  | .atom m ty off n v => match s.peerRead off n with
    | (s, some old) => s.peerWrite off n (atomVal m ty (8 * n) old v.toNat)
    | (s, none) => s
  | .cas off n old new => match s.peerRead off n with
    | (s, some x) => if x = old.toNat % 256 ^ n then (s.deviceWrite off n new.toNat { cas := true }).getD s else s
    | (s, none) => s

/-- Offset and length of a peer's request. -/
def peerRange (r : PeerReq) : Nat × Nat :=
  match r with
  | .read off n => (off, n)
  | .write off n _ => (off, n)
  | .atom _ _ off n _ => (off, n)
  | .cas off n _ _ => (off, n)

/-- R478: PEER_REQUEST: an access from a peer performs at the home slice, or is refused. -/
def execPeerRequest (s : State) : Out :=
  match s.cur.arg with
  | .peer p r => .next (if p < 8 ∧ s.admitted p (peerRange r).1 (peerRange r).2 = true then s.peerAct r else s)
  | _ => .next s

/-- R479: PEERERR_READ. -/
def execPeererrRead (s : State) : Out :=
  match s.cur.arg with
  | .at p _ _ => .next { s with lastRead := (tget 0#32 s.box.peererr p).setWidth 64, box := { s.box with peererr := tdel s.box.peererr p } }
  | _ => .next s

/-! ### Temperature (R481) -/

/-- Divide REFILL of a flask. -/
def State.cutRefill (s : State) (f by_ : Nat) : State := s.setFlask f { s.flask f with refill := BitVec.ofNat 16 ((s.flask f).refill.toNat / by_) }

/-- Sensors: 32 columns, 16 stacks and 48 devices (R481; log 19). -/
def sensors : Nat := 96

/-- Whether a reading in 1/16 degree C passes a limit in degrees. -/
def passes (limit : Nat) (old new : BitVec 16) : Bool := decide (old.toNat ≤ 16 * limit ∧ 16 * limit < new.toNat)

/-- R481: THERMAL_LIMIT: a sensor comes to read a temperature. A column that passes 95 °C halves REFILL of its flask; any sensor
that passes 105 °C quarters that of every flask; one at 115 °C has the supplies removed within 1 ms. -/
def execThermalLimit (s : State) : Out :=
  match s.cur.arg with
  | .thermal i v =>
    if sensors ≤ i then .next s
    else
      let old := tget 0#16 s.box.therm i
      let s := { s with box := { s.box with therm := tset 0#16 s.box.therm i v } }
      let s := if i < 32 && passes 95 old v then (s.cutRefill (i / 4) 2).mgmt 2 else s
      let s := if passes 105 old v then ((List.range 8).foldl (fun s f => s.cutRefill f 4) s).mgmt 2 else s
      .next (if 115 * 16 ≤ v.toNat && s.box.hotSince.isNone then { s with box := { s.box with hotSince := some s.tick.toNat } } else s)
  | _ => .next s

/-! ### Debug (R111, R113, R484) -/

/-- R484: DEBUG_HALT of a core. -/
def execDebugHalt (s : State) : Out :=
  match s.cur.arg with
  | .at c _ _ => .next (if c < 384 ∧ (s.core c).halted = false then (s.haltCore c).mgmt 5 else s)
  | _ => .next s

/-- R484: DEBUG_RESUME of a core. -/
def execDebugResume (s : State) : Out :=
  match s.cur.arg with
  | .at c _ _ => .next (if (s.core c).halted then s.setCore c { s.core c with halted := false } else s)
  | _ => .next s

/-- The register that DBGSEL names: FILE, SLOT, LANE, INDEX. -/
structure DbgName where
  file : Nat
  slot : Nat
  lane : Nat
  index : Nat
  deriving DecidableEq, Repr

def State.dbgName (s : State) : DbgName :=
  let x := s.box.dbgSel.toNat
  { file := bits x 60 4, slot := bits x 24 6, lane := bits x 16 7, index := bits x 0 16 }

/-- What a lane of a slot of the halted core sees: its leaf, or the join that it waits at; an ended lane has neither, and its
registers are still named. None where the slot holds no group. -/
def State.dbgView (s : State) (n : DbgName) : Option View :=
  match s.group? s.box.dbgCore n.slot with
  | none => none
  | some g => (s.launch? g.launch).map fun l =>
    { s := s, c := s.box.dbgCore, slot := n.slot, g := g, nd := (g.place n.lane).getD (leafNode 0 0 none none false), l := l }

/-- Word `i` of the handles: 8 × handle + word. -/
def Group.hword (g : Group) (i : Nat) : Word := (g.handle (i / 8)).extractLsb' (32 * (i % 8)) 32
def Group.setHword (g : Group) (i : Nat) (x : Word) : Group :=
  let h := (g.handle (i / 8)).toNat
  let lo := 32 * (i % 8)
  { g with hregs := tset 0#256 g.hregs (i / 8) (BitVec.ofNat 256 (h - bits h lo 32 * 2 ^ lo + x.toNat * 2 ^ lo)) }

/-- Numbers that R114 assigns. -/
def sysAssigned (n : Nat) : Bool := decide (n ≤ 4 ∨ (0x08 ≤ n ∧ n ≤ 0x0F) ∨ (0x10 ≤ n ∧ n ≤ 0x15))

/-- The value of the named register; one that does not exist reads zero. -/
def State.dbgGet (s : State) (n : DbgName) : Nat :=
  match s.dbgView n with
  | none => 0
  | some v =>
    let t := v.g.thread n.lane
    match n.file with
    | 0 => if n.index < v.g.win then (t.cell n.index).toNat else 0
    | 1 => if n.index < 128 then (v.g.kreg n.index).toNat else 0
    | 2 => if n.index < 16 && t.p n.index then 1 else 0
    | 3 => if n.index < 512 then (v.g.hword n.index).toNat else 0
    | 4 => v.nd.pc.toNat
    | 5 => if sysAssigned n.index then v.sysVal n.lane t n.index else 0
    | _ => 0

/-- A debugger's write of a system register: read-only ones, and values that R115 and R116 forbid, are left as they are. -/
def setSysDbg (t : Thread) (i x : Nat) : Thread :=
  match i with
  | 0x00 => match prWrite x with | some p => { t with pr := p } | none => t
  | 0x14 => if x % 16 ≠ 0 ∨ 2 ^ 57 ≤ x then t else { t with trappc := BitVec.ofNat 64 x }
  | 0x15 => { t with fpflags := BitVec.ofNat 32 (x % 32) }
  | _ => t

/-- The group after a debugger's write. -/
def Group.dbgSet (g : Group) (n : DbgName) (x : Nat) : Group :=
  let w : Word := BitVec.ofNat 32 x
  match n.file with
  | 0 => if n.index < g.win then g.mapThreads [n.lane] fun t => t.setCells n.index 1 w.toNat else g
  | 1 => if n.index < 128 then g.setK n.index w else g
  | 2 => if n.index < 15 then g.mapThreads [n.lane] fun t => t.setP n.index (x % 2 == 1) else g
  | 3 => if n.index < 512 then g.setHword n.index w else g
  | 5 =>
    if n.index = 0x12 then (if x % 4 = 3 then g else { g with classpol := BitVec.ofNat 2 x })
    else g.mapThreads [n.lane] fun t => setSysDbg t n.index x
  | _ => g

/-- R484: DBGDATA_READ. -/
def execDbgdataRead (s : State) : Out :=
  if (s.core s.box.dbgCore).halted then .next { s with lastRead := BitVec.ofNat 64 (s.dbgGet s.dbgName) }
  else .next { s with lastRead := 0, box := { s.box with dbgErr := true } }

/-- R484: DBGDATA_WRITE. -/
def execDbgdataWrite (s : State) : Out :=
  match s.cur.arg with
  | .value _ _ v =>
    if (s.core s.box.dbgCore).halted then
      .next (match s.dbgView s.dbgName with
        | none => s
        | some w => s.setGroup w.c w.slot (w.g.dbgSet s.dbgName (v.toNat % 2 ^ 64)))
    else .next { s with box := { s.box with dbgErr := true } }
  | _ => .next s

/-! ### Reads of registers (R441-R448, R465, R482-R485)

No row of the opcode table reads these; they are what a read of the host returns. -/

/-- FLCSTAT(n) (R444). -/
def State.flcstat (s : State) (n : Nat) : DWord :=
  let k := s.line n
  BitVec.ofNat 64 (k.bands.toNat * 2 ^ 32 + k.cause.toNat * 2 ^ 16 + (if k.psn then 8 else 0) + (if k.xlf then 4 else 0) +
    (if k.stopped then 2 else 0) + if k.band.isSome then 1 else 0)

/-- A register of head `h` (R448). -/
def State.headRead (s : State) (h off : Nat) : DWord :=
  let d := s.head h
  match off with
  | 0x00 => d.cfg | 0x08 => d.geom | 0x10 => d.period | 0x18 => d.set | 0x20 => d.pose | 0x28 => d.fill | 0x30 => d.ring | 0x38 => d.dmseq
  | 0x40 => BitVec.ofNat 64 (d.frame.toNat * 2 ^ 32 + d.curLine)
  | 0x48 => BitVec.ofNat 64 (d.falls.toNat * 2 ^ 32 + d.readies.toNat)
  | 0x50 => d.last
  | _ => 0

/-- A register of the Flue's control block (R441). -/
def State.flueRead (s : State) (off : Nat) : DWord :=
  if off = 0 then (if s.box.stage = 4 then s.flue.ctl else s.flue.ctl &&& ~~~1#64)
  else if 0x100 ≤ off ∧ off < 0x1A0 then tget 0#64 s.flue.fentry ((off - 0x100) / 8)
  else if 0x200 ≤ off ∧ off < 0x2A0 then tget 0#64 s.flue.fcores ((off - 0x200) / 8)
  else if 0x400 ≤ off ∧ off < 0x600 then s.flcstat ((off - 0x400) / 8)
  else if 0x10000 ≤ off ∧ off < 0x50000 then (tget 0#256 s.flue.code ((off - 0x10000) / 32)).extractLsb' (64 * (off / 8 % 4)) 64
  else 0

/-- ALLOW(f) (R483). -/
def State.allowReg (s : State) (f : Nat) : DWord :=
  let k := s.flask f
  BitVec.ofInt 32 k.allow ++ k.capL ++ k.refill

/-- PEER(p) with UP (R483). -/
def State.peerReg (s : State) (p : Nat) : DWord :=
  let r := tget 0#64 s.box.peer p
  r ||| if (List.range 8).any fun q => r.getLsbD (8 + q) && tget false s.box.ports q then 2 else 0

/-- A register of the management window (R482-R485). The RC and side-effecting ones have rows of their own. -/
def State.mgmtRead (s : State) (off : Nat) : DWord :=
  let b := s.box
  if 0x200000 ≤ off then s.flueRead (off - 0x200000)
  else if 0x100000 ≤ off then (if off < 0x100A00 then s.headRead ((off - 0x100000) / 128) (off % 128) else 0)
  else if 0x80000 ≤ off then (if supAssigned ((off - 0x80000) / 8) then s.supGet ((off - 0x80000) / 8) else 0)
  else if 0x40100 ≤ off ∧ off < 0x40300 then tget 0#64 b.cwbase ((off - 0x40100) / 8)
  else if 0x30080 ≤ off ∧ off < 0x300C0 then (tget 0#32 b.peererr ((off - 0x30080) / 8)).setWidth 64
  else if 0x30040 ≤ off ∧ off < 0x30080 then tget 0#64 b.ingress ((off - 0x30040) / 8)
  else if 0x30000 ≤ off ∧ off < 0x30040 then s.peerReg ((off - 0x30000) / 8)
  else if 0x20100 ≤ off ∧ off < 0x20130 then
    BitVec.ofNat 64 ((List.range 64).foldl (fun x i => if (s.core (64 * ((off - 0x20100) / 8) + i)).halted then x + 2 ^ i else x) 0)
  else if 0x10400 ≤ off ∧ off < 0x10500 then (tget 0#16 b.vtrim ((off - 0x10400) / 8)).setWidth 64
  else if 0x10100 ≤ off ∧ off < 0x10400 then (tget 0#16 b.therm ((off - 0x10100) / 8)).setWidth 64
  else if 0x10008 ≤ off ∧ off < 0x10048 then s.allowReg ((off - 0x10008) / 8)
  else match off with
    | 0x00 => BitVec.ofNat 64 (b.err.toNat * 256 + b.stage)
    | 0x08 => if b.bootgo then 1 else 0
    | 0x10 => b.fwaddr
    | 0x18 => b.fwlen
    | 0x20 => Config.devid.extractLsb' 0 64
    | 0x28 => Config.devid.extractLsb' 64 64
    | 0x30 => Config.devid.extractLsb' 128 64
    | 0x38 => Config.devid.extractLsb' 192 64
    | 0x60 => b.outaddr ||| BitVec.ofNat 64 (b.atterr % 16 * 4 + (if b.attdone then 2 else 0) + if b.attgo then 1 else 0)
    | 0x68 => b.attidx
    | 0x10000 => b.plimit
    | 0x20000 => BitVec.ofNat 64 (b.dbgCore * 2 ^ 16)
    | 0x20008 => b.dbgSel
    | 0x20018 => if b.dbgErr then 1 else 0
    | 0x40000 => b.mgmtcause
    | 0x40008 => b.fsaddr
    | _ => 0

/-- A register of the page of function `fn` (R465). -/
def State.pageRead (s : State) (fn off : Nat) : DWord :=
  if off = 8 then
    BitVec.ofNat 64 (fn + (if s.ctxValid fn then 2 ^ 8 else 0) + (if s.ctxRun fn then 2 ^ 9 else 0) + if s.box.wfault.contains fn then 2 ^ 16 else 0)
  else if 0x4000 ≤ off ∧ off < 0x4000 + 16 * vectorsOf fn then s.msixWord fn ((off - 0x4000) / 16) (off / 8 % 2)
  else if 0x8000 ≤ off ∧ off < 0x8000 + (vectorsOf fn + 63) / 64 * 8 then
    BitVec.ofNat 64 ((List.range 64).foldl (fun x i => if s.box.msixPending.contains (fn, 64 * ((off - 0x8000) / 8) + i) then x + 2 ^ i else x) 0)
  else 0

/-- A base address register as a configuration read gives it: the address with the bits of a 64-bit memory BAR, the context window's
prefetchable (R464; log 148). A function has no management window but function 0. -/
def State.barRead (s : State) (fn i : Nat) : DWord :=
  if barSize fn i = 0 then 0 else tget 0#64 s.box.bars (3 * fn + i) ||| (if i = 2 then 0xC else 0x4)

/-- The function, BAR and offset that a host address reaches (R464). -/
def State.barOf (s : State) (a : Nat) : Option (Nat × Nat × Nat) :=
  (List.range 192).findSome? fun j =>
    let base := (tget 0#64 s.box.bars j).toNat
    if base ≤ a ∧ a < base + barSize (j / 3) (j % 3) then some (j / 3, j % 3, a - base) else none

/-- What a host's read of a register by its address returns; a context window is read by an event of its own (R465, R466, R482). -/
def State.hostRead (s : State) (a : Nat) : Option DWord :=
  match s.barOf a with
  | some (fn, 0, off) => some (s.pageRead fn off)
  | some (_, 1, off) => some (s.mgmtRead off)
  | _ => none

/-! ### Writes of registers (R9) -/

/-- A write to a word of the MSI-X table; unmasking a vector sends a message that waited (R467). -/
def State.writeMsix (s : State) (fn vec i : Nat) (v : DWord) : State :=
  if vectorsOf fn ≤ vec ∨ 2 ≤ i then s
  else
    let s := { s with box := { s.box with msix := tput s.box.msix ((1024 * fn + vec) * 2 + i) v } }
    if i = 1 && !v.getLsbD 32 && s.box.msixPending.contains (fn, vec) then
      { s with box := { s.box with msixPending := s.box.msixPending.filter fun e => e != (fn, vec) } }.sendMsix fn vec
    else s

/-- A write to the doorbell of a function (R384). -/
def State.writeDoor (s : State) (fn : Nat) (v : DWord) : State :=
  let x := v.toNat
  if bits x 14 18 ≠ 0 ∨ bits x 10 2 ≠ 0 then s
  else match bits x 12 2 with
    | 0 => s.soon [.event .semdoorSet (.value fn (bits x 0 10) (BitVec.ofNat 256 (bits x 32 32)))]
    | 1 => s.soon [.event .semdoorAdd (.value fn (bits x 0 10) (BitVec.ofNat 256 (bits x 32 32)))]
    | 2 => s.soon [.event .semdoorMax (.value fn (bits x 0 10) (BitVec.ofNat 256 (bits x 32 32)))]
    | _ => s

/-- A write to a wake register (R371). -/
def State.writeWake (s : State) (fn q : Nat) (v : DWord) : State :=
  if bits v.toNat 33 31 ≠ 0 then s
  else s.soon [.event (if v.getLsbD 32 then .wakeFatal else .wake) (.value fn q (BitVec.ofNat 256 (bits v.toNat 0 32)))]

/-- A write to a Flue control register other than FCODE (R442-R444). -/
def State.writeFluectl (s : State) (v : DWord) : State :=
  { s with flue := { s.flue with ctl := keepBits v 1 6 ||| if s.box.stage = 4 then keepBits v 0 1 else s.flue.ctl &&& 1 } }

def State.clearFlc (s : State) (n : Nat) (v : DWord) : State :=
  let k := s.line n
  s.setLine n { k with psn := k.psn && !v.getLsbD 3, xlf := k.xlf && !v.getLsbD 2, stopped := k.stopped && !v.getLsbD 1 }

/-- A narrow write of a code-store entry (R441). -/
def State.writeCodeWord (s : State) (b i : Nat) (v : DWord) : State :=
  let old := (tget 0#256 s.flue.code b).toNat
  s.writeFcode b (BitVec.ofNat 256 (old - bits old (64 * (i % 4)) 64 * 2 ^ (64 * (i % 4)) + v.toNat * 2 ^ (64 * (i % 4))))

/-- A write to DBGCTL: RESUME, then HALT (R484). -/
def State.writeDbgctl (s : State) (v : DWord) : State :=
  let c := bits v.toNat 16 9
  let ts : List Turn := (if v.getLsbD 1 then [.event .debugResume (.at c 0 0)] else []) ++ (if v.getLsbD 0 then [.event .debugHalt (.at c 0 0)] else [])
  if 384 ≤ c then s else { s with box := { s.box with dbgCore := c } }.soon ts

/-- A write to ATTCTL: OUTADDR, ATTDONE and ATTGO (R483). -/
def State.writeAttctl (s : State) (v : DWord) : State :=
  let s := { s with box := { s.box with outaddr := keepBits v 6 58, attdone := s.box.attdone && !v.getLsbD 1 } }
  if v.getLsbD 0 then s.soon [.event .attestGo .none] else s

/-- Change a register of the Firebox. -/
def State.boxWrite (s : State) (f : Firebox → Firebox) : State := { s with box := f s.box }

/-- The function that a register page belongs to. -/
def pageOwner (r : HostReg) : Option Nat :=
  match r with
  | .semdoor fn => some fn
  | .fnstat fn => some fn
  | .msixTable fn _ _ => some fn
  | .wakeReg fn _ => some fn
  | _ => none

/-- A write of the host to a register under its access code (R9). A bit that R483 lists under no field is taken as a zero field,
    which discards the write (DEDUCED, log 51). -/
def State.regWrite (s : State) (r : HostReg) (v : DWord) : State :=
  let x := v.toNat
  match r with
  | .semdoor fn => if fn < 64 then s.writeDoor fn v else s
  | .fnstat fn => s.boxWrite fun b => { b with wfault := if v.getLsbD 16 then b.wfault.filter fun f => f != fn else b.wfault }
  | .msixTable fn vec i => if fn < 64 then s.writeMsix fn vec i v else s
  | .wakeReg fn q => if fn < 64 then s.writeWake fn q v else s
  | .bootctl => if v = 1 ∧ (s.box.stage = 0 ∨ s.box.stage = 5) then (s.boxWrite fun b => { b with bootgo := true }).soon [.event .bootGo .none] else s
  | .bar fn i => if fn < 64 ∧ barSize fn i ≠ 0 then s.boxWrite fun b => { b with bars := tset 0#64 b.bars (3 * fn + i) (BitVec.ofNat 64 (x / barSize fn i * barSize fn i)) } else s
  | .fwaddr => if x % 4096 ≠ 0 then s else s.boxWrite fun b => { b with fwaddr := v }
  | .fwlen => if 2 ^ 32 ≤ x then s else s.boxWrite fun b => { b with fwlen := v }
  | .chal i => if i < 4 then s.boxWrite fun b => { b with chal := tset 0#64 b.chal i v } else s
  | .attctl => s.writeAttctl v
  | .attidx => if 2 ^ 15 ≤ x then s else s.boxWrite fun b => { b with attidx := v }
  | .plimit => if 300 ≤ x ∧ x ≤ 1600 then s.boxWrite fun b => { b with plimit := v } else s
  | .peer p => if p < 8 ∧ bits x 16 48 = 0 ∧ bits x 2 6 = 0 then s.boxWrite fun b => { b with peer := tset 0#64 b.peer p (keepBits v 8 8 ||| keepBits v 0 1) } else s
  | .ingress q => if q < 8 ∧ bits x 41 23 = 0 ∧ bits x 9 23 = 0 then s.boxWrite fun b => { b with ingress := tset 0#64 b.ingress q v } else s
  | .mgmtcause => s.boxWrite fun b => { b with mgmtcause := b.mgmtcause &&& ~~~v }
  | .cwbase c => if c < 64 then s.boxWrite fun b => { b with cwbase := tset 0#64 b.cwbase c v } else s
  | .dbgctl => s.writeDbgctl v
  | .dbgsel => s.boxWrite fun b => { b with dbgSel := v }
  | .dbgstat => s.boxWrite fun b => { b with dbgErr := b.dbgErr && !v.getLsbD 0 }
  | .dbgdata => s.soon [.event .dbgdataWrite (.value 0 0 (v.setWidth 256))]
  | .sup n => if 3 ≤ s.box.stage ∨ supAssigned n = false then s else s.supSet n v
  | .head h off => s.writeHead h off v
  | .dresv => s.soon [.event .dresvWrite (.value 0 0 (v.setWidth 256))]
  | .fluectl => s.writeFluectl v
  | .fentry h => if h < 20 then { s with flue := { s.flue with fentry := tset 0#64 s.flue.fentry h (keepBits v 0 13) } } else s
  | .fcores h => if h < 20 then { s with flue := { s.flue with fcores := tset 0#64 s.flue.fcores h v } } else s
  | .flcstat n => if n < 64 then s.clearFlc n v else s
  | .fcode b i => s.writeCodeWord b i v
  | .readOnly _ => s

/-- The function whose posted write a write of a register is; a configuration write is none (R464, R466). -/
def writeOwner (r : HostReg) : Option Nat :=
  match r with
  | .bar _ _ => none
  | _ => some ((pageOwner r).getD 0)

/-- The register of a function's semaphore doorbell (R384). -/
def isDoor (r : HostReg) : Bool := match r with | .semdoor _ => true | _ => false

/-- R9: REGISTER_WRITE. A function under reset has writes to its BAR discarded (R468). -/
def execRegisterWrite (s : State) : Out :=
  match s.cur.arg with
  | .host r v =>
    let t := if (pageOwner r).any s.box.inReset.contains then s else s.regWrite r v
    match writeOwner r with
    | some fn => if isDoor r then s.doorWrite fn .registerWrite t else s.postedWrite fn .registerWrite t
    | none => .next t
  | _ => .next s

end Sys2Proof.Machine
end

