-- ==== Sys2Proof/Machine/Schedule.lean ====
section
/-! DEFINITION. What happens when: the turns that each tick brings, in their order, the turn at the head of the agenda, and
the placing of one instruction word where the machine fetches next. A rule that only bounds the time of an event leaves the
tick free (log 14). -/

namespace Sys2Proof.Machine

/-! ### Turns that are due -/

/-- A turn that may come at this tick; one that `must` comes at it. -/
structure Due where
  turn : Turn
  must : Bool
  deriving DecidableEq, Repr

def must (i : Instr) (a b c : Nat) : Due := { turn := .event i (.at a b c), must := true }
def may (i : Instr) (a b c : Nat) : Due := { turn := .event i (.at a b c), must := false }
def dueIf (p : Bool) (d : Due) : List Due := if p then [d] else []

/-- The turns that come: those that must, and of the others those that a free choice takes. -/
def State.draw (s : State) (ds : List Due) : State × List Turn :=
  ({ s with free := s.free + ds.length },
   ((ds.mapIdx fun i d => (i, d)).filter fun (e : Nat × Due) => e.2.must || Config.happensNow (s.free + e.1)).map fun e => e.2.turn)

/-- The waits and times of a group's fragments: sleeps end at their tick (R137), a waitv reads again at each tick (R206). -/
def State.nodeDue (s : State) (c sl : Nat) (g : Group) : List Due :=
  (g.nodes ++ g.stack).flatMap fun nd => match nd.st with
    | .asleep t => dueIf (decide (t ≤ s.tick.toNat)) (must .sleepExpiry c sl nd.id)
    | .waitv _ _ _ => [must .waitvReread c sl nd.id]
    | _ => []

/-- The engine events of a group (R31, R275, R281, R307, R313, R316, R318). -/
def State.engineDue (s : State) (c sl : Nat) (g : Group) : List Due :=
  let t := s.tick.toNat
  (match g.cruc.queue with
    | x :: _ => dueIf x.done (must .crucCommandComplete c sl x.seq)
    | [] => []) ++
  (g.cruc.queue.flatMap fun x => dueIf (!x.bypass && x.held.any fun h => decide (h + 2 ^ 16 ≤ t)) (must .crucGateBypass c sl x.seq)) ++
  (g.ladle.queue.flatMap fun x =>
    dueIf x.done (must .ladleCommandComplete c sl x.seq) ++
    dueIf (!x.bypass && !x.done && decide (x.time + 2 ^ 16 ≤ t)) (must .ladleGateBypass c sl x.seq) ++
    dueIf (x.isKind .ord && x.started && !x.sent && !x.done && x.parked.isNone && decide (x.d.count ≤ x.prog)) (may .windowArrival c sl x.seq)) ++
  dueIf (s.contDue c g).isSome (may .lcontPerform c sl 0) ++
  ([EngineSel.cruc, EngineSel.ladle].flatMap fun e =>
    if (s.batchReady g e).isSome then [{ turn := .event .batchComplete (.engine e c sl), must := true }] else [])

/-- The sectors of a core's L1: a dirty one is written back within 2^20 ticks of its first write, and clean bytes leave within
2^22 of the fill, those of a dirty sector too (R182). -/
def State.l1Due (s : State) (c : Nat) : List Due :=
  (s.core c).l1.flatMap fun (e : Nat × L1Sector) =>
    dueIf (e.2.dirty != 0) { turn := .event .l1Writeback (.at c e.1 0), must := decide (e.2.wrote + 2 ^ 20 ≤ s.tick.toNat) } ++
    dueIf (e.2.have_ &&& ~~~e.2.dirty != 0) { turn := .event .l1LineExpire (.at c e.1 0), must := decide (e.2.filled + 2 ^ 22 ≤ s.tick.toNat) }

/-- The oldest waiting claim of a core, once its indices are free (R264, R278). -/
def State.claimDue (s : State) (c : Nat) : List Due :=
  match (s.core c).waiting with
  | [] => []
  | q :: _ => if s.claimFree c q.tiles q.masks then
      (match q.forCore with | some o => [must .pairGrant o q.slot 0] | none => [must .claimGrant c 0 0])
    else []

/-- What a core brings beside its cycles. -/
def State.coreDue (s : State) (c : Nat) : List Due :=
  s.claimDue c ++ dueIf (s.nextStart c).isSome (must .ladleStart c 0 0) ++
  ((s.core c).groups.flatMap fun (e : Nat × Group) => s.engineDue c e.1 e.2 ++ s.nodeDue c e.1 e.2) ++ s.l1Due c

/-- What a flask brings (R344, R345, R400). -/
def State.flaskDue (s : State) (f : Nat) : List Due :=
  let k := s.flask f
  dueIf (!k.admission.isEmpty && (tfree k.merge 4096).isSome) (must .missAdmission f 0 0) ++
  ((k.merge.filter fun (e : Nat × MergeEntry) => e.2.phase == .walking).map fun e => may .walkComplete f e.1 0) ++
  dueIf (!(s.overdue f).isEmpty) (must .blockWaitExpiry f 0 0) ++
  dueIf (!(s.resumable f).isEmpty) (may .blockResume f 0 0) ++
  dueIf (s.launches.any fun e => s.mayPlace e.2 f && decide (e.2.nextBlock < e.2.rec_.blockCount)) (may .blockDispatch f 0 0)

/-- What a launch brings (R99, R100, R398). -/
def State.launchDue (s : State) (li : Nat) (l : Launch) : List Due :=
  dueIf (decide (2 ^ 34 ≤ l.watchdog) && l.missing && s.ctxRun l.ctx) (must .watchdogExpiry li 0 0) ++
  (match l.allWaitSince with
    | some t => [{ turn := .event .blockSwap (.at li 0 0), must := decide (t + 2 ^ 20 ≤ s.tick.toNat) }]
    | none => []) ++
  dueIf (s.launchOver li) (may .launchEnd li 0 0)

/-- The requests in the network, oldest first in each list (R349, R350): those that have had their time leave in order from the
front, and of the others, from the back, any may. -/
def State.networkDue (s : State) : List Due :=
  let t := s.tick.toNat
  let rs := s.hearth.routers
  let qs := s.hearth.requests
  let late (since bound : Nat) : Bool := decide (since + bound ≤ t)
  let n := (rs.filter fun x => late x.since 64).length
  let m := (qs.filter fun x => late x.since 32768).length
  ((List.range rs.length).filter fun i => decide (n ≤ i)).reverse.map (fun i => may .routerCombineFlush i 0 0) ++
  (List.replicate n (must .routerCombineFlush 0 0 0)) ++
  ((qs.mapIdx fun i x => (i, x)).flatMap fun (e : Nat × RedReq) => dueIf (e.2.prio == 3 && late e.2.since 16384) (must .p3Promotion e.1 0 0)) ++
  (List.replicate m (must .memoryRequestPerform 0 0 0)) ++
  ((List.range qs.length).filter fun i => decide (m ≤ i)).reverse.map fun i => may .memoryRequestPerform (i - m) 0 0

/-- What the Hearth brings at fixed times, on command, and for its buffers (R346, R351-R359, R486). -/
def State.hearthDue (s : State) : List Due :=
  let t := s.tick.toNat
  dueIf (!s.faultQ.isEmpty) { turn := .event .faultEntryWrite .none, must := false } ++
  dueIf (!s.hearth.fbQ.isEmpty && s.sup.fbput - s.sup.fbget != 16384) { turn := .event .faultBufferWrite .none, must := false } ++
  ((s.hearth.windows.filter fun (e : Nat × OrdWindow) => decide (e.2.expect ≤ e.2.arrived)).map fun e => may .windowApply e.1 0 0) ++
  (if t % 1024 = 0 then [{ turn := .event .reservationWindowAdvance .none, must := true }] else []) ++
  (if t % 2 ^ 23 = 0 then (List.range 24).map fun c => must .refreshAdjust c 0 0 else []) ++
  (match s.hearth.freeOp with
    | some (1, f) => [may .freeDeclare f 0 0]
    | some (2, f) => [may .freeReclaim f 0 0]
    | some _ => [{ turn := .event .freecmdComplete .none, must := false }]
    | none => []) ++
  (s.sup.waygate.flatMap fun (e : Nat × DWord) => ((List.range 16).filter fun w =>
    e.2.getLsbD w && !e.2.getLsbD (16 + w) && !e.2.getLsbD (32 + w)).map fun w => may .wayGateDone e.1 w 0) ++
  (((List.range 24).filter fun w => s.sup.hgate.getLsbD w && !s.sup.hgate.getLsbD (24 + w) && !s.sup.hgskip.getLsbD w).map fun w =>
    may .wayGateDone 64 w 0) ++
  ((s.hearth.lineSpare.filter fun e => s.lineBlank e.1).map fun e => must .linebufRowSpare e.1 e.2 0) ++
  s.damper.retire.map fun (e : Nat × Nat) => { turn := .event .slotRetire (.at e.1 0 0), must := decide (e.2 + 2 ^ 10 ≤ t) }

/-- What the Flue brings beside its cycles (R404, R422). -/
def State.flueDue (s : State) : List Due :=
  s.flue.lines.flatMap fun (e : Nat × LineCore) =>
    ((e.2.w.filter fun (r : Nat × WReg) => r.2.st == .pending).map fun r => may .wArrival e.1 r.1 0) ++
    dueIf (!e.2.walk.isEmpty) (may .flueWalkComplete e.1 0 0)

/-- 1 ms in ticks (R21, R481). -/
def tripBound : Nat := 8000000

/-- What the Firebox brings (R468-R476, R481). -/
def State.boxDue (s : State) : List Due :=
  let b := s.box
  (match b.stage with
    | 1 => [may .imageLoaded ((Config.freeWord s.free).toNat % 2) 0 0]
    | 2 => [{ turn := .event .imageVerified .none, must := false }]
    | 3 => [{ turn := .event .handover .none, must := false }]
    | _ => []) ++
  dueIf b.attgo { turn := .event .attestDone .none, must := false } ++
  (b.inReset.map fun fn => { turn := .event .functionReset (.at fn 1 0), must := s.resetLate fn }) ++
  (match b.hotSince with
    | some t => [{ turn := .event .thermalTrip .none, must := decide (t + tripBound ≤ s.tick.toNat) }]
    | none => []) ++
  dueIf (s.tick.toNat % 2 ^ 20 == 0) { turn := .event .voltageTrim .none, must := true }

/-! ### The turns of a tick -/

/-- The turns that open a core's cycle (R94, R95, R18). -/
def State.cycleDue (s : State) (c : Nat) : List Turn :=
  let k := s.core c
  if s.coreOn c && !k.gated && decide (k.nextCycle ≤ s.tick.toNat) then
    (if 64 ≤ k.gatedFor ∧ k.dWindow = 0 then [.event .dWindowOpen (.at c 0 0)] else []) ++
    (if k.dWindow = 1 then [.event .dWindowClose (.at c 0 0)] else []) ++
    ((k.groups.filter fun (e : Nat × Group) => decide (960 ≤ e.2.eligibleFor) && !e.2.owed).map fun e => .event .owedGroup (.at c e.1 0)) ++
    [.event .coreCycle (.at c 0 0)]
  else []

/-- The Stoker's step, at each multiple of 8, after what unmaps lanes or wakes queues (R361, R375, R379, R380). -/
def State.stokerDue (s : State) : List Turn :=
  if s.tick.toNat % 8 = 0 then
    ((s.stoker.timers.filter fun e => decide (e.2.toNat ≤ s.tick.toNat)).map fun e => .event .waittTimer (.at e.1 0 0)) ++
    ((List.range 30).filter fun l => (s.lane l).queue.isSome && (s.lane l).waitSince.isSome).map (fun l => .event .waitTimeout (.at l 0 0)) ++
    ((List.range 30).filter fun l => (s.lane l).queue.isSome && decide ((s.lane l).mappedAt + quantum ≤ s.tick.toNat)).map (fun l => .event .quantumExpiry (.at l 0 0)) ++
    ((List.range 4).filter fun c => (s.borrower c).isSome).map (fun c => .event .borrowReclaim (.at c 0 0)) ++
    [.event .stokerStep .none]
  else []

/-- Whether a cycle of the Flue begins at this tick: one every 16/3 ticks (R406). -/
def Flue.begins (k : Flue) : Bool := decide (k.third < 3)
def Flue.tickOn (k : Flue) : Flue := { k with third := if k.third < 3 then k.third + 13 else k.third - 3 }

/-- The Flue's cycle: the bundles of the line cores that issue or drain, then the count of the cycle. -/
def State.bundleDue (s : State) : List Turn :=
  if s.flue.begins then
    ((s.flue.lines.filter fun (e : Nat × LineCore) => (e.2.running && decide (e.2.startAt ≤ s.tick.toNat)) || e.2.ending).map fun e => Turn.bundle e.1) ++
    [.event .flueCycle .none]
  else []

/-- Inputs of the outside that have arrived, in order. -/
def State.inputsDue (s : State) : List (Nat × Turn) := s.inputs.takeWhile fun e => decide (e.1 ≤ s.tick.toNat)

/-- A launch's watchdog counts while RUN is set and no core that carries the launch is halted (R100, R111). -/
def State.watch (s : State) (li : Nat) (l : Launch) : Launch :=
  let halted := s.cores.any fun e => e.2.halted && e.2.groups.any fun g => g.2.launch == li
  if s.ctxRun l.ctx && !halted then { l with watchdog := l.watchdog + 1 } else l

/-- The tick since which a launch has been due for a swap (R99). -/
def State.swapSince (s : State) (li : Nat) (l : Launch) : Launch :=
  { l with allWaitSince := if s.swapDue li then some (l.allWaitSince.getD s.tick.toNat) else none }

/-- Blocks whose threads have all arrived at setw, and wait for resources, try again (R81, R125). -/
def State.retrySetw (s : State) : State :=
  s.launches.foldl (fun s e => e.2.blocks.foldl (fun s b => if b.2.setwArrived.isEmpty then s else s.checkSetw e.1 b.1) s) s

/-- The counts that each tick brings, and the waits for resources at setw and lrest that end. -/
def State.count (s : State) : State :=
  let s := s.trackRetire.retrySetw
  { s with launches := s.launches.map fun (e : Nat × Launch) => (e.1, s.swapSince e.1 (s.watch e.1 e.2))
           cores := s.cores.map fun (e : Nat × Core) => (e.1, e.2.freeRoom) }

/-- Everything that a tick may bring beside the fixed turns. -/
def State.allDue (s : State) : List Due :=
  s.networkDue ++ (s.cores.flatMap fun e => s.coreDue e.1) ++ (s.saving.map fun q => may .preemptSave q.core q.launch 0) ++
  ((List.range 8).flatMap fun f => s.flaskDue f) ++ (s.launches.flatMap fun e => s.launchDue e.1 e.2) ++ s.hearthDue ++ s.flueDue ++ s.boxDue

/-- The turns of a tick in their order: the outside, the Damper, the refill, the cores' cycles, the Stoker, the Flue, the rest. -/
def State.fixedTurns (s : State) : List Turn :=
  (s.inputsDue.map (·.2)) ++ [.heads, .event .allowanceRefill .none] ++
  ((List.range 384).flatMap fun c => s.cycleDue c) ++ s.stokerDue ++ s.bundleDue

/-- The next tick: its counts, and its turns on the agenda. A module without power waits for what comes from outside. -/
def State.nextTick (s : State) : State :=
  if s.box.off then
    match s.inputs with
    | [] => s
    | e :: rest => { s with inputs := rest, agenda := match e.2 with | .event .powerOn a => [.event .powerOn a] | _ => [] }
  else
    let s := { s with tick := s.tick + 1 }.count
    let d := s.draw s.allDue
    { d.1 with agenda := s.fixedTurns ++ d.2, inputs := s.inputs.drop s.inputsDue.length, flue := s.flue.tickOn }

/-! ### One turn -/

/-- Whether an instruction is an event, which no word encodes. -/
def isEvent (i : Instr) : Bool := (castCode i).isNone && (encodeFlue i).isNone && (encodeStoker i).isNone

/-- Whether a lane can perform: it runs firmware or holds a queue. -/
def State.laneLive (s : State) (l : Nat) : Bool := decide (l < 32) && (firmware l || (s.lane l).queue.isSome)

/-- Perform one turn. -/
def State.turn (ex : Instr → State → Out) (s : State) : Turn → Out
  | .issue c sl n => State.issueTurn ex s c sl n
  | .lane l =>
    if s.laneLive l then
      match s.laneTurn l with
      | (s, some i) => ex i s
      | (s, none) => .next s
    else .next s
  | .bundle n => if n < 64 then State.bundleTurn ex { s with cur := { s.cur with word := 0, arg := .none } } n else .next s
  | .heads => .next (s.soon (s.damper.heads.flatMap fun e => s.headDue e.1))
  | .event i a => if isEvent i then ex i { s with cur := { s.cur with word := 0, arg := a } } else .next s

/-- One step: the turn at the head of the agenda, or the next tick. -/
def State.advance (ex : Instr → State → Out) (s : State) : Out :=
  match s.agenda with
  | [] => .next s.nextTick
  | t :: rest => State.turn ex { s with agenda := rest } t

/-! ### Placing a word to be fetched next (log 25) -/

/-- A slot of a bundle in which an op may stand (R409). -/
def slotFor (op : Nat) : Nat := ((List.range 8).find? fun i => slotTakes i op).getD 0

/-- Line core 0 issues, from entry 0, a bundle that holds a slot op. -/
def State.placeSlot (s : State) (w : BitVec 32) : State :=
  let b : BitVec 256 := BitVec.ofNat 256 (w.toNat * 2 ^ (32 * slotFor (bits w.toNat 24 8)))
  { s with
    flue := { s.flue with code := tset 0#256 s.flue.code 0 b, lines := tput s.flue.lines 0 { s.line 0 with pc := 0, delay := none, running := true } }
    agenda := [.bundle 0] }

/-- Lane 31 runs, from offset 0, a loaded image that begins with a command word and its extra words of zeros. -/
def State.placeCommand (s : State) (w : DWord) : State :=
  let store := (List.range 8).foldl (fun (t : Table Byte) i => tset 0#8 t i (w.extractLsb' (8 * i) 8)) []
  { s with
    box := { s.box with stage := 4, store := store, imageLen := 4096 }
    stoker := { s.stoker with lanes := tput s.stoker.lanes 31 (Lane.reset 31) }
    agenda := [.lane 31] }

/-- The least launch record: one thread, a window of 256 cells. -/
def tinyRec : LaunchRec :=
  { entry := 0, trapentry := 0, faultrec := 0, spillbase := 0, savebase := 0, spillstride := 256, spilllimit := 256, wreq := 8, win := 256,
    classpol := 0, prio := 0, nlev := 1, coop := 0, scratch := 0, prinit := 0, context := 0, domain := [0], size := [1], units := 1, kinit := [] }

/-- A launch with its one block placed on core 0. -/
def tinyLaunch : Launch :=
  { rec_ := tinyRec, recAddr := 0, ctx := 0, queue := none, parent := none, sig := none
    blocks := [(0, { place := .placed, cores := [0], grant := 8, since := 0, bars := [], setwArrived := [], setwReq := 0, ended := [], pinned := [], swapped := false })]
    nextBlock := 1, watchdog := 0, waiting := false, allWaitSince := none, order := 0, nextSince := 0, saveFatal := [] }

/-- A group of one thread, at address 0. -/
def tinyGroup : Group :=
  { launch := 0, block := 0, k := 0, grant := 8, prio := 0, ctx := 0, win := 256, threads := [(0, { Thread.none with alive := true })]
    nodes := [{ leafNode 1 0 none none false with id := 0 }], stack := [], nextNode := 1, issues := 0, kregs := [], hregs := [], classpol := 0
    lastIssue := 0, eligibleFor := 0, owed := false, cruc := .start, ladle := .start, fences := [], remnant := false }

/-- Core 0 issues, at address 0 of context 0, a casting word for a group of one thread; the page has a translation. -/
def State.placeCast (s : State) (w : BitVec 128) : State :=
  let e : TlbEntry := { ctx := 0, va := 0, size := 4096, pa := 0, r := true, w := true, x := true }
  let s := { s with launches := tput s.launches 0 tinyLaunch, mem := s.mem.write 0 16 w.toNat, agenda := [.issue 0 0 0] }
  s.setCore 0 { s.core 0 with groups := tput (s.core 0).groups 0 tinyGroup, utlb := [e] }

/-- Place an instruction of `nbits` bits, its later words zero. -/
def State.placeWord (s : State) (nbits w : Nat) : State :=
  if nbits ≤ 32 then s.placeSlot (BitVec.ofNat 32 w)
  else if nbits ≤ 64 then s.placeCommand (BitVec.ofNat 64 w)
  else s.placeCast (BitVec.ofNat 128 w)

end Sys2Proof.Machine
end

