-- ==== Sys2Proof/Machine/Dispatch.lean ====
section
/-! DEFINITION. The one match over the instructions: each arm is one call of that instruction's meaning. -/

namespace Sys2Proof.Machine

/-- The effect of an instruction, at the place that the cursor names. -/
def exec (i : Instr) (s : State) : Host.Outcome State Fault Refusal :=
  match i with
  | .coreCycle => Sys2Proof.Machine.execCoreCycle s
  | .allowanceRefill => Sys2Proof.Machine.execAllowanceRefill s
  | .voltageTrim => Sys2Proof.Machine.execVoltageTrim s
  | .batchComplete => Sys2Proof.Machine.execBatchComplete s
  | .slotRetire => Sys2Proof.Machine.execSlotRetire s
  | .blockDispatch => Sys2Proof.Machine.execBlockDispatch s
  | .blockWaitExpiry => Sys2Proof.Machine.execBlockWaitExpiry s
  | .blockResume => Sys2Proof.Machine.execBlockResume s
  | .faultEntryWrite => Sys2Proof.Machine.execFaultEntryWrite s
  | .owedGroup => Sys2Proof.Machine.execOwedGroup s
  | .dWindowOpen => Sys2Proof.Machine.execDWindowOpen s
  | .dWindowClose => Sys2Proof.Machine.execDWindowClose s
  | .blockSwap => Sys2Proof.Machine.execBlockSwap s
  | .watchdogExpiry => Sys2Proof.Machine.execWatchdogExpiry s
  | .preemptSave => Sys2Proof.Machine.execPreemptSave s
  | .launchEnd => Sys2Proof.Machine.execLaunchEnd s
  | .sleepExpiry => Sys2Proof.Machine.execSleepExpiry s
  | .waitvReread => Sys2Proof.Machine.execWaitvReread s
  | .missAdmission => Sys2Proof.Machine.execMissAdmission s
  | .walkComplete => Sys2Proof.Machine.execWalkComplete s
  | .faultBufferWrite => Sys2Proof.Machine.execFaultBufferWrite s
  | .fbresolveRetry => Sys2Proof.Machine.execFbresolveRetry s
  | .fbresolveFatal => Sys2Proof.Machine.execFbresolveFatal s
  | .l1Writeback => Sys2Proof.Machine.execL1Writeback s
  | .l1LineExpire => Sys2Proof.Machine.execL1LineExpire s
  | .routerCombineFlush => Sys2Proof.Machine.execRouterCombineFlush s
  | .p3Promotion => Sys2Proof.Machine.execP3Promotion s
  | .reservationWindowAdvance => Sys2Proof.Machine.execReservationWindowAdvance s
  | .l2LockWrite => Sys2Proof.Machine.execL2LockWrite s
  | .refreshAdjust => Sys2Proof.Machine.execRefreshAdjust s
  | .freeDeclare => Sys2Proof.Machine.execFreeDeclare s
  | .freeReclaim => Sys2Proof.Machine.execFreeReclaim s
  | .freecmdComplete => Sys2Proof.Machine.execFreecmdComplete s
  | .l2WayGate => Sys2Proof.Machine.execL2WayGate s
  | .l2WayUngate => Sys2Proof.Machine.execL2WayUngate s
  | .hearthWayGate => Sys2Proof.Machine.execHearthWayGate s
  | .hearthWayUngate => Sys2Proof.Machine.execHearthWayUngate s
  | .wayGateDone => Sys2Proof.Machine.execWayGateDone s
  | .correctedError => Sys2Proof.Machine.execCorrectedError s
  | .uncorrectableError => Sys2Proof.Machine.execUncorrectableError s
  | .linebufRowSpare => Sys2Proof.Machine.execLinebufRowSpare s
  | .errdropRead => Sys2Proof.Machine.execErrdropRead s
  | .crucibleBeat => Sys2Proof.Machine.execCrucibleBeat s
  | .crucCommandComplete => Sys2Proof.Machine.execCrucCommandComplete s
  | .timeslotTurnEnd => Sys2Proof.Machine.execTimeslotTurnEnd s
  | .crucGateBypass => Sys2Proof.Machine.execCrucGateBypass s
  | .claimGrant => Sys2Proof.Machine.execClaimGrant s
  | .pairGrant => Sys2Proof.Machine.execPairGrant s
  | .timeslotWrite => Sys2Proof.Machine.execTimeslotWrite s
  | .ladleStart => Sys2Proof.Machine.execLadleStart s
  | .ladleTransfer => Sys2Proof.Machine.execLadleTransfer s
  | .ladleGateBypass => Sys2Proof.Machine.execLadleGateBypass s
  | .ladleCommandComplete => Sys2Proof.Machine.execLadleCommandComplete s
  | .windowArrival => Sys2Proof.Machine.execWindowArrival s
  | .windowApply => Sys2Proof.Machine.execWindowApply s
  | .lcontPerform => Sys2Proof.Machine.execLcontPerform s
  | .stokerStep => Sys2Proof.Machine.execStokerStep s
  | .quantumExpiry => Sys2Proof.Machine.execQuantumExpiry s
  | .borrowReclaim => Sys2Proof.Machine.execBorrowReclaim s
  | .queueUnmap => Sys2Proof.Machine.execQueueUnmap s
  | .waittTimer => Sys2Proof.Machine.execWaittTimer s
  | .waitTimeout => Sys2Proof.Machine.execWaitTimeout s
  | .wake => Sys2Proof.Machine.execWake s
  | .wakeFatal => Sys2Proof.Machine.execWakeFatal s
  | .semdoorSet => Sys2Proof.Machine.execSemdoorSet s
  | .semdoorAdd => Sys2Proof.Machine.execSemdoorAdd s
  | .semdoorMax => Sys2Proof.Machine.execSemdoorMax s
  | .supfaultRead => Sys2Proof.Machine.execSupfaultRead s
  | .stokerNop => Sys2Proof.Machine.execStokerNop s
  | .ldi xd v => Sys2Proof.Machine.execLdi xd v s
  | .stokerAdd xd xa b => Sys2Proof.Machine.execStokerAdd xd xa b s
  | .stokerSub xd xa b => Sys2Proof.Machine.execStokerSub xd xa b s
  | .stokerAnd xd xa b => Sys2Proof.Machine.execStokerAnd xd xa b s
  | .stokerOr xd xa b => Sys2Proof.Machine.execStokerOr xd xa b s
  | .stokerXor xd xa b => Sys2Proof.Machine.execStokerXor xd xa b s
  | .stokerShl xd xa b => Sys2Proof.Machine.execStokerShl xd xa b s
  | .stokerShr xd xa b => Sys2Proof.Machine.execStokerShr xd xa b s
  | .stokerBr cond xa xb off => Sys2Proof.Machine.execStokerBr cond xa xb off s
  | .callb addr => Sys2Proof.Machine.execCallb addr s
  | .retb => Sys2Proof.Machine.execRetb s
  | .yieldq => Sys2Proof.Machine.execYieldq s
  | .write f addr v => Sys2Proof.Machine.execWrite f addr v s
  | .stx f xs addr => Sys2Proof.Machine.execStx f xs addr s
  | .ldx f xd addr => Sys2Proof.Machine.execLdx f xd addr s
  | .copy dst src len => Sys2Proof.Machine.execCopy dst src len s
  | .cache m addr len => Sys2Proof.Machine.execCache m addr len s
  | .present seq addr => Sys2Proof.Machine.execPresent seq addr s
  | .intr vec => Sys2Proof.Machine.execIntr vec s
  | .launch rec sig => Sys2Proof.Machine.execLaunch rec sig s
  | .stokerFence launches sys => Sys2Proof.Machine.execStokerFence launches sys s
  | .wait cond sem v => Sys2Proof.Machine.execWait cond sem v s
  | .waitt rel v => Sys2Proof.Machine.execWaitt rel v s
  | .signal m sys sem v => Sys2Proof.Machine.execSignal m sys sem v s
  | .sqctlEnable queue => Sys2Proof.Machine.execSqctlEnable queue s
  | .sqctlDisable queue => Sys2Proof.Machine.execSqctlDisable queue s
  | .sqctlReset queue => Sys2Proof.Machine.execSqctlReset queue s
  | .sqctlUnmap queue => Sys2Proof.Machine.execSqctlUnmap queue s
  | .spreempt keepq ctx => Sys2Proof.Machine.execSpreempt keepq ctx s
  | .sresume ctx => Sys2Proof.Machine.execSresume ctx s
  | .ssetreg xs reg => Sys2Proof.Machine.execSsetreg xs reg s
  | .sgetreg xd reg => Sys2Proof.Machine.execSgetreg xd reg s
  | .sinval ctx range => Sys2Proof.Machine.execSinval ctx range s
  | .svsemBind ctx virt countM1 phys => Sys2Proof.Machine.execSvsemBind ctx virt countM1 phys s
  | .svsemUnbind ctx virt countM1 => Sys2Proof.Machine.execSvsemUnbind ctx virt countM1 s
  | .nop w => Sys2Proof.Machine.execNop w s
  | .bra w => Sys2Proof.Machine.execBra w s
  | .brx w => Sys2Proof.Machine.execBrx w s
  | .call w => Sys2Proof.Machine.execCall w s
  | .callx w => Sys2Proof.Machine.execCallx w s
  | .ret w => Sys2Proof.Machine.execRet w s
  | .join w => Sys2Proof.Machine.execJoin w s
  | .exit w => Sys2Proof.Machine.execExit w s
  | .bar w => Sys2Proof.Machine.execBar w s
  | .arrive w => Sys2Proof.Machine.execArrive w s
  | .setw w => Sys2Proof.Machine.execSetw w s
  | .shfl m w => Sys2Proof.Machine.execShfl m w s
  | .vote m w => Sys2Proof.Machine.execVote m w s
  | .elect w => Sys2Proof.Machine.execElect w s
  | .gred m w => Sys2Proof.Machine.execGred m w s
  | .gscan m w => Sys2Proof.Machine.execGscan m w s
  | .rdsys w => Sys2Proof.Machine.execRdsys w s
  | .wrsys w => Sys2Proof.Machine.execWrsys w s
  | .kset w => Sys2Proof.Machine.execKset w s
  | .kget w => Sys2Proof.Machine.execKget w s
  | .plop m w => Sys2Proof.Machine.execPlop m w s
  | .hmk w => Sys2Proof.Machine.execHmk w s
  | .trap w => Sys2Proof.Machine.execTrap w s
  | .dbrk w => Sys2Proof.Machine.execDbrk w s
  | .tret w => Sys2Proof.Machine.execTret w s
  | .yield => Sys2Proof.Machine.execYield s
  | .sleep w => Sys2Proof.Machine.execSleep w s
  | .ifence => Sys2Proof.Machine.execIfence s
  | .iadd w => Sys2Proof.Machine.execIadd w s
  | .isub w => Sys2Proof.Machine.execIsub w s
  | .ineg w => Sys2Proof.Machine.execIneg w s
  | .iabs w => Sys2Proof.Machine.execIabs w s
  | .imin w => Sys2Proof.Machine.execImin w s
  | .imax w => Sys2Proof.Machine.execImax w s
  | .imul w => Sys2Proof.Machine.execImul w s
  | .imulh w => Sys2Proof.Machine.execImulh w s
  | .imad w => Sys2Proof.Machine.execImad w s
  | .idivs w => Sys2Proof.Machine.execIdivs w s
  | .idive w => Sys2Proof.Machine.execIdive w s
  | .and w => Sys2Proof.Machine.execAnd w s
  | .or w => Sys2Proof.Machine.execOr w s
  | .xor w => Sys2Proof.Machine.execXor w s
  | .andn w => Sys2Proof.Machine.execAndn w s
  | .not w => Sys2Proof.Machine.execNot w s
  | .tern w => Sys2Proof.Machine.execTern w s
  | .shl w => Sys2Proof.Machine.execShl w s
  | .shr w => Sys2Proof.Machine.execShr w s
  | .sar w => Sys2Proof.Machine.execSar w s
  | .rot w => Sys2Proof.Machine.execRot w s
  | .bfx w => Sys2Proof.Machine.execBfx w s
  | .bfi w => Sys2Proof.Machine.execBfi w s
  | .popc w => Sys2Proof.Machine.execPopc w s
  | .clz w => Sys2Proof.Machine.execClz w s
  | .brev w => Sys2Proof.Machine.execBrev w s
  | .icmp m w => Sys2Proof.Machine.execIcmp m w s
  | .sel w => Sys2Proof.Machine.execSel w s
  | .mov w => Sys2Proof.Machine.execMov w s
  | .icvt w => Sys2Proof.Machine.execIcvt w s
  | .lea w => Sys2Proof.Machine.execLea w s
  | .leaGlb w => Sys2Proof.Machine.execLeaGlb w s
  | .idp4 w => Sys2Proof.Machine.execIdp4 w s
  | .idp2 w => Sys2Proof.Machine.execIdp2 w s
  | .perm w => Sys2Proof.Machine.execPerm w s
  | .fadd w => Sys2Proof.Machine.execFadd w s
  | .fsub w => Sys2Proof.Machine.execFsub w s
  | .fmul w => Sys2Proof.Machine.execFmul w s
  | .ffma w => Sys2Proof.Machine.execFfma w s
  | .fsum3 w => Sys2Proof.Machine.execFsum3 w s
  | .fmin w => Sys2Proof.Machine.execFmin w s
  | .fmax w => Sys2Proof.Machine.execFmax w s
  | .fabs w => Sys2Proof.Machine.execFabs w s
  | .fneg w => Sys2Proof.Machine.execFneg w s
  | .fcmp m w => Sys2Proof.Machine.execFcmp m w s
  | .fclass w => Sys2Proof.Machine.execFclass w s
  | .fdiv w => Sys2Proof.Machine.execFdiv w s
  | .frcp w => Sys2Proof.Machine.execFrcp w s
  | .fsqrt w => Sys2Proof.Machine.execFsqrt w s
  | .frsqrt w => Sys2Proof.Machine.execFrsqrt w s
  | .fexp2 w => Sys2Proof.Machine.execFexp2 w s
  | .fexp w => Sys2Proof.Machine.execFexp w s
  | .flog2 w => Sys2Proof.Machine.execFlog2 w s
  | .flog w => Sys2Proof.Machine.execFlog w s
  | .fsin w => Sys2Proof.Machine.execFsin w s
  | .fcos w => Sys2Proof.Machine.execFcos w s
  | .ftanh w => Sys2Proof.Machine.execFtanh w s
  | .fatan2 w => Sys2Proof.Machine.execFatan2 w s
  | .fpow w => Sys2Proof.Machine.execFpow w s
  | .fcvt w => Sys2Proof.Machine.execFcvt w s
  | .fcvti w => Sys2Proof.Machine.execFcvti w s
  | .icvtf w => Sys2Proof.Machine.execIcvtf w s
  | .frint w => Sys2Proof.Machine.execFrint w s
  | .fscale w => Sys2Proof.Machine.execFscale w s
  | .fgetexp w => Sys2Proof.Machine.execFgetexp w s
  | .ld w => Sys2Proof.Machine.execLd w s
  | .st w => Sys2Proof.Machine.execSt w s
  | .ldd w => Sys2Proof.Machine.execLdd w s
  | .std w => Sys2Proof.Machine.execStd w s
  | .atom m w => Sys2Proof.Machine.execAtom m w s
  | .red m w => Sys2Proof.Machine.execRed m w s
  | .cas w => Sys2Proof.Machine.execCas w s
  | .fence w => Sys2Proof.Machine.execFence w s
  | .qfence w => Sys2Proof.Machine.execQfence w s
  | .mark w => Sys2Proof.Machine.execMark w s
  | .waitv m w => Sys2Proof.Machine.execWaitv m w s
  | .waitb m w => Sys2Proof.Machine.execWaitb m w s
  | .spill w => Sys2Proof.Machine.execSpill w s
  | .fill w => Sys2Proof.Machine.execFill w s
  | .smp w => Sys2Proof.Machine.execSmp w s
  | .smpres w => Sys2Proof.Machine.execSmpres w s
  | .qpush w => Sys2Proof.Machine.execQpush w s
  | .qpop w => Sys2Proof.Machine.execQpop w s
  | .qpeek w => Sys2Proof.Machine.execQpeek w s
  | .ldk w => Sys2Proof.Machine.execLdk w s
  | .pref w => Sys2Proof.Machine.execPref w s
  | .ccop m w => Sys2Proof.Machine.execCcop m w s
  | .mma w => Sys2Proof.Machine.execMma w s
  | .mmaw w => Sys2Proof.Machine.execMmaw w s
  | .azero w => Sys2Proof.Machine.execAzero w s
  | .acopy w => Sys2Proof.Machine.execAcopy w s
  | .aadd w => Sys2Proof.Machine.execAadd w s
  | .ascl w => Sys2Proof.Machine.execAscl w s
  | .ald w => Sys2Proof.Machine.execAld w s
  | .ast w => Sys2Proof.Machine.execAst w s
  | .mset w => Sys2Proof.Machine.execMset w s
  | .cmode w => Sys2Proof.Machine.execCmode w s
  | .ccommit => Sys2Proof.Machine.execCcommit s
  | .cdrain w => Sys2Proof.Machine.execCdrain w s
  | .cpair => Sys2Proof.Machine.execCpair s
  | .cunpair => Sys2Proof.Machine.execCunpair s
  | .csave w => Sys2Proof.Machine.execCsave w s
  | .crest w => Sys2Proof.Machine.execCrest w s
  | .lcopy w => Sys2Proof.Machine.execLcopy w s
  | .lfill w => Sys2Proof.Machine.execLfill w s
  | .lgat w => Sys2Proof.Machine.execLgat w s
  | .lredArr w => Sys2Proof.Machine.execLredArr w s
  | .lredOrd w => Sys2Proof.Machine.execLredOrd w s
  | .lcont w => Sys2Proof.Machine.execLcont w s
  | .lcommit => Sys2Proof.Machine.execLcommit s
  | .lcancel => Sys2Proof.Machine.execLcancel s
  | .lsave w => Sys2Proof.Machine.execLsave w s
  | .lrest w => Sys2Proof.Machine.execLrest w s
  | .sadd d a b => Sys2Proof.Machine.execSadd d a b s
  | .ssub d a b => Sys2Proof.Machine.execSsub d a b s
  | .sand d a b => Sys2Proof.Machine.execSand d a b s
  | .sor d a b => Sys2Proof.Machine.execSor d a b s
  | .sxor d a b => Sys2Proof.Machine.execSxor d a b s
  | .sshl d a b => Sys2Proof.Machine.execSshl d a b s
  | .sshr d a b => Sys2Proof.Machine.execSshr d a b s
  | .smul d a b => Sys2Proof.Machine.execSmul d a b s
  | .sslt d a b => Sys2Proof.Machine.execSslt d a b s
  | .sldl d imm => Sys2Proof.Machine.execSldl d imm s
  | .sldh d imm => Sys2Proof.Machine.execSldh d imm s
  | .sget d sel => Sys2Proof.Machine.execSget d sel s
  | .vext d a lane => Sys2Proof.Machine.execVext d a lane s
  | .saddi d a imm => Sys2Proof.Machine.execSaddi d a imm s
  | .ssubi d a imm => Sys2Proof.Machine.execSsubi d a imm s
  | .sandi d a imm => Sys2Proof.Machine.execSandi d a imm s
  | .sori d a imm => Sys2Proof.Machine.execSori d a imm s
  | .sxori d a imm => Sys2Proof.Machine.execSxori d a imm s
  | .sshli d a imm => Sys2Proof.Machine.execSshli d a imm s
  | .sshri d a imm => Sys2Proof.Machine.execSshri d a imm s
  | .smuli d a imm => Sys2Proof.Machine.execSmuli d a imm s
  | .sslti d a imm => Sys2Proof.Machine.execSslti d a imm s
  | .flueBr off => Sys2Proof.Machine.execFlueBr off s
  | .bz a off => Sys2Proof.Machine.execBz a off s
  | .bnz a off => Sys2Proof.Machine.execBnz a off s
  | .fend => Sys2Proof.Machine.execFend s
  | .ldl d a => Sys2Proof.Machine.execLdl d a s
  | .ldlx d a => Sys2Proof.Machine.execLdlx d a s
  | .ldmC d a b => Sys2Proof.Machine.execLdmC d a b s
  | .ldmD d a b => Sys2Proof.Machine.execLdmD d a b s
  | .ldmM d a b => Sys2Proof.Machine.execLdmM d a b s
  | .ldg d a b => Sys2Proof.Machine.execLdg d a b s
  | .wtk d a => Sys2Proof.Machine.execWtk d a s
  | .stl a b => Sys2Proof.Machine.execStl a b s
  | .stlx a b => Sys2Proof.Machine.execStlx a b s
  | .vfadd d a b => Sys2Proof.Machine.execVfadd d a b s
  | .vfsub d a b => Sys2Proof.Machine.execVfsub d a b s
  | .vfmul d a b => Sys2Proof.Machine.execVfmul d a b s
  | .vffma d a b c => Sys2Proof.Machine.execVffma d a b c s
  | .vfmin d a b => Sys2Proof.Machine.execVfmin d a b s
  | .vfmax d a b => Sys2Proof.Machine.execVfmax d a b s
  | .vfrcp d a => Sys2Proof.Machine.execVfrcp d a s
  | .vfrsqrt d a => Sys2Proof.Machine.execVfrsqrt d a s
  | .vcvtfi d a => Sys2Proof.Machine.execVcvtfi d a s
  | .vcvtif d a => Sys2Proof.Machine.execVcvtif d a s
  | .vfclt d a b => Sys2Proof.Machine.execVfclt d a b s
  | .vfcle d a b => Sys2Proof.Machine.execVfcle d a b s
  | .vfceq d a b => Sys2Proof.Machine.execVfceq d a b s
  | .viadd d a b => Sys2Proof.Machine.execViadd d a b s
  | .visub d a b => Sys2Proof.Machine.execVisub d a b s
  | .vand d a b => Sys2Proof.Machine.execVand d a b s
  | .vor d a b => Sys2Proof.Machine.execVor d a b s
  | .vxor d a b => Sys2Proof.Machine.execVxor d a b s
  | .vshl d a b => Sys2Proof.Machine.execVshl d a b s
  | .vshr d a b => Sys2Proof.Machine.execVshr d a b s
  | .vsar d a b => Sys2Proof.Machine.execVsar d a b s
  | .vimul d a b => Sys2Proof.Machine.execVimul d a b s
  | .viclt d a b => Sys2Proof.Machine.execViclt d a b s
  | .vieq d a b => Sys2Proof.Machine.execVieq d a b s
  | .viaddi d a imm => Sys2Proof.Machine.execViaddi d a imm s
  | .visubi d a imm => Sys2Proof.Machine.execVisubi d a imm s
  | .vandi d a imm => Sys2Proof.Machine.execVandi d a imm s
  | .vori d a imm => Sys2Proof.Machine.execVori d a imm s
  | .vxori d a imm => Sys2Proof.Machine.execVxori d a imm s
  | .vshli d a imm => Sys2Proof.Machine.execVshli d a imm s
  | .vshri d a imm => Sys2Proof.Machine.execVshri d a imm s
  | .vsari d a imm => Sys2Proof.Machine.execVsari d a imm s
  | .vimuli d a imm => Sys2Proof.Machine.execVimuli d a imm s
  | .viclti d a imm => Sys2Proof.Machine.execViclti d a imm s
  | .vieqi d a imm => Sys2Proof.Machine.execVieqi d a imm s
  | .vsel d a b c => Sys2Proof.Machine.execVsel d a b c s
  | .vbcast d a => Sys2Proof.Machine.execVbcast d a s
  | .vlane d => Sys2Proof.Machine.execVlane d s
  | .vh2f d a imm => Sys2Proof.Machine.execVh2f d a imm s
  | .vf2h d a b => Sys2Proof.Machine.execVf2h d a b s
  | .vmov d a => Sys2Proof.Machine.execVmov d a s
  | .mmul d a b c => Sys2Proof.Machine.execMmul d a b c s
  | .dready => Sys2Proof.Machine.execDready s
  | .dfall => Sys2Proof.Machine.execDfall s
  | .wArrival => Sys2Proof.Machine.execWArrival s
  | .flueWalkComplete => Sys2Proof.Machine.execFlueWalkComplete s
  | .fcodeWrite => Sys2Proof.Machine.execFcodeWrite s
  | .headEnable => Sys2Proof.Machine.execHeadEnable s
  | .headDisable => Sys2Proof.Machine.execHeadDisable s
  | .lineStart => Sys2Proof.Machine.execLineStart s
  | .bandLatch => Sys2Proof.Machine.execBandLatch s
  | .bandDeadline => Sys2Proof.Machine.execBandDeadline s
  | .frameWordStore => Sys2Proof.Machine.execFrameWordStore s
  | .dresvWrite => Sys2Proof.Machine.execDresvWrite s
  | .powerOn => Sys2Proof.Machine.execPowerOn s
  | .functionReset => Sys2Proof.Machine.execFunctionReset s
  | .contextWindowRead => Sys2Proof.Machine.execContextWindowRead s
  | .contextWindowWrite => Sys2Proof.Machine.execContextWindowWrite s
  | .bootGo => Sys2Proof.Machine.execBootGo s
  | .imageLoaded => Sys2Proof.Machine.execImageLoaded s
  | .imageVerified => Sys2Proof.Machine.execImageVerified s
  | .handover => Sys2Proof.Machine.execHandover s
  | .attestGo => Sys2Proof.Machine.execAttestGo s
  | .attestDone => Sys2Proof.Machine.execAttestDone s
  | .flitCrcError => Sys2Proof.Machine.execFlitCrcError s
  | .portDown => Sys2Proof.Machine.execPortDown s
  | .peerRequest => Sys2Proof.Machine.execPeerRequest s
  | .peererrRead => Sys2Proof.Machine.execPeererrRead s
  | .thermalLimit => Sys2Proof.Machine.execThermalLimit s
  | .thermalTrip => Sys2Proof.Machine.execThermalTrip s
  | .debugHalt => Sys2Proof.Machine.execDebugHalt s
  | .debugResume => Sys2Proof.Machine.execDebugResume s
  | .dbgdataRead => Sys2Proof.Machine.execDbgdataRead s
  | .dbgdataWrite => Sys2Proof.Machine.execDbgdataWrite s
  | .registerWrite => Sys2Proof.Machine.execRegisterWrite s
  | .flueCycle => Sys2Proof.Machine.execFlueCycle s
  | .memoryRequestPerform => Sys2Proof.Machine.execMemoryRequestPerform s
  | .portUp => Sys2Proof.Machine.execPortUp s
  | .refillUpdate => Sys2Proof.Machine.execRefillUpdate s
  | .powerOff => Sys2Proof.Machine.execPowerOff s
  | .corePowerGate => Sys2Proof.Machine.execCorePowerGate s
  | .corePowerUngate => Sys2Proof.Machine.execCorePowerUngate s

end Sys2Proof.Machine
end

