-- ==== Sys2Proof/Safety.lean ====
section
/-! DEFINITION. The terms in which statements about the machine are made: what counts as a safe step, the invariant of
memory, and the shapes of what the instructions of one kind leave. -/

namespace Sys2Proof.Machine

/-! ### Safe runs -/

/-- A step is safe when the machine goes on: it neither faults nor refuses. -/
def State.goesOn (s : State) : Prop := ∃ t, step s = .next t

/-- Memory has its canonical form. -/
def State.memOk (s : State) : Prop := s.mem.wf = true

/-- The keys of the cores and of each core's groups rise strictly, as every write of a table leaves them. -/
def State.keysRise (s : State) : Prop := tsorted s.cores = true ∧ ∀ e ∈ s.cores, tsorted e.2.groups = true

/-- Every byte outside `n` bytes at `a` reads in `t` as it does in `s`. -/
def SameBytesBut (s t : State) (a n : Nat) : Prop := ∀ k, k < a ∨ a + n ≤ k → t.mem.byte k = s.mem.byte k

/-- Every byte reads in `t` as it does in `s`. -/
def SameBytes (s t : State) : Prop := ∀ k, t.mem.byte k = s.mem.byte k

/-- Nothing but the machine's cores differs: memory, the flasks, launches, the Stoker, the supervisor's registers, the Hearth,
the Flue, the Damper and the Firebox are as they were. -/
def OnlyCores (s t : State) : Prop := t = { s with cores := t.cores }

/-- Nothing but core `c` differs. -/
def OnlyCore (s t : State) (c : Nat) : Prop := OnlyCores s t ∧ ∀ k, k ≠ c → t.core k = s.core k

/-- Nothing but the group in slot `sl` of core `c` differs. -/
def OnlyGroup (s t : State) (c sl : Nat) : Prop :=
  OnlyCore s t c ∧ t.core c = { s.core c with groups := (t.core c).groups } ∧ ∀ k, k ≠ sl → t.group? c k = s.group? c k

/-- The group of `v` is `g`, and nothing else differs. -/
def View.leaves (v : View) (g : Group) (t : State) : Prop := t.group? v.c v.slot = some g ∧ OnlyGroup v.s t v.c v.slot

/-! ### Casting words -/

/-- The fragment that the cursor names is `v`; the decode checks of R58 pass for the word. -/
def State.decodes (s : State) (i : Instr) (v : View) : Prop := s.view = some v ∧ v.check i = none

/-- As `decodes`, and no active lane reads a register cell that holds an error (R357). -/
def State.issues (s : State) (i : Instr) (w : CastWord) (v : View) : Prop :=
  s.decodes i v ∧ ∀ l ∈ v.active w, (v.g.thread l).readsBad i = false

/-- The fragment at its next word. -/
def View.onward (v : View) : Node := { v.nd with pc := v.nd.pc + 16, st := .ready, fatal := [] }

/-- The group once each active lane's thread is as `f` says. -/
def View.laneGroup (v : View) (w : CastWord) (f : Nat → Thread → Thread) : Group :=
  { v.g with threads := v.g.threads.map fun (e : Nat × Thread) => if e.1 ∈ v.active w then (e.1, f e.1 (v.g.thread e.1)) else e }

/-- The same, with the fragment at its next word. -/
def View.doneGroup (v : View) (w : CastWord) (f : Nat → Thread → Thread) : Group := (v.laneGroup w f).setNode v.onward

/-- The state after a word whose only effects are those on its active lanes and the advance of its fragment. -/
def View.done (v : View) (w : CastWord) (f : Nat → Thread → Thread) : State := v.s.setGroup v.c v.slot (v.doneGroup w f)

/-- The state after a word whose effect is on its group, and the advance of its fragment. -/
def View.groupDone (v : View) (g : Group) : State := v.s.setGroup v.c v.slot (g.setNode v.onward)

/-- A typed integer result in D (R49, R140). -/
def Thread.setInt (w : CastWord) (t : Thread) (x : Nat) : Thread := t.setCells w.d.toNat (cellsOf w.lc) (extend w.ty (widthOf w.ty w.lc) x)

/-- A register word completes: where its checks pass and no active lane reads a cell with an error, the next state is that of `f`
in each active lane, and of the fragment's advance. -/
def Completes (s : State) (v : View) (i : Instr) (w : CastWord) (f : Nat → Thread → Thread) : Prop :=
  s.issues i w v → exec i s = .next (v.done w f)

/-- Whether a lane's PR asks for more bits than the class of a .v result holds (R231). -/
def Thread.exhausts (w : CastWord) (f : Fmt) (t : Thread) : Prop := isV w.ty = true ∧ f.prec < prP t.pr

/-- The target of a rounded result in a lane: RMS or PR.RM, the effective precision, and the number that sst draws (R229-R231). -/
def View.roundsTo (v : View) (w : CastWord) (f : Fmt) (words : Thread → List Nat) (t : Thread) : Target :=
  { f.target (laneMode w t.pr) (if laneMode w t.pr = .sst then draw (v.g.kreg 127) t.g (words t) else 0) with
    p := if isV w.ty = true ∧ prP t.pr ≠ 0 ∧ prP t.pr ≤ f.prec then prP t.pr else f.prec }

/-- A Kiln word that rounds one result a lane completes (R230-R234): where no lane takes PREC_EXH or FPE, D holds the result `op`,
FPFLAGS gains its flags, and a lane whose precision is exhausted sets EXH, and CLMP with an inexact result. -/
def Rounds (s : State) (v : View) (i : Instr) (w : CastWord) (words : Thread → List Nat) (op : Thread → Target → Rounded) : Prop :=
  let f := fmtOf w.ty w.lc
  let r (t : Thread) : Rounded := op t (v.roundsTo w f words t)
  (∀ l ∈ v.active w, (Thread.exhausts w f (v.g.thread l) → prXa (v.g.thread l).pr = true) ∧ (w.modBit 4 = true → (r (v.g.thread l)).flags &&& 28 = 0)) →
    Completes s v i w fun _ t =>
      { t.setCells w.d.toNat (cellsOf w.lc) (f.encode (r t).v) with
        fpflags := t.fpflags ||| BitVec.ofNat 32 (r t).flags
        pr := if isV w.ty = true ∧ f.prec < prP t.pr then t.pr ||| 0x10000 ||| (if (r t).flags % 2 = 1 then 0x20000 else 0) else t.pr }

/-- A Kiln word that writes `put` and raises `flags`, and takes FPE in no lane, completes (R232-R234). -/
def Delivers (s : State) (v : View) (i : Instr) (w : CastWord) (flags : Thread → Nat) (put : Thread → Thread) : Prop :=
  (∀ l ∈ v.active w, w.modBit 4 = true → flags (v.g.thread l) &&& 28 = 0) →
    Completes s v i w fun _ t => { put t with fpflags := t.fpflags ||| BitVec.ofNat 32 (flags t) }

/-- Lanes that perform one after the other, in ascending order (R188): the state and the lanes' results. -/
def View.inOrder (v : View) (f : State → Nat → Thread → State × LaneRes) : List Nat → State → State × List (Nat × LaneRes)
  | [], s => (s, [])
  | l :: ls, s =>
    let a := f s l (v.g.thread l)
    let b := View.inOrder v f ls a.1
    (b.1, (l, a.2) :: b.2)

/-- No lane of a memory word is stopped: it issues, no qfence holds it, and each active lane passes the checks of `plan` (R169, R184). -/
def View.clear (v : View) (s : State) (i : Instr) (w : CastWord) (plan : Thread → LaneAct) : Prop :=
  s.issues i w v ∧ v.g.lsqHeld v.nd.mask = false ∧ ∀ l ∈ v.active w, plan (v.g.thread l) = .ready

/-- What a memory word leaves when no lane is stopped: the reds on their way and `before` come first, the lanes perform in order, `after`
comes last, and the fragment goes on. -/
def View.performed (v : View) (w : CastWord) (f : State → Thread → State × LaneRes) (before after : State → State) : State :=
  if v.active w = [] then v.done w fun _ t => t
  else
    let out := v.inOrder (fun s _ t => f s t) (v.active w) (before v.s.settleReds)
    v.finish (after out.1) out.2

/-- The access of `n` bytes, aligned to `al`, that a lane makes outside image space passes R169. -/
def View.access (v : View) (w : CastWord) (n al : Nat) (need : Need) (t : Thread) : LaneAct := v.checkAccess t w.space (addressOf w v.g t) n al need

/-- Physical byte `k` is one of those that a storing word writes: `n` bytes at a lane's address, or a texel. -/
def View.storesTo (v : View) (w : CastWord) (n k : Nat) : Prop :=
  ∃ l ∈ v.active w, ∃ (loc : Loc) (m : Nat) (ps : List (Nat × Nat)),
    (if w.space = 6 then ∃ d a, v.planTexel w (v.g.thread l) .w = .ok (d, .at_ a) ∧ loc = .glob a ∧ m = d.texel
      else v.locate (v.g.thread l) w.space (addressOf w v.g (v.g.thread l)) n = some loc ∧ m = n) ∧
    v.trLoc .w loc m = .ok ps ∧ ∃ p ∈ ps, p.1 ≤ k ∧ k < p.1 + p.2

/-- Physical byte `k` is dirty in the L1 of core `c`, so that the core may write it back at any time (R182). -/
def State.dirtyIn (s : State) (c k : Nat) : Prop := ∃ x, tfind (s.core c).l1 (k / 32) = some x ∧ x.dirty.getLsbD (k % 32) = true

/-- A red on its way to the home slices changes physical byte `k` (R190, R349). -/
def State.redAt (s : State) (k : Nat) : Prop := ∃ r ∈ s.hearth.requests ++ s.hearth.routers, r.pa ≤ k ∧ k < r.pa + r.n

/-! ### Numbers of the Kiln -/

/-- The number that a finite datum stands for; 0 for any other. -/
def FV.rat : FV → ℚ
  | .fin n m e => (if n then -1 else 1) * ((m : ℚ) * 2 ^ e)
  | _ => 0

/-- The place of a datum that is no NaN in the order of the extended numbers; −0 and +0 share one. -/
def FV.place : FV → WithBot (WithTop ℚ)
  | .inf n => if n then ⊥ else ((⊤ : WithTop ℚ) : WithBot (WithTop ℚ))
  | x => ((x.rat : WithTop ℚ) : WithBot (WithTop ℚ))

/-- The integer that a mode chooses for a magnitude `y` of sign `neg`, `rnd` being the number that sst draws (R227, R229). -/
def chosen {K : Type} [Field K] [LinearOrder K] [IsStrictOrderedRing K] [FloorRing K] (mode : RMode) (neg : Bool) (rnd : Nat) (y : K) : ℤ :=
  let lo : ℤ := ⌊y⌋
  if y = lo then lo
  else match mode with
    | .rne => if y - lo < 1 / 2 ∨ y - lo = 1 / 2 ∧ lo % 2 = 0 then lo else lo + 1
    | .rtz => lo
    | .rup => if neg then lo else lo + 1
    | .rdn => if neg then lo + 1 else lo
    | .rna => if y - lo < 1 / 2 then lo else lo + 1
    | .sst => if (rnd : ℤ) < ⌊(y - lo) * 2 ^ 64⌋ then lo + 1 else lo

/-- round(x, P, mode) of a magnitude x > 0 of sign `neg` is `a`, flags included (R226-R229, R232): the multiple of the spacing of its
binade that the mode chooses, or the overflow of R228. sst beyond the largest finite value draws against 2^(emax + 1) (R229), and
rounds to infinity from the next value of the unbounded grid on (log 29, the model's choice). -/
def RoundsTo {K : Type} [Field K] [LinearOrder K] [IsStrictOrderedRing K] [FloorRing K] (t : Target) (neg : Bool) (x : K) (a : Rounded) : Prop :=
  let q : ℤ := max (Int.log 2 x) t.emin - t.p + 1
  let free : ℤ := Int.log 2 x - t.p + 1
  let top : ℤ := t.emax - t.p + 1
  let most : K := t.maxSig * 2 ^ top
  let r : ℤ := chosen t.mode neg t.rnd (x / 2 ^ q)
  let infinite : Rounded := ⟨if t.mode = .rtz ∨ (t.mode = .rup ∧ neg = true) ∨ (t.mode = .rdn ∧ neg = false)
    then .fin neg t.maxSig top else .inf neg, flagOF + flagNX⟩
  if t.mode = .sst ∧ most < x then
    a = if (t.maxSig + 1 : K) * 2 ^ top ≤ x ∨ (t.rnd : ℤ) < ⌊(x - most) / (2 ^ (t.emax + 1) - most) * 2 ^ 64⌋ then infinite
      else ⟨.fin neg t.maxSig top, flagNX⟩
  else if most < r * 2 ^ q then a = infinite
  else a = ⟨.fin neg r.toNat q,
    if (r : K) * 2 ^ q = x then 0
    else flagNX + if (chosen t.mode neg t.rnd (x / 2 ^ free) : K) * 2 ^ free < 2 ^ t.emin then flagUF else 0⟩

/-! ### Command words -/

/-- A lane performs a command word: the cursor names it, and it runs firmware or holds a queue (R360, R361). -/
def State.atLane (s : State) (l : Nat) : Prop := s.cur.lane = l ∧ l < 32 ∧ (30 ≤ l ∨ (s.lane l).queue.isSome = true)

/-- The lane runs words of its queue's ring (R369). -/
def Lane.inRing (k : Lane) : Prop := k.queue.isSome = true ∧ k.pc = 0

/-- A lane past a word of `n` words, extra words included (R369): GET in the ring, else PC, moves on. -/
def Lane.past (k : Lane) (n : Nat) : Lane :=
  { k with
    get := if k.queue.isSome = true ∧ k.pc = 0 then k.get + BitVec.ofNat 32 n else k.get
    pc := if k.queue.isSome = true ∧ k.pc = 0 then k.pc else k.pc + BitVec.ofNat 64 (8 * n)
    st := .fetch, cmd := none, due := none, prog := 0, waitSince := none }

/-- The state with lane `l` past a word of `n` words. -/
def State.lanePast (s : State) (l n : Nat) : State := s.setLane l ((s.lane l).past n)

/-! ### Slot ops -/

/-- A line core once a result of latency `lat` has issued from `slot` (R411), its FLCSTAT.PSN as given. -/
def LineCore.issued (k : LineCore) (slot lat : Nat) (d : FDest) (vals : Table Word) (psn : Bool) : LineCore :=
  { k with pend := k.pend ++ [{ due := k.act + lat - 1, issue := k.act, slot := slot, dest := d, vals := vals }], psn := psn }

/-- The scalar result `v` of an op that reads s registers `rs`, for s register `d`; reads of bad words are reported (R424). -/
def State.scalarResult (s : State) (d : BitVec 5) (rs : List Nat) (v : Word) : State :=
  let k := s.line s.cur.line
  (s.saw (k.errS rs)).putLine (k.issued s.cur.fslot 1 (.s d.toNat) [(0, v)] (k.sawS rs).psn)

/-- The result of latency `lat` of an op that reads f registers `rs`, lane by lane, for f register `d`;
reads of bad words are reported (R424). -/
def State.vectorResult (s : State) (lat : Nat) (d : BitVec 6) (rs : List Nat) (f : Nat → Word) : State :=
  let k := s.line s.cur.line
  (s.saw (k.errF rs)).putLine (k.issued s.cur.fslot lat (.f d.toNat) (lanes64 f) (k.sawF rs).psn)

end Sys2Proof.Machine
end

