-- ==== Sys2Proof/Certificates/Slice0/Obligations.lean ====
section
/-! DEFINITION. The statements for the provers. Each cites the rules of the spec that it says; a clause that rests on a choice of the
model names the entry of the assumption log. -/

open Sys2Proof Sys2Proof.Machine

/-! ### Operands -/

/-- R42: a write to k0 is discarded, and k0 reads zero; guard 15 is true in every lane, and never with PN; a word that names
predicate 15 as its destination traps ILLOP. -/
def Obligations.KZeroAndPredicateFifteen : Prop :=
  (∀ (g : Group) (x : Word), g.setK 0 x = g ∧ g.kreg 0 = 0) ∧
  (∀ (t : Thread) (w : CastWord), w.pg = 15 → t.p 15 = true ∧ t.guard w = (w.pn == 0)) ∧
  ∀ (s : State) (v : View) (w : CastWord) (m : CmpOp) (f : FCmpOp) (n : VoteOp) (p : PlopOp) (i : Instr), s.view = some v →
    (w.d = 15 ∧ n ≠ .ballot ∧ i ∈ [.icmp m w, .fcmp f w, .vote n w, .elect w, .plop p w, .qpush w]) ∨ (w.c = 15 ∧ i ∈ [.qpop w, .qpeek w]) →
      exec i s = .next (v.trapAll 0x01 0)

/-! ### Integer unit -/

/-- R145, R146, R162: the sums, products and extremes of the integer unit are those of the exact operands, under res of R140; idp4 and
idp2 add the exact products of their elements to C. R147, R148: idivs takes eight steps of the restoring division; `n` steps from
remainder 0 give the quotient and the remainder; and idive puts the signs right, or gives the values of R148 for a divisor of 0. -/
def Obligations.IntegerArithmeticWords : Prop :=
   (∀ (s : State) (v : View) (w : CastWord),
      let n := widthOf w.ty w.lc
      let k := cellsOf w.lc
      let a (i : Instr) (t : Thread) : Int := valOf w.ty n (srcA i v.g w t k)
      let b (i : Instr) (t : Thread) : Int := valOf w.ty n (srcB i v.g w t k)
      let res (x : Int) : Nat := resOf w.ty n (w.modBit 1) x
      Completes s v (.iadd w) w (fun _ t => t.setInt w (res (a (.iadd w) t + b (.iadd w) t))) ∧
      Completes s v (.isub w) w (fun _ t => t.setInt w (res (a (.isub w) t - b (.isub w) t))) ∧
      Completes s v (.imul w) w (fun _ t => t.setInt w (res (a (.imul w) t * b (.imul w) t))) ∧
      Completes s v (.imulh w) w (fun _ t => t.setInt w (wrap n (a (.imulh w) t * b (.imulh w) t / 2 ^ n))) ∧
      Completes s v (.imin w) w (fun _ t => t.setInt w (wrap n (min (a (.imin w) t) (b (.imin w) t)))) ∧
      Completes s v (.imax w) w (fun _ t => t.setInt w (wrap n (max (a (.imax w) t) (b (.imax w) t)))) ∧
      Completes s v (.ineg w) w (fun _ t => t.setInt w (res (-a (.ineg w) t))) ∧
      Completes s v (.iabs w) w (fun _ t => t.setInt w (res |a (.iabs w) t|)) ∧
      (w.modBit 2 = false → Completes s v (.imad w) w (fun _ t =>
        t.setInt w (res (a (.imad w) t * b (.imad w) t + valOf w.ty n (srcC (.imad w) v.g w t k))))) ∧
      (w.modBit 2 = true → Completes s v (.imad w) w (fun _ t =>
        t.setCells w.d.toNat 2 (resOf w.ty 64 (w.modBit 1) (a (.imad w) t * b (.imad w) t + valOf w.ty 64 (srcC (.imad w) v.g w t 2)))))) ∧
   (∀ (s : State) (v : View) (w : CastWord),
      let elem (signed : Bool) (n x j : Nat) : Int := if signed then sext n (bits x (n * j) n) else (bits x (n * j) n : Nat)
      let dot (i : Instr) (e n : Nat) (t : Thread) : Int := valOf w.ty 32 (srcC i v.g w t 1) +
        ((List.range e).map fun j => elem (w.modBit 2) n (srcA i v.g w t 1) j * elem (w.modBit 3) n (srcB i v.g w t 1) j).sum
      Completes s v (.idp4 w) w (fun _ t => t.setCells w.d.toNat 1 (resOf w.ty 32 (w.modBit 1) (dot (.idp4 w) 4 8 t))) ∧
      Completes s v (.idp2 w) w (fun _ t => t.setCells w.d.toNat 1 (resOf w.ty 32 (w.modBit 1) (dot (.idp2 w) 2 16 t)))) ∧
   (∀ n a b : Nat, a < 2 ^ n → 0 < b → b < 2 ^ n → divSteps n b n (a, 0) = (a / b, a % b)) ∧
   (∀ (s : State) (v : View) (w : CastWord),
      let n := widthOf w.ty w.lc
      let k := cellsOf w.lc
      let pair (i : Instr) (t : Thread) : Nat := srcA i v.g w t (2 * k)
      Completes s v (.idivs w) w (fun _ t =>
        let x := divSteps n (srcB (.idivs w) v.g w t k % 2 ^ n) 8 (pair (.idivs w) t % 2 ^ n, pair (.idivs w) t / 2 ^ n)
        t.setCells w.d.toNat (2 * k) (x.1 + x.2 % 2 ^ n * 2 ^ n)) ∧
      Completes s v (.idive w) w (fun _ t =>
        let q : Int := (pair (.idive w) t % 2 ^ n : Nat)
        let r : Int := (pair (.idive w) t / 2 ^ n : Nat)
        let b := valOf w.ty n (srcB (.idive w) v.g w t k)
        let c := valOf w.ty n (srcC (.idive w) v.g w t k)
        let q' : Nat := if b = 0 then 2 ^ n - 1 else if isSigned w.ty ∧ (c < 0 ↔ ¬ b < 0) then wrap n (-q) else wrap n q
        let r' : Nat := if b = 0 then wrap n c else if isSigned w.ty ∧ c < 0 then wrap n (-r) else wrap n r
        t.setCells w.d.toNat (2 * k) (q' + r' * 2 ^ n)))

/-- R149-R154: the words on bits; and shifts and bit fields: a count of the width or more shifts everything out, and a rotation takes it
modulo the width. -/
def Obligations.BitAndShiftWords : Prop :=
   (∀ (s : State) (v : View) (w : CastWord),
      let k := cellsOf w.lc
      let a (i : Instr) (t : Thread) : Nat := srcA i v.g w t k
      let b (i : Instr) (t : Thread) : Nat := srcB i v.g w t k
      let put (m : Nat) (t : Thread) (x : Nat) : Thread := t.setCells w.d.toNat m x
      Completes s v (.and w) w (fun _ t => put k t ((a (.and w) t &&& b (.and w) t) % 2 ^ (32 * k))) ∧
      Completes s v (.or w) w (fun _ t => put k t ((a (.or w) t ||| b (.or w) t) % 2 ^ (32 * k))) ∧
      Completes s v (.xor w) w (fun _ t => put k t ((a (.xor w) t ^^^ b (.xor w) t) % 2 ^ (32 * k))) ∧
      Completes s v (.andn w) w (fun _ t => put k t ((a (.andn w) t - (a (.andn w) t &&& b (.andn w) t)) % 2 ^ (32 * k))) ∧
      Completes s v (.not w) w (fun _ t => put k t (2 ^ (32 * k) - 1 - a (.not w) t)) ∧
      Completes s v (.tern w) w (fun _ t => put k t (bitsFrom (32 * k) fun i => w.imm.toNat.testBit
        (((a (.tern w) t).testBit i).toNat + 2 * ((b (.tern w) t).testBit i).toNat + 4 * ((srcC (.tern w) v.g w t k).testBit i).toNat))) ∧
      Completes s v (.popc w) w (fun _ t => put 1 t ((List.range (32 * k)).countP fun i => (a (.popc w) t).testBit i)) ∧
      Completes s v (.clz w) w (fun _ t => put 1 t (32 * k - (a (.clz w) t).size)) ∧
      Completes s v (.brev w) w (fun _ t => put k t (bitsFrom (32 * k) fun i => (a (.brev w) t).testBit (32 * k - 1 - i))) ∧
      Completes s v (.perm w) w (fun _ t =>
        let pool := srcA (.perm w) v.g w t 1 + 2 ^ 32 * srcB (.perm w) v.g w t 1
        let sel (i : Nat) : Nat := bits (srcC (.perm w) v.g w t 1) (8 * i) 8
        let byte (i : Nat) : Nat := if (sel i).testBit 3 then 0 else bits pool (8 * (sel i % 8)) 8
        put 1 t (((List.range 4).map fun i => (if (sel i).testBit 4 then 255 - byte i else byte i) * 256 ^ i).sum))) ∧
   (∀ (s : State) (v : View) (w : CastWord),
      let n := widthOf w.ty w.lc
      let k := cellsOf w.lc
      let a (i : Instr) (t : Thread) : Nat := srcA i v.g w t k % 2 ^ n
      let c (i : Instr) (t : Thread) : Nat := srcB i v.g w t 1 % 2 ^ 32
      let pos (i : Instr) (t : Thread) : Nat := bits (srcB i v.g w t 1) 0 8
      let len (i : Instr) (t : Thread) : Nat := min (bits (srcB i v.g w t 1) 8 8) n
      Completes s v (.shl w) w (fun _ t => t.setInt w (if c (.shl w) t < n then a (.shl w) t * 2 ^ c (.shl w) t % 2 ^ n else 0)) ∧
      Completes s v (.shr w) w (fun _ t => t.setInt w (if c (.shr w) t < n then a (.shr w) t / 2 ^ c (.shr w) t else 0)) ∧
      Completes s v (.sar w) w (fun _ t => t.setInt w (wrap n (sext n (a (.sar w) t) / 2 ^ min (c (.sar w) t) n))) ∧
      Completes s v (.rot w) w (fun _ t =>
        let r := c (.rot w) t % n
        t.setInt w (a (.rot w) t * 2 ^ r % 2 ^ n + a (.rot w) t / 2 ^ (n - r))) ∧
      Completes s v (.bfx w) w (fun _ t =>
        let x := wrap (len (.bfx w) t) (valOf w.ty n (srcA (.bfx w) v.g w t k) / 2 ^ pos (.bfx w) t)
        t.setInt w (if len (.bfx w) t = 0 then 0 else wrap n (valOf w.ty (len (.bfx w) t) x))) ∧
      Completes s v (.bfi w) w (fun _ t => t.setInt w (bitsFrom n fun i =>
        if pos (.bfi w) t ≤ i ∧ i < min (pos (.bfi w) t + len (.bfi w) t) n then (a (.bfi w) t).testBit (i - pos (.bfi w) t)
        else (srcC (.bfi w) v.g w t k % 2 ^ n).testBit i)))


/-- R133, R155-R160: comparisons, selection, moves, conversions and address words. -/
def Obligations.CompareAndMoveWords : Prop :=
  ∀ (s : State) (v : View) (w : CastWord),
    let n := widthOf w.ty w.lc
    let k := cellsOf w.lc
    let rel (m : CmpOp) (x y : Int) : Bool := match m with
      | .eq => decide (x = y) | .ne => decide (x ≠ y) | .lt => decide (x < y) | .le => decide (x ≤ y) | .gt => decide (y < x)
      | .ge => decide (y ≤ x)
    (∀ (m : CmpOp), Completes s v (.icmp m w) w fun _ t =>
      let r := rel m (valOf w.ty n (srcA (.icmp m w) v.g w t k)) (valOf w.ty n (srcB (.icmp m w) v.g w t k))
      t.setP w.d.toNat (if w.comb = 1 then r && t.p w.c.toNat else if w.comb = 2 then r || t.p w.c.toNat else r)) ∧
    Completes s v (.sel w) w (fun _ t =>
      t.setCells w.d.toNat k (if t.p w.c.toNat then srcA (.sel w) v.g w t k else srcB (.sel w) v.g w t k)) ∧
    Completes s v (.mov w) w (fun _ t => t.setCells w.d.toNat k (srcB (.mov w) v.g w t k)) ∧
    Completes s v (.icvt w) w (fun _ t =>
      let st : BitVec 4 := w.mod.extractLsb' 4 4
      let m := widthOf st 0
      t.setInt w (resOf w.ty n (w.modBit 1) (valOf st m (srcA (.icvt w) v.g w t (if m = 64 then 2 else 1))))) ∧
    Completes s v (.lea w) w (fun _ t =>
      let b := if kselB (.lea w) w then v.g.kcells w.b.toNat 1 else t.cells w.b.toNat 1
      t.setCells w.d.toNat 2 (wrap 64 (srcA (.lea w) v.g w t 2 + (if w.modBit 4 then (b : Int) else sext 32 b) * 2 ^ bits w.mod.toNat 1 3 +
        sext 32 w.imm.toNat))) ∧
    Completes s v (.leaGlb w) w (fun _ t =>
      let a := srcA (.leaGlb w) v.g w t 2
      t.setCells w.d.toNat 2 (if 0x01FFFFFE00000000 ≤ a ∧ a ≤ 0x01FFFFFE0000FFFF then privVa v.l.rec_ t.g (a - 0x01FFFFFE00000000) else a)) ∧
    (∀ (m : PlopOp), Completes s v (.plop m w) w fun _ t =>
      let a := t.p w.a.toNat
      let b := t.p w.b.toNat
      t.setP w.d.toNat (match m with | .and => a && b | .or => a || b | .xor => a ^^ b | .andn => a && !b | .not => !a))

/-! ### The Kiln -/

/-- R230-R234, R239-R241, R246-R249, R251, R253: the words that round one result a lane, each with the function that it rounds. -/
def Obligations.KilnRoundingWords : Prop :=
  ∀ (s : State) (v : View) (w : CastWord),
    let f := fmtOf w.ty w.lc
    let sf := fmtOf w.styp w.slc
    let a (i : Instr) (t : Thread) : FV := f.decode (fltA i v.g w t)
    let b (i : Instr) (t : Thread) : FV := f.decode (fltB i v.g w t)
    let c (i : Instr) (t : Thread) : FV := f.decode (fltC i v.g w t)
    let one (i : Instr) (op : Target → FV → Rounded) : Prop := Rounds s v i w (wordsA i v.g w) fun t tg =>
      if (a i t).isNan = true then ⟨.nan false, if (a i t).isSig = true then flagNV else 0⟩ else op tg (a i t)
    let two (i : Instr) (op : Target → FV → FV → Rounded) : Prop :=
      Rounds s v i w (fun t => wordsA i v.g w t ++ wordsB i v.g w t) fun t tg => op tg (a i t) (b i t)
    let three (i : Instr) (op : Target → FV → FV → FV → Rounded) : Prop :=
      Rounds s v i w (fun t => wordsA i v.g w t ++ wordsB i v.g w t ++ wordsC i v.g w t) fun t tg => op tg (a i t) (b i t) (c i t)
    two (.fadd w) (fun t a b => roundSum t [a, b]) ∧ two (.fsub w) (fun t a b => roundSum t [a, b.negate]) ∧
    two (.fmul w) roundMul ∧ three (.ffma w) roundFma ∧ three (.fsum3 w) (fun t a b c => roundSum t [a, b, c]) ∧
    two (.fdiv w) divFV ∧ two (.fatan2 w) atan2FV ∧ two (.fpow w) powFV ∧
    one (.frcp w) rcpFV ∧ one (.fsqrt w) sqrtFV ∧ one (.frsqrt w) rsqrtFV ∧ one (.fexp2 w) exp2FV ∧ one (.fexp w) expEFV ∧
    one (.flog2 w) log2FV ∧ one (.flog w) lnFV ∧ one (.fsin w) sinFV ∧ one (.fcos w) cosFV ∧ one (.ftanh w) tanhFV ∧
    Rounds s v (.fcvt w) w (fun t => wordsOf sf.width (cellsOf w.slc) (srcA (.fcvt w) v.g w t (cellsOf w.slc) % 2 ^ sf.width))
      (fun t tg => cvtFV tg (w.modBit 5) (sf.decode (srcA (.fcvt w) v.g w t (cellsOf w.slc) % 2 ^ sf.width))) ∧
    (let n := widthOf w.styp w.slc
     let z (t : Thread) : Nat := srcA (.icvtf w) v.g w t (cellsOf w.slc) % 2 ^ n
     Rounds s v (.icvtf w) w (fun t => wordsOf n (cellsOf w.slc) (z t)) fun t tg =>
       roundFin tg (decide (valOf w.styp n (z t) < 0)) (valOf w.styp n (z t)).natAbs 0) ∧
    (let n (t : Thread) : Nat := if w.modBit 0 = true then w.imm.toNat else srcB (.fscale w) v.g w t 1
     Rounds s v (.fscale w) w (fun t => wordsA (.fscale w) v.g w t ++ [n t]) fun t tg => scaleFV tg (a (.fscale w) t) (sext 32 (n t)))

/-- R242-R245, R250, R252, R254: the words of the Kiln that round no sum, with their results and flags. -/
def Obligations.KilnExactWords : Prop :=
  ∀ (s : State) (v : View) (w : CastWord),
    let f := fmtOf w.ty w.lc
    let k := cellsOf w.lc
    let a (i : Instr) (t : Thread) : Nat := fltA i v.g w t
    let b (i : Instr) (t : Thread) : Nat := fltB i v.g w t
    let nv (x : Bool) : Nat := if x = true then 16 else 0
    -- fmin and fmax deliver an operand; −0 is below +0, and one NaN gives the other operand
    let pick (less : Bool) (x y : Nat) : Nat :=
      if (f.decode x).isNan = true then (if (f.decode y).isNan = true then f.canonNan else y)
      else if (f.decode y).isNan = true then x else if less = true then x else y
    let either (i : Instr) (less : FV → FV → Bool) : Prop :=
      Delivers s v i w (fun t => nv ((f.decode (a i t)).isSig || (f.decode (b i t)).isSig)) fun t =>
        t.setCells w.d.toNat k (pick (less (f.decode (a i t)) (f.decode (b i t))) (a i t) (b i t))
    either (.fmin w) ltFV ∧ either (.fmax w) (fun x y => !ltFV x y) ∧
    Completes s v (.fabs w) w (fun _ t => t.setCells w.d.toNat k (a (.fabs w) t % 2 ^ (f.width - 1))) ∧
    Completes s v (.fneg w) w (fun _ t => t.setCells w.d.toNat k (a (.fneg w) t ^^^ 2 ^ (f.width - 1))) ∧
    (∀ m : FCmpOp,
      let x (t : Thread) : FV := f.decode (a (.fcmp m w) t)
      let y (t : Thread) : FV := f.decode (b (.fcmp m w) t)
      let nan (t : Thread) : Bool := (x t).isNan || (y t).isNan
      let ordered (m : FCmpOp) : Bool := m == .lt || m == .le || m == .gt || m == .ge
      let holds (t : Thread) : Bool := match m with
        | .eq => !nan t && decide ((x t).place = (y t).place)
        | .ne => nan t || decide ((x t).place ≠ (y t).place)
        | .lt => !nan t && decide ((x t).place < (y t).place)
        | .le => !nan t && decide ((x t).place ≤ (y t).place)
        | .gt => !nan t && decide ((y t).place < (x t).place)
        | .ge => !nan t && decide ((y t).place ≤ (x t).place)
        | .uno => nan t
        | .ord => !nan t
      Delivers s v (.fcmp m w) w (fun t => nv ((x t).isSig || (y t).isSig || (ordered m && nan t))) fun t =>
        t.setP w.d.toNat (if w.comb = 1 then holds t && t.p w.c.toNat else if w.comb = 2 then holds t || t.p w.c.toNat else holds t)) ∧
    Completes s v (.fclass w) w (fun _ t => t.setCells w.d.toNat 1 (match f.decode (a (.fclass w) t) with
      | .inf n => if n = true then 1 else 128
      | .nan g => if g = true then 256 else 512
      | .fin n m _ => if m = 0 then (if n = true then 8 else 16) else if m < 2 ^ f.fbits then (if n = true then 4 else 32)
        else if n = true then 2 else 64)) ∧
    (let sf := fmtOf w.styp w.slc
     let x (t : Thread) : Nat := srcA (.fcvti w) v.g w t (cellsOf w.slc) % 2 ^ sf.width
     let rnd (t : Thread) : Nat := if laneMode w t.pr = .sst then draw (v.g.kreg 127) t.g (wordsOf sf.width (cellsOf w.slc) (x t)) else 0
     let n : Nat := widthOf w.ty w.lc
     let low : ℤ := if isSigned w.ty = true then -2 ^ (n - 1) else 0
     let high : ℤ := if isSigned w.ty = true then 2 ^ (n - 1) - 1 else 2 ^ n - 1
     -- the integer that the mode chooses, or the bound that it passes
     let r (t : Thread) : ℤ × Nat := match sf.decode (x t) with
       | .nan _ => (0, 16)
       | .inf k => (if k = true then low else high, 16)
       | .fin k m e =>
         let z : ℤ := (if k = true then -1 else 1) * chosen (laneMode w t.pr) k (rnd t) ((m : ℚ) * 2 ^ e)
         if z < low then (low, 16) else if high < z then (high, 16) else (z, if (z : ℚ) = (FV.fin k m e).rat then 0 else 1)
     Delivers s v (.fcvti w) w (fun t => (r t).2) fun t => t.setInt w (wrap n (r t).1)) ∧
    (let rnd (t : Thread) : Nat := if laneMode w t.pr = .sst then draw (v.g.kreg 127) t.g (wordsA (.frint w) v.g w t) else 0
     -- a datum whose last place is an integer's is an integer already
     let r (t : Thread) : FV × Nat := match f.decode (a (.frint w) t) with
       | .nan g => (.nan false, if g = true then 16 else 0)
       | .inf k => (.inf k, 0)
       | .fin k m e =>
         let z : ℤ := chosen (laneMode w t.pr) k (rnd t) ((m : ℚ) * 2 ^ e)
         if 0 ≤ e then (.fin k m e, 0) else (.fin k z.toNat 0, if (z : ℚ) = (m : ℚ) * 2 ^ e then 0 else 1)
     Delivers s v (.frint w) w (fun t => (r t).2) fun t => t.setCells w.d.toNat k (f.encode (r t).1)) ∧
    (let r (t : Thread) : Nat × Nat := match f.decode (a (.fgetexp w) t) with
      | .fin _ m e => if m = 0 then (0x80000000, 16) else (wrap 32 (e + m.log2), 0)
      | .inf _ => (0x7FFFFFFF, 16)
      | .nan _ => (0x80000000, 16)
     Delivers s v (.fgetexp w) w (fun t => (r t).2) fun t => t.setCells w.d.toNat 1 (r t).1)


/-- R226-R229, R232, R239-R241, R246: every mode rounds an exact number as its rule says, overflow, underflow and flags included; the
sum, the product, the product and sum, the quotient, the reciprocal, the square root and its reciprocal of finite data are such numbers.
A sum of zero takes the sign that R129 and R240 give it. That sst beyond the largest finite value rounds to infinity from the next value of
the unbounded grid on is log 29, the model's choice. -/
def Obligations.RoundingRule : Prop :=
  ∀ (t : Target), 2 ≤ t.p → (t.e4m3 = true → t.p = 4) →
    (∀ (n : Bool) (m : Nat) (e : ℤ), 0 < m → RoundsTo t n ((m : ℚ) * 2 ^ e) (roundFin t n m e)) ∧
    (∀ xs : List FV, xs ≠ [] → (∀ x ∈ xs, ∃ n m e, x = .fin n m e) →
      let sum : ℚ := (xs.map FV.rat).sum
      if sum ≠ 0 then RoundsTo t (decide (sum < 0)) |sum| (roundSum t xs)
      else roundSum t xs = ⟨.fin (if ∀ x ∈ xs, x.isZero = true ∧ x.neg = true then true
        else if ∀ x ∈ xs, x.isZero = true ∧ x.neg = false then false else t.mode == .rdn) 0 0, 0⟩) ∧
    ∀ (i j : Bool) (m n : Nat) (e k : ℤ),
      let a : FV := .fin i m e
      let b : FV := .fin j n k
      (if m * n = 0 then roundMul t a b = ⟨.fin (i != j) 0 0, 0⟩ else RoundsTo t (i != j) |a.rat * b.rat| (roundMul t a b)) ∧
      (∀ (h : Bool) (l : Nat) (f : ℤ),
        let c : FV := .fin h l f
        let sum : ℚ := a.rat * b.rat + c.rat
        if sum ≠ 0 then RoundsTo t (decide (sum < 0)) |sum| (roundFma t a b c)
        else roundFma t a b c = ⟨.fin (if (i != j) = h then h else t.mode == .rdn) 0 0, 0⟩) ∧
      (0 < m → 0 < n → RoundsTo t (i != j) |a.rat / b.rat| (divFV t a b)) ∧
      (m = 0 → 0 < n → divFV t a b = ⟨.fin (i != j) 0 0, 0⟩) ∧
      (0 < m → RoundsTo t i |1 / a.rat| (rcpFV t a)) ∧
      -- roots of data of any format of the machine
      (t.p ≤ 300 → 0 < m → m < 2 ^ 1000 →
        RoundsTo t false (Real.sqrt ((m : ℝ) * 2 ^ e)) (sqrtFV t (.fin false m e)) ∧
        RoundsTo t false (1 / Real.sqrt ((m : ℝ) * 2 ^ e)) (rsqrtFV t (.fin false m e)))

/-- R246-R248: the real functions of finite data are the values of f rounded once. Each value is settled by a bounded computation, at the
first working precision or one of the three after it; where none of those settles, the value may be log 22's (the model's choice), and
the statement says nothing. -/
def Obligations.KilnRealFunctions : Prop :=
  ∀ (t : Target) (i j : Bool) (m n : Nat) (e k : ℤ), 2 ≤ t.p → t.p ≤ 241 → (t.e4m3 = true → t.p = 4) → -16382 ≤ t.emin → t.emin ≤ t.emax → t.emax ≤ 16383 →
    0 < m → m < 2 ^ 241 → |e| ≤ 16640 → 0 < n → n < 2 ^ 241 → |k| ≤ 16640 →
    let a : FV := .fin i m e
    let b : FV := .fin j n k
    let x : ℝ := (a.rat : ℝ)
    let y : ℝ := (b.rat : ℝ)
    let found (f : Nat → Option Mag) : Prop := (settleLoop f 4 (firstTry t.need)).isSome = true
    let found2 (f : Nat → Option (Bool × Mag)) : Prop := (settleLoop f 4 (firstTry t.need)).isSome = true
    let rounds (z : ℝ) (r : Rounded) : Prop := RoundsTo t (decide (z < 0)) |z| r
    (found (exp2Try t.need i m e) → rounds ((2 : ℝ) ^ x) (exp2FV t a)) ∧
    (found (expTry t.need i m e) → rounds (Real.exp x) (expEFV t a)) ∧
    (i = false → x ≠ 1 → found (log2Try t.need m e) → rounds (Real.logb 2 x) (log2FV t a)) ∧
    (i = false → x ≠ 1 → found (lnTry t.need m e) → rounds (Real.log x) (lnFV t a)) ∧
    (found2 (sinCosTry t.need false m e) → rounds (Real.sin x) (sinFV t a)) ∧
    (found2 (sinCosTry t.need true m e) → rounds (Real.cos x) (cosFV t a)) ∧
    (found (tanhTry t.need m e) → rounds (Real.tanh x) (tanhFV t a)) ∧
    -- R247: the angle of the point (y, x) of the plane, and the angles of its table
    (found (atanTry t.need m e j n k) → rounds (Complex.arg ⟨y, x⟩) (atan2FV t a b)) ∧
    (∀ g h : Bool, ∀ l : ℤ,
      let angle (q : Nat) : Prop := found (piTry t.need q) → ∀ r, r ∈ (match q with
        | 1 => [atan2FV t (.inf g) (.inf false)]
        | 2 => [atan2FV t (.inf g) b, atan2FV t (.fin g m e) (.fin h 0 l)]
        | 3 => [atan2FV t (.inf g) (.inf true)]
        | _ => [atan2FV t (.fin g m e) (.inf true), atan2FV t (.fin g 0 l) (.inf true), atan2FV t (.fin g 0 l) (.fin true n k),
            atan2FV t (.fin g 0 l) (.fin true 0 l)]) → RoundsTo t g (Real.pi * q / 4) r
      angle 1 ∧ angle 2 ∧ angle 3 ∧ angle 4) ∧
    -- R248
    (|x| ≠ 1 → (i = true → isIntFV n k = true) → found (powTry t.need m e j n k) →
      RoundsTo t (i && isOddFV n k) (|x| ^ y) (powFV t a b))

/-- R239, R240, R246, R248: the special operands of the Kiln's functions. That infinities of both signs raise NV whatever stands beside
them, a NaN too, is log 152, the model's choice. -/
def Obligations.KilnSpecialOperands : Prop :=
  ∀ (t : Target) (a b c : FV),
    let nanNv : Rounded := ⟨.nan false, flagNV⟩
    let zero (n : Bool) (e : Int) : FV := .fin n 0 e
    -- R239: opposite infinities, and a NaN operand with NV when it is signalling
    (∀ n, roundSum t [.inf n, .inf !n] = nanNv) ∧
    -- R129, R241, log 152: infinities of both signs, whatever stands beside them
    (∀ xs : List FV, .inf true ∈ xs → .inf false ∈ xs → roundSum t xs = nanNv) ∧
    ((a.isNan || b.isNan) = true → roundSum t [a, b] = ⟨.nan false, if (a.isSig || b.isSig) = true then flagNV else 0⟩ ∧
      roundMul t a b = ⟨.nan false, if (a.isSig || b.isSig) = true then flagNV else 0⟩) ∧
    (∀ n k e, roundMul t (zero n e) (.inf k) = nanNv ∧ roundMul t (.inf k) (zero n e) = nanNv) ∧
    -- R240: even when c is NaN
    (∀ n k e, roundFma t (zero n e) (.inf k) c = nanNv ∧ roundFma t (.inf k) (zero n e) c = nanNv) ∧
    (∀ n, ¬ c.isNan = true → c ≠ .inf !n → roundFma t (.inf n) (.inf false) c = ⟨.inf n, 0⟩ ∧ roundFma t (.inf n) (.inf false) (.inf !n) = nanNv) ∧
    -- R246
    (∀ n m e k j, m ≠ 0 → divFV t (.fin n m e) (zero k j) = ⟨.inf (n != k), flagDZ⟩ ∧ divFV t (zero n e) (zero k j) = nanNv ∧
      divFV t (.inf n) (.inf k) = nanNv ∧ divFV t (.fin n m e) (.inf k) = ⟨zero (n != k) 0, 0⟩) ∧
    (∀ n e, rcpFV t (zero n e) = ⟨.inf n, flagDZ⟩ ∧ rcpFV t (.inf n) = ⟨zero n 0, 0⟩ ∧ rsqrtFV t (zero n e) = ⟨.inf n, flagDZ⟩ ∧
      (sqrtFV t (zero n e)).v = zero n 0 ∧ exp2FV t (zero n e) = ⟨.fin false 1 0, 0⟩ ∧ expEFV t (zero n e) = ⟨.fin false 1 0, 0⟩ ∧
      log2FV t (zero n e) = ⟨.inf true, flagDZ⟩ ∧ lnFV t (zero n e) = ⟨.inf true, flagDZ⟩ ∧ sinFV t (zero n e) = ⟨zero n 0, 0⟩ ∧
      cosFV t (zero n e) = ⟨.fin false 1 0, 0⟩ ∧ tanhFV t (zero n e) = ⟨zero n 0, 0⟩ ∧ sinFV t (.inf n) = nanNv ∧ cosFV t (.inf n) = nanNv ∧
      tanhFV t (.inf n) = ⟨.fin n 1 0, 0⟩) ∧
    (∀ m e, m ≠ 0 → sqrtFV t (.fin true m e) = nanNv ∧ rsqrtFV t (.fin true m e) = nanNv ∧ log2FV t (.fin true m e) = nanNv ∧
      lnFV t (.fin true m e) = nanNv) ∧
    sqrtFV t (.inf false) = ⟨.inf false, 0⟩ ∧ rsqrtFV t (.inf false) = ⟨zero false 0, 0⟩ ∧ exp2FV t (.inf false) = ⟨.inf false, 0⟩ ∧
    exp2FV t (.inf true) = ⟨zero false 0, 0⟩ ∧ expEFV t (.inf false) = ⟨.inf false, 0⟩ ∧ expEFV t (.inf true) = ⟨zero false 0, 0⟩ ∧
    log2FV t (.inf false) = ⟨.inf false, 0⟩ ∧ lnFV t (.inf false) = ⟨.inf false, 0⟩ ∧
    -- R248
    (∀ n e, powFV t a (zero n e) = ⟨.fin false 1 0, if a.isSig = true then flagNV else 0⟩) ∧
    (∀ n k m e, Odd m → powFV t (zero n e) (.fin true m 0) = ⟨.inf n, flagDZ⟩ ∧ powFV t (zero n e) (.fin false m 0) = ⟨zero n 0, 0⟩ ∧
      powFV t (.fin true 1 0) (.inf k) = ⟨.fin false 1 0, 0⟩)

/-! ### The Runner -/

/-- R126-R128: words across the lanes of a segment. -/
def Obligations.CrossLaneWords : Prop :=
  ∀ (s : State) (v : View) (w : CastWord),
    let act := v.active w
    let size : Nat := if w.seg = 0 then v.g.grant else min (2 ^ w.seg) v.g.grant
    let base (l : Nat) : Nat := l - l % size
    let mates (l : Nat) : List Nat := act.filter fun j => decide (j / size = l / size)
    let p (l : Nat) : Bool := (v.g.thread l).p w.a.toNat
    let from_ (m : ShflOp) (l b : Nat) : Option Nat := match m with
      | .pick => some (base l + b % size)
      | .rot => some (base l + (l - base l + b) % size)
      | .shift => if base l ≤ (l : Int) + sext 32 b ∧ (l : Int) + sext 32 b < base l + size then some ((l : Int) + sext 32 b).toNat else none
      | .pair => if (l - base l) ^^^ b < size then some (base l + ((l - base l) ^^^ b)) else none
    -- a source outside the segment, or not active, is the lane itself
    let source (m : ShflOp) (l : Nat) (t : Thread) : Nat := match from_ m l (srcB (.shfl m w) v.g w t 1 % 2 ^ 32) with
      | some x => if x ∈ act then x else l
      | none => l
    (∀ m, (∀ l ∈ act, (v.g.thread l).badCells = []) → Completes s v (.shfl m w) w fun l t =>
      t.setCells w.d.toNat (cellsOf w.lc) (srcA (.shfl m w) v.g w (v.g.thread (source m l t)) (cellsOf w.lc))) ∧
    Completes s v (.vote .all w) w (fun l t => t.setP w.d.toNat (decide (∀ j ∈ mates l, p j = true))) ∧
    Completes s v (.vote .any w) w (fun l t => t.setP w.d.toNat (decide (∃ j ∈ mates l, p j = true))) ∧
    Completes s v (.vote .uni w) w (fun l t => t.setP w.d.toNat (decide (∀ j ∈ mates l, ∀ k ∈ mates l, p j = p k))) ∧
    Completes s v (.vote .ballot w) w (fun l t => t.setCells w.d.toNat 4 (maskOf ((mates l).filter p)).toNat) ∧
    Completes s v (.elect w) w (fun l t => t.setP w.d.toNat (decide ((mates l).head? = some l)))

/-- R129, R130, R255: gred reduces over the active lanes of a segment, gscan over a prefix of them; an integer reduction is that of the
exact values, and does not depend on the order; a floating-point one takes its mode, precision and identity from the segment's lowest active
lane: a sum is rounded once, min and max deliver an input below or above which no other lies, and seq rounds at each step. -/
def Obligations.ReductionWords : Prop :=
  (∀ (m : Fold) (ty : BitVec 4) (n : Nat) (xs ys : List Nat), xs.Perm ys → foldInt m ty n xs = foldInt m ty n ys) ∧
  (∀ (ty : BitVec 4) (n : Nat) (xs : List Nat),
    let vals := xs.map (valOf ty n)
    foldInt .add ty n xs = wrap n vals.sum ∧
    (0 < n → ∀ x ∈ vals, (∀ y ∈ vals, x ≤ y) → foldInt .min ty n xs = wrap n x) ∧
    (0 < n → ∀ x ∈ vals, (∀ y ∈ vals, y ≤ x) → foldInt .max ty n xs = wrap n x) ∧
    foldInt .min ty n [] = wrap n (maxOf ty n) ∧ foldInt .max ty n [] = wrap n (minOf ty n) ∧
    (∀ i, (foldInt .and ty n xs).testBit i = decide (i < n ∧ ∀ x ∈ xs, x.testBit i = true)) ∧
    (∀ i, (foldInt .or ty n xs).testBit i = decide (∃ x ∈ xs, x.testBit i = true)) ∧
    (∀ i, (foldInt .xor ty n xs).testBit i = decide (xs.countP (fun x => x.testBit i) % 2 = 1))) ∧
  (∀ (f : Fmt) (n : Nat) (k127 : Word) (g p : Nat) (mode : RMode) (xs : List Nat),
    let to_ (ws : List Nat) : Target := { f.target mode (if mode = .sst then draw k127 g ws else 0) with p := p }
    let r (m : Fold) (xs : List Nat) : Nat × Nat := foldFlt m f n k127 g p mode xs
    let nan (x : Nat) : Bool := (f.decode x).isNan
    let nv : Nat := if xs.any (fun x => (f.decode x).isSig) = true then 16 else 0
    let sum : ℚ := (xs.map fun x => (f.decode x).rat).sum
    (2 ≤ p → (f.e4m3 = true → p = 4) → (∀ x ∈ xs, ∃ i m e, f.decode x = .fin i m e) → sum ≠ 0 →
      ∃ a, RoundsTo (to_ (xs.flatMap (wordsOf f.width n))) (decide (sum < 0)) |sum| a ∧ r .add xs = (f.encode a.v, a.flags)) ∧
    (xs.any nan = true → (∀ x ∈ xs, (f.decode x).isInf = false) → r .add xs = (f.canonNan, nv)) ∧
    (∀ m ∈ [Fold.add, .seq], r m [] = (0, 0)) ∧
    r .min [] = (f.encode (.inf false), 0) ∧ r .max [] = (f.encode (.inf true), 0) ∧
    (xs ≠ [] → (∀ x ∈ xs, nan x = true) → ∀ m ∈ [Fold.min, .max], r m xs = (f.canonNan, nv)) ∧
    ((∃ x ∈ xs, nan x = false) → ∀ m ∈ [Fold.min, .max], (r m xs).1 ∈ xs ∧ nan (r m xs).1 = false ∧ (r m xs).2 = nv) ∧
    (∀ y ∈ xs, nan y = false → ltFV (f.decode y) (f.decode (r .min xs).1) = false ∧ ltFV (f.decode (r .max xs).1) (f.decode y) = false) ∧
    (∀ x, r .seq [x] = (if nan x = true then f.canonNan else x, if (f.decode x).isSig = true then 16 else 0)) ∧
    ∀ y, xs ≠ [] → r .seq (xs ++ [y]) =
      let a := r .seq xs
      let b := roundSum (to_ (wordsOf f.width n a.1 ++ wordsOf f.width n y)) [f.decode a.1, f.decode y]
      (f.encode b.v, a.2 ||| b.flags)) ∧
  ∀ (s : State) (v : View) (w : CastWord),
    let f := fmtOf w.ty w.lc
    let n := cellsOf w.lc
    let seg (l : Nat) : List Nat := segOf (v.active w) (segSize v.g w) l
    let pre (l : Nat) : List Nat := (seg l).filter fun j => if w.modBit 1 then decide (j < l) else decide (j ≤ l)
    let lead (l : Nat) : Thread := v.g.thread ((seg l).headD 0)
    let rounds (m : Fold) : Prop := isV w.ty = true ∧ m ≠ .min ∧ m ≠ .max
    let exh (m : Fold) (l : Nat) : Prop := rounds m ∧ f.prec < prP (lead l).pr
    let prec (m : Fold) (l : Nat) : Nat := if rounds m ∧ prP (lead l).pr ≠ 0 ∧ prP (lead l).pr ≤ f.prec then prP (lead l).pr else f.prec
    (∀ l ∈ v.active w, (v.g.thread l).badCells = []) →
    let goes (i : Instr) (m : Fold) (set : Nat → List Nat) : Prop :=
      let val (l : Nat) : Nat := srcA i v.g w (v.g.thread l) n
      let r (l : Nat) : Nat × Nat := foldFlt m f n (v.g.kreg 127) (lead l).g (prec m l) (rmodeOf (prRm (lead l).pr)) ((set l).map fun j => fltBits f (val j))
      ((w.ty.toNat < 8 ∨ isB w.ty = true) → Completes s v i w fun l t =>
        t.setInt w (foldInt m w.ty (widthOf w.ty w.lc) ((set l).map fun j => val j % 2 ^ widthOf w.ty w.lc))) ∧
      (¬ (w.ty.toNat < 8 ∨ isB w.ty = true) → (∀ l ∈ v.active w, exh m l → prXa (lead l).pr = true) → Completes s v i w fun l t =>
        { t.setCells w.d.toNat n (r l).1 with
          fpflags := t.fpflags ||| BitVec.ofNat 32 (r l).2
          pr := if rounds m ∧ f.prec < prP (lead l).pr then t.pr ||| 0x10000 ||| (if (r l).2 % 2 = 1 then 0x20000 else 0) else t.pr })
    (∀ m : RedOp, goes (.gred m w) (redFold m) seg) ∧ (∀ m : ScanOp, goes (.gscan m w) (scanFold m) pre)

/-- R114-R116, R131, R132, R134: system registers, k registers and handler masks. -/
def Obligations.SystemRegisterWords : Prop :=
  ∀ (s : State) (v : View) (w : CastWord),
    let val (t : Thread) : Nat := srcA (.wrsys w) v.g w t (cellsOf w.lc)
    Completes s v (.rdsys w) w (fun l t => t.setCells w.d.toNat (cellsOf w.lc) (v.sysVal l t w.a.toNat)) ∧
    (∀ (l : Nat) (t : Thread), v.sysVal l t 0x00 = t.pr.toNat ∧ v.sysVal l t 0x01 = v.g.grant ∧ v.sysVal l t 0x02 = l ∧ v.sysVal l t 0x03 = t.tid ∧
      v.sysVal l t 0x04 = v.g.k ∧ v.sysVal l t 0x10 = (v.s.core v.c).cyc.toNat ∧ v.sysVal l t 0x11 = v.s.tick.toNat ∧
      v.sysVal l t 0x12 = v.g.classpol.toNat ∧ v.sysVal l t 0x13 = t.trapcause.toNat ∧ v.sysVal l t 0x14 = t.trappc.toNat ∧
      v.sysVal l t 0x15 = t.fpflags.toNat ∧ ∀ i < 8, v.sysVal l t (8 + i) = levelId v.l.rec_ t.g i) ∧
    -- wrsys: PR, CLASSPOL, TRAPPC, FPFLAGS
    (w.d = 0x00 → (∀ l ∈ v.active w, bits (val (v.g.thread l)) 0 8 ≠ 1 ∧ bits (val (v.g.thread l)) 0 8 < 242 ∧ bits (val (v.g.thread l)) 8 3 < 6) →
      Completes s v (.wrsys w) w fun _ t => { t with pr := BitVec.ofNat 32 (val t) &&& 0x30FFF }) ∧
    (w.d = 0x14 → (∀ l ∈ v.active w, val (v.g.thread l) % 16 = 0 ∧ val (v.g.thread l) < 2 ^ 57) →
      Completes s v (.wrsys w) w fun _ t => { t with trappc := BitVec.ofNat 64 (val t) }) ∧
    (w.d = 0x15 → Completes s v (.wrsys w) w fun _ t => { t with fpflags := BitVec.ofNat 32 (val t % 32) }) ∧
    (w.d = 0x12 → s.issues (.wrsys w) w v → ∀ l, (v.active w).head? = some l → (∀ j ∈ v.active w, val (v.g.thread j) % 4 ≠ 3) →
      exec (.wrsys w) s = .next (v.groupDone { v.laneGroup w (fun _ t => t) with classpol := BitVec.ofNat 2 (val (v.g.thread l)) })) ∧
    -- kset and kget: k0 reads zero and is never written
    (s.decodes (.kset w) v → ∀ l, (if w.modBit 1 = true then v.lanes.head? = some l else l = w.imm.toNat ∧ l ∈ v.lanes) →
      (v.g.thread l).readsBad (.kset w) = false →
      exec (.kset w) s = .next (v.groupDone (v.g.setK w.d.toNat (BitVec.ofNat 32 (srcA (.kset w) v.g w (v.g.thread l) 1))))) ∧
    (∀ (g : Group) (i : Nat) (x : Word), (g.setK i x).kreg i = (if i = 0 then 0 else x) ∧ ∀ j, j ≠ i → (g.setK i x).kreg j = g.kreg j) ∧
    Completes s v (.kget w) w (fun _ t => t.setCells w.d.toNat 1 (v.g.kreg (srcA (.kget w) v.g w t 1 % 128)).toNat) ∧
    (s.decodes (.hmk w) v → exec (.hmk w) s = .next (v.groupDone { v.g with
      threads := v.g.threads.map fun (e : Nat × Thread) => if e.2.alive = true then (e.1, { e.2 with hmask := w.imm }) else e }))

/-- R85, R118, R119, R122, R123, R138: transfers of control. A fragment whose lanes all take one target goes there; lanes that do not
take it go on at the next word, each set of lanes with one target as a fragment of its own; the parts of a transfer hold exactly the lanes
that take their target, and rise by their lowest lane. A split with RJ makes the fragment the join entry of its parts, which meet at
PC + 16 × RJ; without RJ, or in a chain of 31, the parts take the fragment's place; entries without room go on the overflow stack, the first of
them on top, and a word waits for the page that a push misses (log 37). The join of the last child makes the entry a leaf again, whose turn
comes after that of every leaf before it (R87). That a push of a word waits as its other accesses do, and that a word is fetched anew so
that ifence has nothing to discard (log 35), are the model's choices. -/
def Obligations.ControlTransferWords : Prop :=
   (∀ (s : State) (v : View) (w : CastWord),
      let there : DWord := BitVec.ofNat 64 (wrap 57 ((v.nd.pc.toNat : Int) + 16 + 16 * sext 32 w.imm.toNat))
      let x (l : Nat) : Nat := srcA (.brx w) v.g w (v.g.thread l) 2
      let stay : Mask := maskOf (v.lanes.filter fun l => decide (l ∉ v.active w))
      let moved (g : Group) (t : State) : Prop := t.group? v.c v.slot = some (g.grown v.g.stack.length) ∧ (g.stack.length ≤ v.g.stack.length → OnlyGroup s t v.c v.slot)
      (s.decodes (.nop w) v → exec (.nop w) s = .next (v.groupDone v.g)) ∧
      (s.decodes .ifence v → exec .ifence s = .next (v.groupDone v.g)) ∧
      let room (g : Group) : Prop := v.s.pushNeeds v.c g v.l.rec_ v.g.stack.length v.nd.fatal = .ready
      let split (to_ : Nat → DWord) : Group :=
        v.g.gotoParts v.nd (transferParts ((v.active w).map fun l => (l, to_ l)) stay (v.nd.pc + 16)) w.rj
      (s.decodes (.bra w) v → v.lanes ≠ [] → room (split fun _ => there) → ∃ t, exec (.bra w) s = .next t ∧ moved (split fun _ => there) t) ∧
      (s.decodes (.bra w) v → v.lanes ≠ [] → ∀ ps, v.s.pushNeeds v.c (split fun _ => there) v.l.rec_ v.g.stack.length v.nd.fatal = .miss ps →
        ∃ t g, exec (.bra w) s = .next t ∧ t.group? v.c v.slot = some g ∧ g.node? v.nd.id = some { v.nd with st := .parked (sunion [] ps) }) ∧
      (s.decodes (.bra w) v → v.lanes ≠ [] → v.active w = v.lanes → (∀ l ∈ v.lanes, l < 128) →
        ∃ t, exec (.bra w) s = .next t ∧ v.leaves (v.g.setNode { v.nd with pc := there, st := .ready, fatal := [] }) t) ∧
      (s.issues (.brx w) w v → v.lanes ≠ [] → (∀ l ∈ v.active w, x l % 16 = 0 ∧ x l < 2 ^ 57) → room (split fun l => BitVec.ofNat 64 (x l)) →
        ∃ t, exec (.brx w) s = .next t ∧ moved (split fun l => BitVec.ofNat 64 (x l)) t) ∧
      (s.decodes (.join w) v → (v.active w).length = v.lanes.length → v.nd.rpc = some v.nd.pc → ∃ t, exec (.join w) s = .next t ∧
        moved ({ v.g with nodes := v.g.nodes.filter fun n => n.id != v.nd.id }.norm) t) ∧
      -- the last child of entry `p`, where every other entry of the table waits for children of its own
      (∀ p ∈ v.g.nodes, s.decodes (.join w) v → (v.active w).length = v.lanes.length → v.nd.rpc = some v.nd.pc → v.g.stack = [] →
        (v.g.nodes.map (·.id)).Nodup → v.nd.parent = some p.id → p.st = .join → p.mask ≠ 0 → v.nd.isLeaf = true →
        (∀ n ∈ v.g.nodes, n.id ≠ v.nd.id → n.parent ≠ some p.id) →
        (∀ n ∈ v.g.nodes, n.id ≠ p.id → if n.isLeaf = true then n.mask ≠ 0 else ∃ k ∈ v.g.nodes, k.id ≠ v.nd.id ∧ k.parent = some n.id) →
        ∃ t g, exec (.join w) s = .next t ∧ t.group? v.c v.slot = some g ∧ g.node? p.id = some { p with st := .ready, turn := v.g.issues } ∧ g.node? v.nd.id = none) ∧
      (s.decodes (.join w) v → v.nd.rpc ≠ some v.nd.pc → exec (.join w) s = .next (v.groupDone v.g)) ∧
      (s.decodes (.exit w) v → exec (.exit w) s = .next ((v.groupDone v.g).endLanes v.c v.slot (v.active w)))) ∧
   (∀ (taken : List (Nat × DWord)) (next : DWord), (taken.map (·.1)).Nodup → (∀ e ∈ taken, e.1 < 128) →
      let ps := transferParts taken 0 next
      (∀ p ∈ ps, ∀ l < 128, p.1.getLsbD l = true ↔ (l, p.2) ∈ taken) ∧ (ps.map (·.2)).Nodup ∧ (∀ e ∈ taken, e.2 ∈ ps.map (·.2)) ∧
      ps.Pairwise fun p q => lowLane p.1 < lowLane q.1) ∧
   -- the entries of a split: a new leaf is numbered from the group's counter
   (∀ (g : Group) (f : Node) (ps : List (Mask × DWord)) (rj : Nat), f ∈ g.nodes →
      let leaf (rpc : Option DWord) (parent : Option Nat) (i : Nat) (p : Mask × DWord) : Node :=
        { id := g.nextNode + i, mask := p.1, pc := p.2, rpc := rpc, parent := parent, hmode := f.hmode, st := .ready, fatal := [], turn := g.issues }
      let held (h : Group) : Prop := (h.nodes.filter Node.isLeaf).length + ps.length ≤ 16 ∧ h.nodes.length + ps.length ≤ 32
      let meet : DWord := f.pc + BitVec.ofNat 64 (16 * rj)
      let joined : Group := g.setNode { f with st := .join, pc := meet, fatal := [] }
      let without : Group := { g with nodes := g.nodes.filter fun n => n.id != f.id }
      (rj ≠ 0 → (g.chain f).length < 31 → held joined →
        g.split f ps rj = { joined with nextNode := g.nextNode + ps.length, nodes := joined.nodes ++ ps.mapIdx (leaf (some meet) (some f.id)) }) ∧
      (rj = 0 ∨ 31 ≤ (g.chain f).length → held without →
        g.split f ps rj = { without with nextNode := g.nextNode + ps.length, nodes := without.nodes ++ ps.mapIdx (leaf f.rpc f.parent) }) ∧
      (2 ≤ ps.length → g.gotoParts f ps rj = (g.split f ps rj).norm) ∧
      (g.stack = [] → (∀ n ∈ g.nodes, if n.isLeaf = true then n.mask ≠ 0 else ∃ k ∈ g.nodes, k.parent = some n.id) → g.norm = g)) ∧
   (∀ (g : Group) (ns : List Node), g.hasRoom = false → g.nodes.any Node.isLeaf = true → g.addLeaves ns = { g with stack := ns ++ g.stack })


/-- R90-R92, R120, R121: calls push a record and raise the window; a return takes the record that stands in memory below the top, restores the
cells that it holds and goes to its address; a record reads back as the cells that it saved, in the bytes that its trailer says. -/
def Obligations.CallAndReturnWords : Prop :=
   (∀ (s : State) (v : View) (w : CastWord),
      let r := v.l.rec_
      let d := 16 * w.mod.toNat
      let there : DWord := BitVec.ofNat 64 (wrap 57 ((v.nd.pc.toNat : Int) + 16 + 16 * sext 32 w.imm.toNat))
      let x (l : Nat) : Nat := srcA (.callx w) v.g w (v.g.thread l) 2
      let len (t : Thread) : Nat := (spillRecord t d (v.nd.pc + 16)).1
      let room : Prop := ∃ limit, (v.active w ≠ [] → v.spillLimit = ([], limit)) ∧ ∀ l ∈ v.active w,
        (∀ i ∈ (v.g.thread l).badCells, d ≤ i) ∧ (v.g.thread l).top + len (v.g.thread l) ≤ limit ∧
        ∃ ps, v.s.trRange v.c v.g.ctx v.nd.fatal .w (spillVa r (v.g.thread l) (v.g.thread l).top) (len (v.g.thread l)) = .ok ps
      let push (s : State) (_ : Nat) (t : Thread) : State × LaneRes :=
        ((v.write s false {} (.glob (spillVa r t t.top)) (len t) (spillRecord t d (v.nd.pc + 16)).2).1, .ok ({ t with top := t.top + len t }.raise d))
      let called (to_ : Nat → DWord) (t : State) : Prop :=
        let out := v.inOrder push (v.active w) v.s
        t = v.transfer out.1 (v.laneGroup w fun _ t => { t with top := t.top + len t }.raise d) [] [] ((v.active w).map fun l => (l, to_ l)) w.rj
      -- a lane's record as it stands in memory: the cells of `u` and the address `pc`, as a call pushed them
      let holds (t u : Thread) (k : Nat) (pc : DWord) : Prop :=
        let rcd := spillRecord u (16 * k) pc
        let read (a n : Nat) (y : Nat) : Prop := (∃ ps, v.trLoc .r (.glob a) n = .ok ps) ∧ v.peek (.glob a) n = .ok y
        16 * k ≤ v.g.win ∧ pc.toNat % 16 = 0 ∧ rcd.1 + 16 ≤ t.top ∧
        read (spillVa r t (t.top - 16)) 16 (bits rcd.2 (8 * (rcd.1 - 16)) 128) ∧
        (k ≠ 0 → read (spillVa r t (t.top - rcd.1)) (rcd.1 - 16) (bits rcd.2 0 (8 * (rcd.1 - 16))))
      (s.decodes (.call w) v → room → ∃ t, exec (.call w) s = .next t ∧ called (fun _ => there) t) ∧
      (s.issues (.callx w) w v → room → (∀ l ∈ v.active w, x l % 16 = 0 ∧ x l < 2 ^ 57) →
        ∃ t, exec (.callx w) s = .next t ∧ called (fun l => BitVec.ofNat 64 (x l)) t) ∧
      (∀ (t : Thread) (i : Nat), (t.raise d).cell i = t.cell (i + d)) ∧
      -- the window base goes down: the restored cells enter below, and cell i moves back to cell i + m
      (∀ (t : Thread) (m cells i : Nat),
        (t.lower v.g.win m cells).cell i = (if i < m then BitVec.ofNat 32 (cells / 2 ^ (32 * i)) else if i < v.g.win then t.cell (i - m) else 0) ∧
        (i ∈ (t.lower v.g.win m cells).badCells ↔ m ≤ i ∧ i < v.g.win ∧ i - m ∈ t.badCells)) ∧
      (∀ (n : Nat → Nat) (k : Nat → Nat) (pc : Nat → DWord) (cells : Nat → Nat), s.decodes (.ret w) v →
        (∀ l ∈ v.active w, v.ret1 (v.g.thread l) = .go (n l) (k l) (pc l) (cells l)) →
        exec (.ret w) s = .next (v.transfer v.s (v.laneGroup w fun l t => { t with top := t.top - n l }.lower v.g.win (k l) (cells l)) [] []
          ((v.active w).map fun l => (l, pc l)) 0)) ∧
      (∀ (u : Nat → Thread) (k : Nat → Nat) (pc : Nat → DWord), s.decodes (.ret w) v →
        (∀ l ∈ v.active w, k l ≤ 128 ∧ holds (v.g.thread l) (u l) (k l) (pc l)) →
        exec (.ret w) s = .next (v.transfer v.s (v.laneGroup w fun l t =>
          { t with top := t.top - (spillRecord (u l) (16 * k l) (pc l)).1 }.lower v.g.win (16 * k l)
            (packLE 4 ((List.range (16 * k l)).map fun i => ((u l).cell i).toNat))) [] [] ((v.active w).map fun l => (l, pc l)) 0)) ∧
      (s.decodes (.ret w) v → (∀ l ∈ v.active w, (v.g.thread l).top = 16) →
        exec (.ret w) s = .next (v.transfer v.s (v.laneGroup w fun _ t => t) [] (v.active w) [] 0))) ∧
   (∀ (t : Thread) (k : Nat) (ret : DWord), k ≤ 128 →
      let r := spillRecord t (16 * k) ret
      ∃ n cs, readChunks r.2 (r.1 - 16) k = some (n, cs) ∧ (n + 7) / 8 * 8 + 16 = r.1 ∧ cs = (List.range (16 * k)).map (fun i => (t.cell i).toNat) ∧
        bits r.2 (8 * (r.1 - 16)) 64 = ret.toNat ∧ bits r.2 (8 * (r.1 - 16) + 64) 32 = r.1 ∧ bits r.2 (8 * (r.1 - 16) + 96) 16 = 16 * k)


/-- R124, R125: arrivals at a barrier and at the setw rendezvous. Before the last thread has arrived, a fragment at bar and at setw
waits, and one at arrive goes on; when it has, the phase advances and every fragment of the block that waits in it goes on, and setw re-slices
the block, to a width no greater than the smallest that was asked for, unless no such width fits: then it waits on (log 27). A thread that
arrives a second time in a phase waits for it to complete, and counts in the next (logs 39 and 40). These are the model's choices. -/
def Obligations.RendezvousWords : Prop :=
  ∀ (s : State) (v : View) (w : CastWord) (b : Block),
    s.block? v.g.launch v.g.block = some b →
    let n := w.imm.toNat % 16
    let tids := v.lanes.map fun l => (v.g.thread l).tid
    let x := b.bar n
    let size := v.l.rec_.blockSize
    let waiting (st : NodeState) (pc : DWord) : Group := v.g.setNode { v.nd with st := st, pc := pc, fatal := [] }
    let bars (t : State) : Option Barrier := (t.block? v.g.launch v.g.block).map fun b => b.bar n
    -- the fragments of a group that wait in the phase go on
    let freed (k : Node) : Node := if k.st = .bar n x.phase then { k with st := .ready, pc := k.pc + 16 } else k
    let goesOn (t : State) : Prop := ∀ c sl g, s.group? c sl = some g → g.launch = v.g.launch → g.block = v.g.block → g.remnant = false →
      ∃ g', t.group? c sl = some g' ∧
        let g0 := if c = v.c ∧ sl = v.slot then v.g.setNode v.onward else g
        g' = { g0 with nodes := g0.nodes.map freed, stack := g0.stack.map freed }
    ((∀ i ∈ tids, i ∉ x.arrived) →
      (s.decodes (.bar w) v → b.allIn size (sunion x.arrived tids) = false → ∃ t, exec (.bar w) s = .next t ∧
        t.group? v.c v.slot = some (waiting (.bar n x.phase) v.nd.pc) ∧ bars t = some { x with arrived := sunion x.arrived tids }) ∧
      (s.decodes (.arrive w) v → b.allIn size (sunion x.arrived tids) = false → ∃ t, exec (.arrive w) s = .next t ∧
        t.group? v.c v.slot = some (waiting .ready (v.nd.pc + 16)) ∧ bars t = some { x with arrived := sunion x.arrived tids }) ∧
      (∀ i ∈ [Instr.bar w, .arrive w], s.decodes i v → b.allIn size (sunion x.arrived tids) = true → x.later = [] → s.keysRise → v.g.remnant = false →
        ∃ t, exec i s = .next t ∧ bars t = some { phase := (x.phase + 1) % 65536, arrived := [], later := [] } ∧ goesOn t)) ∧
    (tids ≠ [] → (∀ i ∈ tids, i ∈ x.arrived) → b.allIn size x.arrived = false →
      (s.decodes (.bar w) v → ∃ t, exec (.bar w) s = .next t ∧
        t.group? v.c v.slot = some (waiting (.bar n ((x.phase + 1) % 65536)) v.nd.pc) ∧ bars t = some { x with later := sunion x.later tids }) ∧
      (s.decodes (.arrive w) v → ∃ t, exec (.arrive w) s = .next t ∧
        t.group? v.c v.slot = some (waiting (.bar n x.phase) v.nd.pc) ∧ bars t = some { x with later := sunion x.later tids })) ∧
    (s.decodes (.setw w) v →
      let req : Nat := if w.a = 0 then w.imm.toNat else (v.g.kreg w.a.toNat).toNat
      let all := sunion b.setwArrived tids
      (req ∉ [128, 64, 32, 16, 8] → exec (.setw w) s = .next (v.trapAll 0x01 0)) ∧
      let b' : Block := { b with setwArrived := all, setwReq := if b.setwArrived = [] then req else min b.setwReq req }
      (req ∈ [128, 64, 32, 16, 8] → b.allIn size all = false → ∃ t, exec (.setw w) s = .next t ∧
        t.group? v.c v.slot = some (waiting .setw v.nd.pc) ∧ (t.block? v.g.launch v.g.block) = some b') ∧
      (req ∈ [128, 64, 32, 16, 8] → b.allIn size all = true →
        let arrived := ((v.s.releaseIf v.c v.l.rec_.wideScope).setBlock v.g.launch v.g.block b').setGroup v.c v.slot (waiting .setw v.nd.pc)
        let u := arrived.reslice v.g.launch v.g.block b'.setwReq
        -- the threads that a new group is to hold, and whether a width fits on the block's cores (R78, R81)
        let live := ((arrived.groupsOf v.g.launch v.g.block).flatMap fun e => (e.2.2.threads.filter (·.2.alive)).filterMap fun y =>
          e.2.2.seat y.1 y.2).foldl (fun acc y => insertSeat y acc) []
        let fits (G : Nat) : Prop := (assignGroups { v.l.rec_ with wreq := b'.setwReq } (48 * (b.cores.headD 0 / 48)) b.cores
          (fun c => (arrived.core c).fits (some (v.g.launch, v.g.block)) v.l.rec_.win G) noHome
          (liveGroups { v.l.rec_ with wreq := b'.setwReq } G (some (live.map (·.t.tid))))).isSome = true
        (∀ y, u.block? v.g.launch v.g.block = some y →
          (y = b' ∧ ∀ G ∈ [128, 64, 32, 16, 8], G ≤ b'.setwReq → ¬ fits G) ∨
          (y.grant ∈ [128, 64, 32, 16, 8] ∧ y.grant ≤ b'.setwReq ∧ fits y.grant ∧ (∀ G ∈ [128, 64, 32, 16, 8], y.grant < G → G ≤ b'.setwReq → ¬ fits G) ∧
            y = { b with grant := y.grant, setwArrived := [], setwReq := 0 })) ∧
        ∃ t, exec (.setw w) s = .next t ∧ t = if (u.block? v.g.launch v.g.block).any (fun y => y.setwArrived.isEmpty) = true
          then b.cores.foldl (fun s c => s.acquireIf c v.l.rec_.wideScope) u else arrived))

/-- R135-R137: software traps, breakpoints, the return from a trap, and giving up a turn. A breakpoint that halts leaves its fragment at the
next word (log 41), and a return takes bits 3:0 of TRAPPC as zero (log 102): the model's choices. -/
def Obligations.TrapReturnAndYieldWords : Prop :=
  ∀ (s : State) (v : View) (w : CastWord),
    let taken (cause : Nat) : State := v.s.takeTrap v.c v.slot (v.doneGroup w fun _ t => t) v.nd ((v.active w).map fun l => (l, cause, w.imm.setWidth 64))
    (s.decodes (.trap w) v → exec (.trap w) s = .next (if v.active w = [] then v.done w (fun _ t => t) else taken 0x10)) ∧
    (s.decodes (.dbrk w) v → s.haltBreak v.g.ctx = false → exec (.dbrk w) s = .next (if v.active w = [] then v.done w (fun _ t => t) else taken 0x0F)) ∧
    (s.decodes (.dbrk w) v → s.haltBreak v.g.ctx = true → v.active w ≠ [] → ∃ t, exec (.dbrk w) s = .next t ∧ (t.core v.c).halted = true ∧
      t.group? v.c v.slot = some (v.g.setNode v.onward) ∧ t.box.mgmtcause.getLsbD 5 = true) ∧
    (s.decodes (.tret w) v → exec (.tret w) s = .next v.tret) ∧
    (∀ pc : DWord, s.decodes (.tret w) v → v.lanes ≠ [] → (∀ l ∈ v.lanes, (v.g.thread l).trappc = pc) → ∃ t, exec (.tret w) s = .next t ∧
      v.leaves ((v.g.mapThreads v.lanes fun t => { t with trapcause := 0 }).setNode { v.nd with hmode := false, pc := pc &&& ~~~15#64, fatal := [] }) t) ∧
    (s.decodes .yield v → exec .yield s = .next (v.groupDone { v.g with lastIssue := (s.core v.c).cyc.toNat })) ∧
    (s.decodes (.sleep w) v →
      let n : Nat := if w.a = 0 then w.imm.toNat else (v.g.kreg w.a.toNat).toNat
      (n = 0 → exec (.sleep w) s = .next (v.groupDone { v.g with lastIssue := (s.core v.c).cyc.toNat })) ∧
      (n ≠ 0 → exec (.sleep w) s = .next (v.s.setGroup v.c v.slot (v.g.setNode { v.nd with st := .asleep (s.tick.toNat + n), fatal := [] }))))

/-- R58, R103, R231, R233, R357: a word whose decode checks fail takes its whole fragment to the trap, with a DETAIL of 0 and no other effect; a
register word of which every active lane reads a cell with an error traps POISON in each; and a lane that takes PREC_EXH or FPE keeps D and
FPFLAGS (shown of fadd, where every active lane traps alike). -/
def Obligations.TrapsComeBeforeEffects : Prop :=
   (∀ (s : State) (v : View) (i : Instr) (w : CastWord) (cause : Nat), s.view = some v → (opSpec i).isSome = true ∨ (plainClass i).isSome = true →
      (v.check i = some cause → exec i s = .next (v.s.takeTrap v.c v.slot v.g v.nd (v.lanes.map fun l => (l, cause, 0)))) ∧
      (s.decodes (.iadd w) v → v.active w ≠ [] → (∀ l ∈ v.active w, (v.g.thread l).readsBad (.iadd w) = true) →
        exec (.iadd w) s = .next (v.s.takeTrap v.c v.slot (v.doneGroup w fun _ t => t) v.nd ((v.active w).map fun l => (l, 0x0D, 0))))) ∧
   (∀ (s : State) (v : View) (w : CastWord),
      let i := Instr.fadd w
      let f := fmtOf w.ty w.lc
      let on (x : Nat → Nat × DWord) : State :=
        v.s.takeTrap v.c v.slot (v.doneGroup w fun _ t => t) v.nd ((v.active w).map fun l => (l, x l))
      let r (t : Thread) : Rounded :=
        roundSum (v.roundsTo w f (fun t => wordsA i v.g w t ++ wordsB i v.g w t) t) [f.decode (fltA i v.g w t), f.decode (fltB i v.g w t)]
      s.issues i w v → v.active w ≠ [] →
      ((∀ l ∈ v.active w, Thread.exhausts w f (v.g.thread l) ∧ prXa (v.g.thread l).pr = false) →
        exec i s = .next (on fun l => (0x06, BitVec.ofNat 64 (prP (v.g.thread l).pr + 256 * f.prec)))) ∧
      ((∀ l ∈ v.active w, (Thread.exhausts w f (v.g.thread l) → prXa (v.g.thread l).pr = true) ∧ w.modBit 4 = true ∧
          (r (v.g.thread l)).flags &&& 28 ≠ 0) →
        exec i s = .next (on fun l => (0x08, BitVec.ofNat 64 (r (v.g.thread l)).flags))))

/-- R103, R104: taking an exception. Threads that are routed to the handler keep their cause and PC, and the fragment goes on at
TRAPENTRY in handler mode, with cause, PC and DETAIL in the first 32 bytes of each thread's private memory as the core reads them; threads
that are not end with an entry each. -/
def Obligations.TakingATrap : Prop :=
  ∀ (s : State) (v : View) (info : Table (Nat × DWord)), s.view = some v → info ≠ [] → (info.map (·.1)).Nodup →
    v.nd.mask &&& ~~~maskOf (info.map (·.1)) = 0 →
    let t := v.s.takeTrap v.c v.slot v.g v.nd info
    let entry (e : Nat × Nat × DWord) : FaultEntry :=
      { launch := v.g.launch, cause := e.2.1, double := v.nd.hmode, engine := false, core := v.c, batch := 0, thread := (v.g.thread e.1).g,
        pc := v.nd.pc, detail := e.2.2, counted := none }
    ((∀ e ∈ info, routed v.l.rec_ v.nd.hmode (v.g.thread e.1) e.2.1 = true ∧
        ∃ pa, s.translate v.c v.g.ctx v.nd.fatal .w (privVa v.l.rec_ (v.g.thread e.1).g 0) = .hit pa) →
      ∃ g, t.group? v.c v.slot = some g ∧ t.faultQ = s.faultQ ∧
        g.node? v.nd.id = some { v.nd with pc := v.l.rec_.trapentry, hmode := true, st := .ready, fatal := [] } ∧
        (∀ e ∈ info, g.thread e.1 = { v.g.thread e.1 with trapcause := BitVec.ofNat 8 e.2.1, trappc := v.nd.pc }) ∧
        (∀ l, l ∉ info.map (·.1) → g.thread l = v.g.thread l) ∧
        -- the bytes written, where the pages lie in memory that the L1 holds
        ∀ pa : Nat → Nat, (info.map fun e => pa e.1).Nodup →
          (∀ e ∈ info, s.translate v.c v.g.ctx v.nd.fatal .w (privVa v.l.rec_ (v.g.thread e.1).g 0) = .hit (pa e.1) ∧ pa e.1 % 32 = 0 ∧
            s.l1Used v.c (pa e.1) = true ∧ s.mem.poisoned (pa e.1) 32 = false ∧ s.stateWord (pa e.1) 32 = none ∧ s.isFree (pa e.1) = false) →
          ∀ e ∈ info, t.coreBytes v.c (pa e.1) 32 = (e.2.1 + v.nd.pc.toNat * 2 ^ 64 + e.2.2.toNat * 2 ^ 128) % 2 ^ 256) ∧
    ((∀ e ∈ info, routed v.l.rec_ v.nd.hmode (v.g.thread e.1) e.2.1 = false) →
      t.faultQ = s.faultQ ++ info.map entry ∧
      ∀ b, s.block? v.g.launch v.g.block = some b →
        (∃ b', t.block? v.g.launch v.g.block = some b' ∧ ∀ e ∈ info, (v.g.thread e.1).tid ∈ b'.ended) ∧
        -- what is left of the group, unless the end of these threads completes a setw
        (b.setwArrived = [] → ∀ g, t.group? v.c v.slot = some g →
          (∀ e ∈ info, (g.thread e.1).alive = false) ∧ ∀ n ∈ g.nodes ++ g.stack, n.mask &&& maskOf (info.map (·.1)) = 0))

/-! ### The Sprue -/

/-- R188, R197-R199: loads and stores. Where every lane passes its checks, each performs its one read or write in ascending order. In image
space the checks read memory, after the reds on their way. That std rounds under PR.RM, and sst there draws with the words of its address and
of B, is log 45, the model's choice. -/
def Obligations.LoadAndStoreWords : Prop :=
  ∀ (s : State) (v : View) (w : CastWord),
    let n := accBytes w
    let m := decdalBytes (sizeCode w)
    let store (s : State) (k x : Nat) (t : Thread) : State × LaneRes := (v.storeLane w k x s t, .ok t)
    let release (s : State) : State := if 2 ≤ w.ord ∧ 3 ≤ w.scope then (s.release v.c).1 else s
    let ld := v.settled (.ld w)
    let st := v.settled (.st w)
    (w.space ≠ 6 → v.clear s (.ld w) w (v.access w n n .r) →
      exec (.ld w) s = .next (v.performed w (fun s t => v.loadLane w n (fun t x => .ok (t.setInt w x)) s t) id id)) ∧
    (w.space ≠ 6 → v.clear s (.st w) w (v.access w n n .w) →
      exec (.st w) s = .next (v.performed w (fun s t => store s n (dataB v.g w t (cellsOf w.lc) % 256 ^ n) t) release id)) ∧
    (w.space = 6 → v.clear s (.ld w) w (fun t => planAct (ld.planTexel w t .r)) →
      exec (.ld w) s = .next (ld.performed w (fun s t => ld.texelLoad w s t) id id)) ∧
    (w.space = 6 → v.clear s (.st w) w (fun t => planAct (st.planTexel w t .w)) →
      exec (.st w) s = .next (st.performed w (fun s t => (st.texelStore w s t, .ok t)) release id)) ∧
    ((∀ l ∈ v.active w, (fmtOf 0xC w.lc).prec < prP (v.g.thread l).pr → prXa (v.g.thread l).pr = true) →
      v.clear s (.ldd w) w (v.access w m 2 .r) → exec (.ldd w) s = .next (v.performed w (fun s t => v.loadLane w m (fun t e => v.elemIn w t e) s t) id id)) ∧
    (v.clear s (.std w) w (v.access w m 2 .w) → exec (.std w) s = .next (v.performed w (fun s t =>
      let k := cellsOf w.lc
      let x := t.cells w.b.toNat k
      let mode := rmodeOf (prRm t.pr)
      let rnd := if mode = .sst then draw (v.g.kreg 127) t.g (addrWords v.g w t ++ wordsOf (32 * k) k x) else 0
      let r := roundFV ((decdalFmt m).target mode rnd) ((fmtOf 0xC w.lc).decode x)
      (v.storeLane w m (decdalWrite (sizeCode w) r.v) s t, .ok { t with fpflags := t.fpflags ||| BitVec.ofNat 32 r.flags })) release id))

/-- R164, R166, R167, R181, R182, R192: what the read or write of one lane is: the block's window, or the bytes that the core sees; poison,
in its own copy too, traps and leaves D; a store that the home slice rejects is reported, and the thread goes on (R39). -/
def Obligations.OneLaneReadsAndWrites : Prop :=
  ∀ (v : View) (w : CastWord) (s : State) (t : Thread) (n x : Nat) (put : Thread → Nat → LaneRes),
    let a := addressOf w v.g t
    (∀ c off wd, v.locate t w.space a n = some (.pad c off) → s.window? c v.g.launch v.g.block = some wd → acquiresWide w = false →
      (wd.poisoned off n = false → v.loadLane w n put s t = (s, put t (wd.read off n))) ∧
      (wd.poisoned off n = true → v.loadLane w n put s t = (s, .trap t 0x0D (BitVec.ofNat 64 a)))) ∧
    (∀ va pa, v.locate t w.space a n = some (.glob va) → v.trLoc .r (.glob va) n = .ok [(pa, n)] → w.space ≠ 5 → acquiresWide w = false →
      let bad (sec : Nat) : Prop := s.isFree (32 * sec) = false ∧ match tfind (s.core v.c).l1 sec with
        | some x => x.bad = true ∨ (x.have_ ≠ byteMask 0 32 ∧ sec ∈ s.mem.poison)
        | none => sec ∈ s.mem.poison
      (s.l1Used v.c pa = false → ∀ y, s.homeRead pa n = .ok y → v.loadLane w n put s t = (s.cacheTouch pa n false, put t y)) ∧
      (s.l1Used v.c pa = true → (∀ sec ∈ sectorsOf pa n, ¬ bad sec) →
        v.loadLane w n put s t = ((s.coreRead v.c pa n).1, put t ((s.coreRead v.c pa n).1.coreBytes v.c pa n))) ∧
      (s.l1Used v.c pa = true → (∃ sec ∈ sectorsOf pa n, bad sec) →
        v.loadLane w n put s t = (s, .trap t 0x0D (BitVec.ofNat 64 a)))) ∧
    (∀ c off, v.locate t w.space a n = some (.pad c off) → releasesWide w = false →
      v.storeLane w n x s t = s.mapWindow c v.g.launch v.g.block fun wd => wd.store off n x) ∧
    (∀ va pa, v.locate t w.space a n = some (.glob va) → v.trLoc .w (.glob va) n = .ok [(pa, n)] → releasesWide w = false → x < 256 ^ n →
      v.storeLane w n x s t = (s.coreWrite v.c pa n x (wkindOf w false)).getD
        { s with faultQ := s.faultQ ++ [threadEntry v.g.launch v.c t 0x05 false v.nd.pc (BitVec.ofNat 64 a)] })

/-- R26, R181, R182, R330, R354: a core that stores bytes and loads them again reads what it stored, whether its L1 holds them or not; what
a unit writes at the device point reads back there, and every other byte stays. -/
def Obligations.WhatIsStoredReadsBack : Prop :=
   (∀ (s : State) (c pa n x : Nat),
      0 < n → pa % 32 + n ≤ 32 → s.isHomed pa = true → s.isFree pa = false → s.mem.poisoned pa n = false → s.stateWord pa n = none →
      (∀ y, tfind (s.core c).l1 (pa / 32) = some y → y.bad = false) →
      ∃ t, s.coreWrite c pa n x = some t ∧ (t.coreRead c pa n).2 = .ok (x % 256 ^ n)) ∧
   (∀ (s : State) (pa n x : Nat) (k : WKind), s.isHomed pa = true → s.isFree pa = false → s.stateWord pa n = none →
      ∃ t, s.deviceWrite pa n x k = some t ∧ t.mem.read pa n = x % 256 ^ n ∧ SameBytesBut s t pa n ∧ t.cores = s.cores ∧ t.stoker = s.stoker)

/-- R182, R188, R197, R200-R202, R208, R214: a store, an atomic, a red, a spill and a queue word change no byte of memory but those that they
name (a queue word, whose queue lies in a window, none), those that are dirty in their core's L1, which may be written back at any time, and
those of reds on their way. The words that may trap while they perform are stated of the state in which the whole fragment goes on. -/
def Obligations.StoresChangeTheirBytesOnly : Prop :=
  ∀ (s t : State) (v : View) (w : CastWord) (k : Nat),
    ¬ s.dirtyIn v.c k → ¬ s.redAt k →
    let m := decdalBytes (sizeCode w)
    let only (i : Instr) (stored : Prop) : Prop := s.decodes i v → exec i s = .next t →
      (t.group? v.c v.slot).bind (·.anyNode? v.nd.id) = some v.onward → ¬ stored → t.mem.byte k = s.mem.byte k
    (∀ a : AtomOp, only (.atom a w) (v.storesTo w (accBytes w) k)) ∧ only (.cas w) (v.storesTo w (accBytes w) k) ∧
    (∀ a : RedMemOp, only (.red a w) (v.storesTo w (accBytes w) k)) ∧
    only (.spill w) (∃ l ∈ v.active w, ∃ ps, v.trLoc .w (.glob (spillVa v.l.rec_ (v.g.thread l) (v.g.thread l).top)) ((4 * cellsOf w.lc + 7) / 8 * 8) = .ok ps ∧
      ∃ p ∈ ps, p.1 ≤ k ∧ k < p.1 + p.2) ∧
    only (.qpush w) False ∧ only (.qpop w) False ∧ only (.qpeek w) False ∧
    (w.space ≠ 6 → v.clear s (.st w) w (v.access w (accBytes w) (accBytes w) .w) → exec (.st w) s = .next t → ¬ v.storesTo w (accBytes w) k →
      t.mem.byte k = s.mem.byte k) ∧
    (w.space = 6 → v.clear s (.st w) w (fun t => planAct ((v.settled (.st w)).planTexel w t .w)) → exec (.st w) s = .next t →
      ¬ (v.settled (.st w)).storesTo w 0 k →
      t.mem.byte k = s.mem.byte k) ∧
    (v.clear s (.std w) w (v.access w m 2 .w) → exec (.std w) s = .next t → ¬ v.storesTo w m k → t.mem.byte k = s.mem.byte k) ∧
    (w.space ≠ 6 → v.clear s (.ld w) w (v.access w (accBytes w) (accBytes w) .r) →
      trapsOf (v.inOrder (fun s _ t => v.loadLane w (accBytes w) (fun t x => .ok (t.setInt w x)) s t) (v.active w) s.settleReds).2 = [] →
      exec (.ld w) s = .next t → t.mem.byte k = s.mem.byte k)

/-- R190, R192, R200-R202: atomics read, compute and write at one point; atom and cas give the old value; red gives none, and a plain one on
memory travels to its home slice. -/
def Obligations.AtomicWords : Prop :=
  -- fadd: NaNs and opposite infinities give the canonical NaN, −0 comes of −0 + −0 only, and what roundSum is RoundingRule says
  (∀ (ty : BitVec 4) (n old b : Nat),
    let f := fmtOf ty 0
    let x := f.decode old
    let y := f.decode b
    ((x.isNan || y.isNan) = true ∨ ((x.isInf && y.isInf) = true ∧ x.neg ≠ y.neg) → atomVal .fadd ty n old b = f.canonNan) ∧
    (x.isInf = true → y.isNan = false → (y.isInf = true → x.neg = y.neg) → atomVal .fadd ty n old b = f.encode (.inf x.neg) ∧
      atomVal .fadd ty n b old = f.encode (.inf x.neg)) ∧
    (x.isZero = true → y.isZero = true → atomVal .fadd ty n old b = f.encode (.fin (x.neg && y.neg) 0 0)) ∧
    atomVal .fadd ty n old b = f.encode (roundSum (f.target .rne 0) [x, y]).v) ∧
  (∀ (ty : BitVec 4) (n old b : Nat), atomVal .add ty n old b = (old + b) % 2 ^ n ∧ atomVal .exch ty n old b = b ∧
    atomVal .and ty n old b = old &&& b ∧ atomVal .or ty n old b = old ||| b ∧ atomVal .xor ty n old b = old ^^^ b ∧
    valOf ty n (atomVal .min ty n old b) = min (valOf ty n old) (valOf ty n b) ∧
    valOf ty n (atomVal .max ty n old b) = max (valOf ty n old) (valOf ty n b)) ∧
  ∀ (s : State) (v : View) (w : CastWord),
    let n := accBytes w
    let data (t : Thread) : Nat := dataB v.g w t (cellsOf w.lc) % 256 ^ n
    let release (s : State) : State := if 2 ≤ w.ord ∧ 3 ≤ w.scope then (s.release v.c).1 else s
    let old (cas : Bool) (new : Thread → Nat → Option Nat) (s : State) (t : Thread) : State × LaneRes :=
      let a := addressOf w v.g t
      match v.locate t w.space a n with
      | none => (s, .trap t 0x05 (BitVec.ofNat 64 a))
      | some loc =>
        let r := v.rmw s w cas loc n (new t)
        (if acquiresWide w then v.acquireAt r.1 loc n else r.1, lanePut r.2.1 t a fun x => .ok (t.setCells w.d.toNat (cellsOf w.lc) (extend w.ty (8 * n) x)))
    (∀ m : AtomOp, v.clear s (.atom m w) w (fun t => v.checkAtom w t (decide (m = .add ∨ m = .exch)) false) →
      exec (.atom m w) s = .next (v.performed w (old false fun t x => some (atomVal m w.ty (8 * n) x (data t))) release id)) ∧
    (v.clear s (.cas w) w (fun t => v.checkAtom w t true false) →
      exec (.cas w) s = .next (v.performed w (old true fun t x => if x = data t then some (t.cells w.c.toNat (cellsOf w.lc)) else none) release id)) ∧
    -- one lane whose read is good: its old value in D, the new one in place, and the fragment goes on
    (let performs (i : Instr) (hostOk : Bool) (new : Thread → Nat → Nat) : Prop :=
        ∀ (l : Nat) (loc : Loc) (x : Nat), v.clear s i w (fun t => v.checkAtom w t hostOk false) → v.active w = [l] →
          v.locate (v.g.thread l) w.space (addressOf w v.g (v.g.thread l)) n = some loc → (v.read (release s.settleReds) true loc n).2 = .ok x →
          ∃ t, exec i s = .next t ∧
            t.group? v.c v.slot = some (v.doneGroup w fun _ t => t.setCells w.d.toNat (cellsOf w.lc) (extend w.ty (8 * n) x)) ∧
            (∀ c off, loc = .pad c off → ∃ wd, t.window? c v.g.launch v.g.block = some wd ∧ wd.read off n = new (v.g.thread l) x % 256 ^ n) ∧
            ∀ pa, v.trLoc .rw loc n = .ok [(pa, n)] → s.isHomed pa = true → s.isFree pa = false → s.stateWord pa n = none →
              t.mem.read pa n = new (v.g.thread l) x % 256 ^ n
     (∀ m : AtomOp, performs (.atom m w) (decide (m = .add ∨ m = .exch)) fun t x => atomVal m w.ty (8 * n) x (data t)) ∧
     performs (.cas w) true fun t x => if x = data t then t.cells w.c.toNat (cellsOf w.lc) else x) ∧
    -- plain reds on homed memory are on their way, and their lanes go on, unless the core's own copy holds a marker
    (let clean (pa : Nat) : Prop := ∀ sec ∈ sectorsOf pa n, ∀ x, tfind (s.core v.c).l1 sec = some x → x.bad = false
     (∀ m : RedMemOp, v.clear s (.red m w) w (fun t => v.checkAtom w t (decide (m = .add)) true) → w.ord = 0 →
      (∀ l ∈ v.active w, ∃ va pa, v.locate (v.g.thread l) w.space (addressOf w v.g (v.g.thread l)) n = some (.glob va) ∧
        v.trLoc .rw (.glob va) n = .ok [(pa, n)] ∧ s.isHomed pa = true ∧ clean pa) →
      ∃ t, exec (.red m w) s = .next t ∧ t.group? v.c v.slot = some (v.doneGroup w fun _ t => t)) ∧
    (∀ (m : RedMemOp) (l : Nat) (va pa : Nat), v.clear s (.red m w) w (fun t => v.checkAtom w t (decide (m = .add)) true) → w.ord = 0 → v.active w = [l] →
      v.locate (v.g.thread l) w.space (addressOf w v.g (v.g.thread l)) n = some (.glob va) → v.trLoc .rw (.glob va) n = .ok [(pa, n)] →
      s.isHomed pa = true → clean pa → ∃ t r, exec (.red m w) s = .next t ∧ t.hearth.routers = [r] ∧ r.pa = pa ∧ r.n = n ∧ r.op = m ∧ r.ty = w.ty ∧
        r.val.toNat = data (v.g.thread l) % 2 ^ 64 ∧ r.evict = bits s.cur.word.toNat 40 3 ∧ t.group? v.c v.slot = some (v.doneGroup w fun _ t => t))) ∧
    -- a red on the block's window performs at once; poison traps it
    (∀ (m : RedMemOp) (l c off : Nat) (wd : Window), v.clear s (.red m w) w (fun t => v.checkAtom w t (decide (m = .add)) true) → v.active w = [l] →
      v.locate (v.g.thread l) w.space (addressOf w v.g (v.g.thread l)) n = some (.pad c off) → s.window? c v.g.launch v.g.block = some wd →
      (wd.poisoned off n = false → ∃ t wd', exec (.red m w) s = .next t ∧ t.group? v.c v.slot = some (v.doneGroup w fun _ t => t) ∧
        t.window? c v.g.launch v.g.block = some wd' ∧
        wd'.read off n = atomVal (redAtom m) w.ty (8 * n) (wd.read off n) (data (v.g.thread l)) % 256 ^ n) ∧
      (wd.poisoned off n = true → ∃ t, exec (.red m w) s = .next t ∧
        t = v.finish (release s.settleReds) [(l, .trap (v.g.thread l) 0x0D (BitVec.ofNat 64 (addressOf w v.g (v.g.thread l))))])) ∧
    -- what one read-modify-write leaves
    (∀ (loc : Loc) (cas : Bool) (new : Nat → Option Nat) (x : Nat), (v.read s true loc n).2 = .ok x →
      (new x = none → v.rmw s w cas loc n new = ((v.read s true loc n).1, .ok x, true)) ∧
      (∀ y, new x = some y → (v.rmw s w cas loc n new).2.1 = .ok x ∧
        ((v.write (v.read s true loc n).1 true (wkindOf w cas) loc n y).2 = true →
          (v.rmw s w cas loc n new).1 = v.stamp (v.write (v.read s true loc n).1 true (wkindOf w cas) loc n y).1 loc n)))

/-- R183, R184, R203-R207, R297, R329: fences, marks, queue fences and waits; a wait for a batch that a save instruction holds traps ILLOP. That
an acquire takes the latest epoch there is, and what it invalidates and writes back besides the logged sectors, are logs 50 and 133, the
model's choices. -/
def Obligations.OrderingAndWaitWords : Prop :=
  ∀ (s : State) (v : View) (w : CastWord),
    let on (s : State) (g : Group) : State := s.setGroup v.c v.slot (g.setNode v.onward)
    (s.decodes (.fence w) v → exec (.fence w) s = .next (if v.active w = [] then on s v.g else
      let s := s.settleReds
      let s := if 2 ≤ w.ord ∧ 3 ≤ w.scope then (s.release v.c).1 else s
      on (if (w.ord = 1 ∨ w.ord = 3) ∧ 3 ≤ w.scope then s.acquire v.c (s.hearth.nextEpoch - 1) else s) v.g)) ∧
    (s.decodes (.mark w) v → exec (.mark w) s = .next (if v.active w = [] then on s v.g else on s.settleReds v.g)) ∧
    (s.decodes (.qfence w) v → ∃ fs, exec (.qfence w) s = .next (on s.settleReds { v.g with fences := fs }) ∧
      ∀ q, q ∈ fs ↔ (q ∈ v.g.fences ∨ q = { names := w.mod.extractLsb' 5 3, lanes := v.nd.mask, upTo := (s.core v.c).accepts, rank := v.g.rank }) ∧ q.left v.g = true) ∧
    (∀ m : CmpOp, v.clear s (.waitv m w) w (v.access w (accBytes w) (accBytes w) .r) → v.lanes ≠ [] →
      exec (.waitv m w) s = .next (v.waitStep w m (s.wordOf (.waitv m w)) (v.active w) []) ∧
      -- a lane whose condition holds has its value; until every lane has one, the fragment waits
      (∀ s' vals, v.waitRound w m s.settleReds (v.active w) = (s', vals, [], []) → ∃ t, exec (.waitv m w) s = .next t ∧
        (t.group? v.c v.slot).bind (·.anyNode? v.nd.id) = some v.onward) ∧
      (∀ s' vals left, left ≠ [] → v.waitRound w m s.settleReds (v.active w) = (s', vals, [], left) → v.waitPages w left = [] →
        ∃ t tab, exec (.waitv m w) s = .next t ∧
          t.group? v.c v.slot = some (v.g.setNode { v.nd with st := .waitv (s.wordOf (.waitv m w)) (maskOf left) tab, fatal := [] }))) ∧
    (∀ e : EngineSel, s.decodes (.waitb e w) v →
      let open_ := v.g.openBatch e
      let x : BitVec 16 := if w.a = 0 then w.imm.setWidth 16 else (v.g.kreg w.a.toNat).setWidth 16
      let n : BitVec 16 := if w.modBit 5 = true then open_ - x else x
      let bad : Prop := n = open_ ∨ (1 ≤ (n - open_).toNat ∧ (n - open_).toNat ≤ 32767) ∨ n ∈ v.g.savedBatches e
      (bad → exec (.waitb e w) s = .next (v.trapAll 0x01 0)) ∧
      (¬ bad → s.batchDone v.c v.g e n = true → exec (.waitb e w) s = .next (v.groupDone v.g)) ∧
      (¬ bad → s.batchDone v.c v.g e n = false → exec (.waitb e w) s = .next (v.s.setGroup v.c v.slot (v.g.setNode { v.nd with st := .batch e n, fatal := [] }))))

/-- R208, R213, R214: spills, fills and scratchpad queues. That a push of a 4-byte element keeps the upper half of the slot's value is log 135,
the model's choice. -/
def Obligations.SpillAndQueueWords : Prop :=
  ∀ (s : State) (v : View) (w : CastWord),
    let r := v.l.rec_
    let size : Nat := (4 * cellsOf w.lc + 7) / 8 * 8
    let n := accBytes w
    let translates (need : Need) (a : Nat) : Prop := ∃ ps, v.s.trRange v.c v.g.ctx v.nd.fatal need a size = .ok ps
    let release (s : State) : State := if 2 ≤ w.ord ∧ 3 ≤ w.scope then (s.release v.c).1 else s
    let acquire (s : State) : State := if (w.ord = 1 ∨ w.ord = 3) ∧ 3 ≤ w.scope then s.acquire v.c (s.hearth.nextEpoch - 1) else s
    let queue (tail : Bool) (f : Thread → Nat → Nat → Nat → Thread × Option (Nat × Nat × Nat)) : State :=
      v.performed w (fun s t => (acquire (v.queueLane w tail s t (f t)).1, (v.queueLane w tail s t (f t)).2)) release id
    let full (slot : Nat) : Prop := slot / 2 ^ 64 % 2 = 1
    (∀ limit, s.issues (.spill w) w v → v.g.lsqHeld v.nd.mask = false → (v.active w ≠ [] → { v with s := v.s.settleReds }.spillLimit = ([], limit)) →
      (∀ l ∈ v.active w, (v.g.thread l).top + size ≤ limit ∧ translates .w (spillVa r (v.g.thread l) (v.g.thread l).top)) →
      exec (.spill w) s = .next (v.performed w (fun s t =>
        ((v.write s false {} (.glob (spillVa r t t.top)) size (t.cells w.b.toNat (cellsOf w.lc))).1, .ok { t with top := t.top + size })) id id)) ∧
    (s.issues (.fill w) w v → v.g.lsqHeld v.nd.mask = false →
      (∀ l ∈ v.active w, 16 + size ≤ (v.g.thread l).top ∧ translates .r (spillVa r (v.g.thread l) ((v.g.thread l).top - size))) →
      exec (.fill w) s = .next (v.performed w (fun s t =>
        let a := spillVa r t (t.top - size)
        let x := v.read s false (.glob a) size
        (x.1, lanePut x.2 t a fun y => .ok ({ t with top := t.top - size }.setCells w.d.toNat (cellsOf w.lc) y))) id id)) ∧
    (v.clear s (.qpush w) w (v.access w 16 16 .rw) → exec (.qpush w) s = .next (queue true fun t head tl slot =>
      if full slot then (t.setP w.d.toNat false, none)
      else (t.setP w.d.toNat true,
        some (dataB v.g w t (cellsOf w.lc) % 256 ^ n + slot % 2 ^ 64 / 256 ^ n * 256 ^ n + 2 ^ 64, head, (tl + 1) % 2 ^ 32)))) ∧
    (v.clear s (.qpop w) w (v.access w 16 16 .rw) → exec (.qpop w) s = .next (queue false fun t head tl slot =>
      if full slot then ((t.setCells w.d.toNat (cellsOf w.lc) (slot % 256 ^ n)).setP w.c.toNat true, some (slot % 2 ^ 64, (head + 1) % 2 ^ 32, tl))
      else (t.setP w.c.toNat false, none))) ∧
    (v.clear s (.qpeek w) w (v.access w 16 16 .rw) → exec (.qpeek w) s = .next (queue false fun t _ _ slot =>
      if full slot then ((t.setCells w.d.toNat (cellsOf w.lc) (slot % 256 ^ n)).setP w.c.toNat true, none)
      else (t.setP w.c.toNat false, none)))

/-- R209-R212, R215-R217: k loads, prefetches, cache operations and samples. -/
def Obligations.ConstantCacheAndImageWords : Prop :=
  ∀ (s : State) (v : View) (w : CastWord),
    let n := accBytes w
    let low := v.g.thread (v.lanes.headD 0)
    let a := addressOf w v.g low
    let acquire (s : State) : State := if (w.ord = 1 ∨ w.ord = 3) ∧ 3 ≤ w.scope then s.acquire v.c (s.hearth.nextEpoch - 1) else s
    (∀ loc x, s.decodes (.ldk w) v → v.g.lsqHeld v.nd.mask = false → low.readsBad (.ldk w) = false → v.checkAccess low w.space a n n .r = .ready →
      v.locate low w.space a n = some loc → (v.load s.settleReds w loc n).2 = .ok x →
      ∃ t, exec (.ldk w) s = .next t ∧ t.group? v.c v.slot = some ((v.g.setKcells w.d.toNat (cellsOf w.lc) x).setNode v.onward)) ∧
    (s.decodes (.pref w) v → ∃ t, exec (.pref w) s = .next t ∧ t.group? v.c v.slot = some (v.g.setNode v.onward) ∧ t.launches = s.launches ∧
      (s.hearth.requests ++ s.hearth.routers = [] → t.faultQ = s.faultQ)) ∧
    (∀ m : CacheOp, s.issues (.ccop m w) w v → v.g.lsqHeld v.nd.mask = false →
      (w.modBit 5 = true ∨ ∀ l ∈ v.active w, dataB v.g w (v.g.thread l) 1 ≤ 2 ^ 24) →
      exec (.ccop m w) s = .next (v.finish
        ((v.active w).foldl (fun s l => if w.modBit 5 = true then s.cacheOp v.c m (w.scope == 6) fun _ => true
          else v.ccopLane m w s (v.g.thread l) (dataB v.g w (v.g.thread l) 1)) v.s.settleReds)
        ((v.active w).map fun l => (l, .ok (v.g.thread l))))) ∧
    (let u := v.settled (.smp w)
     v.clear s (.smp w) w (fun t => planAct (u.planSmp w t)) → exec (.smp w) s = .next (u.performed w (fun s t =>
      match u.planSmp w t with
      | .error _ => (s, .ok t)
      | .ok (d, taps, pages) =>
        let r := u.readTaps w d s taps
        let texels := taps.filterMap (·.2)
        let low (as : List Nat) : Nat := as.foldl min (as.headD 0)
        match r.2.1 with
        | .ok _ => (pages.foldl (fun s p => u.feedback s d p) r.1,
          .ok (t.setCells w.d.toNat 4 (packLE 4 ((List.range 4).map fun c => sampleChannel d.fmt c r.2.2))))
        | x => (r.1, lanePut x t (low (texels ++ if d.feedback = 0 then [] else pages.map fun p => d.feedback + p / 8)) fun _ => .ok t)) id id)) ∧
    (let u := v.settled (.smpres w)
     v.clear s (.smpres w) w (fun t => planAct (u.planRes w t)) → exec (.smpres w) s = .next (u.performed w (fun s t =>
      match u.planRes w t with
      | .error _ => (s, .ok t)
      | .ok x => (s, .ok (t.setCells w.d.toNat 1 x))) id acquire))

/-! ### The Crucible and the Ladle: commands -/

/-- R28, R272, R273, R282, R290-R293: a Crucible command. A full queue stalls it; a check of R273 that fails traps its fragment, the checks in
their order (a tile that the group does not own, a mask pair, the operands' form, an address, a bank group); else it takes an entry with what it
captures, under the open batch, and the fragment goes on. -/
def Obligations.CrucibleCommandWords : Prop :=
   (∀ (s : State) (v : View) (w : CastWord), s.box.stage = 4 →
      let h (i : BitVec 11) : BitVec 256 := v.g.handle i.toNat
      let msk : List Nat := if w.modBit 3 = true then [w.c.toNat] else []
      let mskw : List Nat := if w.modBit 3 = true then [w.imm.toNat % 8] else []
      let kv := v.g.kvec w.c.toNat 16
      let blank (i : Instr) : CrucCmd :=
        { word := s.wordOf i, pc := v.nd.pc, batch := v.g.cruc.open_, seq := (s.core v.c).accepts, rm := v.g.cruc.rm, sat := v.g.cruc.sat, ha := 0, hb := 0,
          kv := [], g := v.g.lowG, paired := v.g.cruc.paired, begun := false, prog := 0, beat := 0, beatB := 0, stop := false, held := none, bypass := false,
          done := false, inherited := false, rank := v.g.rank }
      let enters (x : CrucCmd) (t : State) : Prop := (t.core v.c).accepts = (s.core v.c).accepts + 1 ∧
        t.group? v.c v.slot = some ({ v.g with cruc := { v.g.cruc with queue := v.g.cruc.queue ++ [x] } }.setNode v.onward)
      let command (i : Instr) (checks : CrucChecks) (x : CrucCmd) : Prop := s.decodes i v →
        (16 ≤ v.g.cruc.queue.length → exec i s = .next s) ∧
        (v.g.cruc.queue.length < 16 →
          (∀ cause d, v.g.cruc.reject checks = some (cause, d) → exec i s = .next (v.trapAll cause (BitVec.ofNat 64 d))) ∧
          (v.g.cruc.reject checks = none → ∃ t, exec i s = .next t ∧ enters x t))
      command (.mma w) (v.mmaChecks w msk none) { blank (.mma w) with ha := h w.a, hb := h w.b } ∧
      command (.mmaw w) (v.mmaChecks w mskw (some kv)) { blank (.mmaw w) with ha := h w.a, hb := h w.b, kv := kv } ∧
      command (.azero w) { tiles := [w.d.toNat], masks := msk } (blank (.azero w)) ∧
      command (.acopy w) { tiles := [w.d.toNat, w.a.toNat], masks := msk } (blank (.acopy w)) ∧
      command (.aadd w) { tiles := [w.d.toNat, w.a.toNat], masks := msk } (blank (.aadd w)) ∧
      command (.ascl w) { tiles := [w.d.toNat], masks := msk } { blank (.ascl w) with kv := [v.g.kreg w.a.toNat, v.g.kreg w.b.toNat] } ∧
      command (.ald w) (v.moveChecks w w.d.toNat) { blank (.ald w) with ha := h w.a } ∧
      command (.ast w) (v.moveChecks w w.b.toNat) { blank (.ast w) with ha := h w.a } ∧
      (w.modBit 1 = false → command (.mset w) { masks := [w.d.toNat] } { blank (.mset w) with kv := v.g.kvec w.a.toNat 4 }) ∧
      (w.modBit 1 = true → s.decodes (.mset w) v →
        exec (.mset w) s = .next (v.groupDone { v.g with hregs := tset 0 v.g.hregs w.d.toNat (BitVec.ofNat 256 (v.g.kcells w.a.toNat 8)) }))) ∧
   (∀ (x : CrucState) (k : CrucChecks),
      let owned (t : Nat) : Prop := x.tiles.getLsbD t = true ∧ x.relTiles.getLsbD t = false
      let ownedM (m : Nat) : Prop := x.masks.getLsbD m = true ∧ x.relMasks.getLsbD m = false
      (x.reject k = none ↔ (∀ t ∈ k.tiles, owned t) ∧ (∀ m ∈ k.masks, ownedM m) ∧ k.fmt = none ∧ k.access = none ∧ k.bank = none) ∧
      (∀ t, ¬ owned t → k.tiles.head? = some t → x.reject k = some (0x05, 0x100000000 + t)) ∧
      ((∀ t ∈ k.tiles, owned t) → (∀ m, ¬ ownedM m → k.masks.head? = some m → x.reject k = some (0x05, 0x200000000 + m)) ∧
        ((∀ m ∈ k.masks, ownedM m) → (∀ d, k.fmt = some d → x.reject k = some (0x0B, d)) ∧
          (k.fmt = none → (∀ a, k.access = some a → x.reject k = some (0x05, a)) ∧ (k.access = none → ∀ a, k.bank = some a → x.reject k = some (0x0A, a))))))


/-- R30, R264, R265, R278, R279, R294-R296: modes, claims, pairing, commits and drains. What becomes of a release or cunpair that an abort takes
out, and that cpair lets go what a removed cunpair has left, are log 57, the model's choices. -/
def Obligations.CrucibleControlWords : Prop :=
  ∀ (s : State) (v : View) (w : CastWord), s.box.stage = 4 →
    let x := v.g.cruc
    let ts : BitVec 16 := w.imm.extractLsb' 16 16
    let ms : BitVec 8 := w.imm.extractLsb' 8 8
    let setc : Prop := w.imm.getLsbD 5 = true
    let mode (y : CrucState) : CrucState := if w.imm.getLsbD 4 = true then { y with rm := w.imm.toNat % 8, sat := w.imm.getLsbD 3 } else y
    let holds : Prop := x.tiles &&& ~~~x.relTiles ≠ 0 ∨ x.masks &&& ~~~x.relMasks ≠ 0
    -- `y` is the group's Crucible side once a command of `i` with cells `kv` is in its queue
    let queued (i : Instr) (kv : List Word) (y : CrucState) (t : State) : Prop :=
      ∃ q, q.word = s.wordOf i ∧ q.pc = v.nd.pc ∧ q.batch = x.open_ ∧ q.kv = kv ∧ q.done = false ∧
        t.group? v.c v.slot = some ({ v.g with cruc := { y with queue := x.queue ++ [q] } }.setNode v.onward)
    let waits (t : State) : Prop := t.group? v.c v.slot = some (v.g.setNode { v.nd with st := .claim, fatal := [] })
    -- the mode word is well formed (R294)
    let legal : Prop := w.imm &&& 0xC0 = 0 ∧ (w.imm &&& 7).toNat ≤ 4 ∧ (setc ∨ w.imm >>> 8 = 0) ∧ (w.imm.getLsbD 4 = true ∨ w.imm &&& 0xF = 0)
    -- the traps of words that claim drop what their fragment asked for, if anything
    (∀ cause d, (∀ k ∈ [v.c, partner v.c], ∀ q ∈ (s.core k).claims, q.slot = v.slot → q.node ≠ v.nd.id) → s.decodes (.cmode w) v →
      v.trapClaim cause d = v.trapAll cause d) ∧
    (s.decodes (.cmode w) v → x.queue.length < 16 → ¬ legal → exec (.cmode w) s = .next (v.trapAll 0x01 0)) ∧
    (s.decodes (.cmode w) v → x.queue.length < 16 → legal →
      (¬ setc → ∃ t, exec (.cmode w) s = .next t ∧ queued (.cmode w) [] (mode x) t) ∧
      -- a release frees, at its beat, what the group owns and no release before it frees
      (setc → ts = 0 → ms = 0 → x.paired = false → ∃ t a b, exec (.cmode w) s = .next t ∧
        queued (.cmode w) [a, b] (mode { x with relTiles := x.tiles, relMasks := x.masks }) t ∧
        (∀ i < 16, a.getLsbD i = true ↔ x.tiles.getLsbD i = true ∧ ∀ q ∈ x.queue, (cmodeRec q.word.toNat).isSome = true → (q.kv.getD 0 0).getLsbD i = false) ∧
        (∀ i < 8, b.getLsbD i = true ↔ x.masks.getLsbD i = true ∧ ∀ q ∈ x.queue, (cmodeRec q.word.toNat).isSome = true → (q.kv.getD 1 0).getLsbD i = false)) ∧
      (setc → ts = 0 → ms = 0 → x.paired = true → exec (.cmode w) s = .next (v.trapAll 0x01 0)) ∧
      (setc → (ts ≠ 0 ∨ ms ≠ 0) → (holds ∨ x.paired = true) → exec (.cmode w) s = .next (v.trapClaim 0x01 0)) ∧
      -- the indices are free and nobody waits: the claim is granted, with tiles of zeros and masks of ones
      (setc → (ts ≠ 0 ∨ ms ≠ 0) → ¬ holds → x.paired = false → (s.core v.c).claims = [] → s.claimFree v.c ts ms = true →
        ∃ t, exec (.cmode w) s = .next t ∧ queued (.cmode w) [] (mode { x with tiles := x.tiles ||| ts, masks := x.masks ||| ms }) t ∧
          (∀ i < 16, ts.getLsbD i = true → tfind (t.core v.c).tileOwner i = some v.slot ∧ tget [] (t.core v.c).tiles i = []) ∧
          (∀ i < 8, ms.getLsbD i = true → tfind (t.core v.c).maskOwner i = some v.slot ∧ tget 0 (t.core v.c).masks i = BitVec.allOnes 128)) ∧
      (setc → (ts ≠ 0 ∨ ms ≠ 0) → ¬ holds → x.paired = false → (s.core v.c).claims = [] → s.claimFree v.c ts ms = false →
        ∃ t, exec (.cmode w) s = .next t ∧ waits t ∧
          (t.core v.c).claims = [{ slot := v.slot, node := v.nd.id, tiles := ts, masks := ms, forCore := none, granted := false, word := s.cur.word }])) ∧
    -- the partner's indices are free, those that a removed cunpair has left with the group counted: they are the group's
    (s.decodes .cpair v → x.queue.length < 16 → holds → x.paired = false → (s.core (partner v.c)).claims = [] →
      let s' := if (x.queue.any fun q => decodeCast q.word == some .cunpair) = true then s else s.freePartner v.c v.slot
      s'.claimFree (partner v.c) (x.tiles &&& ~~~x.relTiles) (x.masks &&& ~~~x.relMasks) = true →
      ∃ t, exec .cpair s = .next t ∧ queued .cpair [] { x with paired := true } t ∧
        (∀ i < 16, (x.tiles &&& ~~~x.relTiles).getLsbD i = true → tfind (t.core (partner v.c)).tileOwner i = some (1000 + v.slot)) ∧
        (∀ i < 8, (x.masks &&& ~~~x.relMasks).getLsbD i = true → tfind (t.core (partner v.c)).maskOwner i = some (1000 + v.slot))) ∧
    (s.decodes .cpair v → x.queue.length < 16 → (¬ holds ∨ x.paired = true) → exec .cpair s = .next (v.trapClaim 0x01 0)) ∧
    (s.decodes .cunpair v → x.queue.length < 16 → x.paired = true → ∃ t, exec .cunpair s = .next t ∧ queued .cunpair [] { x with paired := false } t) ∧
    (s.decodes .cunpair v → x.queue.length < 16 → x.paired = false → exec .cunpair s = .next (v.trapAll 0x01 0)) ∧
    (s.decodes .ccommit v → (8 ≤ x.closed.length → exec .ccommit s = .next s) ∧
      (x.closed.length < 8 → exec .ccommit s = .next (v.groupDone { v.g with cruc := { x with closed := x.closed ++ [x.open_], open_ := x.open_ + 1 } }))) ∧
    (s.decodes (.cdrain w) v → x.closed.length < 8 → w.modBit 1 = false → exec (.cdrain w) s = .next (v.s.setGroup v.c v.slot
      ({ v.g with cruc := { x with closed := x.closed ++ [x.open_], open_ := x.open_ + 1 } }.setNode { v.nd with st := .batch .cruc x.open_, fatal := [] }))) ∧
    -- ABORT: the commands that have begun stop at their next boundary, every other one is gone
    (s.decodes (.cdrain w) v → x.closed.length < 8 → w.modBit 1 = true → exec (.cdrain w) s = .next (v.s.setGroup v.c v.slot
      ({ v.g with cruc := { x with queue := (x.queue.filter fun (q : CrucCmd) => q.begun).map fun (q : CrucCmd) => { q with stop := true }, closed := x.closed ++ [x.open_],
                                   open_ := x.open_ + 1 } }.setNode { v.nd with st := .batch .cruc x.open_, fatal := [] })))

/-- R283-R285, R297, R319-R321, R329: the images that csave and lsave write and crest and lrest read. A save writes the header, the data and
the records from its address upward, and leaves the engine's side of the group empty; a restore leaves the claims, the data, the mode, the batch
and the commands of the image. The order of the tiles of a pair is the group's own core's, then its partner's. That a bad crest record has a
DETAIL of 0 (log 65), and that lrest waits while the buffer has no room (log 71), are the model's choices. -/
def Obligations.ImageWords : Prop :=
  -- what an image holds (R284): the header, each tile row by row, each mask pair, each command that is not done
  (∀ (s : State) (c : Nat) (g : Group), g.cruc.rm ≤ 4 →
    let x := g.cruc
    let q := x.queue.filter fun y => !y.done
    let cs := if g.pairHeld = true then [c, partner c] else [c]
    let ts := (setBits x.tiles.toNat 16).flatMap fun t => cs.map fun k => (t, k)
    let ms := (setBits x.masks.toNat 8).flatMap fun m => cs.map fun k => (m, k)
    let img := s.crucImage c g
    (∃ hd, img[0]? = some (64, hd) ∧ bits hd 0 16 = x.tiles.toNat ∧ bits hd 16 8 = x.masks.toNat ∧ (bits hd 24 1 = 1 ↔ g.pairHeld = true) ∧
      bits hd 25 7 = 0 ∧ bits hd 32 3 = x.rm ∧ (bits hd 35 1 = 1 ↔ x.sat = true) ∧ bits hd 36 4 = 0 ∧ (q.length ≤ 16 → bits hd 40 8 = q.length ∧
      bits hd 48 16 = x.open_.toNat)) ∧
    img.length = 1 + ts.length + ms.length + q.length ∧
    (∀ (i t k : Nat), ts[i]? = some (t, k) → ∃ y, img[1 + i]? = some (16384, y) ∧ ∀ j < 4096, bits y (32 * j) 32 = (s.acc k t (j / 64) (j % 64)).toNat) ∧
    (∀ (i m k : Nat), ms[i]? = some (m, k) → img[1 + ts.length + i]? = some (16, (tget 0 (s.core k).masks m).toNat)) ∧
    (∀ (i : Nat) (y : CrucCmd), q[i]? = some y → y.rm ≤ 4 → ∃ r, img[1 + ts.length + ms.length + i]? = some (160, r) ∧ bits r 0 128 = y.word.toNat ∧
      bits r 128 16 = y.batch.toNat ∧ bits r 144 3 = y.rm ∧ (bits r 147 1 = 1 ↔ y.sat = true) ∧ (bits r 152 1 = 1 ↔ y.begun = true) ∧
      bits r 160 32 = y.prog % 2 ^ 32 ∧ bits r 256 256 = y.ha.toNat ∧ bits r 512 256 = y.hb.toNat ∧
      (cmodeRec y.word.toNat = none → ∀ n < 16, bits r (768 + 32 * n) 32 = (y.kv.getD n 0).toNat))) ∧
  (∀ (g : Group) (i : Nat) (y : LadleCmd), (g.ladle.queue.filter fun y => !y.done)[i]? = some y → y.desc.length = 16 → y.srcCore < 2 ^ 16 → y.srcG < 2 ^ 64 → y.prog < 2 ^ 48 →
    ∃ hd r, (ladleImage g)[0]? = some (64, hd) ∧ (g.ladle.queue.length ≤ 16 → bits hd 0 8 = (g.ladle.queue.filter fun y => !y.done).length ∧
      bits hd 16 16 = g.ladle.open_.toNat) ∧ (ladleImage g)[1 + i]? = some (128, r) ∧ bits r 0 128 = y.word.toNat ∧ bits r 128 16 = y.batch.toNat ∧
      bits r 160 16 = y.srcCore ∧ (bits r 145 1 = 1 ↔ y.sent = true) ∧ (y.sent = true → bits r 192 48 = y.prog) ∧ (∀ n < 16, bits r (256 + 32 * n) 32 = (y.desc.getD n 0).toNat) ∧ bits r 768 64 = y.srcG) ∧
  ∀ (s : State) (v : View) (w : CastWord),
    let a := v.g.kcells w.a.toNat 2
    let u := { v with s := s.settleReds }
    let reads (n x : Nat) : Prop := (globLoc a n).isSome = true ∧ (∃ ps, u.trLoc .r (.glob a) n = .ok ps) ∧ u.peek (.glob a) n = .ok x
    let n := imageLen (setBits v.g.cruc.tiles.toNat 16).length (setBits v.g.cruc.masks.toNat 8).length v.g.pairHeld
      (v.g.cruc.queue.filter fun y => !y.done).length
    let m := 64 + 128 * (v.g.ladle.queue.filter fun y => !y.done).length
    -- the pieces of an image are written one after the other from `a` upward, and nothing else is
    let wrote (s1 : State) (img : List (Nat × Nat)) (t : State) : Prop :=
      let w1 := (img.foldl (fun (e : State × Nat) y => ((v.write e.1 false {} (.glob e.2) y.1 y.2).1, e.2 + y.1)) (s1, a)).1
      t.mem = w1.mem ∧ (∀ k, (t.core k).l1 = (w1.core k).l1) ∧
      -- no byte of memory changes but those of the pieces, and those dirty in the core's L1, which may be written back
      ∀ k, ¬ s1.dirtyIn v.c k → (∀ i y ps, img[i]? = some y → v.trLoc .w (.glob (a + ((img.take i).map (·.1)).sum)) y.1 = .ok ps →
        ∀ p ∈ ps, k < p.1 ∨ p.1 + p.2 ≤ k) → t.mem.byte k = s1.mem.byte k
    (s.box.stage = 4 → s.decodes (.csave w) v →
      (a % 64 ≠ 0 → exec (.csave w) s = .next (v.trapAll 0x04 (BitVec.ofNat 64 a))) ∧
      -- every begun command runs to its boundary first (R283)
      (a % 64 = 0 → (globLoc a n).isSome = true → (∃ ps, v.trLoc .w (.glob a) n = .ok ps) →
        let s1 := s.settleReds.runToBoundary v.c v.slot 2048
        ((∀ q, v.g.cruc.queue.head? = some q → q.done = true ∨ (q.beat = 0 ∧ q.beatB = 0)) → s1 = s.settleReds) ∧
        ∃ (t : State) (g1 g : Group), exec (.csave w) s = .next t ∧ s1.group? v.c v.slot = some g1 ∧ wrote s1 (s1.crucImage v.c g1) t ∧
          t.group? v.c v.slot = some (g.setNode v.onward) ∧ g.cruc.queue = [] ∧ g.cruc.tiles = 0 ∧ g.cruc.masks = 0 ∧ g.cruc.paired = false ∧
          g.cruc.open_ = g1.cruc.open_ ∧ (∀ e ∈ (t.core v.c).tileOwner, g1.cruc.tiles.getLsbD e.1 = true → e.2 ≠ v.slot) ∧
          (g1.pairHeld = true → ∀ e ∈ (t.core (partner v.c)).tileOwner, g1.cruc.tiles.getLsbD e.1 = true → e.2 ≠ 1000 + v.slot))) ∧
    (∀ hd h img, s.box.stage = 4 → s.decodes (.crest w) v → a % 64 = 0 → v.g.cruc.holds = false → v.g.cruc.queue = [] → reads 64 hd →
      crucHeader hd = some h → reads h.len img →
      let recs := (List.range h.ncmd).map fun i => bits img (8 * (h.recAt + 160 * i)) (8 * 160)
      let cs := if h.paired = true then [v.c, partner v.c] else [v.c]
      let ts := (setBits h.tiles.toNat 16).flatMap fun t => cs.map fun k => (t, k)
      let ms := (setBits h.masks.toNat 8).flatMap fun m => cs.map fun k => (m, k)
      ((∃ r ∈ recs, recordOk r = false) → exec (.crest w) s = .next (u.trapClaim 0x0B 0)) ∧
      ((∀ r ∈ recs, recordOk r = true) → claimsAgree h recs = false → exec (.crest w) s = .next (u.trapClaim 0x0B 0)) ∧
      ((∀ r ∈ recs, recordOk r = true) → claimsAgree h recs = true → (∀ k ∈ cs, (u.s.core k).claims = [] ∧ u.s.claimFree k h.tiles h.masks = true) →
        ∃ (t : State) (g : Group), exec (.crest w) s = .next t ∧ t.group? v.c v.slot = some (g.setNode v.onward) ∧ g.cruc.tiles = h.tiles ∧
          g.cruc.masks = h.masks ∧ g.cruc.open_ = h.batch ∧ g.cruc.rm = h.rm ∧ g.cruc.sat = h.sat ∧ g.cruc.queue.length = h.ncmd ∧
          (∀ (i r : Nat), recs[i]? = some r → ∃ q, g.cruc.queue[i]? = some q ∧ q.word = BitVec.ofNat 128 r ∧ q.batch = BitVec.ofNat 16 (bits r 128 16) ∧
            q.begun = (bits r 152 1 == 1) ∧ q.prog = bits r 160 32 ∧ q.ha = BitVec.ofNat 256 (bits r 256 256) ∧ q.hb = BitVec.ofNat 256 (bits r 512 256) ∧
            q.done = false) ∧
          (∀ (i tile k : Nat), ts[i]? = some (tile, k) → ∀ j < 4096,
            t.acc k tile (j / 64) (j % 64) = BitVec.ofNat 32 (bits img (8 * (64 + 16384 * i) + 32 * j) 32)) ∧
          (∀ (i mask k : Nat), ms[i]? = some (mask, k) →
            tget 0 (t.core k).masks mask = BitVec.ofNat 128 (bits img (8 * (64 + 16384 * ts.length + 16 * i)) 128)) ∧
          (∀ k ∈ cs, ∀ i < 16, h.tiles.getLsbD i = true → tfind (t.core k).tileOwner i = some (if k = v.c then v.slot else 1000 + v.slot)))) ∧
    (s.decodes (.lsave w) v →
      (a % 64 ≠ 0 → exec (.lsave w) s = .next (v.trapAll 0x04 (BitVec.ofNat 64 a))) ∧
      (a % 64 = 0 → (globLoc a m).isSome = true → (∃ ps, v.trLoc .w (.glob a) m = .ok ps) → ∃ (t : State) (g : Group), exec (.lsave w) s = .next t ∧
        wrote s.settleReds (ladleImage v.g) t ∧ t.group? v.c v.slot = some (g.setNode v.onward) ∧ g.ladle.queue = [] ∧ g.ladle.open_ = v.g.ladle.open_)) ∧
    (∀ hd img, s.decodes (.lrest w) v → a % 64 = 0 → v.g.ladle.queue = [] → reads 64 hd → ladleHeadBad hd = none → reads (64 + 128 * (hd % 256)) img →
      (∀ i < hd % 256, ladleRecBad (bits img (512 + 1024 * i) 1024) s.tick.toNat = none) →
      -- it waits while the core's buffer has no room, and goes on once it has
      (256 < (u.s.core v.c).buffered + hd % 256 → exec (.lrest w) s = .next (s.settleReds.setGroup v.c v.slot
        (v.g.setNode { v.nd with st := .room (hd % 256), fatal := [] }))) ∧
      ((u.s.core v.c).buffered + hd % 256 ≤ 256 →
        ∃ (t : State) (g : Group), exec (.lrest w) s = .next t ∧ t.group? v.c v.slot = some (g.setNode v.onward) ∧ g.ladle.open_ = BitVec.ofNat 16 (bits hd 16 16) ∧
          g.ladle.queue.length = hd % 256 ∧
          ∀ i < hd % 256, ∃ q, g.ladle.queue[i]? = some q ∧
            let r := bits img (512 + 1024 * i) 1024
            q.word = BitVec.ofNat 128 r ∧ q.batch = BitVec.ofNat 16 (bits r 128 16) ∧ q.srcCore = bits r 160 16 ∧ q.srcG = bits r 768 64 ∧
            q.begun = (bits r 144 1 == 1) ∧ q.prog = bits r 192 48 ∧ q.desc = (List.range 16).map fun n => BitVec.ofNat 32 (bits r (256 + 32 * n) 32)))

/-- R298, R303-R305, R325-R328: a Ladle command. A full queue or buffer stalls it; a descriptor that breaks a rule traps with its lowest
failing cell; else it takes its entries with its descriptor, whose TIME is made absolute, and the fragment goes on. -/
def Obligations.LadleCommandWords : Prop :=
  ∀ (s : State) (v : View) (w : CastWord),
    let kv := v.g.kvec w.a.toNat 16
    let tick := s.tick.toNat
    let time : Nat := if w.modBit 1 = true then (tick + (descOf kv).time) % 2 ^ 64 else (descOf kv).time
    let desc := (kv.set 4 (BitVec.ofNat 32 time)).set 5 (BitVec.ofNat 32 (time / 2 ^ 32))
    let cmd (i : Instr) : LadleCmd :=
      { word := s.wordOf i, pc := v.nd.pc, batch := v.g.ladle.open_, desc := desc, seq := (s.core v.c).accepts, srcCore := v.c, srcG := v.g.lowG,
        started := false, begun := false, sent := false, sentIn := 0, prog := 0, bypass := false, parked := none, fatal := [], done := false, inherited := false,
        rank := v.g.rank }
    let full : Prop := 16 ≤ v.g.ladle.queue.length ∨ 256 ≤ (s.core v.c).buffered
    let access (k : LKind) : Option Nat := if k = .cont then none else s.ladleAccess v.c v.g.launch v.g.block k (descOf kv)
    let command (i : Instr) (k : LKind) : Prop := s.decodes i v →
      (full → exec i s = .next s) ∧
      (¬ full →
        (∀ cell, ladleCell k kv tick time = some cell → exec i s = .next (v.trapAll 0x0C (BitVec.ofNat 64 cell))) ∧
        (ladleCell k kv tick time = none →
          (∀ a, access k = some a → exec i s = .next (v.trapAll 0x05 (BitVec.ofNat 64 a))) ∧
          (access k = none → ∃ t, exec i s = .next t ∧ (t.core v.c).accepts = (s.core v.c).accepts + 1 ∧
            t.group? v.c v.slot = some ({ v.g with ladle := { v.g.ladle with queue := v.g.ladle.queue ++ [cmd i] } }.setNode v.onward))))
    command (.lcopy w) .copy ∧ command (.lfill w) .fill ∧ command (.lgat w) .gat ∧ command (.lredArr w) .arr ∧ command (.lredOrd w) .ord ∧
    command (.lcont w) .cont ∧
    (s.decodes .lcommit v → (8 ≤ v.g.ladle.closed.length → exec .lcommit s = .next s) ∧ (v.g.ladle.closed.length < 8 →
      exec .lcommit s = .next (v.groupDone { v.g with ladle := { v.g.ladle with closed := v.g.ladle.closed ++ [v.g.ladle.open_], open_ := v.g.ladle.open_ + 1 } }))) ∧
    (s.decodes .lcancel v → ∃ t, exec .lcancel s = .next t ∧
      t.group? v.c v.slot = some ({ v.g with ladle := { v.g.ladle with queue := v.g.ladle.queue.filter fun x => x.begun || x.done } }.setNode v.onward))

/-! ### The Stoker -/

/-- R364, R369, R386, R387: scalar and control-flow words of a lane. That the word at which PC would pass the end of the image faults, an
untaken br too, is log 89, the model's choice. -/
def Obligations.StokerScalarWords : Prop :=
  ∀ (s : State) (l : Nat) (xd xa xb : BitVec 4) (b : XOperand), s.atLane l →
    let k := s.lane l
    let x := k.xr xa
    let y : DWord := match b with | .reg r => k.xr r | .imm v => v.signExtend 64
    let sets (n : Nat) (v : DWord) : Out := .next (s.setLane l ((k.setX xd v).past n))
    exec .stokerNop s = .next (s.lanePast l 1) ∧
    (∀ v : BitVec 44, exec (.ldi xd (.short v)) s = sets 1 (v.signExtend 64)) ∧
    (∀ v : DWord, exec (.ldi xd (.long v)) s = sets 2 v) ∧
    exec (.stokerAdd xd xa b) s = sets 1 (x + y) ∧ exec (.stokerSub xd xa b) s = sets 1 (x - y) ∧
    exec (.stokerAnd xd xa b) s = sets 1 (x &&& y) ∧ exec (.stokerOr xd xa b) s = sets 1 (x ||| y) ∧ exec (.stokerXor xd xa b) s = sets 1 (x ^^^ y) ∧
    exec (.stokerShl xd xa b) s = sets 1 (x <<< (y.toNat % 64)) ∧ exec (.stokerShr xd xa b) s = sets 1 (x >>> (y.toNat % 64)) ∧
    (∀ (c : BrCond) (off : Word),
      let holds : Prop := match c with
        | .always => True | .z => x = 0 | .nz => x ≠ 0 | .lt => x.toNat < (k.xr xb).toNat | .ge => (k.xr xb).toNat ≤ x.toNat
      let dest := k.pc + off.signExtend 64 * 8
      (k.inRing → exec (.stokerBr c xa xb off) s = .next (s.laneFault l 6 (cmdWord (.stokerBr c xa xb off)))) ∧
      -- the word after the branch, too, lies in the firmware's image (R360)
      (¬ k.inRing → ¬ holds → (l < 30 ∨ (k.pc + 8).toNat < s.codeLen) → exec (.stokerBr c xa xb off) s = .next (s.lanePast l 1)) ∧
      (¬ k.inRing → ¬ holds → 30 ≤ l → s.codeLen ≤ (k.pc + 8).toNat → exec (.stokerBr c xa xb off) s = .next (s.laneFault l 3 (k.pc + 8).toNat)) ∧
      (¬ k.inRing → holds → (l < 30 ∨ dest.toNat < s.codeLen) → exec (.stokerBr c xa xb off) s = .next (s.setLane l { k.past 1 with pc := dest })) ∧
      (¬ k.inRing → holds → 30 ≤ l → s.codeLen ≤ dest.toNat → exec (.stokerBr c xa xb off) s = .next (s.laneFault l 3 dest.toNat))) ∧
    (∀ a : DWord,
      (a.toNat % 8 ≠ 0 → exec (.callb a) s = .next (s.laneFault l 4 a.toNat)) ∧
      (a.toNat % 8 = 0 → 2 ≤ k.rstack.length → exec (.callb a) s = .next (s.laneFault l 6 (cmdWord (.callb a)))) ∧
      (a.toNat % 8 = 0 → k.rstack.length < 2 → (l < 30 ∨ a.toNat < s.codeLen) →
        (∀ q, k.queue = some q → k.pc = 0 → exec (.callb a) s = .next (s.setLane l { k.past 2 with pc := a, rstack := k.rstack ++ [BitVec.ofNat 64 (s.ringBase q + 8 * ((k.get.toNat + 2) % s.ringLen q))] })) ∧
        (¬ k.inRing → exec (.callb a) s = .next (s.setLane l { k.past 2 with pc := a, rstack := k.rstack ++ [k.pc + 16] })))) ∧
    (k.rstack = [] → exec .retb s = .next (s.laneFault l 6 (cmdWord .retb))) ∧
    -- the outermost return of a queue goes back to the ring, at GET; any other to the address that its callb kept
    (∀ a rest, k.rstack = rest ++ [a] → (l < 30 ∨ (k.queue = none ∧ a.toNat < s.codeLen)) →
      exec .retb s = .next (s.setLane l { k.fresh with rstack := rest, pc := if k.queue.isSome = true ∧ rest = [] then 0 else a })) ∧
    exec .yieldq s = .next (if 30 ≤ l then s.lanePast l 1
      else { s.lanePast l 1 with agenda := .event .queueUnmap (.unmap l .quantum) :: s.agenda })

/-- R365, R388, R389, R396: the memory words of a lane. A misaligned address is a MISALIGN fault, an absent page parks the queue, and else the
word reads or writes at the device point, and no byte but those that it stores to changes. What a copy checks before its first element
(log 153), and that present writes a word that lies in no registered set all the same (log 87), are the model's choices, as is the code of a
copy length that R388 does not admit (log 162). -/
def Obligations.StokerMemoryWords : Prop :=
  ∀ (s : State) (l : Nat), s.atLane l →
    let k := s.lane l
    (∀ (f : MemFlags) (a x : DWord) (r : BitVec 4) (ps : List (Nat × Nat)),
      let n : Nat := if f.w64 then 8 else 4
      let kind : WKind := { rel := f.ordered }
      let w := s.laneWalk l .w a.toNat n
      let t := s.laneTouch l .r a.toNat n
      (a.toNat % n ≠ 0 → ∀ i ∈ [Instr.write f a x, .stx f r a, .ldx f r a], exec i s = .next (s.laneFault l 4 a.toNat)) ∧
      (a.toNat % n = 0 → f.w64 = false → 2 ^ 32 ≤ x.toNat → exec (.write f a x) s = .next (s.laneFault l 1 (cmdWord (.write f a x)))) ∧
      (a.toNat % n = 0 → s.laneTr l .w a.toNat n = .ok ps →
        ((f.w64 = true ∨ x.toNat < 2 ^ 32) → (w.writeHome kind ps x.toNat).2 = true →
          exec (.write f a x) s = .next ((w.writeHome kind ps x.toNat).1.lanePast l 3)) ∧
        (let y := (k.xr r).toNat % 256 ^ n;
          (w.writeHome kind ps y).2 = true → exec (.stx f r a) s = .next ((w.writeHome kind ps y).1.lanePast l 2))) ∧
      (∀ y, a.toNat % n = 0 → s.laneTr l .r a.toNat n = .ok ps → s.readHome ps = .ok y →
        exec (.ldx f r a) s = .next (t.setLane l ((k.setX r (BitVec.ofNat 64 y)).past 2))) ∧
      (a.toNat % n = 0 → s.laneTr l .r a.toNat n = .ok ps → s.readHome ps = .poison →
        exec (.ldx f r a) s = .next (t.laneFault l 7 (s.poisonAt a.toNat n ps))) ∧
      (∀ va, a.toNat % n = 0 → s.laneTr l .r a.toNat n = .park va → exec (.ldx f r a) s = .next (t.laneParks l .r va)) ∧
      (∀ va, a.toNat % n = 0 → s.laneTr l .w a.toNat n = .park va → exec (.stx f r a) s = .next (w.laneParks l .w va))) ∧
    -- a write changes no byte outside the physical parts that it is given
    (∀ (kind : WKind) (ps : List (Nat × Nat)) (x b : Nat), (∀ p ∈ ps, b < p.1 ∨ p.1 + p.2 ≤ b) →
      (s.writeHome kind ps x).1.mem.byte b = s.mem.byte b) ∧
    -- a lane's walks and reads fill and touch lines of the Hearth and change nothing else (R332, R341)
    (∀ (need : Need) (a n : Nat), ∀ t ∈ [s.laneWalk l need a n, s.laneTouch l need a n], t = { s with hearth := t.hearth } ∧
      t.hearth = { s.hearth with l2 := t.hearth.l2, hearthLines := t.hearth.hearthLines, touches := t.hearth.touches }) ∧
    -- copy goes on in chunks that end at multiples of 4 KiB of progress; an element that cannot be copied stops it before any is
    (∀ (dst src len : DWord),
      let go (t : State) (upTo : Nat) : State :=
        if len.toNat ≤ upTo then t.lanePast l 4 else t.setLane l { t.lane l with prog := upTo, st := .copying }
      let b := min len.toNat ((k.prog / 4096 + 1) * 4096)
      let aligned : Prop := dst.toNat % 4 = 0 ∧ src.toNat % 4 = 0
      let good : Prop := aligned ∧ len.toNat % 4 = 0 ∧ len.toNat ≤ 2 ^ 20
      let walks := (s.laneWalk l .r (src.toNat + k.prog) (len.toNat - k.prog)).laneWalk l .w (dst.toNat + k.prog) (len.toNat - k.prog)
      let stops := s.copyStop l dst.toNat src.toNat k.prog len.toNat
      (dst.toNat % 4 ≠ 0 → exec (.copy dst src len) s = .next (s.laneFault l 4 dst.toNat)) ∧
      (dst.toNat % 4 = 0 → src.toNat % 4 ≠ 0 → exec (.copy dst src len) s = .next (s.laneFault l 4 src.toNat)) ∧
      (aligned → (len.toNat % 4 ≠ 0 ∨ 2 ^ 20 < len.toNat) → exec (.copy dst src len) s = .next (s.laneFault l 1 (cmdWord (.copy dst src len)))) ∧
      (good → len.toNat ≤ k.prog → exec (.copy dst src len) s = .next ((walks.laneTouch l .r (src.toNat + k.prog) 0).lanePast l 4)) ∧
      (∀ stop, good → stops = some stop → exec (.copy dst src len) s = .next (stop walks)) ∧
      (∀ (rs ws : List (Nat × Nat)) (y : Nat), good → k.prog % 4 = 0 → b = k.prog + 4 →
        s.laneTr l .r (src.toNat + k.prog) 4 = .ok rs → s.readHome rs = .ok y → s.laneTr l .w (dst.toNat + k.prog) 4 = .ok ws →
        (len.toNat = b → stops = none) ∧
        let u := walks.laneTouch l .r (src.toNat + k.prog) 4
        (stops = none → (u.writeHome {} ws y).2 = true → exec (.copy dst src len) s = .next (go (u.writeHome {} ws y).1 b))) ∧
      -- a whole chunk, where what it writes lies apart from what it reads and from the tables that translate it
      (∀ (ra wa : Nat → Nat),
        let es := (List.range ((b - k.prog) / 4)).map (k.prog / 4 + ·)
        let apart (x y : Nat) : Prop := x + 4 ≤ y ∨ y + 4 ≤ x
        good → k.prog % 4 = 0 → k.prog < len.toNat → stops = none →
        (∀ e ∈ es, ∀ a ∈ [ra e, wa e], s.isHomed a = true ∧ s.isHomed (a + 3) = true ∧ s.isFree a = false ∧ s.isFree (a + 3) = false ∧
          s.mem.poisoned a 4 = false ∧ s.stateWord a 4 = none) →
        (∀ e ∈ es, ∀ e' ∈ es, apart (ra e) (wa e') ∧ (e ≠ e' → apart (wa e) (wa e'))) →
        (∀ t : State, t = { s with mem := t.mem, hearth := t.hearth } → t.mem.poison = s.mem.poison → t.hearth.freeFrames = s.hearth.freeFrames →
          (∀ j, (∀ e ∈ es, j < wa e ∨ wa e + 4 ≤ j) → t.mem.byte j = s.mem.byte j) →
          ∀ e ∈ es, t.laneTr l .r (src.toNat + 4 * e) 4 = .ok [(ra e, 4)] ∧ t.laneTr l .w (dst.toNat + 4 * e) 4 = .ok [(wa e, 4)]) →
        ∃ t : State, exec (.copy dst src len) s = .next (go t b) ∧ t = { s with mem := t.mem, hearth := t.hearth } ∧
          (∀ e ∈ es, t.mem.read (wa e) 4 = s.mem.read (ra e) 4) ∧
          ∀ j, (∀ e ∈ es, j < wa e ∨ wa e + 4 ≤ j) → t.mem.byte j = s.mem.byte j)) ∧
    (∀ (m : CacheOp) (a len : DWord), len.toNat ≤ 2 ^ 30 →
      let b := min len.toNat ((k.prog / 4096 + 1) * 4096)
      let t := (pieces (a.toNat + k.prog) (b - k.prog)).foldl (fun (t : State) (p : Nat × Nat) =>
        match t.laneTr l .r p.1 p.2 with
        | .ok ps => ps.foldl (fun t q => t.cacheAll m q.1 q.2) (t.laneWalk l .r p.1 p.2)
        | _ => t.laneWalk l .r p.1 p.2) s
      exec (.cache m a len) s = .next (if len.toNat ≤ b then t.lanePast l 3 else t.setLane l { t.lane l with prog := b, st := .copying })) ∧
    (∀ (seq : Word) (a : DWord) (ps : List (Nat × Nat)) (old : Nat), a.toNat % 8 = 0 → s.laneTr l .rw a.toNat 8 = .ok ps → s.readHome ps = .ok old →
      let new := seq.toNat * 2 ^ 32 + bits old 16 8 * 2 ^ 16 + 2
      let t := s.laneTouch l .rw a.toNat 8
      (bits old 0 4 = 1 → (t.writeHome { rel := true, present := true } ps new).2 = true →
        exec (.present seq a) s = .next ((t.writeHome { rel := true, present := true } ps new).1.lanePast l 2)) ∧
      (bits old 0 4 ≠ 1 → exec (.present seq a) s = .next ((t.laneReject l old).lanePast l 2)))


/-- R379-R383, R390, R391, R398: interrupts, launches, fences, waits and signals of a lane; a signal changes the physical semaphore bound to
its virtual one and no other, or the spill word of one that is not bound, and a watch that the new value satisfies goes. The fault of a spill
word that cannot be read (log 147), and that lanes 30 and 31 use context 0 and queue numbers 8,192 + l (log 86), are the model's choices. -/
def Obligations.StokerControlWords : Prop :=
   (∀ (s : State) (l : Nat), s.atLane l →
      let k := s.lane l
      let ctx := s.laneCtx l
      let val (v : XVal) : DWord := match v with | .word x => x | .reg r => k.xr r
      let len (v : XVal) : Nat := match v with | .word _ => 2 | .reg _ => 1
      let queue : Nat := k.queue.getD (8192 + l)
      -- an unsatisfied wait waits on, and unmaps at once where a candidate could take its lane
      let waits (t : State) : State :=
        let t := t.setLane l { t.lane l with st := .waiting, waitSince := some (k.waitSince.getD s.tick.toNat) }
        if (t.takes l).isSome = true then { t with agenda := .event .queueUnmap (.unmap l .waiting) :: t.agenda } else t
      (∀ vec : BitVec 11, vec.toNat < (if ctx = 0 then 536 else 24) → exec (.intr vec) s = .next ((s.raise ctx vec.toNat).lanePast l 1)) ∧
      (∀ (rec : DWord) (sig : Option DWord) (sg : Option (BitVec 10 × SignalOp × Bool × DWord)) (ps : List (Nat × Nat)) (x : Nat),
        (sig = none ∧ sg = none ∨ ∃ w g, sig = some w ∧ sigOf w = some g ∧ sg = some g) → rec.toNat % 64 = 0 →
        s.laneTr l .r rec.toNat 256 = .ok ps → s.readHome ps = .ok x →
        (∀ off, s.launchBad ctx x = some off → exec (.launch rec sig) s = .next ((s.laneTouch l .r rec.toNat 256).laneFault l 5 off)) ∧
        (s.launchBad ctx x = none → s.freeLaunch = none → exec (.launch rec sig) s = .next (s.laneTouch l .r rec.toNat 256)) ∧
        (∀ n, s.launchBad ctx x = none → s.freeLaunch = some n → ∃ (t : State) (L : Launch),
          exec (.launch rec sig) s = .next (t.lanePast l (if sig.isSome then 3 else 2)) ∧ t = { s.laneTouch l .r rec.toNat 256 with launches := t.launches } ∧
          tfind t.launches n = some L ∧ L.rec_ = recordOf x ∧ L.recAddr = rec ∧ L.ctx = ctx ∧ L.queue = some queue ∧ L.sig = sg ∧ L.blocks = [] ∧
          ∀ m, m ≠ n → tfind t.launches m = tfind s.launches m)) ∧
      (∀ launches sys : Bool,
        ((launches = false ∨ ∀ e ∈ s.launches, e.2.queue ≠ some queue) → exec (.stokerFence launches sys) s = .next (s.lanePast l 1)) ∧
        (launches = true → (∃ e ∈ s.launches, e.2.queue = some queue) → exec (.stokerFence launches sys) s = .next (s.setLane l { k with st := .waiting }))) ∧
      -- a spill word that is poisoned, or that nothing answers, is a fault of the queue (R397)
      (∀ (c : WaitCond) (sem : BitVec 10) (v : XVal) (m : SignalOp) (sys : Bool) (e : Nat × Nat), s.semRead ctx sem.toNat = .error e →
        ∀ i ∈ [Instr.wait c sem v, .signal m sys sem v], exec i s = .next ((s.semTouch ctx sem.toNat).laneFault l e.1 e.2)) ∧
      (∀ sem : BitVec 10, s.bound ctx sem.toNat = none →
        let a := s.spillAt ctx sem.toNat
        (∀ x, s.homeRead a 8 = .ok x → s.semRead ctx sem.toNat = .ok (BitVec.ofNat 64 x)) ∧
        (s.homeRead a 8 = .poison → s.semRead ctx sem.toNat = .error (7, a)) ∧ (s.homeRead a 8 = .refused → s.semRead ctx sem.toNat = .error (3, a))) ∧
      (∀ (c : WaitCond) (sem : BitVec 10) (v : XVal) (x : DWord), s.semRead ctx sem.toNat = .ok x →
        let holds : Prop := match c with | .ge => (val v).toNat ≤ x.toNat | .eq => x = val v | .ne => x ≠ val v
        let t := s.semTouch ctx sem.toNat
        (holds → exec (.wait c sem v) s = .next (t.lanePast l (len v))) ∧ (¬ holds → exec (.wait c sem v) s = .next (waits t))) ∧
      (∀ (rel : Bool) (v : XVal),
        let due := k.due.getD (if rel then s.tick + val v else val v)
        (due.toNat ≤ s.tick.toNat → exec (.waitt rel v) s = .next (s.lanePast l (len v))) ∧
        (¬ due.toNat ≤ s.tick.toNat → exec (.waitt rel v) s = .next (waits (s.setLane l { k with due := some due })))) ∧
      (∀ (m : SignalOp) (sys : Bool) (sem : BitVec 10) (v : XVal) (x : DWord), s.semRead ctx sem.toNat = .ok x →
        exec (.signal m sys sem v) s = .next ((s.signal ctx sem.toNat m (val v)).lanePast l (len v)))) ∧
   (∀ (s : State) (ctx v p : Nat) (m : SignalOp) (b : DWord), s.bound ctx v = some p →
      let old := s.phys p
      let new := match m with | .set => b | .add => old + b | .max => if old.toNat ≤ b.toNat then b else old
      s.semRead ctx v = .ok old ∧ (s.signal ctx v m b).semRead ctx v = .ok new ∧ (∀ q, q ≠ p → (s.signal ctx v m b).phys q = s.phys q) ∧
      ∀ w ∈ (s.signal ctx v m b).stoker.watch, w ∈ s.stoker.watch ∧ ¬ (w.ctx = ctx ∧ w.sem = v ∧ waitHolds w.cond new w.value = true)) ∧
   -- a spilled one: its spill word takes the value, and no other byte changes
   (∀ (s : State) (ctx v : Nat) (m : SignalOp) (old b : DWord), s.bound ctx v = none → s.semRead ctx v = .ok old →
      let a := s.spillAt ctx v
      let t := s.signal ctx v m b
      let new := match m with | .set => b | .add => old + b | .max => if old.toNat ≤ b.toNat then b else old
      s.isHomed a = true → s.isFree a = false → s.isFree (a + 7) = false → s.stateWord a 8 = none → (∀ w ∈ s.stoker.watch, w.ctx = ctx → w.sem ≠ v) →
      t.mem.read a 8 = new.toNat ∧ t.semRead ctx v = .ok new ∧ SameBytesBut s t a 8 ∧ t.stoker = s.stoker)


/-- R365, R368, R370, R385, R392-R395: the supervisor's words. Lanes 0-29 take a PRIV fault on each; lanes 30 and 31 perform them. That an enable
which faults leaves WAKE as it was is log 118, the model's choice. -/
def Obligations.StokerSupervisorWords : Prop :=
  ∀ (s : State) (l : Nat), s.atLane l →
    let k := s.lane l
    let priv (i : Instr) : Prop := l < 30 → exec i s = .next (s.laneFault l 2 (cmdWord i))
    (∀ (q : BitVec 13),
      let w := s.statew q.toNat
      let st := swState w
      let inGet := s.qRead q.toNat 0x18 4
      -- STATE of the queue becomes `st'`; PUT, FAULT and WAKE stay
      let becomes (t : State) (st' : Nat) : State := t.setQueue q.toNat (swWith w (swPut w) (swFault w) (swWake w) st')
      let t := s.qTouch q.toNat
      priv (.sqctlEnable q) ∧ priv (.sqctlDisable q) ∧ priv (.sqctlReset q) ∧ priv (.sqctlUnmap q) ∧
      (30 ≤ l →
        (1 ≤ st → st ≤ 6 → exec (.sqctlEnable q) s = .next (t.lanePast l 1)) ∧
        (st = 0 → s.descBad q.toNat = false → bits w 17 7 = 0 → bits w 4 12 = 0 →
          exec (.sqctlEnable q) s = .next ((becomes t (if swPut w ≠ inGet ∨ swWake w = true then 2 else 1)).lanePast l 1)) ∧
        -- a descriptor or STATEW that breaks its rules: RING, with the address of the word at which the queue stands
        (7 ≤ st ∨ (st = 0 ∧ (s.descBad q.toNat = true ∨ bits w 17 7 ≠ 0 ∨ bits w 4 12 ≠ 0)) → exec (.sqctlEnable q) s =
          let at_ := if s.qRead q.toNat 0x20 8 = 0 then s.ringBase q.toNat + 8 * (inGet % s.ringLen q.toNat) else s.qRead q.toNat 0x20 8
          .next ((t.faultQueue q.toNat 6 at_ 0 (swWake w)).lanePast l 1)) ∧
        (s.laneOf q.toNat = none → exec (.sqctlDisable q) s = .next ((becomes s 0).lanePast l 1) ∧ exec (.sqctlUnmap q) s = .next (s.lanePast l 1)) ∧
        (∀ m, s.laneOf q.toNat = some m →
          exec (.sqctlDisable q) s = .next { s.lanePast l 1 with agenda := .event .queueUnmap (.unmap m .disable) :: s.agenda } ∧
          exec (.sqctlUnmap q) s = .next { s.lanePast l 1 with agenda := .event .queueUnmap (.unmap m .quantum) :: s.agenda }) ∧
        (st = 6 → exec (.sqctlReset q) s = .next ((t.setQueue q.toNat (swWith w (swPut w) 0 false 1)).lanePast l 1)) ∧
        (st ≠ 6 → exec (.sqctlReset q) s = .next (t.lanePast l 1)))) ∧
    (∀ (keepq : Bool) (ctx : BitVec 6),
      let c := ctx.toNat
      let t := (s.setRun c false).preemptAll c
      -- a block not saved yet, a queue whose wait the semaphore unit is still to end, or a launch that a failed save ends (R487)
      let placed : Prop := (∃ e ∈ s.cores, ∃ g ∈ e.2.groups, g.2.ctx = c ∧ g.2.remnant = false) ∨ (∃ x ∈ s.stoker.waits, s.qCtx x.1 = c) ∨
        ∃ e ∈ s.launches, e.2.ctx = c ∧ (e.2.broken = true ∨ ∃ q ∈ t.saving, q.launch = e.1)
      priv (.spreempt keepq ctx) ∧ priv (.sresume ctx) ∧
      (30 ≤ l → (keepq = true ∨ s.lanesOf c = []) → ¬ placed → exec (.spreempt keepq ctx) s = .next (t.lanePast l 1)) ∧
      (30 ≤ l → ((keepq = false ∧ s.lanesOf c ≠ []) ∨ placed) → exec (.spreempt keepq ctx) s =
        .next { t.setLane l { k with st := .waiting } with
          agenda := (if keepq then [] else (s.lanesOf c).map fun m => Turn.event .queueUnmap (.unmap m .quantum)) ++ s.agenda }) ∧
      (30 ≤ l → exec (.sresume ctx) s = .next ((s.setRun c true).lanePast l 1)) ∧
      (s.setRun c true).ctxRun c = true ∧ (s.setRun c false).ctxRun c = false) ∧
    (∀ (x : BitVec 4) (reg : BitVec 16),
      priv (.ssetreg x reg) ∧ priv (.sgetreg x reg) ∧
      (30 ≤ l → supAssigned reg.toNat = true →
        exec (.ssetreg x reg) s = .next ((s.lanePast l 1).supSet reg.toNat (k.xr x)) ∧
        exec (.sgetreg x reg) s = .next ((s.supRead reg.toNat).setLane l ((k.setX x (s.supGet reg.toNat)).past 1))) ∧
      (30 ≤ l → supAssigned reg.toNat = false → exec (.ssetreg x reg) s = .next (s.laneFault l 9 (cmdWord (.ssetreg x reg))) ∧
        exec (.sgetreg x reg) s = .next (s.laneFault l 9 (cmdWord (.sgetreg x reg))))) ∧
    (∀ (ctx : BitVec 6) (va len : DWord),
      priv (.sinval ctx none) ∧ priv (.sinval ctx (some (va, len))) ∧
      -- reds on their way, which a removed entry may have translated, perform first (R343)
      (30 ≤ l → exec (.sinval ctx none) s = .next ((s.settleReds.invalidate ctx.toNat 0 (2 ^ 57)).lanePast l 1)) ∧
      (30 ≤ l → va.toNat % 4096 = 0 → len.toNat % 4096 = 0 →
        exec (.sinval ctx (some (va, len))) s = .next ((s.settleReds.invalidate ctx.toNat va.toNat len.toNat).lanePast l 3)) ∧
      (30 ≤ l → (va.toNat % 4096 ≠ 0 ∨ len.toNat % 4096 ≠ 0) → exec (.sinval ctx (some (va, len))) s = .next (s.settleReds.laneFault l 4 va.toNat))) ∧
    (∀ (ctx : BitVec 6) (virt : BitVec 10) (n p : BitVec 12),
      let c := ctx.toNat
      let m := n.toNat + 1
      let bad : Prop := 1024 < virt.toNat + m ∨ 4096 < p.toNat + m ∨ (∃ e ∈ s.stoker.bind, p.toNat ≤ e.2 ∧ e.2 < p.toNat + m) ∨
        ∃ v, virt.toNat ≤ v ∧ v < virt.toNat + m ∧ (s.bound c v).isSome = true
      priv (.svsemBind ctx virt n p) ∧ priv (.svsemUnbind ctx virt n) ∧
      (30 ≤ l → bad → exec (.svsemBind ctx virt n p) s = .next (s.laneFault l 8 (cmdWord (.svsemBind ctx virt n p)))) ∧
      (30 ≤ l → ¬ bad → ∀ x, s.homeRead (s.spillAt c virt.toNat) (8 * m) = .ok x → ∃ (t : State), exec (.svsemBind ctx virt n p) s = .next (t.lanePast l 1) ∧
        t = { s.cacheTouch (s.spillAt c virt.toNat) (8 * m) false with stoker := { s.stoker with bind := t.stoker.bind, sems := t.stoker.sems } } ∧
        ∀ j < m, t.bound c (virt.toNat + j) = some (p.toNat + j) ∧ t.phys (p.toNat + j) = BitVec.ofNat 64 (bits x (64 * j) 64)) ∧
      (30 ≤ l → 1024 < virt.toNat + m → exec (.svsemUnbind ctx virt n) s = .next (s.laneFault l 8 (cmdWord (.svsemUnbind ctx virt n)))) ∧
      (30 ≤ l → virt.toNat + m ≤ 1024 → (s.paRegion (s.spillAt c virt.toNat)).isSome = true → ∃ (t : State), exec (.svsemUnbind ctx virt n) s = .next (t.lanePast l 1) ∧
        (∀ j < m, t.bound c (virt.toNat + j) = none) ∧ ∀ c' v, c' ≠ c ∨ v < virt.toNat ∨ virt.toNat + m ≤ v → v < 1024 → t.bound c' v = s.bound c' v))

/-- R367, R378, R397: a fault of a queue's word saves the lane's registers in the descriptor, makes the queue FAULTED with the code, the
word's address and the detail, frees the lane, and raises the queue's vector. That WAKE is cleared (log 118), that a vector beyond those of the
function raises nothing (log 117), and that a masked one is pending (log 10), are the model's choices. -/
def Obligations.AQueueFaultIsRecorded : Prop :=
  ∀ (s : State) (l q code detail : Nat), (s.lane l).queue = some q → code < 256 → s.slotSets = [] →
    (∀ k < 256, s.isHomed (s.qAddr q k) = true ∧ s.isFree (s.qAddr q k) = false) →
    let k := s.lane l
    let t := s.laneFault l code detail
    swState (t.statew q) = 6 ∧ swFault (t.statew q) = code ∧ swWake (t.statew q) = false ∧ swPut (t.statew q) = swPut (s.statew q) ∧
    t.qRead q 0xD0 8 = s.wordAt l % 2 ^ 64 ∧ t.qRead q 0xD8 8 = detail % 2 ^ 64 ∧
    t.qRead q 0x18 4 = k.get.toNat ∧ t.qRead q 0x20 8 = k.pc.toNat ∧ (∀ i : BitVec 4, t.qRead q (0x40 + 8 * i.toNat) 8 = (k.xr i).toNat) ∧
    t.lane l = Lane.reset l ∧ (∀ xs ∈ t.stoker.ready, q ∉ xs) ∧
    (∀ k < 2 ^ 51, k < s.qAddr q 0 ∨ s.qAddr q 0 + 256 ≤ k → t.mem.byte k = s.mem.byte k) ∧
    (let range : Nat := if s.qCtx q = 0 then 536 else 24
     (s.qVector q < range → (s.qCtx q, s.qVector q) ∈ t.box.delivered ∨ (s.qCtx q, s.qVector q) ∈ t.box.msixPending) ∧
     (range ≤ s.qVector q → t.box = s.box))

/-! ### The Flue -/

/-- R425-R428, R436, R437: the scalar slot ops, each with its result in d at the end of its own cycle, and the vector ops on integers and
the moves, with their latencies. Reads of bad words are reported, one entry each (R424; log 160, the model's choice). -/
def Obligations.SlotIntegerOps : Prop :=
  (∀ (s : State) (d a b : BitVec 5) (imm : BitVec 6) (wide : BitVec 18) (r lane : BitVec 6), s.cur.line < 64 →
      let k := s.line s.cur.line
      let x := k.sr a.toNat
      let y := k.sr b.toNat
      let z : Word := imm.setWidth 32
      let two (v : Word) : Out := .next (s.scalarResult d [a.toNat, b.toNat] v)
      let one (v : Word) : Out := .next (s.scalarResult d [a.toNat] v)
      let shifted (right : Bool) (n : Nat) : Word := if n < 32 then (if right then x >>> n else x <<< n) else 0
      exec (.sadd d a b) s = two (x + y) ∧ exec (.ssub d a b) s = two (x - y) ∧ exec (.sand d a b) s = two (x &&& y) ∧
      exec (.sor d a b) s = two (x ||| y) ∧ exec (.sxor d a b) s = two (x ^^^ y) ∧ exec (.smul d a b) s = two (x * y) ∧
      exec (.sshl d a b) s = two (shifted false y.toNat) ∧ exec (.sshr d a b) s = two (shifted true y.toNat) ∧
      exec (.sslt d a b) s = two (if x.toInt < y.toInt then 1 else 0) ∧
      exec (.saddi d a imm) s = one (x + z) ∧ exec (.ssubi d a imm) s = one (x - z) ∧ exec (.sandi d a imm) s = one (x &&& z) ∧
      exec (.sori d a imm) s = one (x ||| z) ∧ exec (.sxori d a imm) s = one (x ^^^ z) ∧ exec (.smuli d a imm) s = one (x * z) ∧
      exec (.sshli d a imm) s = one (shifted false imm.toNat) ∧ exec (.sshri d a imm) s = one (shifted true imm.toNat) ∧
      exec (.sslti d a imm) s = one (if x.toInt < (imm.toNat : Int) then 1 else 0) ∧
      exec (.sldl d wide) s = .next (s.scalarResult d [] (wide.setWidth 32)) ∧
      exec (.sldh d wide) s = .next (s.scalarResult d [d.toNat] (BitVec.ofNat 32 (wide.toNat * 2 ^ 14 + (k.sr d.toNat).toNat % 2 ^ 14))) ∧
      -- TICK, and the half of it that the last read of TICK kept; FCYC, ACYC and the core's number
      exec (.sget d 0) s = .next (s.putLine { k.issued s.cur.fslot 1 (.s d.toNat) [(0, BitVec.ofNat 32 s.tick.toNat)] k.psn with
        tickHi := BitVec.ofNat 32 (s.tick.toNat / 2 ^ 32) }) ∧
      exec (.sget d 1) s = .next (s.scalarResult d [] k.tickHi) ∧ exec (.sget d 2) s = .next (s.scalarResult d [] (BitVec.ofNat 32 s.flue.fcyc.toNat)) ∧
      exec (.sget d 3) s = .next (s.scalarResult d [] (BitVec.ofNat 32 k.acyc.toNat)) ∧
      exec (.sget d 4) s = .next (s.scalarResult d [] (BitVec.ofNat 32 s.cur.line)) ∧
      (let bad := k.badF.contains (64 * r.toNat + lane.toNat)
       exec (.vext d r lane) s = .next ((if bad = true then s.lineError s.cur.line else s).putLine (k.issued s.cur.fslot 1 (.s d.toNat) [(0, k.fl r.toNat lane.toNat)]
        (k.psn || bad))))) ∧
  (∀ (s : State) (d a b c imm : BitVec 6) (r : BitVec 5), s.cur.line < 64 →
      let k := s.line s.cur.line
      let A (l : Nat) : Word := k.fl a.toNat l
      let B (l : Nat) : Word := k.fl b.toNat l
      let I : Word := imm.setWidth 32
      let two (lat : Nat) (f : Word → Word → Word) : Out := .next (s.vectorResult lat d [a.toNat, b.toNat] fun l => f (A l) (B l))
      let one (lat : Nat) (f : Word → Word → Word) : Out := .next (s.vectorResult lat d [a.toNat] fun l => f (A l) I)
      let shl (x y : Word) : Word := if y.toNat < 32 then x <<< y.toNat else 0
      let shr (x y : Word) : Word := if y.toNat < 32 then x >>> y.toNat else 0
      let sar (x y : Word) : Word := x.sshiftRight (min 31 y.toNat)
      let lt (x y : Word) : Word := if x.toInt < y.toInt then 0xFFFFFFFF else 0
      let eq (x y : Word) : Word := if x = y then 0xFFFFFFFF else 0
      exec (.viadd d a b) s = two 3 (· + ·) ∧ exec (.visub d a b) s = two 3 (· - ·) ∧ exec (.vand d a b) s = two 3 (· &&& ·) ∧
      exec (.vor d a b) s = two 3 (· ||| ·) ∧ exec (.vxor d a b) s = two 3 (· ^^^ ·) ∧ exec (.vshl d a b) s = two 3 shl ∧
      exec (.vshr d a b) s = two 3 shr ∧ exec (.vsar d a b) s = two 3 sar ∧ exec (.vimul d a b) s = two 4 (· * ·) ∧
      exec (.viclt d a b) s = two 3 lt ∧ exec (.vieq d a b) s = two 3 eq ∧
      exec (.viaddi d a imm) s = one 3 (· + ·) ∧ exec (.visubi d a imm) s = one 3 (· - ·) ∧ exec (.vandi d a imm) s = one 3 (· &&& ·) ∧
      exec (.vori d a imm) s = one 3 (· ||| ·) ∧ exec (.vxori d a imm) s = one 3 (· ^^^ ·) ∧ exec (.vshli d a imm) s = one 3 shl ∧
      exec (.vshri d a imm) s = one 3 shr ∧ exec (.vsari d a imm) s = one 3 sar ∧ exec (.vimuli d a imm) s = one 4 (· * ·) ∧
      exec (.viclti d a imm) s = one 3 lt ∧ exec (.vieqi d a imm) s = one 3 eq ∧
      exec (.vsel d a b c) s = .next (s.vectorResult 3 d [a.toNat, b.toNat, c.toNat] fun l => if k.fl c.toNat l ≠ 0 then A l else B l) ∧
      exec (.vbcast d r) s = .next ((s.saw (k.errS [r.toNat])).putLine (k.issued s.cur.fslot 3 (.f d.toNat) (lanes64 fun _ => k.sr r.toNat) (k.sawS [r.toNat]).psn)) ∧
      exec (.vlane d) s = .next (s.vectorResult 3 d [] fun l => BitVec.ofNat 32 l) ∧
      exec (.vmov d a) s = .next (s.vectorResult 3 d [a.toNat] A))

/-- R433-R435, R438: the vector ops on binary32, under round to nearest even, with their latencies, and mmul. -/
def Obligations.SlotVectorFloatOps : Prop :=
  ∀ (s : State) (d a b c : BitVec 6), s.cur.line < 64 →
    let k := s.line s.cur.line
    let T : Target := { p := 24, emin := -126, emax := 127, e4m3 := false, mode := .rne, rnd := 0 }
    let A (l : Nat) : FV := f32.decode (k.fl a.toNat l).toNat
    let B (l : Nat) : FV := f32.decode (k.fl b.toNat l).toNat
    let C (l : Nat) : FV := f32.decode (k.fl c.toNat l).toNat
    let enc (r : Rounded) : Word := BitVec.ofNat 32 (f32.encode r.v)
    let one (lat : Nat) (f : Nat → Word) : Out := .next (s.vectorResult lat d [a.toNat] f)
    let two (lat : Nat) (f : Nat → Word) : Out := .next (s.vectorResult lat d [a.toNat, b.toNat] f)
    let ones (p : Prop) [Decidable p] : Word := if p then 0xFFFFFFFF else 0
    let order (l : Nat) (p : Ordering → Bool) : Word := ones ((A l).isNan = false ∧ (B l).isNan = false ∧ p (cmpFV (A l) (B l)) = true)
    f32T = T ∧
    exec (.vfadd d a b) s = two 3 (fun l => enc (roundSum T [A l, B l])) ∧
    exec (.vfsub d a b) s = two 3 (fun l => enc (roundSum T [A l, (B l).negate])) ∧
    exec (.vfmul d a b) s = two 4 (fun l => enc (roundMul T (A l) (B l))) ∧
    exec (.vffma d a b c) s = .next (s.vectorResult 5 d [a.toNat, b.toNat, c.toNat] fun l => enc (roundFma T (A l) (B l) (C l))) ∧
    exec (.vfmin d a b) s = two 3 (fun l => BitVec.ofNat 32 (minMaxBits f32 false (k.fl a.toNat l).toNat (k.fl b.toNat l).toNat)) ∧
    exec (.vfmax d a b) s = two 3 (fun l => BitVec.ofNat 32 (minMaxBits f32 true (k.fl a.toNat l).toNat (k.fl b.toNat l).toNat)) ∧
    -- 1 / a and 1 / √a, rounded once, and their special values (R246)
    (∃ r : Nat → Rounded, exec (.vfrcp d a) s = one 8 (fun l => enc (r l)) ∧ ∀ l,
      ((A l).isNan = true → enc (r l) = 0x7FC00000) ∧ (∀ n, A l = .inf n → (r l).v = .fin n 0 0) ∧ (∀ n e, A l = .fin n 0 e → (r l).v = .inf n) ∧
      ∀ n m e, A l = .fin n m e → 0 < m → RoundsTo T n |1 / (A l).rat| (r l)) ∧
    (∃ r : Nat → Rounded, exec (.vfrsqrt d a) s = one 8 (fun l => enc (r l)) ∧ ∀ l,
      ((A l).isNan = true → enc (r l) = 0x7FC00000) ∧ (A l = .inf false → (r l).v = .fin false 0 0) ∧ (∀ n e, A l = .fin n 0 e → (r l).v = .inf n) ∧
      ((A l).isZero = false → (A l).isNan = false → (A l).neg = true → enc (r l) = 0x7FC00000) ∧
      ∀ m e, A l = .fin false m e → 0 < m → RoundsTo T false (1 / Real.sqrt ((m : ℝ) * 2 ^ e)) (r l)) ∧
    exec (.vfclt d a b) s = two 3 (fun l => order l (· == .lt)) ∧ exec (.vfcle d a b) s = two 3 (fun l => order l (· != .gt)) ∧
    exec (.vfceq d a b) s = two 3 (fun l => order l (· == .eq)) ∧
    -- conversions: NaN gives 0, and what does not fit the nearest end of the range
    (∃ f, exec (.vcvtfi d a) s = one 3 f ∧ ∀ l,
      ((A l).isNan = true → f l = 0) ∧ (A l = .inf false → f l = 0x7FFFFFFF) ∧ (A l = .inf true → f l = 0x80000000) ∧
      ∀ n m e, A l = .fin n m e → (f l).toInt = max (-(2 ^ 31)) (min (2 ^ 31 - 1) (if n then -((toInteger .rne 0 n m e).1 : Int) else (toInteger .rne 0 n m e).1))) ∧
    exec (.vcvtif d a) s = one 3 (fun l => enc (roundFin T (k.fl a.toNat l).msb (k.fl a.toNat l).toInt.natAbs 0)) ∧
    (∀ half : BitVec 6, exec (.vh2f d a half) s =
      one 3 (fun l => enc (roundFV T (f16.decode ((k.fl a.toNat l).toNat / 2 ^ (16 * half.toNat) % 2 ^ 16))))) ∧
    (∃ f, exec (.vf2h d a b) s = two 3 f ∧ ∀ l,
      (f l).toNat % 2 ^ 16 = f16.encode (roundFV (f16.target .rne 0) (A l)).v ∧ (f l).toNat / 2 ^ 16 = f16.encode (roundFV (f16.target .rne 0) (B l)).v) ∧
    -- C plus the product of an 8 × 8 of A with one of B, by the sum of R279
    exec (.mmul d a b c) s = .next (s.vectorResult 12 d [a.toNat, b.toNat, c.toNat] fun l =>
      let h (r n : Nat) : FV := f16.decode ((k.fl r n).toNat % 2 ^ 16)
      crucSum 0 false (C l :: (List.range 8).map fun m => prodFV false (h a.toNat (8 * (l / 8) + m)) (h b.toNat (8 * m + l % 8))))

/-- R420-R424, R430-R432: the line buffer, and the loads that go through w registers. The lanes of a load are read where it issues (log 93),
and each lane's read of a bad word leaves an entry in the error ring (log 160); both are the model's choices. -/
def Obligations.SlotMemoryOps : Prop :=
  ∀ (s : State) (d a b : BitVec 6) (r : BitVec 5) (w : BitVec 3), s.cur.line < 64 →
    let n := s.cur.line
    let k := s.line n
    let all (at_ : Nat → Nat) : List Nat := (List.range 64).map at_
    let stores (at_ : Nat → Nat) (v : Nat → Word) (seen : List Nat) (psn : Bool) (o : Out) : Prop :=
      ∃ vals, o = .next ((s.saw seen).putLine (k.issued s.cur.fslot 1 .mem vals psn)) ∧
      (∀ l < 64, (∀ m, l < m → m < 64 → at_ m % 65536 ≠ at_ l % 65536) → tfind vals (at_ l % 65536) = some (v l)) ∧
      ∀ j, (∀ l < 64, at_ l % 65536 ≠ j) → tfind vals j = none
    let lin (l : Nat) : Nat := (k.sr r.toNat).toNat + l
    let ind (l : Nat) : Nat := (k.fl a.toNat l).toNat
    -- the reads touch the lines of the caches only; `seen` are the bad words that lanes read for addresses, `poison` the bad bytes they read
    let loads (o : Out) (data : Nat → Word) (seen poison : List Nat) (k' : LineCore) : Prop :=
      ∃ h : Hearth, h = { s.hearth with l2 := h.l2, hearthLines := h.hearthLines, touches := h.touches } ∧
        o = .next (((({ s with hearth := h } : State).saw seen).gathered poison).putLine
          { k' with w := tput k.w w.toNat { st := .pending, data := lanes64 data } })
    let poisoned (pa : Nat → Nat) (bad : Nat → Bool) : List Nat := ((List.range 64).filter bad).map pa
    let plane (i : Instr) (p : SlotHdr → Nat) : Prop :=
      ((k.wr w.toNat).st ≠ .empty → exec i s = .next (s.stopLine n 2)) ∧
      ∀ (h : SlotHdr) (val : Nat → Nat) (bad : Nat → Bool), (k.wr w.toNat).st = .empty → s.bandSlot k = some h →
        let pa (l : Nat) : Nat := h.base + p h + clampTo h.height (k.fl b.toNat l).toInt * h.pitch + 4 * clampTo h.width (k.fl a.toNat l).toInt
        (∀ l < 64, s.homeRead (pa l) 4 = if bad l then .poison else .ok (val l)) →
        loads (exec i s) (fun l => if bad l then 0 else BitVec.ofNat 32 (val l)) (k.errF [a.toNat, b.toNat]) (poisoned pa bad)
          { k with psn := (k.sawF [a.toNat, b.toNat]).psn || (List.range 64).any bad }
    exec (.ldl d r) s = .next ((s.saw (k.errS [r.toNat] ++ k.errWords (all lin))).putLine
      (k.issued s.cur.fslot 6 (.f d.toNat) (lanes64 fun l => k.word (lin l)) ((k.sawS [r.toNat]).sawWords (all lin)).psn)) ∧
    exec (.ldlx d a) s = .next ((s.saw (k.errF [a.toNat] ++ k.errWords (all ind))).putLine
      (k.issued s.cur.fslot 6 (.f d.toNat) (lanes64 fun l => k.word (ind l)) ((k.sawF [a.toNat]).sawWords (all ind)).psn)) ∧
    stores lin (k.fl b.toNat) (k.errS [r.toNat] ++ k.errF [b.toNat]) ((k.sawS [r.toNat]).sawF [b.toNat]).psn (exec (.stl r b) s) ∧
    stores ind (k.fl b.toNat) (k.errF [a.toNat, b.toNat]) (k.sawF [a.toNat, b.toNat]).psn (exec (.stlx a b) s) ∧
    plane (.ldmC w a b) (·.cplane) ∧ plane (.ldmD w a b) (·.dplane) ∧ plane (.ldmM w a b) (·.mplane) ∧
    -- ldg: the walks of the pages that are missing come first, each asked for from its first tick; a lane without a readable page has 0,
    -- and sets XLF
    ((k.wr w.toNat).st ≠ .empty → exec (.ldg w r b) s = .next (s.stopLine n 2)) ∧
    ((k.wr w.toNat).st = .empty → s.ldgMissing k r b ≠ [] → ∃ t : Table Nat, exec (.ldg w r b) s =
      .next (s.putLine { k with walk := s.ldgMissing k r b, walkSince := t }) ∧
      ∀ p, tfind t p = if p ∈ s.ldgMissing k r b then some ((tfind k.walkSince p).getD s.tick.toNat) else tfind k.walkSince p) ∧
    (∀ (val : Nat → Nat) (bad : Nat → Bool), (k.wr w.toNat).st = .empty → s.ldgMissing k r b = [] →
      let pa (l : Nat) : Option Nat :=
        let va := k.ldgVa r b l
        if 0x01FFFFFC00000000 ≤ va then none else ((tlbFind (k.utlb ++ s.flue.tlb) s.flueCtx va).filter (·.r)).map fun e => e.pa + (va - e.va)
      (∀ l, pa l = none → bad l = false) →
      (∀ l < 64, ∀ p, pa l = some p → s.homeRead p 4 = if bad l then .poison else .ok (val l)) →
      loads (exec (.ldg w r b) s) (fun l => if (pa l).isSome ∧ bad l = false then BitVec.ofNat 32 (val l) else 0)
        (k.errS [r.toNat, r.toNat + 1] ++ k.errF [b.toNat]) (poisoned (fun l => (pa l).getD 0) bad)
        { k with psn := ((k.sawS [r.toNat, r.toNat + 1]).sawF [b.toNat]).psn || (List.range 64).any bad, noPage := [], walk := [], walkSince := []
                 xlf := k.xlf || (List.range 64).any fun l => (pa l).isNone }) ∧
    -- each bad word read is one entry of UNIT 6, and each poisoned word one of a memory unit; EVENT 1, COUNT 0
    (∀ (e : Nat) (es : List Nat), s.saw (e :: es) = (s.lineError n).saw es ∧ s.gathered (e :: es) = (s.memError e).gathered es ∧
      (∃ row, s.lineError n = s.fresh.errorEntry (n + row % 65536 * 65536) 6 1 0) ∧
      ∃ unit, 3 ≤ unit ∧ unit ≤ 5 ∧ s.memError e = s.fresh.errorEntry e unit 1 0) ∧
    -- wtk takes a FULL register, waits for a PENDING one, and stops the band at an EMPTY one
    ((k.wr w.toNat).st = .full → exec (.wtk d w) s = .next (s.putLine
      { k.issued s.cur.fslot 1 (.f d.toNat) (lanes64 fun l => tget 0#32 (k.wr w.toNat).data l) k.psn with w := tput k.w w.toNat .empty })) ∧
    ((k.wr w.toNat).st = .pending → exec (.wtk d w) s = .next s) ∧
    ((k.wr w.toNat).st = .empty → exec (.wtk d w) s = .next (s.stopLine n 3))

/-- R414, R419, R429: branches take effect behind two more bundles; fend ends the issue there; dready and dfall decide the band; the first
decision of a band stands: it is ready once all its parts are, and falls back at once, which stops the parts that still run (that one
whose results still land runs no more: log 161, the model's choice). -/
def Obligations.SlotControlOps : Prop :=
   (∀ (s : State) (r : BitVec 5) (wide : BitVec 18) (off : BitVec 12), s.cur.line < 64 →
      let k := s.line s.cur.line
      let x := k.sr r.toNat
      let goes (psn : Bool) (target : Int) : Out := .next (s.putLine { k with psn := psn, delay := some (2, some target) })
      let met (psn : Bool) (target : Int) : Out := .next ((s.saw (k.errS [r.toNat])).putLine { k with psn := psn, delay := some (2, some target) })
      exec (.flueBr wide) s = goes k.psn (k.pc + wide.toInt) ∧
      exec (.bz r off) s = met (k.sawS [r.toNat]).psn (if x = 0 then k.pc + off.toInt else k.pc + 3) ∧
      exec (.bnz r off) s = met (k.sawS [r.toNat]).psn (if x ≠ 0 then k.pc + off.toInt else k.pc + 3) ∧
      exec .fend s = .next (s.putLine { k with delay := some (2, none) }) ∧
      (k.band = none → exec .dready s = .next s ∧ exec .dfall s = .next s) ∧
      (∀ p : PartRef, k.band = some p → exec .dready s = .next (s.markReady p.head p.band p.part) ∧
        exec .dfall s = .next (s.fallBack p.head p.band 3 (some p.part))) ∧
      -- the bundle that redirects, then two more
      (∀ (j : LineCore) (target : Int),
        (j.endCycle none true).delay = j.delay ∧ (j.endCycle none true).pc = j.pc + 1 ∧
        (j.endCycle (some (2, some target)) false).delay = some (1, some target) ∧ (j.endCycle (some (2, some target)) false).pc = j.pc + 1 ∧
        (j.endCycle (some (1, some target)) false).delay = none ∧ (j.endCycle (some (1, some target)) false).pc = target ∧
        (j.endCycle (some (1, none)) false).running = false)) ∧
   (∀ (s : State) (h n part reason : Nat) (keep : Option Nat) (b : Band), (s.head h).band? n = some b →
      let t := s.markReady h n part
      let u := s.fallBack h n reason keep
      (b.decision ≠ .undecided → t = s ∧ u = s) ∧
      (b.decision = .undecided →
        let parts := b.parts.mapIdx fun i p => if i = part then { p with ready := true } else p
        ((∀ p ∈ parts, p.ready = true) → (t.head h).band? n = some { b with parts := parts, decision := .ready, pinned := false } ∧
          (t.head h).readies = (s.head h).readies + 1 ∧ (t.head h).falls = (s.head h).falls) ∧
        ((∃ p ∈ parts, p.ready = false) → (t.head h).band? n = some { b with parts := parts } ∧ (t.head h).readies = (s.head h).readies) ∧
        (u.head h).band? n = some { b with decision := .fell, pinned := false } ∧ (u.head h).falls = (s.head h).falls + 1 ∧
        (u.head h).readies = (s.head h).readies ∧ (u.head h).last.toNat % 2 ^ 16 = reason % 2 ^ 16 ∧
        ∀ c r, (s.line c).running = true → (s.line c).band = some r → r.head = h → r.band = n → some r.part ≠ keep → (u.line c).running = false))


/-- R411, R413: a result lands at the end of the active cycle that its latency names; until then its register keeps its value; of two
that land together on one register, the one issued later prevails. -/
def Obligations.ResultsLandOnTime : Prop :=
  ∀ (k : LineCore) (p : Pending) (r l : Nat), (∀ q ∈ k.pend, ∀ x, q.dest = .f x → ∀ e ∈ q.vals, e.1 < 64) →
    (k.land.act = k.act + 1) ∧
    (p ∈ k.pend → k.act < p.due → p ∈ k.land.pend) ∧
    (p ∈ k.land.pend → p ∈ k.pend ∧ k.act < p.due) ∧
    ((∀ q ∈ k.pend, q.due ≤ k.act → q.dest ≠ .s r) → tget 0#32 k.land.s r = tget 0#32 k.s r) ∧
    ((∀ q ∈ k.pend, q.due ≤ k.act → q.dest ≠ .f r) → l < 64 → tget 0#32 k.land.f (64 * r + l) = tget 0#32 k.f (64 * r + l)) ∧
    (∀ before after v, k.pend = before ++ [p] ++ after → p.due ≤ k.act → p.dest = .s r → p.vals = [(0, v)] →
      (∀ q ∈ after, q.due ≤ k.act → q.dest ≠ .s r) → k.land.sr r = v) ∧
    (∀ before after f, k.pend = before ++ [p] ++ after → p.due ≤ k.act → p.dest = .f r → p.vals = lanes64 f → l < 64 →
      (∀ q ∈ after, q.due ≤ k.act → q.dest ≠ .f r) → k.land.fl r l = f l)

/-! ### Events. Each takes effect where its condition holds; where it does not, nothing changes (log 12). -/

/-- R18-R20, R94, R95, R137, R206: a core's cycles, windows and power, and the ends of sleeps and waits. That a gate writes the L1 back
first and occurs as an input (log 105), that a core stays in reduced service in STAGE 5 (log 107), and that a waitv is read again at any
time, in lane order (log 34), are the model's choices. -/
def Obligations.CoreEvents : Prop :=
  ∀ (s : State) (c slot id : Nat),
    let k := s.core c
    let due : Prop := s.coreOn c = true ∧ k.gated = false ∧ k.nextCycle ≤ s.tick.toNat
    (s.cur.arg = .at c 0 0 →
      (¬ due → exec .coreCycle s = .next s) ∧
      -- a cycle counts CYC, and lists the beat, the transfer and the instruction that it issues; it takes 4 to 10 ticks, 10 in reduced service
      (due → ∃ (t : State) (ts : List Turn), exec .coreCycle s = .next t ∧ (t.core c).cyc = k.cyc + 1 ∧ t.mem = s.mem ∧ t.tick = s.tick ∧
        t.agenda = ts ++ s.agenda ∧ ts.length ≤ 3 ∧
        (∀ u ∈ ts, u = .event .crucibleBeat (.at c 0 0) ∨ u = .event .ladleTransfer (.at c 0 0) ∨ ∃ sl n, u = .issue c sl n) ∧
        s.tick.toNat + 4 ≤ (t.core c).nextCycle ∧ (t.core c).nextCycle ≤ s.tick.toNat + 10 ∧
        (s.box.stage ≠ 4 → (t.core c).nextCycle = s.tick.toNat + 10)) ∧
      exec .dWindowOpen s = .next (if 64 ≤ k.gatedFor ∧ k.dWindow = 0 then s.setCore c { k with dWindow := 17, gatedFor := 0 } else s) ∧
      exec .dWindowClose s = .next (if k.dWindow = 1 then s.setCore c { k with dWindow := 0 } else s) ∧
      ((k.groups ≠ [] ∨ k.gated = true) → exec .corePowerGate s = .next s) ∧
      (k.groups = [] → k.gated = false → ∃ (t : State), exec .corePowerGate s = .next t ∧ (t.core c).gated = true ∧ (t.core c).l1 = [] ∧ (t.core c).cyc = k.cyc ∧
        (∀ j, ¬ s.dirtyIn c j → t.mem.byte j = s.mem.byte j) ∧ ∀ j, j ≠ c → t.core j = s.core j) ∧
      exec .corePowerUngate s = .next (if k.gated = true then s.setCore c { k with gated := false, nextCycle := s.tick.toNat } else s)) ∧
    (∀ g, s.cur.arg = .at c slot 0 → s.group? c slot = some g →
      exec .owedGroup s = .next (if 960 ≤ g.eligibleFor then s.setGroup c slot { g with owed := true } else s)) ∧
    (∀ g nd, s.cur.arg = .at c slot id → s.group? c slot = some g → g.anyNode? id = some nd →
      (∀ until_, nd.st = .asleep until_ → exec .sleepExpiry s = .next (if until_ ≤ s.tick.toNat then s.setGroup c slot
        (g.setNode { nd with st := .ready, pc := nd.pc + 16 }) else s)) ∧
      (∀ word pending vals m w l, nd.st = .waitv word pending vals → decodeCast word = some (.waitv m w) → s.launch? g.launch = some l →
        let v : View := { s := s, c := c, slot := slot, g := g, nd := nd, l := l }
        exec .waitvReread s = .next (v.waitStep w m word (g.lanes pending) vals) ∧
        ∀ s' got, v.waitRound w m s.settleReds (g.lanes pending) = (s', got, [], []) →
          ∃ t, exec .waitvReread s = .next t ∧ (t.group? c slot).bind (·.anyNode? nd.id) = some v.onward))

/-- R469, R480, R481: the allowance, the voltages, temperatures and power. The numbers of the sensors and that a limit acts where a reading
passes it (log 19), a supply in whole millivolts, rounded down (log 106), and that the memory of peers and the host survives a loss of
power (log 122) are the model's choices. -/
def Obligations.PowerEvents : Prop :=
  ∀ (s : State),
    (∃ (t : State), exec .allowanceRefill s = .next t ∧ t = { s with flasks := t.flasks } ∧
      ∀ f < 8, t.flask f = { s.flask f with allow := min ((s.flask f).allow + ((s.flask f).refill.toNat : Int)) (((s.flask f).capL.toNat * 16 : Nat) : Int) }) ∧
    (∀ f refill cap, s.cur.arg = .at f refill cap → exec .refillUpdate s = .next (if f < 8 then
      s.setFlask f { s.flask f with refill := BitVec.ofNat 16 refill, capL := BitVec.ofNat 16 cap } else s)) ∧
    -- each column's supply lies between 0.550 V and 0.900 V, in steps of 2.5 mV
    (∃ (t : State), exec .voltageTrim s = .next t ∧ t = { s with box := { s.box with vtrim := t.box.vtrim } } ∧
      ∀ k < 32, ∃ n ≤ 140, (tget 0#16 t.box.vtrim k).toNat = 550 + n * 5 / 2) ∧
    -- a sensor comes to read a temperature: a column above 95 °C halves its flask's REFILL, any sensor above 105 °C quarters that of every
    -- flask, and at 115 °C the supplies are to be removed
    (∀ i v, s.cur.arg = .thermal i v →
      (96 ≤ i → exec .thermalLimit s = .next s) ∧
      (i < 96 →
        let old := (tget 0#16 s.box.therm i).toNat
        let hot : Prop := i < 32 ∧ old ≤ 16 * 95 ∧ 16 * 95 < v.toNat
        let hotter : Prop := old ≤ 16 * 105 ∧ 16 * 105 < v.toNat
        ∃ (t : State), exec .thermalLimit s = .next t ∧ tget 0#16 t.box.therm i = v ∧ (∀ j, j ≠ i → tget 0#16 t.box.therm j = tget 0#16 s.box.therm j) ∧
          (∀ k, k < 2 ^ 51 → t.mem.byte k = s.mem.byte k) ∧ (hot ∨ hotter → t.box.mgmtcause.getLsbD 2 = true) ∧
          (¬ hot → ¬ hotter → t.box.mgmtcause = s.box.mgmtcause) ∧
          (∀ f < 8, t.flask f = { s.flask f with
            refill := BitVec.ofNat 16 ((s.flask f).refill.toNat / (if hot ∧ f = i / 4 then 2 else 1) / (if hotter then 4 else 1)) }) ∧
          t.box.hotSince = if 16 * 115 ≤ v.toNat then some (s.box.hotSince.getD s.tick.toNat) else s.box.hotSince)) ∧
    -- without power all state is lost but the memory of the peers and the host, and POWER_ON leaves the state of reset
    (∀ i, i = .powerOff ∨ i = .thermalTrip → ∃ (t : State), exec i s = .next t ∧ t.box.off = true ∧ t.cores = [] ∧ t.launches = [] ∧ t.agenda = [] ∧
      (∀ k, k < 2 ^ 50 → t.mem.byte k = 0) ∧ ∀ k, 2 ^ 50 ≤ k → t.mem.byte k = s.mem.byte k) ∧
    (s.box.off = false → exec .powerOn s = .next s) ∧
    (s.box.off = true → ∃ (t : State), exec .powerOn s = .next t ∧ t = { State.reset with free := s.free, inputs := s.inputs, mem := t.mem } ∧
      (∀ k, k < 2 ^ 50 → t.mem.byte k = 0) ∧ ∀ k, 2 ^ 50 ≤ k → t.mem.byte k = s.mem.byte k)

/-- R80, R99, R100, R106, R110, R398, R400, R401, R486: blocks and launches. That a save is one event (log 74), that the watchdog drops the
arrivals at setw and the waits for claims (log 78), and which saved block returns first and from when waits count (log 142) are the
model's choices. -/
def Obligations.LaunchEvents : Prop :=
  ∀ (s : State) (f li c : Nat),
    let fits (e : Nat × Launch) : Option State := if s.mayPlace e.2 f = true ∧ s.notHeldUp f e.1 e.2 = true then s.placeNext f e.1 e.2 else none
    let saved : Prop := (s.resumeFirst f (s.resumable f)).1 = true
    (s.cur.arg = .at f 0 0 →
      -- a saved block that can be placed goes first; else the next block of the first launch in order that may be placed and fits
      (s.resumable f = [] → ¬ saved) ∧
      (∀ lb rest l blk t, s.resumable f = lb :: rest → s.launch? lb.1 = some l → s.block? lb.1 lb.2 = some blk → s.resumeBlock f lb.1 lb.2 l blk = .done t → saved) ∧
      (saved → exec .blockDispatch s = .next s) ∧
      (¬ saved → (∀ e ∈ s.launchOrder, fits e = none) → exec .blockDispatch s = .next s) ∧
      (∀ before e after t, ¬ saved → s.launchOrder = before ++ e :: after → (∀ x ∈ before, fits x = none) → fits e = some t →
        exec .blockDispatch s = .next t ∧ ∃ (l : Launch) (b : Block), t.launch? e.1 = some l ∧ l.nextBlock = e.2.nextBlock + 1 ∧ l.watchdog = 0 ∧
          tfind l.blocks e.2.nextBlock = some b ∧ b.place = .placed ∧ b.since = s.tick.toNat) ∧
      -- every block that has waited 2^20 ticks holds later launches up
      exec .blockWaitExpiry s = .next (s.setFlask f { s.flask f with blockWait := (s.flask f).blockWait ++ s.overdue f }) ∧
      (∀ w, w ∈ s.overdue f ↔ w ∉ (s.flask f).blockWait ∧ ∃ e ∈ s.launches, e.1 = w.1 ∧ s.mayPlace e.2 f = true ∧
        ∃ x ∈ s.waits e.2 e.1, x.1 = w.2 ∧ x.2 + 2 ^ 20 ≤ s.tick.toNat) ∧
      (∀ (l : Launch) (x : Nat × Nat), x ∈ s.waits l li ↔ (l.nextBlock < l.rec_.blockCount ∧ x = (l.nextBlock, l.nextSince)) ∨
        ∃ e ∈ l.blocks, e.2.place = .saved ∧ s.mayReturn l li e.1 e.2 = true ∧ x = (e.1, e.2.since)) ∧
      (∀ k l, s.notHeldUp f k l = true ↔ ∀ w ∈ (s.flask f).blockWait, w.1 = k ∨ ∀ x, s.launch? w.1 = some x → l.before x = true) ∧
      (s.resumable f = [] → exec .blockResume s = .next s) ∧
      (∀ lb rest l blk t, s.resumable f = lb :: rest → s.launch? lb.1 = some l → s.block? lb.1 lb.2 = some blk → s.resumeBlock f lb.1 lb.2 l blk = .done t →
        exec .blockResume s = .next t)) ∧
    (s.cur.arg = .at li 0 0 →
      (s.swapDue li = false → exec .blockSwap s = .next s) ∧
      (s.swapDue li = true → ∃ (t : State), exec .blockSwap s = .next t ∧ t = { s with saving := t.saving } ∧
        ∀ q, q ∈ t.saving ↔ q ∈ s.saving ∨ q.launch = li ∧ q.swap = true ∧ q.only = none ∧ ∃ e ∈ s.cores, e.1 = q.core ∧
          (s.partsOn e.1 li ≠ [] ∨ s.padsOn e.1 li none ≠ [])) ∧
      (∀ l, s.launch? li = some l → (l.watchdog < 2 ^ 34 ∨ l.missing = false ∨ s.ctxRun l.ctx = false) → exec .watchdogExpiry s = .next s) ∧
      -- every fragment of the launch owes the trap
      (∀ l, s.launch? li = some l → 2 ^ 34 ≤ l.watchdog → l.missing = true → s.ctxRun l.ctx = true → ∃ (t : State), exec .watchdogExpiry s = .next t ∧ t.mem = s.mem ∧
        (t.launch? li).map (·.watchdog) = some 0 ∧ (∀ l', t.launch? li = some l' → ∀ e ∈ l'.blocks, e.2.setwArrived = []) ∧
        (∀ k sl g, s.group? k sl = some g → t.group? k sl = some (if g.launch = li ∧ g.remnant = false then g.owe else g)) ∧
        -- its waits for claims are abandoned
        ∀ k, ∀ q ∈ (t.core k).claims, ∀ g, s.group? (q.forCore.getD k) q.slot = some g → g.launch ≠ li) ∧
      (s.launchOver li = false → exec .launchEnd s = .next s) ∧
      (∀ l, s.launchOver li = true → s.launch? li = some l → ∃ (t : State), exec .launchEnd s = .next t ∧ t.launch? li = none ∧
        (∀ k, k ≠ li → t.launch? k = s.launch? k) ∧
        t.stoker.sigQ = s.stoker.sigQ ++ match l.sig with | some (v, m, _, x) => [{ ctx := l.ctx, sem := v.toNat, op := m, value := x }] | none => [])) ∧
    -- a save performs once each of its writes has a translation; it frees what the launch held on the core
    (∀ q l, s.cur.arg = .at c li 0 → s.saving.find? (fun q => q.core == c && q.launch == li) = some q → s.launch? li = some l →
      -- WATCHDOG traps that are owed come first, and begun commands run to their boundary
      let s1 := (s.partsOn c li q.only).foldl (fun s e => (s.takeOwed c e.1 true).runToBoundary c e.1 2048) s.settleReds
      (∀ w ∈ s1.saveWrites c l.rec_ (s1.partsOn c li q.only) (s1.padsOn c li q.only), ∃ ps, s1.trRange c l.ctx l.saveFatal .w w.va w.n = .ok ps) →
      ∃ (t : State), exec .preemptSave s = .next t ∧ q ∉ t.saving ∧ t.partsOn c li q.only = []) ∧
    -- what a save writes: the record of every live thread, each window kept for a block, and each group's engine images
    (∀ (r : LaunchRec) (gs : List (Nat × Group)) (wins : List Window),
      (∀ e ∈ gs, ∀ x ∈ e.2.threads, x.2.alive = true → ∀ y, e.2.seat x.1 x.2 = some y →
        ∃ w ∈ s.saveWrites c r gs wins, w.va = r.savebase.toNat + x.2.g * (2880 + 4 * r.win) ∧ w.n = 2880 + 4 * r.win ∧ w.x = saveRecord e.2 x.2 y) ∧
      (∀ d ∈ wins, ∃ w ∈ s.saveWrites c r gs wins, w.va = r.savebase.toNat + 2 ^ 44 + (48 * d.block + c % 48) * 2 ^ 20 ∧ w.n = 4 * d.q ∧ w.x = d.image) ∧
      (∀ e ∈ gs, ∃ w ∈ s.saveWrites c r gs wins, ∃ y ∈ s.saveWrites c r gs wins, w.engine = 1 ∧ w.va = crucVa r (imageSlot r e.2.block e.2.k e.2.grant) ∧
        y.engine = 2 ∧ y.va = ladleVa r (imageSlot r e.2.block e.2.k e.2.grant))) ∧
    -- the oldest entry that has its number is written, and leaves
    (s.faultQ = [] → exec .faultEntryWrite s = .next s) ∧
    (∀ (e : FaultEntry) (rest : List FaultEntry) (l : Launch) (i pa : Nat), s.faultQ = e :: rest → s.launch? e.launch = some l → e.counted = some i →
      s.trRange e.core l.ctx [] .w ((l.rec_.faultrec.toNat + 0x40 + 32 * i) % 2 ^ 64) 32 = .ok [(pa, 32)] → s.isHomed pa = true → s.isFree pa = false → s.slotSets = [] →
      ∃ (t : State), exec .faultEntryWrite s = .next t ∧ t.faultQ = rest ∧ t.mem.read pa 32 = e.value % 256 ^ 32)

/-- R344-R347, R422: misses, walks, and the fault buffer. The vector that an entry raises is opaque (log 80, the model's choice). -/
def Obligations.TranslationEvents : Prop :=
  ∀ (s : State) (f i : Nat),
    let k := s.flask f
    (s.cur.arg = .at f 0 0 →
      (k.admission = [] → exec .missAdmission s = .next s) ∧
      (∀ q rest, k.admission = q :: rest → ((tfree k.merge 4096).isSome = true ∨ ∃ e ∈ k.merge, e.2.ctx = q.ctx ∧ e.2.page = q.page) →
        ∃ (t : State), exec .missAdmission s = .next t ∧ (t.flask f).admission = rest ∧
          ∃ j e, tfind (t.flask f).merge j = some e ∧ e.ctx = q.ctx ∧ e.page = q.page ∧ q.who ∈ e.reqs) ∧
      (∀ q rest, k.admission = q :: rest → tfree k.merge 4096 = none → (∀ e ∈ k.merge, e.2.ctx ≠ q.ctx ∨ e.2.page ≠ q.page) → exec .missAdmission s = .next s)) ∧
    (∀ e, s.cur.arg = .at f i 0 → tsorted k.merge = true → tfind k.merge i = some e →
      let r := (s.flaskWalk f e.ctx e.page).2
      let entry (kind : Byte) : FbEntry :=
        { va := BitVec.ofNat 64 e.page, ctx := e.ctx, kind := kind, source := e.source, unit_ := f, merges := e.merges, tick := e.tick
          tag := BitVec.ofNat 32 (f * 65536 + i) }
      let posted (t : State) (kind : Byte) : Prop := t.hearth.fbQ = s.hearth.fbQ ++ [entry kind]
      (e.phase ≠ .walking → exec .walkComplete s = .next s) ∧
      (∀ te, e.phase = .walking → r = .leaf te → te ∉ k.tlb → ∃ (t : State), exec .walkComplete s = .next t ∧ te ∈ (t.flask f).tlb ∧ t.hearth.fbQ = s.hearth.fbQ) ∧
      (e.phase = .walking → r = .invalid → ∃ (t : State), exec .walkComplete s = .next t ∧ tfind (t.flask f).merge i = some { e with phase := .pending } ∧
        posted t e.kind) ∧
      -- a malformed end frees the entry, and every requester of it finds its miss fatal
      (e.phase = .walking → r = .malformed → ∃ (u : State), exec .walkComplete s = .next (e.reqs.foldl (fun t q => t.wake e.page true q) u) ∧
        posted (u.wakeAll e true) (e.kind ||| 0x80) ∧ tfind (u.flask f).merge i = none ∧ u.cores = s.cores ∧ u.launches = s.launches ∧ u.faultQ = s.faultQ ∧ u.mem = s.mem)) ∧
    -- a requester whose miss is fatal: a fragment, a waitv and a Ladle command replay with the page refused, which is ACCESS; so do a window's
    -- elements and a save's writes; the entries of a launch's fault record are dropped
    (∀ (page : Nat),
      (∀ c sl id g nd, s.group? c sl = some g → g.anyNode? id = some nd →
        (∀ ps, nd.st = .parked ps → s.wake page true (.frag c sl id) = s.setGroup c sl (g.setNode { nd with
          fatal := sinsert nd.fatal page, st := if ∀ p ∈ ps, p = page then .ready else .parked (ps.filter (· ≠ page)) })) ∧
        (∀ w ls vs, nd.st = .waitv w ls vs → s.wake page true (.frag c sl id) = s.setGroup c sl (g.setNode { nd with fatal := sinsert nd.fatal page }))) ∧
      (∀ c sl cmd g, s.group? c sl = some g → s.wake page true (.ladle c sl cmd) = s.setGroup c sl { g with ladle := { g.ladle with
        queue := g.ladle.queue.map fun x => if x.seq = cmd then { x with parked := none, fatal := sinsert x.fatal page } else x } }) ∧
      (∀ j w, tfind s.hearth.windows j = some w → ∃ t, s.wake page true (.window j) = t ∧ t.mem = s.mem ∧
        tfind t.hearth.windows j = some { w with fatal := sinsert w.fatal page }) ∧
      (∀ c li l, s.launch? li = some l → s.wake page true (.save c li) = s.setLaunch li { l with saveFatal := sinsert l.saveFatal page }) ∧
      (∀ (c ctx va : Nat) (fatal : List Nat) (need : Need), pageOf va = page → globLoc va 1 ≠ none → s.translate c ctx (sinsert fatal page) need va ≠ .miss)) ∧
    (s.hearth.fbQ = [] → exec .faultBufferWrite s = .next s) ∧
    (s.sup.fbput - s.sup.fbget = 16384 → exec .faultBufferWrite s = .next s) ∧
    (∀ x rest, s.hearth.fbQ = x :: rest → s.sup.fbput - s.sup.fbget ≠ 16384 →
      let pa := s.sup.fbbase.toNat + 32 * (s.sup.fbput.toNat % 16384)
      ∃ (t : State), exec .faultBufferWrite s = .next t ∧ t.hearth.fbQ = rest ∧ t.sup = { s.sup with fbput := s.sup.fbput + 1 } ∧
        (s.isHomed pa = true → s.isFree pa = false → s.stateWord pa 32 = none → t.mem.read pa 32 = s.fbValue x % 256 ^ 32) ∧
        -- the vector that the firmware has for it is raised (log 80)
        ((0, Config.faultVector % 536) ∈ t.box.delivered ∨ (0, Config.faultVector % 536) ∈ t.box.msixPending)) ∧
    (∀ tag, s.cur.arg = .at tag 0 0 →
      (s.pendingOf tag = none → exec .fbresolveRetry s = .next s ∧ exec .fbresolveFatal s = .next s) ∧
      (∀ e, s.pendingOf tag = some e → tsorted (s.flask (tag / 65536)).merge = true →
        (∃ (t : State) (p : MergePhase), exec .fbresolveRetry s = .next t ∧ (p = .queued ∨ p = .walking) ∧
          tfind (t.flask (tag / 65536)).merge (tag % 65536) = some { e with phase := p }) ∧
        exec .fbresolveFatal s = .next ((s.setFlask (tag / 65536) { s.flask (tag / 65536) with merge := tdel (s.flask (tag / 65536)).merge (tag % 65536) }).wakeAll e true))) ∧
    (∀ n, s.cur.arg = .at n 0 0 →
      let j := s.line n
      (j.walk = [] → exec .flueWalkComplete s = .next s) ∧
      (∀ p rest, j.walk = p :: rest →
        let r := s.walk s.flueCtx p (Config.contChoice s.free)
        let posted (kind : Byte) : Prop := ∃ (t : State) (x : FbEntry), exec .flueWalkComplete s = .next t ∧
          t.line n = { j with walk := rest, walkSince := tdel j.walkSince p, noPage := sinsert j.noPage p } ∧ t.hearth.fbQ = s.hearth.fbQ ++ [x] ∧
          -- TICK is that of the page's first request
          x = { va := BitVec.ofNat 64 p, ctx := s.flueCtx, kind := kind, source := 4, unit_ := n, merges := 1
                tick := BitVec.ofNat 64 (tget s.tick.toNat j.walkSince p), tag := 0xFFFFFFFF }
        (∀ te, r = .leaf te → ∃ (t : State), exec .flueWalkComplete s = .next t ∧ t.flue.tlb = tlbAdd s.flue.tlb 4096 te ∧
          t.line n = { j with walk := rest, walkSince := tdel j.walkSince p, utlb := tlbAdd j.utlb 64 te }) ∧
        (r = .invalid → posted 0x01) ∧ (r = .malformed → posted 0x81)))

/-- R182, R190, R334, R349-R356: write-backs, requests in the network, locks, refresh, free frames, and gated ways. That a write-back takes
all dirty sectors of the core (log 133), that a flask has one router (log 137), and that a red which finds poison behind its check is
reported as POISON (log 58) are the model's choices. -/
def Obligations.MemorySystemEvents : Prop :=
  ∀ (s : State) (c i j : Nat),
    (s.cur.arg = .at c i 0 →
      -- every dirty sector of the core goes with the one that is due, so that its writes reach home in their order
      (∃ (t : State), exec .l1Writeback s = .next t ∧
        (∀ j x, tfind (s.core c).l1 j = some x → x.dirty ≠ 0 → tfind (t.core c).l1 j = some { x with dirty := 0, wrote := 0 }) ∧
        (∀ k x, tfind (s.core c).l1 (k / 32) = some x → x.dirty.getLsbD (k % 32) = true → s.isFree (k / 32 * 32) = false → s.isFree k = false →
          (t.mem.byte k).toNat = x.byte (k % 32)) ∧
        ∀ k, ¬ s.dirtyIn c k → t.mem.byte k = s.mem.byte k) ∧
      -- the clean bytes of a sector leave, and with the last of its bytes the sector
      ∀ x, tfind (s.core c).l1 i = some x → exec .l1LineExpire s = .next (if x.have_ &&& x.dirty = 0 then s.l1Drop c i
        else s.setCore c { s.core c with l1 := tput (s.core c).l1 i { x with have_ := x.have_ &&& x.dirty } })) ∧
    (s.cur.arg = .at i j 0 →
      -- a request leaves its router, alone or merged with a like one; two of one source to one address keep their order
      (∀ x, s.hearth.routers[i]? = some x →
        let meets (x y : RedReq) : Prop := x.pa = y.pa ∧ ∃ a ∈ x.srcs, ∃ b ∈ y.srcs, a.core = b.core
        ((∃ y ∈ s.hearth.routers.take i, meets x y) → exec .routerCombineFlush s = .next s) ∧
        ((∀ y ∈ s.hearth.routers.take i, ¬ meets x y) → ∃ (t : State), exec .routerCombineFlush s = .next t ∧ t.mem = s.mem ∧
          let rest := s.hearth.routers.eraseIdx i
          let goes (y : RedReq) : Prop := t.hearth.requests = s.hearth.requests ++ [{ y with since := s.tick.toNat }]
          (t.hearth.routers = rest ∧ goes x ∨
            ∃ n z, rest[n]? = some z ∧ x.like z = true ∧ (∀ y ∈ rest.take n, ¬ meets z y) ∧ t.hearth.routers = rest.eraseIdx n ∧ goes (x.merge z)))) ∧
      (∀ x, s.hearth.requests[i]? = some x →
        let port (y : RedReq) : Nat := Config.sliceOf (y.pa / 128) % 64
        exec .p3Promotion s = .next (if x.since + 16384 ≤ s.tick.toNat then
          { s with hearth := { s.hearth with requests := s.hearth.requests.set i { x with prio := min x.prio 2 } } } else s) ∧
        -- at each slice's port, the better class first, and in a class the older request
        (((∃ y ∈ s.hearth.requests, port y = port x ∧ y.prio < x.prio) ∨ ∃ y ∈ s.hearth.requests.take i, port y = port x ∧ y.prio = x.prio) →
          exec .memoryRequestPerform s = .next s) ∧
        ((∀ y ∈ s.hearth.requests, port y = port x → x.prio ≤ y.prio) → (∀ y ∈ s.hearth.requests.take i, port y = port x → y.prio ≠ x.prio) →
          ∀ old, s.homeRead x.pa x.n = .ok old →
          s.isHomed x.pa = true → s.isFree x.pa = false → s.stateWord x.pa x.n = none → ∃ (t : State), exec .memoryRequestPerform s = .next t ∧
            t.hearth.requests = s.hearth.requests.eraseIdx i ∧ SameBytesBut s t x.pa x.n ∧
            t.mem.read x.pa x.n = atomVal (redAtom x.op) x.ty (8 * x.n) old x.val.toNat % 256 ^ x.n) ∧
        ((∀ y ∈ s.hearth.requests, port y = port x → x.prio ≤ y.prio) → (∀ y ∈ s.hearth.requests.take i, port y = port x → y.prio ≠ x.prio) →
          let keeps (t : State) (cause : Nat) : Prop := exec .memoryRequestPerform s = .next t ∧ t.hearth.requests = s.hearth.requests.eraseIdx i ∧
            t.mem = s.mem ∧ t.faultQ = s.faultQ ++ x.srcs.map (·.entry cause)
          -- poison leaves the bytes; so does a change of a state word that the slice rejects, red by red
          (s.homeRead x.pa x.n = .poison → ∃ t, keeps t 0xD) ∧
          ∀ w old, s.homeRead x.pa x.n = .ok old → s.stateWord x.pa x.n = some w →
            (∀ y ∈ x.srcs, s.homeWrite x.pa x.n (atomVal (redAtom x.op) x.ty (8 * x.n) old y.val.toNat) {} x.evict = none) → ∃ t, keeps t 5)) ∧
      (∃ (t : State), exec .refreshAdjust s = .next t ∧ t = { s with hearth := { s.hearth with refresh := t.hearth.refresh } } ∧
        -- each device's factor by its temperature: 1 to 85 °C, 2 to 95 °C, 4 above
        (∀ d, d / 2 = i → let heat := (tget 0#16 s.box.therm (48 + d)).toNat
          tget 1 t.hearth.refresh d = if heat ≤ 16 * 85 then 1 else if heat ≤ 16 * 95 then 2 else 4) ∧ ∀ d, d / 2 ≠ i → tget 1 t.hearth.refresh d = tget 1 s.hearth.refresh d) ∧
      -- frames of 2 MiB
      (s.hearth.freeOp ≠ some (1, i) → exec .freeDeclare s = .next s) ∧ (s.hearth.freeOp ≠ some (2, i) → exec .freeReclaim s = .next s) ∧
      (∀ (e : Instr) (op : Nat), (e = .freeDeclare ∧ op = 1 ∨ e = .freeReclaim ∧ op = 2) → s.hearth.freeOp = some (op, i) → ∃ (t : State), exec e s = .next t ∧
        (∀ k, t.mem.byte k = if k / 0x200000 = i then 0 else s.mem.byte k) ∧ t.hearth.freeOp = some (3, i) ∧ (i ∈ t.hearth.freeFrames ↔ op = 1) ∧
        (∀ f, f ≠ i → (f ∈ t.hearth.freeFrames ↔ f ∈ s.hearth.freeFrames)) ∧
        -- no L1 keeps a copy of the frame
        ∀ e ∈ t.cores, ∀ x ∈ e.2.l1, 32 * x.1 / 0x200000 ≠ i)) ∧
    exec .reservationWindowAdvance s = .next { s with hearth := { s.hearth with resvWindow := (s.hearth.resvWindow + 1) % 64 } } ∧
    -- a command on a frame is over once no red is on its way there
    (∀ f, s.hearth.freeOp = some (3, f) → (∃ r ∈ s.hearth.routers ++ s.hearth.requests, r.pa / 0x200000 = f) → exec .freecmdComplete s = .next s) ∧
    (∀ f, s.hearth.freeOp = some (3, f) → (∀ r ∈ s.hearth.routers ++ s.hearth.requests, r.pa / 0x200000 ≠ f) → ∃ (t : State), exec .freecmdComplete s = .next t ∧ t.hearth.freeOp = none ∧ t.sup.freecmd.getLsbD 63 = false ∧
      ∀ k, k ≠ 63 → t.sup.freecmd.getLsbD k = s.sup.freecmd.getLsbD k) ∧
    ((∀ f, s.hearth.freeOp ≠ some (3, f)) → exec .freecmdComplete s = .next s) ∧
    (∀ v, s.cur.arg = .value i 0 v →
      (0x6000000000 ≤ bits v.toNat 21 31 * 2 ^ 21 → exec .l2LockWrite s = .next s) ∧
      (bits v.toNat 21 31 * 2 ^ 21 < 0x6000000000 → ∃ (t : State), exec .l2LockWrite s = .next t ∧ t.mem = s.mem ∧
        (tget 0#64 t.sup.l2lock i).toNat = bits v.toNat 21 31 * 2 ^ 21 + v.toNat % 2 ∧ ∀ k, k ≠ i → tget 0#64 t.sup.l2lock k = tget 0#64 s.sup.l2lock k)) ∧
    -- gated ways: a way with a locked line, or of the Mantel, is skipped; one whose request falls is empty
    (∀ way, s.cur.arg = .at i way 0 → way < 16 →
      let g := s.waygate i
      let locked : Prop := ∃ x ∈ s.hearth.l2, x.slice = i ∧ x.way = way ∧ x.locked = true
      ((g.getLsbD way = false ∨ ¬ locked) → exec .l2WayGate s = .next s) ∧
      (g.getLsbD way = true → locked → exec .l2WayGate s = .next (s.setWaygate i (g ||| (1#64 <<< (32 + way))))) ∧
      (g.getLsbD way = true → exec .l2WayUngate s = .next s) ∧
      (g.getLsbD way = false → ∃ (t : State), exec .l2WayUngate s = .next t ∧ (∀ x ∈ t.hearth.l2, x.slice ≠ i ∨ x.way ≠ way) ∧
        (t.waygate i).getLsbD (16 + way) = false ∧ (t.waygate i).getLsbD (32 + way) = false ∧ t.mem = s.mem) ∧
      (i < 64 → g.getLsbD way = true → g.getLsbD (32 + way) = false → ∃ (t : State), exec .wayGateDone s = .next t ∧ (t.waygate i).getLsbD (16 + way) = true ∧
        (∀ x ∈ t.hearth.l2, x.slice ≠ i ∨ x.way ≠ way) ∧ t.mem = s.mem)) ∧
    (∀ way, s.cur.arg = .at way 0 0 → way < 24 →
      let g := s.sup.hgate
      ((g.getLsbD way = false ∨ s.hearth.mantelWays ≤ way) → exec .hearthWayGate s = .next s) ∧
      (g.getLsbD way = true → way < s.hearth.mantelWays → exec .hearthWayGate s =
        .next { s with sup := { s.sup with hgskip := s.sup.hgskip ||| (1#64 <<< way) } }) ∧
      (g.getLsbD way = true → exec .hearthWayUngate s = .next s) ∧
      (g.getLsbD way = false → ∃ (t : State), exec .hearthWayUngate s = .next t ∧ (∀ x ∈ t.hearth.hearthLines, x.way ≠ way) ∧
        t.sup.hgate.getLsbD (24 + way) = false ∧ t.sup.hgskip.getLsbD way = false)) ∧
    (∀ way, s.cur.arg = .at 64 way 0 → way < 24 → s.sup.hgate.getLsbD way = true → s.sup.hgskip.getLsbD way = false →
      ∃ (t : State), exec .wayGateDone s = .next t ∧ t.sup.hgate.getLsbD (24 + way) = true ∧ ∀ x ∈ t.hearth.hearthLines, x.way ≠ way)

/-- R192, R357-R359, R394, R479: errors, their ring, and the registers that a read clears. That nine errors within less than 2^33 ticks
are lasting (log 92), the row of an entry and which way holds a worn row (log 20), the ring's vector (log 80), and how many spare rows a
line buffer has (log 154) are the model's choices. -/
def Obligations.ErrorEvents : Prop :=
  ∀ (s : State),
    let full : Prop := s.sup.errput - s.sup.errget = 1024
    let entry := s.sup.errbase.toNat + 32 * (s.sup.errput.toNat % 1024)
    -- an entry of the ring is written, or, where it is full, counted as dropped
    let reported (t : State) : Prop := (full → t.sup.errput = s.sup.errput ∧ t.sup.errdrop = s.sup.errdrop + 1) ∧
      (¬ full → t.sup.errput = s.sup.errput + 1 ∧ t.sup.errdrop = s.sup.errdrop ∧
        ((0, Config.errorVector % 536) ∈ t.box.delivered ∨ (0, Config.errorVector % 536) ∈ t.box.msixPending))
    (∀ u : ErrUnit, s.cur.arg = .err u →
      let old := ((s.hearth.errUnits.find? fun e => e.1 == u).map (·.2)).getD [] ++ [s.tick]
      let ticks := old.drop (old.length - 9)
      let lasting : Prop := ticks.length = 9 ∧ s.tick.toNat - (ticks.headD 0).toNat < 2 ^ 33
      (¬ lasting → ∃ (t : State), exec .correctedError s = .next t ∧ t = { s with hearth := { s.hearth with errUnits := t.hearth.errUnits } } ∧
        (u, ticks) ∈ t.hearth.errUnits) ∧
      (lasting → ∃ (t : State), exec .correctedError s = .next t ∧ reported t ∧
        (∀ c q, u = .quad c q → (t.core c).quads = (s.core c).quads - 1) ∧
        (∀ c r, u = .sramRow c r → if (s.core c).sramSpares = 0 then (t.core c).barred = true else (t.core c).sramSpares = (s.core c).sramSpares - 1) ∧
        (∀ c r, u = .accRow c r → if (s.core c).accSpares = 0 then (t.core c).barred = true else (t.core c).accSpares = (s.core c).accSpares - 1) ∧
        (∀ c r, u = .gmemRow c r → (c, Config.bankOf r) ∈ t.hearth.weak) ∧
        -- a line-buffer row is spared while its core has spare rows, and else reported only
        ∀ n r, u = .linebufRow n r → (s.spareOf (128 + n) < Config.lineSpares n → (n, r) ∈ t.hearth.lineSpare ∧ t.spareOf (128 + n) = s.spareOf (128 + n) + 1) ∧
          (Config.lineSpares n ≤ s.spareOf (128 + n) → t.hearth.lineSpare = s.hearth.lineSpare))) ∧
    -- the bytes of an entry
    (¬ full → s.isHomed entry = true → s.isFree entry = false → s.stateWord entry 32 = none → ∀ loc unit ev count : Nat,
      (s.errorEntry loc unit ev count).mem.read entry 32 =
        (loc % 2 ^ 64 + unit * 2 ^ 64 + ev * 2 ^ 72 + count * 2 ^ 80 + s.tick.toNat * 2 ^ 128) % 256 ^ 32) ∧
    -- what cannot be corrected carries a marker
    (∀ site, s.cur.arg = .bad site → (∀ c sl lane i, site = .cell c sl lane i → (s.group? c sl).isSome = true) →
      ∃ (t : State), exec .uncorrectableError s = .next t ∧ reported t ∧
        (∀ pa, site = .sector pa → pa / 32 ∉ sectorsOf entry 32 → s.isFree (32 * (pa / 32)) = false → pa / 32 ∈ t.mem.poison) ∧
        (∀ c li b off w, site = .scratch c li b off → s.window? c li b = some w → ∃ w', t.window? c li b = some w' ∧ off / 32 ∈ w'.poison) ∧
        (∀ c sl lane i g, site = .cell c sl lane i → s.group? c sl = some g → (tfind g.threads lane).isSome = true →
          ∃ g', t.group? c sl = some g' ∧ i ∈ (g'.thread lane).badCells) ∧
        (∀ c a, site = .tile c a → a ∈ (t.core c).badTiles) ∧ (∀ n a, site = .lineWord n a → a ∈ (t.line n).badWords) ∧
        (∀ n i, site = .freg n i → i ∈ (t.line n).badF) ∧ ∀ n i, site = .sreg n i → i ∈ (t.line n).badS) ∧
    (∀ n row, s.cur.arg = .at n row 0 → exec .linebufRowSpare s = .next (if s.lineBlank n = true then
      { s with hearth := { s.hearth with lineSpare := s.hearth.lineSpare.filter fun x => x != (n, row) } } else s)) ∧
    exec .errdropRead s = .next { s with lastRead := s.sup.errdrop.setWidth 64, sup := { s.sup with errdrop := 0 } } ∧
    exec .supfaultRead s = .next { s with lastRead := s.sup.supfault, sup := { s.sup with supfault := 0 } } ∧
    (∀ p, s.cur.arg = .at p 0 0 → ∃ (t : State), exec .peererrRead s = .next t ∧ t.lastRead = (tget 0#32 s.box.peererr p).setWidth 64 ∧
      tget 0#32 t.box.peererr p = 0 ∧ ∀ q, q ≠ p → tget 0#32 t.box.peererr q = tget 0#32 s.box.peererr q)

/-- R31, R264, R269, R275, R278, R280, R281: the Crucible's claims, turns, beats and completions, and the end of a batch. That each
fragment that waits for a claim has its own request (log 62), and that commands of a queue complete in its order (log 55), are the
model's choices. -/
def Obligations.CrucibleEvents : Prop :=
  ∀ (s : State) (c slot cmd : Nat),
    let k := s.core c
    let granted (q : ClaimReq) (owner at_ home : Nat) (i : Instr) : Prop := ∃ (t : State), exec i s = .next t ∧
      (∀ j < 16, q.tiles.getLsbD j = true → tfind (t.core at_).tileOwner j = some owner) ∧
      (∀ j < 8, q.masks.getLsbD j = true → tfind (t.core at_).maskOwner j = some owner) ∧
      (∃ x ∈ (t.core at_).claims, x = { q with granted := true }) ∧
      -- the fragment that asked goes on; the others of its group wait on
      ∀ g, s.group? home q.slot = some g → ∃ g', t.group? home q.slot = some g' ∧ ∀ n ∈ g.nodes,
        (n.id = q.node → n.st.claiming = true → { n with st := .ready } ∈ g'.nodes) ∧ (n.id ≠ q.node → n ∈ g'.nodes)
    (s.cur.arg = .at c 0 0 →
      (s.crucPick c = none → exec .crucibleBeat s = .next s) ∧
      -- a beat costs 80 of the allowance, and its command has begun
      (∀ key a g x xs, s.crucPick c = some (key, a) → s.group? a.core a.slot = some g → g.cruc.queue = x :: xs → ∃ (t : State), exec .crucibleBeat s = .next t ∧
        (t.flask (flaskOf a.tileCore)).allow = max (-2147483648) ((s.flask (flaskOf a.tileCore)).allow - 80) ∧
        ∃ y, (t.group? a.core a.slot).bind (fun g => g.cruc.queue.head?) = some y ∧ y.begun = true ∧ y.word = x.word) ∧
      (s.turnOver c = false → exec .timeslotTurnEnd s = .next s) ∧
      (s.turnOver c = true → ∃ (t : State), exec .timeslotTurnEnd s = .next t ∧ (t.core c).slotBeats = 0 ∧
        ((t.core c).slotNow = none ↔ s.slotsOn c = false) ∧ ∀ e, (t.core c).slotNow = some e → slotValid e = true) ∧
      (k.waiting = [] → exec .claimGrant s = .next s) ∧
      (∀ q qs, k.waiting = q :: qs → (q.forCore ≠ none ∨ s.claimFree c q.tiles q.masks = false) → exec .claimGrant s = .next s) ∧
      (∀ q qs, k.waiting = q :: qs → q.forCore = none → s.claimFree c q.tiles q.masks = true → granted q q.slot c c .claimGrant)) ∧
    (∀ q qs, s.cur.arg = .at c slot 0 → (s.core (partner c)).waiting = q :: qs → q.forCore = some c → q.slot = slot →
      s.claimFree (partner c) q.tiles q.masks = true → granted q (1000 + slot) (partner c) c .pairGrant) ∧
    (∀ g, s.cur.arg = .at c slot cmd → s.group? c slot = some g →
      exec .crucGateBypass s = .next (s.setGroup c slot { g with cruc := { g.cruc with queue := g.cruc.queue.map fun x =>
        if x.seq = cmd ∧ (∃ h ∈ x.held, h + 2 ^ 16 ≤ s.tick.toNat) then { x with bypass := true } else x } }) ∧
      (∀ x xs, g.cruc.queue = x :: xs → x.done = true → x.seq = cmd →
        exec .crucCommandComplete s = .next (s.setGroup c slot { g with cruc := { g.cruc with queue := xs } })) ∧
      (∀ x xs, g.cruc.queue = x :: xs → (x.done = false ∨ x.seq ≠ cmd) → exec .crucCommandComplete s = .next s)) ∧
    (∀ e g, s.cur.arg = .engine e c slot → s.group? c slot = some g →
      (s.batchReady g e = none → exec .batchComplete s = .next s) ∧
      -- the fragments that waited for the batch go on
      (∀ n, s.batchReady g e = some n → g.remnant = false → ∃ (t : State) (g' : Group), exec .batchComplete s = .next t ∧ t.group? c slot = some g' ∧
        g'.closed e = (g.closed e).drop 1 ∧
        ((∀ y ∈ s.cores, ∀ x ∈ y.2.groups, x.2.inherits e n (y.1 == c) = false) → n ∉ (g.closed e).drop 1 →
          ∀ nd ∈ g.nodes, nd.st = .batch e n → { nd with st := .ready, pc := nd.pc + 16 } ∈ g'.nodes))) ∧
    (∀ i v, s.cur.arg = .value c i v →
      let x := v.toNat % 2 ^ 32
      let bad : Prop := bits x 24 8 ≠ 0 ∨ bits x 6 1 ≠ 0 ∨ bits x 8 16 = 0 ∧ bits x 7 1 = 1
      (bad → exec .timeslotWrite s = .next s) ∧
      (¬ bad → ∃ (t : State), exec .timeslotWrite s = .next t ∧ t = { s with sup := { s.sup with timeslot := t.sup.timeslot } } ∧
        (t.slotEntryOf c i).toNat = x ∧
        ∀ d j, 16 * d + j ≠ 16 * c + i → t.slotEntryOf d j = s.slotEntryOf d j))

/-- R306, R307, R311-R318: the Ladle's starts, transfers, windows and continuations. That a window is translated through its first
contributor's flask (log 70), that an arrival waits for a window that cannot open (log 145), and that a continuation acquires the latest
epoch (logs 50 and 133) are the model's choices. -/
def Obligations.LadleEvents : Prop :=
  ∀ (s : State) (c slot cmd : Nat),
    (s.cur.arg = .at c 0 0 →
      (s.nextStart c = none → exec .ladleStart s = .next s) ∧
      (∀ sl g x, s.nextStart c = some (sl, g, x) → x.started = false ∧ x.time ≤ s.tick.toNat ∧ s.ladleFree c g x = true ∧
        ∀ g', s.group? c sl = some g' → exec .ladleStart s = .next (s.setGroup c sl
          { g' with ladle := { g'.ladle with queue := g'.ladle.queue.map fun y => if y.seq = x.seq then { y with started := true } else y } })) ∧
      (s.nextTransfer c = none → exec .ladleTransfer s = .next s) ∧
      -- a transfer costs 20 of the allowance, and moves the elements of up to 64 bytes
      (∀ sl g x kd, s.nextTransfer c = some (sl, g, x) → x.kind = some kd → s.group? c sl = some g → x ∈ g.ladle.queue → ∃ (t : State), exec .ladleTransfer s = .next t ∧
        (t.core c).rrLadle = (if x.begun = true then x.seq else (s.core c).rrLadle) ∧
        (t.flask (flaskOf c)).allow = max (-2147483648) ((s.flask (flaskOf c)).allow - 20) ∧
        let r := State.ladleRun c g x kd.1 ((if x.begun = true then s.setCore c { s.core c with rrLadle := x.seq } else s).settleReds.charge c 20) x.transfer
        ∀ v, r.2.2 = .ok v → ∃ g' y, t.group? c sl = some g' ∧ y ∈ g'.ladle.queue ∧ y.seq = x.seq ∧ y.begun = true ∧ y.prog = x.prog + r.2.1)) ∧
    (∀ g, s.cur.arg = .at c slot cmd → s.group? c slot = some g →
      exec .ladleGateBypass s = .next (s.setGroup c slot { g with ladle := { g.ladle with queue := g.ladle.queue.map fun x =>
        if x.seq = cmd ∧ x.time + 2 ^ 16 ≤ s.tick.toNat then { x with bypass := true } else x } }) ∧
      exec .ladleCommandComplete s = .next (s.setGroup c slot { g with ladle := { g.ladle with queue := g.ladle.queue.filter fun x => !(x.seq == cmd && x.done) } }) ∧
      -- an lred.ord that has read its elements is sent, and arrives at its window
      (∀ x vs s' v, g.ladle.queue.find? (fun x => x.seq == cmd) = some x → x.isKind .ord = true → x.started = true → x.sent = false → x.done = false →
        x.parked = none → s.stopping c g = false → x.d.count ≤ x.prog → s.windowCan g.ctx x = true → State.readAll c g x s.settleReds (List.range x.d.count) = (s', vs, .ok v) →
        (∀ i w, s.windowOf g.ctx x.dstName x.auxName = some (i, w) → shapeDiff w x.desc = none) →
        ∃ (t : State) (i : Nat) (w : OrdWindow), exec .windowArrival s = .next t ∧ tfind t.hearth.windows i = some w ∧ w.ctx = g.ctx ∧ w.dst = x.dstName ∧
          w.aux = x.auxName ∧
          w.arrived = (match s.windowOf g.ctx x.dstName x.auxName with | some e => e.2.arrived + 1 | none => 1) ∧
          ∃ con ∈ w.contribs, con.values = vs ∧ con.core = x.srcCore ∧ con.g = x.srcG) ∧
      -- a window that holds EXPECT arrivals collects no more
      (∀ dst aux i w, s.windowOf g.ctx dst aux = some (i, w) → w.arrived < w.expect) ∧
      -- one whose window cannot open is as if it had not begun
      (∀ x, g.ladle.queue.find? (fun x => x.seq == cmd) = some x → x.isKind .ord = true → x.started = true → x.sent = false → x.done = false →
        x.parked = none → s.stopping c g = false → x.d.count ≤ x.prog → s.windowCan g.ctx x = false → exec .windowArrival s = .next (s.setGroup c slot
          { g with ladle := { g.ladle with queue := g.ladle.queue.map fun y => if y.seq = cmd then { y with begun := false, prog := 0 } else y } })) ∧
      ((∃ x, g.ladle.queue.find? (fun x => x.seq == cmd) = some x ∧ (x.started = false ∨ x.sent = true ∨ x.done = true)) → exec .windowArrival s = .next s)) ∧
    -- a full window is applied, contribution by contribution, and closes
    (∀ i w, s.cur.arg = .at i 0 0 → tfind s.hearth.windows i = some w →
      (w.arrived < w.expect → exec .windowApply s = .next s) ∧
      (w.expect ≤ w.arrived → ∀ con rest pa old,
        let cs := w.contribs.foldl (fun acc x => insertContrib x acc) []
        let d := descOf w.desc
        -- what the contributors' cores hold dirty is written back first, and they keep no copy of the destination
        let s1 := s.windowFlush { w with contribs := cs } [pa] d.E
        (∀ x ∈ w.contribs, ∀ sec y, tfind (s1.core x.core).l1 sec = some y → y.dirty = 0 ∧ sec ∉ sectorsOf pa d.E) ∧
        (s.hearth.late = [] → cs = con :: rest → d.count = 1 → s.hearth.requests = [] → s.hearth.routers = [] → s.translate con.core w.ctx w.fatal .rw (wrap 64 (d.dstOf 0)) = .hit pa →
        s.isHomed pa = true → s.isFree pa = false → s.stateWord pa d.E = none → s1.homeRead pa d.E = .ok old →
        ∃ (t : State), exec .windowApply s = .next t ∧ tfind t.hearth.windows i = none ∧ SameBytesBut s1 t pa d.E ∧
          t.mem.read pa d.E = cs.foldl (fun acc x => lredCombine d.rop d.etype d.E acc (x.values.getD 0 0).toNat) old % 256 ^ d.E))) ∧
    -- a continuation starts a launch whose parent is its own
    (∀ g, s.cur.arg = .at c slot 0 → s.group? c slot = some g →
      (s.contDue c g = none → exec .lcontPerform s = .next s) ∧
      -- a record that cannot be read leaves an entry with the faulting address
      (∀ x, s.contDue c g = some x →
        let ends (cause addr : Nat) : Prop := ∃ t, exec .lcontPerform s = .next t ∧ t.faultQ = s.faultQ ++ [ladleEntry g c x cause addr] ∧ t.mem = s.mem
        (globLoc x.d.src 256 = none → ends causeAccess (max x.d.src 0x01FFFFFC00000000)) ∧
        ((globLoc x.d.src 256).isSome = true →
          (∀ y, s.trRange c g.ctx x.fatal .r x.d.src 256 = .bad y → ends causeAccess y) ∧
          ∀ ps s', s.hearth.routers = [] → s.hearth.requests = [] → s.trRange c g.ctx x.fatal .r x.d.src 256 = .ok ps →
            s.readParts c true ps = (s', .poison) → ends causePoison (s'.poisonAt x.d.src 256 ps))) ∧
      (∀ x ps y, s.contDue c g = some x → (globLoc x.d.src 256).isSome = true → s.trRange c g.ctx x.fatal .r x.d.src 256 = .ok ps →
        (s.settleReds.readParts c true ps).2 = .ok y →
        let s1 := (s.settleReds.readParts c true ps).1
        let s2 := s1.acquire c (s1.hearth.nextEpoch - 1)
        s2.launchBad g.ctx (withKarg y x.desc) = none → s2.waitingConts g.ctx < 64 → ∀ i, s2.freeLaunch = some i →
        ∃ (t : State) (L : Launch), exec .lcontPerform s = .next t ∧ t.launch? i = some L ∧ L.rec_ = recordOf (withKarg y x.desc) ∧ L.ctx = g.ctx ∧
          L.parent = some g.launch ∧ L.sig = none))

/-- R361, R371, R374, R375, R378-R380, R384, R466: the Stoker's step, and the unmapping, waking and doorbells of its queues. That words
whose extra words are not in the ring count as none (log 83), when a wait ends that unmaps (log 84), that a lane without a word acts in
phase 8 (log 85), that a fatal wake leaves WAKE set (log 118), and that posted writes wait behind a doorbell for its phase 2 (log 7) are
the model's choices. -/
def Obligations.StokerEvents : Prop :=
  ∀ (s : State) (l q fn sem c : Nat),
    let k := s.lane l
    let unmaps (m : Nat) (why : UnmapReason) : State := { s with agenda := Turn.event .queueUnmap (.unmap m why) :: s.agenda }
    -- the lanes present their words, and perform them by phase and then by lane; queues are mapped, and waiting signals performed, behind
    -- phase 1
    (s.cur.arg = .none → ∃ (t : State) (first second rest : List Nat),
      let turns := first.map Turn.lane ++ Turn.event .stokerStep (.at 1 0 0) :: second.map Turn.lane ++ Turn.event .stokerStep (.at 2 0 0) :: rest.map Turn.lane
      exec .stokerStep s = .next t ∧ t.agenda = turns ++ s.agenda ∧ t.mem = s.mem ∧ t.cores = s.cores ∧
      (∀ m < 32, t.lane m = match s.laneFetch m with
        | .none => s.lane m
        | .word w e0 e1 e2 => { s.lane m with cmd := some (w, e0, e1, e2) }
        | _ => { s.lane m with late := true }) ∧
      (∀ l, l ∈ first ↔ l < 32 ∧ s.lanePhase l = some 1) ∧ (∀ l, l ∈ second ↔ l < 32 ∧ s.lanePhase l = some 2) ∧
      (∀ l, l ∈ rest ↔ l < 32 ∧ ∃ p, s.lanePhase l = some p ∧ 3 ≤ p) ∧
      (first ++ second ++ rest).Pairwise fun a b => ∀ p r, s.lanePhase a = some p → s.lanePhase b = some r → p < r ∨ p = r ∧ a < b) ∧
    -- queues that unmapped in a wait get their STATE before phase 3, behind the signals of phase 2
    (s.cur.arg = .at 2 0 0 → exec .stokerStep s = .next (s.stoker.waits.foldl (fun (t : State) x => t.endWait x.1 x.2.1 x.2.2)
      { s with stoker := { s.stoker with waits := [] } })) ∧
    -- a queue that is mapped in a step begins its word in the next
    (k.queue.isSome = true → k.cmd = none → k.mappedAt = s.tick.toNat → (s.laneTurn l).2 = none) ∧
    -- and a lane that presented no word begins none
    (k.late = true → (s.laneTurn l).2 = none) ∧
    -- posted writes that waited behind a doorbell come next, and then the doorbells among them
    (∀ n u, s.cur.arg = .at n 0 0 → (n = 1 ∧ u = s.mapAll ∨ n = 3 ∧ u = s) →
      let t := u.stoker.sigQ.foldl (fun (t : State) (x : SigReq) => t.signal x.ctx x.sem x.op x.value) { u with stoker := { u.stoker with sigQ := [] }, posted := [] }
      exec .stokerStep s = .next { t with agenda := u.posted.map (·.2) ++ (if u.posted = [] then [] else [.event .stokerStep (.at 3 0 0)]) ++ t.agenda }) ∧
    (k.queue.isSome = true → s.mapAll.lane l = k) ∧
    -- a free lane takes its first candidate; a ring that claims more words than it has faults instead
    (∀ q, k.queue = none → s.takes l = some q → (swPut (s.statew q) + 2 ^ 32 - s.qRead q 0x18 4) % 2 ^ 32 ≤ s.ringLen q →
      ((s.fillLane l 64).lane l).queue = some q ∧ ((s.fillLane l 64).lane l).get.toNat = s.qRead q 0x18 4 ∧ ((s.fillLane l 64).lane l).mappedAt = s.tick.toNat ∧
      ∀ m, m ≠ l → (s.fillLane l 64).lane m = s.lane m) ∧
    (s.cur.arg = .at l 0 0 →
      let over_ : Prop := l < 30 ∧ k.queue.isSome = true ∧ k.mappedAt + (2 ^ 20 - 2 ^ 16) ≤ s.tick.toNat ∧
        ∃ d < 4, (laneClass l = some d ∨ laneClass l = none) ∧ s.cands d ≠ []
      let tired : Prop := l < 30 ∧ k.queue.isSome = true ∧ ∃ t, k.waitSince = some t ∧ t + 2 ^ 16 ≤ s.tick.toNat
      (over_ → exec .quantumExpiry s = .next (unmaps l .quantum)) ∧ (¬ over_ → exec .quantumExpiry s = .next s) ∧
      (tired → exec .waitTimeout s = .next (unmaps l .quantum)) ∧ (¬ tired → exec .waitTimeout s = .next s)) ∧
    -- the borrower that is reclaimed: of the lowest class, the one mapped last
    (s.cur.arg = .at c 0 0 → c < 4 →
      ((s.cands c = [] ∨ ∃ m < 30, laneClass m = some c ∧ (s.lane m).queue = none) → exec .borrowReclaim s = .next s) ∧
      (s.cands c ≠ [] → (∀ m < 30, laneClass m = some c → (s.lane m).queue ≠ none) →
        ((∀ m q, 24 ≤ m → m < 30 → (s.lane m).queue = some q → s.qClass q ≤ c) → exec .borrowReclaim s = .next s) ∧
        ((∃ m q, 24 ≤ m ∧ m < 30 ∧ (s.lane m).queue = some q ∧ c < s.qClass q) →
          ∃ b q, exec .borrowReclaim s = .next (unmaps b .quantum) ∧ 24 ≤ b ∧ b < 30 ∧ (s.lane b).queue = some q ∧ c < s.qClass q ∧
            ∀ m r, 24 ≤ m → m < 30 → (s.lane m).queue = some r →
              s.qClass r ≤ s.qClass q ∧ (s.qClass r = s.qClass q → (s.lane m).mappedAt ≤ (s.lane b).mappedAt)))) ∧
    -- an unmapped lane is free; its queue's STATE follows the table of R378, with WAKE clear
    (∀ why, s.cur.arg = .unmap l why → k.queue = none → exec .queueUnmap s = .next s) ∧
    (∀ why q, s.cur.arg = .unmap l why → k.queue = some q →
      let t := s.saveLane l q
      let w := t.statew q
      let to_ (u : State) (st : Nat) : Out := .next (u.setQueue q (swWith w (swPut w) (swFault w) false st))
      let more : Bool := swWake w || k.pc != 0 || swPut w != k.get.toNat
      t.lane l = Lane.reset l ∧ (∀ m, m ≠ l → t.lane m = s.lane m) ∧
      (why = .disable → exec .queueUnmap s = to_ t 0) ∧ (why = .miss → exec .queueUnmap s = to_ t 5) ∧
      ((why = .quantum ∨ why = .waiting) → k.inWait = false → exec .queueUnmap s = to_ t (if more then 2 else 1)) ∧
      (why = .noWords → s.partWord l = false → exec .queueUnmap s = to_ t (if more then 2 else 1)) ∧
      -- words that end inside one count as none (R365)
      (why = .noWords → s.partWord l = true → exec .queueUnmap s = to_ t (if swWake w then 2 else 1)) ∧
      -- in a wait, the semaphore unit ends the unmapping: at once where the wait asks for it, else before phase 3
      (why = .quantum → k.inWait = true → exec .queueUnmap s =
        .next { t with stoker := { t.stoker with waits := t.stoker.waits ++ [(q, k.waitInfo.1, k.waitInfo.2)] } }) ∧
      (why = .waiting → k.inWait = true → exec .queueUnmap s = .next (t.endWait q k.waitInfo.1 k.waitInfo.2))) ∧
    (∀ (u : State) (info val : Nat),
      let w := u.statew q
      let turns (u : State) (st : Nat) : State := u.setQueue q (swWith w (swPut w) (swFault w) false st)
      (swState w ≠ 3 → u.endWait q info val = u) ∧
      (swState w = 3 → swWake w = true → u.endWait q info val = turns u 2) ∧
      (swState w = 3 → swWake w = false → u.watchFor (u.qCtx q) q info val = none → u.endWait q info val = turns u 2) ∧
      ∀ x, swState w = 3 → swWake w = false → u.watchFor (u.qCtx q) q info val = some x → u.endWait q info val = turns x 4) ∧
    -- a wait that is to be watched: its condition does not hold, or its tick is to come
    (∀ (info val : Nat),
      (bits info 12 1 = 1 → ((s.watchFor fn q info val).isSome = true ↔ s.tick.toNat < val)) ∧
      (∀ x, bits info 12 1 = 0 → s.semRead fn (info % 1024) = .ok x → s.stoker.watch.length < 1024 →
        ((s.watchFor fn q info val).isSome = true ↔ waitHolds (match bits info 10 2 with | 0 => .ge | 1 => .eq | _ => .ne) x (BitVec.ofNat 64 val) = false)) ∧
      (1024 ≤ s.stoker.watch.length → bits info 12 1 = 0 → s.watchFor fn q info val = none)) ∧
    (s.cur.arg = .at q 0 0 → exec .waittTimer s = .next (if ∃ t ∈ s.stoker.timers, t.1 = q ∧ t.2.toNat ≤ s.tick.toNat then
      s.setQueue q (swWith (s.statew q) (swPut (s.statew q)) (swFault (s.statew q)) true (if swState (s.statew q) = 4 then 2 else swState (s.statew q))) else s)) ∧
    -- a wake carries PUT; only the queue's own function reaches it, outside a reset, and it waits behind the function's doorbells
    (∀ v : BitVec 256, s.cur.arg = .value fn q v →
      let put := v.toNat % 2 ^ 32
      let w := s.statew q
      let st := swState w
      let held (i : Instr) : Prop := exec i s = .next { s with posted := s.posted ++ [(fn, .event i (.value fn q v))] }
      let wakes : State := (s.qTouch q).setQueue q (swWith w put (swFault w) true (if st = 1 ∨ st = 4 ∨ st = 5 then 2 else st))
      (s.postedWaits fn = true ↔ (∃ x ∈ s.stoker.sigQ, x.door = true ∧ x.ctx = fn) ∨ ∃ e ∈ s.posted, e.1 = fn) ∧
      (s.postedWaits fn = true → held .wake ∧ held .wakeFatal) ∧
      (s.postedWaits fn = false →
        (8192 ≤ q ∨ fn ∈ s.box.inReset → exec .wake s = .next s ∧ exec .wakeFatal s = .next s) ∧
        (q < 8192 → fn ∉ s.box.inReset → s.qRead q 0x12 2 ≠ fn → exec .wake s = .next (s.qTouch q) ∧ exec .wakeFatal s = .next (s.qTouch q)) ∧
        (q < 8192 → s.qRead q 0x12 2 = fn → fn ∉ s.box.inReset →
          exec .wake s = .next wakes ∧ (st ≠ 5 → exec .wakeFatal s = .next wakes) ∧
          -- a fatal wake of a parked queue faults it, at the word where it stands
          (st = 5 →
            let u := (s.qTouch q).setQueue q (swWith w put (swFault w) true 5)
            let addr := if u.qRead q 0x20 8 = 0 then u.ringBase q + 8 * (u.qRead q 0x18 4 % u.ringLen q) else u.qRead q 0x20 8
            exec .wakeFatal s = .next (u.faultQueue q 3 addr (tget 0 u.stoker.missed q) true))))) ∧
    -- a doorbell waits for the next phase 2, behind posted writes of its function that wait already
    (∀ v : BitVec 256, s.cur.arg = .value fn sem v → sem < 1024 →
      let rings (i : Instr) (m : SignalOp) : State :=
        if ∃ e ∈ s.posted, e.1 = fn then { s with posted := s.posted ++ [(fn, .event i (.value fn sem v))] }
        else if fn < 64 ∧ fn ∉ s.box.inReset then
          { s with stoker := { s.stoker with sigQ := s.stoker.sigQ ++ [{ ctx := fn, sem := sem, op := m, value := BitVec.ofNat 64 (v.toNat % 2 ^ 32), door := true }] } }
        else s
      exec .semdoorSet s = .next (rings .semdoorSet .set) ∧ exec .semdoorAdd s = .next (rings .semdoorAdd .add) ∧ exec .semdoorMax s = .next (rings .semdoorMax .max))

/-- R37-R40, R351, R404, R406, R417-R419, R441, R449-R460: the events of the Flue and the Damper, and of the Mantel slots that they read.
Which reason a latch that fails reports (log 97), that a line is read at its start (log 95), what a set must give (log 98), the bound of a
reservation (log 101), and that RUN has no effect below STAGE 4 (log 112) are the model's choices. -/
def Obligations.FlueAndDamperEvents : Prop :=
  ∀ (s : State) (n r b j0 : Nat),
    let k := s.line n
    let h := s.head n
    (s.cur.arg = .at n r 0 → exec .wArrival s = .next (if (k.wr r).st = .pending then
      s.setLine n { k with w := tput k.w r { st := .full, data := (k.wr r).data } } else s)) ∧
    (∀ v, s.cur.arg = .value b 0 v →
      (8192 ≤ b → exec .fcodeWrite s = .next s) ∧
      (b < 8192 → ∃ (t : State), exec .fcodeWrite s = .next t ∧ t = { s with flue := { s.flue with code := t.flue.code } } ∧
        tget 0#256 t.flue.code b = v ∧ ∀ c, c ≠ b → tget 0#256 t.flue.code c = tget 0#256 s.flue.code c)) ∧
    exec .flueCycle s = .next { s with flue := { s.flue with fcyc := s.flue.fcyc + 1 } } ∧
    -- a head starts at the next multiple of 8 ticks, with nothing latched; a write that breaks a condition of R449 changes nothing
    (∀ v : BitVec 256, s.cur.arg = .value n 0 v →
      let w : DWord := v.setWidth 64
      let legal : Prop := n < 20 ∧ w &&& 0x1FFF1FF7 = w ∧ bits w.toNat 1 2 ≠ 3
      ((v.getLsbD 0 = false ∨ h.enabled = true) → exec .headEnable s = .next s) ∧
      (v.getLsbD 0 = true → h.enabled = false → (¬ legal ∨ s.enableOk n { h with cfg := w } = false) → exec .headEnable s = .next s) ∧
      (v.getLsbD 0 = true → h.enabled = false → legal → s.enableOk n { h with cfg := w } = true → ∃ (t : State), exec .headEnable s = .next t ∧
        t.head n = { h with cfg := w, t0 := (s.tick.toNat + 7) / 8 * 8, line := 0, frame := 0, curLine := 0, falls := 0, readies := 0, bands := [], nextBand := 0,
                            frameDone := [] } ∧ (∀ m, m ≠ n → t.head m = s.head m) ∧ t.cores = s.cores ∧ t.stoker = s.stoker) ∧
      ((v.getLsbD 0 = true ∨ h.enabled = false) → exec .headDisable s = .next s) ∧
      (v.getLsbD 0 = false → h.enabled = true → legal → w = h.cfg &&& ~~~1#64 → ∃ (t : State), exec .headDisable s = .next t ∧
        (t.head n).cfg = w ∧ (t.head n).bands = [] ∧ (∀ m, m ≠ n → t.head m = s.head m) ∧
        ∀ c p, (s.line c).running = true → (s.line c).band = some p → p.head = n → (h.band? p.band).isSome = true → (t.line c).running = false)) ∧
    (s.cur.arg = .at n 0 0 →
      let y := h.line % h.vtotal
      let f := h.line / h.vtotal
      let fill : Word := h.fill.setWidth 32
      ((h.enabled = false ∨ s.tick.toNat < h.at_ h.line) → exec .lineStart s = .next s) ∧
      (h.enabled = true → h.at_ h.line ≤ s.tick.toNat → ∃ (t : State), exec .lineStart s = .next t ∧
        (t.head n).line = h.line + 1 ∧ (t.head n).frame = BitVec.ofNat 32 f ∧ (t.head n).curLine = y ∧
        (t.head n).bands = h.bands.filter (fun x => x.n + h.bandLines ≠ h.line) ∧ (∀ m, m ≠ n → t.head m = s.head m) ∧
        -- behind the last line of a frame a memory head stores its frame word
        ((n < 4 ∨ y ≠ h.vactive) → t.agenda = s.agenda ∧ (t.head n).frameDone = h.frameDone) ∧
        (4 ≤ n → y = h.vactive → t.agenda = .event .frameWordStore (.at n 0 0) :: s.agenda ∧ (t.head n).frameDone = h.frameDone ++ [f]) ∧
        -- a pixel is the low three bytes of its word (R446)
        let px (w : Word) : Pixel := { red := w.extractLsb' 0 8, green := w.extractLsb' 8 8, blue := w.extractLsb' 16 8 }
        -- a line: of a ready band the words of its parts, else the colour plane under the pose's displacement, else FILL
        (∀ bd : Band, y < h.vactive → n < 4 → h.band? (f * h.vtotal + y / h.bandLines * h.bandLines) = some bd →
          (bd.decision ≠ .ready → bd.hdr = none → (t.head n).sent = List.replicate h.hactive (px fill)) ∧
          (∀ d x, bd.decision ≠ .ready → bd.hdr = some d → x < h.hactive →
            let pa := d.base + d.cplane + clampTo d.height ((y : Int) - poseShift bd.dy) * d.pitch + 4 * clampTo d.width ((x : Int) - poseShift bd.dx)
            s.mem.poisoned pa 4 = false → (t.head n).sent[x]? = some (px (BitVec.ofNat 32 (s.rawRead pa 4)))) ∧
          (∀ p i, bd.decision = .ready → bd.parts = [p] → i < p.cols →
            let a := (p.start + bd.pw * (y - bd.n % h.vtotal) + i) % 65536
            (t.head n).sent[i]? = some (px (if a ∈ (s.line p.core).badWords then fill else tget 0#32 (s.line p.core).lb a)))) ∧
        -- a memory head writes the line to its ring
        (∀ (bd : Band) (x : Nat), 4 ≤ n → y < h.vactive → h.band? (f * h.vtotal + y / h.bandLines * h.bandLines) = some bd → bd.decision = .fell → bd.hdr = none →
          let line := bits h.ring.toNat 12 40 * 4096 + f % h.frames * h.frameBytes + y * h.linePitch
          x < h.hactive → (∀ i < h.hactive, s.isHomed (line + 4 * i) = true ∧ s.isFree (line + 4 * i) = false ∧ s.stateWord (line + 4 * i) 4 = none) →
          t.mem.read (line + 4 * x) 4 = fill.toNat))) ∧
    (s.cur.arg = .at n 0 0 →
      (h.frameDone = [] → exec .frameWordStore s = .next s) ∧
      (∀ f rest, h.frameDone = f :: rest → ∃ (t : State), exec .frameWordStore s = .next t ∧ (t.head n).frameDone = rest ∧
        let pa := bits h.dmseq.toNat 3 49 * 8
        (s.isHomed pa = true → s.isFree pa = false → s.stateWord pa 8 = none → SameBytesBut s t pa 8 ∧ t.mem.read pa 8 = (f + 1) % 2 ^ 64))) ∧
    -- the latch of the next band pins the newest slot; without what it needs, the band falls back at once
    (s.cur.arg = .at n j0 0 →
      let due : Prop := h.enabled = true ∧ j0 = h.bandStart h.nextBand ∧ (if j0 < h.lead then h.t0 else h.at_ (j0 - h.lead)) ≤ s.tick.toNat
      let cores := s.idleLines n (h.bandLines * h.partWidth)
      let falls (reason : Nat) : Prop := ∃ (t : State) (bd : Band), exec .bandLatch s = .next t ∧ (t.head n).band? j0 = some bd ∧ bd.decision = .fell ∧
        (t.head n).nextBand = h.nextBand + 1 ∧ (t.head n).falls = h.falls + 1 ∧ (t.head n).last.toNat % 2 ^ 16 = reason
      (¬ due → exec .bandLatch s = .next s) ∧
      (due → h.band? j0 = none →
        (j0 < h.lead → falls 7) ∧
        (h.lead ≤ j0 → (s.flue.ctl.getLsbD 0 = false ∨ s.box.stage ≠ 4) → falls 2) ∧
        (h.lead ≤ j0 → s.flue.ctl.getLsbD 0 = true → s.box.stage = 4 →
          (s.newestSlot h.set = none → falls 1) ∧
          (∀ w, s.newestSlot h.set = some w → (s.pin w).slotHeader w = none → falls 1) ∧
          (∀ w hd, s.newestSlot h.set = some w → (s.pin w).slotHeader w = some hd → cores.length < h.partCount → falls 2) ∧
          (∀ w hd, s.newestSlot h.set = some w → (s.pin w).slotHeader w = some hd → h.partCount ≤ cores.length → ∃ (t : State) (bd : Band),
            exec .bandLatch s = .next t ∧ t.mem = (s.pin w).mem ∧ (t.head n).band? j0 = some bd ∧ bd.decision = .undecided ∧ bd.slot = some w ∧ bd.pinned = true ∧
            bd.hdr = some hd ∧ bd.parts.map (·.core) = cores.take h.partCount ∧
            ∀ p i, bd.parts[i]? = some p → p.first = i * h.partWidth ∧ p.ready = false ∧ p.start = (s.line p.core).rhead ∧
              (t.line p.core).running = true ∧ (t.line p.core).startAt = s.tick.toNat + 32 ∧ (t.line p.core).pc = ((tget 0#64 s.flue.fentry n).toNat : Int) ∧
              (t.line p.core).band = some { head := n, band := j0, part := i })))) ∧
    (s.cur.arg = .at n j0 0 →
      exec .bandDeadline s = .next (if h.enabled = true ∧ h.at_ (j0 - h.guard) ≤ s.tick.toNat then s.fallBack n j0 5 none else s)) ∧
    -- reservations: at most half of a window's transfers
    (∀ v : BitVec 256, s.cur.arg = .value 0 0 v →
      let x := v.toNat % 2 ^ 64
      let target := bits x 56 8
      let bad : Prop := ¬ (target ≤ 0x17 ∨ 0x20 ≤ target ∧ target ≤ 0x3F) ∨ bits x 54 2 ≠ 0 ∨ bits x 16 32 ≠ 0 ∨ 170 < bits x 0 16
      (bad → exec .dresvWrite s = .next s) ∧
      (¬ bad → ∃ (t : State), exec .dresvWrite s = .next t ∧ t = { s with hearth := { s.hearth with resv := t.hearth.resv } } ∧
        tget 0 t.hearth.resv (64 * target + bits x 48 6) = bits x 0 16 ∧
        ∀ i, i ≠ 64 * target + bits x 48 6 → tget 0 t.hearth.resv i = tget 0 s.hearth.resv i)) ∧
    -- a published slot that is unpinned and not the newest becomes EMPTY
    (s.cur.arg = .at n 0 0 →
      (n ∉ s.retirable → exec .slotRetire s = .next s) ∧
      (n ∈ s.retirable → s.isFree n = false → ∃ (t : State), exec .slotRetire s = .next t ∧ SameBytesBut s t n 1 ∧
        (t.mem.byte n).toNat = (s.mem.byte n).toNat / 16 * 16 ∧ tfind t.damper.retire n = none))

/-- R466-R468, R471, R472, R475, R476: start-up, attestation, function-level resets and context windows. That a function-level reset takes
two events (log 108) and ends within a bound at a free time (log 14), that ATTGO clears ATTERR (log 109), that a host address lies behind
2^51 (log 24), and that a posted write behind a doorbell waits for it (log 7) are the model's choices. -/
def Obligations.FireboxEvents : Prop :=
  ∀ (s : State) (fn ph : Nat),
    let b := s.box
    -- STAGE becomes `n`, and MGMTCAUSE.BOOT is set
    let stage (i : Instr) (n : Nat) (p : State → Prop) : Prop := ∃ (t : State), exec i s = .next t ∧ t.box.stage = n ∧ t.box.mgmtcause.getLsbD 4 = true ∧
      (∀ k, k < 2 ^ 51 → t.mem.byte k = s.mem.byte k) ∧ t.cores = s.cores ∧ p t
    ((b.stage = 0 ∨ b.stage = 5) → stage .bootGo 1 fun t => t.box.err = b.err ∧ t.box.bootgo = false) ∧
    ((b.stage ≠ 0 ∧ b.stage ≠ 5) → exec .bootGo s = .next { s with box := { b with bootgo := false } }) ∧
    (∀ ok, s.cur.arg = .at ok 0 0 →
      (b.stage ≠ 1 → exec .imageLoaded s = .next s) ∧
      (b.stage = 1 → ok = 0 → stage .imageLoaded 5 fun t => t.box.err = 3) ∧
      (b.stage = 1 → ok ≠ 0 → stage .imageLoaded 2 fun t => ∀ i, i < min b.fwlen.toNat (2 ^ 23) →
        (tget 0#8 t.box.store i).toNat = s.byteAt (2 ^ 51 + b.fwaddr.toNat % 2 ^ 51 + i))) ∧
    -- the first check of R472 that fails gives ERR
    (let ways (a : Nat) : Nat := b.storeRead (a + 0x20) 1
     let err : Nat := if b.storeRead 0 4 ≠ 0x4B465731 then 1 else if b.layoutOk = false then 2
       else if hssVerifies (Config.hssKey.take 60) (b.image (b.storeRead 0x1C 4)) b.signature = false then 4
       else match b.record with | none => 5 | some a => if 1 ≤ ways a ∧ ways a ≤ 8 then 0 else 6
     (b.stage ≠ 2 → exec .imageVerified s = .next s) ∧
     (b.stage = 2 → err ≠ 0 → stage .imageVerified 5 fun t => t.box.err.toNat = err) ∧
     (b.stage = 2 → err = 0 → stage .imageVerified 3 fun t => t.box.imageLen = b.storeRead 8 4 ∧ t.box.entry30 = b.storeRead 0x0C 4 ∧ t.box.entry31 = b.storeRead 0x10 4)) ∧
    -- the handover unmaps the queues and saves the blocks, and then starts lanes 30 and 31 in the image
    (b.stage ≠ 3 → exec .handover s = .next s) ∧
    (b.stage = 3 → b.handing = false → ∃ (t : State), exec .handover s = .next t ∧ t.box.handing = true ∧ t.box.stage = 3 ∧ (∀ l < 30, (t.lane l).queue = none) ∧
      ∀ c sl x L, s.group? c sl = some x → x.remnant = false → s.launch? x.launch = some L → L.ctx < 64 → ∃ q ∈ t.saving, q.core = c ∧ q.launch = x.launch) ∧
    (b.stage = 3 → b.handing = true → (s.saving ≠ [] ∨ ∃ l < 30, (s.lane l).queue ≠ none) → exec .handover s = .next s) ∧
    (b.stage = 3 → b.handing = true → s.saving = [] → (∀ l < 30, (s.lane l).queue = none) → stage .handover 4 fun t => t.box.handing = false ∧
      t.lane 30 = { Lane.reset 30 with pc := BitVec.ofNat 64 b.entry30 } ∧ t.lane 31 = { Lane.reset 31 with pc := BitVec.ofNat 64 b.entry31 } ∧
      ∀ a, b.record = some a → t.hearth.mantelWays = b.storeRead (a + 0x20) 1) ∧
    -- attestation: one index for good, 1,024 signatures
    (let i := b.attidx.toNat % 2 ^ 15
     let go (f : Firebox) : Out := .next { s with box := f }
     ((b.stage ≠ 4 ∨ b.attgo = true) → exec .attestGo s = .next s) ∧
     (b.stage = 4 → b.attgo = false →
       ((∃ j, b.fixedIndex = some j ∧ j ≠ i) → exec .attestGo s = go { b with atterr := 1 }) ∧
       ((∀ j, b.fixedIndex = some j → j = i) → 1024 ≤ b.attCount → exec .attestGo s = go { b with atterr := 2 }) ∧
       ((∀ j, b.fixedIndex = some j → j = i) → b.attCount < 1024 → exec .attestGo s = go { b with attgo := true, fixedIndex := some i, atterr := 0 }))) ∧
    (b.attgo = false → exec .attestDone s = .next s) ∧
    (b.attgo = true →
      let pa := 2 ^ 51 + b.outaddr.toNat % 2 ^ 51
      ∃ (t : State), exec .attestDone s = .next t ∧ t.box.attgo = false ∧ t.box.attdone = true ∧ t.box.attCount = b.attCount + 1 ∧ t.box.mgmtcause.getLsbD 4 = true ∧
      -- the record, where the vector's message does not come behind it
      (s.slotSets = [] → pa + 5340 ≤ 2 ^ 52 → (b.mgmtcause.getLsbD 4 = true ∨ (s.msixWord 0 0 1).getLsbD 32 = true) → SameBytesBut s t pa 5340 ∧ (∀ i < 4, t.mem.read (pa + 8 * i) 8 = (tget 0#64 b.chal i).toNat) ∧
        (∀ i < 32, t.mem.byte (pa + 0x20 + i) = (sha256 (b.image b.imageLen)).getD i 0) ∧ t.mem.read (pa + 0x40) 32 = Config.devid.toNat ∧
        t.mem.read (pa + 0x60) 8 = s.tick.toNat)) ∧
    -- a reset of function 0 is a power-on; one of another function begins, and ends with nothing of its context left
    (s.cur.arg = .at fn ph 0 →
      (64 ≤ fn → exec .functionReset s = .next s) ∧
      (fn = 0 → ∃ (t : State), exec .functionReset s = .next t ∧ t = { State.reset with free := s.free, inputs := s.inputs, mem := t.mem } ∧
        (∀ k, k < 2 ^ 50 → t.mem.byte k = 0) ∧ ∀ k, 2 ^ 50 ≤ k → t.mem.byte k = s.mem.byte k) ∧
      (0 < fn → fn < 64 → fn ∉ b.inReset → ph = 0 → ∃ (t : State), exec .functionReset s = .next t ∧ fn ∈ t.box.inReset ∧ t.ctxRun fn = false ∧
        (∀ l < 30, ∀ q, (s.lane l).queue = some q → s.qCtx q = fn → (t.lane l).queue = none) ∧
        ∀ c sl x L, s.group? c sl = some x → x.remnant = false → s.launch? x.launch = some L → L.ctx = fn → ∃ q ∈ t.saving, q.core = c ∧ q.launch = x.launch) ∧
      -- it completes once its blocks are saved and its queues unmapped, and in 100 ms at the latest
      (let ready : Prop := (∀ q ∈ s.saving, ∀ L, s.launch? q.launch = some L → L.ctx ≠ fn) ∧ ∀ l < 30, ∀ q, (s.lane l).queue = some q → s.qCtx q ≠ fn
       let late : Prop := tget 0 b.resetAt fn + 800000000 ≤ s.tick.toNat
       (fn ∈ b.inReset → ¬ ready → ¬ late → 0 < fn → exec .functionReset s = .next s) ∧
       (0 < fn → fn < 64 → fn ∈ b.inReset → ph = 1 → (ready ∨ late) → ∃ (t : State), exec .functionReset s = .next t ∧ fn ∉ t.box.inReset ∧ tget 0#64 t.sup.ctxctl fn = 0 ∧
        (∀ e ∈ t.launches, e.2.ctx ≠ fn) ∧ (∀ v < 1024, t.bound fn v = none) ∧ t.box.mgmtcause.getLsbD 6 = true)) ∧
      (0 < fn → fn < 64 → (fn ∈ b.inReset ↔ ph ≠ 1) → ph ≠ 0 ∨ fn ∈ b.inReset → exec .functionReset s = .next s)) ∧
    -- context windows: what fails reads as ones and sets WFAULT
    (∀ off n v, s.cur.arg = .window fn off n v →
      -- a function has a window of 64 GiB (R464)
      ((64 ≤ fn ∨ 2 ^ 36 < off + n) → ∀ need, s.windowTr fn off n need = none) ∧
      -- what an access leaves of the caches: the lines of its walks, and those that it reads
      let touched (u t : State) : Prop := ∃ h : Hearth, h = { u.hearth with l2 := h.l2, hearthLines := h.hearthLines, touches := h.touches } ∧ t = { u with hearth := h }
      (∀ need rd, touched s (s.windowTouch fn off n need rd)) ∧
      (s.windowTr fn off n .r = none → ∃ (t : State), exec .contextWindowRead s = .next t ∧ t.lastRead = BitVec.ofNat 64 (256 ^ n - 1) ∧ fn ∈ t.box.wfault ∧
        t.mem = s.mem) ∧
      (∀ ps x, s.windowTr fn off n .r = some ps → s.readHome ps = .ok x → exec .contextWindowRead s =
        .next { s.windowTouch fn off n .r true with lastRead := BitVec.ofNat 64 x }) ∧
      -- a write waits behind the function's doorbells
      (s.postedWaits fn = true → exec .contextWindowWrite s = .next { s with posted := s.posted ++ [(fn, .event .contextWindowWrite (.window fn off n v))] }) ∧
      (s.postedWaits fn = false →
        (fn ∈ b.inReset → exec .contextWindowWrite s = .next s) ∧
        (fn ∉ b.inReset → s.windowTr fn off n .w = none → ∃ (t : State), exec .contextWindowWrite s = .next t ∧ fn ∈ t.box.wfault ∧ t.mem = s.mem) ∧
        ∀ ps, fn ∉ b.inReset → s.windowTr fn off n .w = some ps →
          let r := (s.windowTouch fn off n .w false).writeHome {} ps v.toNat
          (r.2 = true → exec .contextWindowWrite s = .next r.1) ∧
          -- a part that the home slice rejects is kept from memory, and reported
          (r.2 = false → exec .contextWindowWrite s = .next { r.1 with box := { r.1.box with wfault := sinsert r.1.box.wfault fn } })))

/-- R9, R477-R479, R482-R485: ports, peers, the debugger, and the registers that the host writes. The form of the base address registers
(log 148), what BOOTCTL reads and bits that R483 does not list (logs 123 and 51), that the debugger's writes without a meaning are discarded
(log 113), and that a posted write behind a doorbell waits for it (log 7) are the model's choices. -/
def Obligations.HostEvents : Prop :=
  ∀ (s : State) (p c : Nat),
    let b := s.box
    let up := tget false b.ports p
    -- the 16th failed replay of one flit takes the port down
    (s.cur.arg = .at p 0 0 →
      (up = false → exec .flitCrcError s = .next s) ∧
      (up = true → ∃ (t : State) (n : Nat), exec .flitCrcError s = .next t ∧ (n = 1 ∨ n = tget 0 b.replays p + 1) ∧ tget 0 t.box.replays p = n ∧ t.box.ports = b.ports ∧
        t.agenda = (if 17 ≤ n then [.event .portDown (.at p 0 0)] else []) ++ s.agenda) ∧
      (∀ (i : Instr) (to_ : Bool), (i = .portDown ∧ to_ = false ∨ i = .portUp ∧ to_ = true) →
        ((8 ≤ p ∨ up = to_ ∨ to_ = true ∧ b.stage ≠ 4) → exec i s = .next s) ∧
        (p < 8 → up ≠ to_ → (to_ = true → b.stage = 4) → ∃ (t : State), exec i s = .next t ∧ tget false t.box.ports p = to_ ∧
          (∀ q, q ≠ p → tget false t.box.ports q = tget false b.ports q) ∧ t.box.mgmtcause.getLsbD 3 = true ∧ ∀ k, k < 2 ^ 51 → t.mem.byte k = s.mem.byte k))) ∧
    -- a peer reaches what INGRESS admits, at the home slices; everything else is refused
    (∀ req : PeerReq, s.cur.arg = .peer p req →
      let off := (peerRange req).1
      let n := (peerRange req).2
      let r := (tget 0#64 b.ingress p).toNat
      let lo := bits r 0 9 * 2 ^ 30
      let admitted : Prop := p < 8 ∧ s.peerUp p = true ∧ lo ≤ off ∧ off + n ≤ lo + bits r 32 9 * 2 ^ 30 ∧ off + n ≤ 0x6000000000
      let plain : Prop := s.isHomed off = true ∧ s.isFree off = false ∧ s.stateWord off n = none
      -- the value read is kept, and `new` is stored
      let stores (new : Nat) (t : State) : Prop := t.mem.read off n = new % 256 ^ n
      (¬ admitted → exec .peerRequest s = .next s) ∧
      (admitted → plain → s.hearth.requests = [] → s.hearth.routers = [] → ∀ x, s.homeRead off n = .ok x →
        (req = .read off n → exec .peerRequest s = .next { s with lastRead := BitVec.ofNat 64 x }) ∧
        (∀ v, req = .write off n v → ∃ (t : State), exec .peerRequest s = .next t ∧ stores v.toNat t ∧ SameBytesBut s t off n) ∧
        (∀ m ty v, req = .atom m ty off n v → ∃ (t : State), exec .peerRequest s = .next t ∧ t.lastRead = BitVec.ofNat 64 x ∧
          stores (atomVal m ty (8 * n) x v.toNat) t ∧ SameBytesBut s t off n) ∧
        (∀ old new, req = .cas off n old new → ∃ (t : State), exec .peerRequest s = .next t ∧ t.lastRead = BitVec.ofNat 64 x ∧
          (x = old.toNat % 256 ^ n → stores new.toNat t) ∧ (x ≠ old.toNat % 256 ^ n → SameBytes s t) ∧ SameBytesBut s t off n))) ∧
    -- the debugger
    (s.cur.arg = .at c 0 0 →
      ((384 ≤ c ∨ (s.core c).halted = true) → exec .debugHalt s = .next s) ∧
      -- WATCHDOG traps that its ready fragments owe come first (R105)
      (c < 384 → (s.core c).halted = false → ∃ (t : State), exec .debugHalt s = .next t ∧ (t.core c).halted = true ∧ t.box.mgmtcause.getLsbD 5 = true) ∧
      (c < 384 → (s.core c).halted = false → (∀ e ∈ (s.core c).groups, ∀ n ∈ e.2.nodes ++ e.2.stack, n.owes = false) →
        ∃ (t : State), exec .debugHalt s = .next t ∧ t.core c = { s.core c with halted := true } ∧
        (∀ d, d ≠ c → t.core d = s.core d) ∧ t.box.mgmtcause.getLsbD 5 = true ∧ ∀ k, k < 2 ^ 51 → t.mem.byte k = s.mem.byte k) ∧
      exec .debugResume s = .next (if (s.core c).halted = true then s.setCore c { s.core c with halted := false } else s)) ∧
    ((s.core b.dbgCore).halted = false → exec .dbgdataRead s = .next { s with lastRead := 0, box := { b with dbgErr := true } } ∧
      ∀ v, s.cur.arg = .value 0 0 v → exec .dbgdataWrite s = .next { s with box := { b with dbgErr := true } }) ∧
    -- the registers of every lane of a slot are there, whatever the lane does
    (∀ g l, s.group? b.dbgCore (bits b.dbgSel.toNat 24 6) = some g → s.launch? g.launch = some l →
      ∃ v : View, s.dbgView s.dbgName = some v ∧ v.g = g ∧ ∀ nd, g.place (bits b.dbgSel.toNat 16 7) = some nd → v.nd = nd) ∧
    (∀ v : View, (s.core b.dbgCore).halted = true → s.dbgView s.dbgName = some v →
      let x := b.dbgSel.toNat
      let file := bits x 60 4
      let lane := bits x 16 7
      let i := bits x 0 16
      let t := v.g.thread lane
      let reads (n : Nat) : Prop := exec .dbgdataRead s = .next { s with lastRead := BitVec.ofNat 64 n }
      (file = 0 → i < v.g.win → reads (t.cell i).toNat) ∧ (file = 1 → i < 128 → reads (v.g.kreg i).toNat) ∧
      (file = 2 → i < 16 → reads (if t.p i = true then 1 else 0)) ∧ (file = 3 → i < 512 → reads (v.g.hword i).toNat) ∧ (file = 4 → reads v.nd.pc.toNat) ∧
      (file = 5 → sysAssigned i = true → reads (v.sysVal lane t i)) ∧ (5 < file → reads 0) ∧
      ∀ y : BitVec 256, s.cur.arg = .value 0 0 y → ∃ g : Group, exec .dbgdataWrite s = .next (s.setGroup b.dbgCore (bits x 24 6) g) ∧
        (file = 1 → 0 < i → i < 128 → g.kreg i = BitVec.ofNat 32 y.toNat) ∧ (file = 1 → i = 0 → g = v.g) ∧ (4 ≤ file → file ≠ 5 → g = v.g) ∧
        (file = 0 → i < v.g.win → (tfind v.g.threads lane).isSome = true → (g.thread lane).cell i = BitVec.ofNat 32 y.toNat)) ∧
    -- registers
    (∀ (r : HostReg) (v : DWord), s.cur.arg = .host r v →
      let x := v.toNat
      let box (f : Firebox) : Out := .next { s with box := f }
      let acts (ts : List Turn) : Out := .next { s with agenda := ts ++ s.agenda }
      let o := exec .registerWrite s
      let owner : Nat := (pageOwner r).getD 0
      let held : Prop := o = .next { s with posted := s.posted ++ [(owner, .event .registerWrite (.host r v))] }
      -- a configuration write is not posted; any other waits behind the function's doorbells, a doorbell only behind what waits already
      ((∀ fn i, r ≠ .bar fn i) → (∀ fn, r ≠ .semdoor fn) → s.postedWaits owner = true → held) ∧
      (∀ fn, r = .semdoor fn → (∃ e ∈ s.posted, e.1 = fn) → held) ∧
      (s.postedWaits owner = false →
      (∀ fn, pageOwner r = some fn → fn ∈ b.inReset → o = .next s) ∧
      (∀ off, r = .readOnly off → o = .next s) ∧
      (∀ fn sem, r = .semdoor fn → fn ∉ b.inReset → fn < 64 → sem < 1024 → x = x / 2 ^ 32 * 2 ^ 32 + 2 ^ 12 + sem →
        o = acts [.event .semdoorAdd (.value fn sem (BitVec.ofNat 256 (x / 2 ^ 32)))]) ∧
      (∀ fn q, r = .wakeReg fn q → fn ∉ b.inReset → fn < 64 → (x < 2 ^ 32 → o = acts [.event .wake (.value fn q (BitVec.ofNat 256 x))]) ∧
        (2 ^ 33 ≤ x → o = .next s)) ∧
      (r = .bootctl → o = if v = 1 ∧ (b.stage = 0 ∨ b.stage = 5) then
        .next { s with box := { b with bootgo := true }, agenda := Turn.event .bootGo .none :: s.agenda } else .next s) ∧
      -- a base address register keeps the bits above its size (R464)
      (∀ fn i, r = .bar fn i → fn < 64 → (i = 0 ∨ i = 1 ∧ fn = 0 ∨ i = 2) → o = box { b with
        bars := tset 0#64 b.bars (3 * fn + i) (BitVec.ofNat 64 (let n := if i = 0 then 2 ^ 17 else if i = 1 then 2 ^ 23 else 2 ^ 36; x / n * n)) }) ∧
      (r = .fwaddr → o = if x % 4096 = 0 then box { b with fwaddr := v } else .next s) ∧
      (r = .fwlen → o = if x < 2 ^ 32 then box { b with fwlen := v } else .next s) ∧
      (∀ i, r = .chal i → i < 4 → o = box { b with chal := tset 0#64 b.chal i v }) ∧
      (r = .attidx → o = if x < 2 ^ 15 then box { b with attidx := v } else .next s) ∧
      (r = .plimit → o = if 300 ≤ x ∧ x ≤ 1600 then box { b with plimit := v } else .next s) ∧
      -- the bits written as 1 clear
      (r = .mgmtcause → o = box { b with mgmtcause := b.mgmtcause &&& ~~~v }) ∧
      (∀ i, r = .cwbase i → i < 64 → o = box { b with cwbase := tset 0#64 b.cwbase i v }) ∧
      (r = .dbgsel → o = box { b with dbgSel := v }) ∧
      (r = .dbgdata → o = acts [.event .dbgdataWrite (.value 0 0 (v.setWidth 256))]) ∧
      (r = .dresv → o = acts [.event .dresvWrite (.value 0 0 (v.setWidth 256))]) ∧
      -- supervisor registers, before the image takes over
      (∀ n, r = .sup n → o = if b.stage < 3 ∧ supAssigned n = true then .next (s.supSet n v) else .next s) ∧
      (∀ h, r = .fcores h → h < 20 → o = .next { s with flue := { s.flue with fcores := tset 0#64 s.flue.fcores h v } }) ∧
      (∀ h, r = .head h 0x28 → h < 20 → x < 2 ^ 32 → o = .next (s.setHead h { s.head h with fill := v })) ∧
      -- the geometry of an enabled head stays
      (∀ h off, r = .head h off → off ∈ [0x08, 0x10, 0x18, 0x20, 0x30] → (s.head h).enabled = true → o = .next s)))

/-! ### The whole machine -/

/-- R141: a word of the integer unit that its checks let through runs without a trap. It writes neither FPFLAGS nor PR, and accesses no
memory; only its destination's cells, or predicate, of its active lanes change, and its fragment goes on. -/
def Obligations.IntegerUnitFrame : Prop :=
  ∀ (s : State) (v : View) (w : CastWord) (m : CmpOp) (i : Instr),
    i ∈ [.iadd w, .isub w, .ineg w, .iabs w, .imin w, .imax w, .imul w, .imulh w, .imad w, .idivs w, .idive w, .and w, .or w, .xor w, .andn w, .not w,
      .tern w, .shl w, .shr w, .sar w, .rot w, .bfx w, .bfi w, .popc w, .clz w, .brev w, .icmp m w, .sel w, .mov w, .lea w, .leaGlb w, .idp4 w, .idp2 w,
      .perm w, .icvt w] →
    s.issues i w v → ∃ (t : State) (g : Group), exec i s = .next t ∧ v.leaves g t ∧ SameBytes s t ∧ t.faultQ = s.faultQ ∧
      g = { v.g with threads := g.threads, nodes := (v.g.setNode v.onward).nodes } ∧
      ∀ l, let a := v.g.thread l
        let b := g.thread l
        (l ∉ v.active w → b = a) ∧ b.fpflags = a.fpflags ∧ b.pr = a.pr ∧ b.hmask = a.hmask ∧ b.trapcause = a.trapcause ∧ b.trappc = a.trappc ∧
        b.top = a.top ∧ b.alive = a.alive ∧ b.g = a.g ∧ b.tid = a.tid ∧
        (i ≠ .icmp m w → b.pred = a.pred ∧ ∀ j, j < w.d.toNat ∨ w.d.toNat + 2 * cellsOf w.lc ≤ j → b.cell j = a.cell j) ∧
        (i = .icmp m w → (∀ j, b.cell j = a.cell j) ∧ ∀ j, j ≠ w.d.toNat → b.p j = a.p j)

/-- R46, R60-R65, R363, R364, R408-R410: what a well-formed instruction is encoded as decodes as it, with every operand at every value that the
encoding admits; and a word that decodes is what its instruction is encoded as. The seven casting words without a field but TC decode from each
of its values, and are encoded with that of their intrinsic class (log 26, the model's choice). -/
def Obligations.EncodingsRoundTrip : Prop :=
  (∀ (i : Instr) (c : Code), i.wf = true → encode i = some c → decode c = some i) ∧
  (∀ (w : BitVec 128) (i : Instr), decodeCast w = some i → ∃ x, encodeCast i = some x ∧
    (i ∉ [.yield, .ifence, .ccommit, .cpair, .cunpair, .lcommit, .lcancel] → x = w) ∧ castFields x = { castFields w with tc := (castFields x).tc }) ∧
  (∀ (w : BitVec 32) (i : Instr), decodeFlue w = some i → encodeFlue i = some w ∧ i.wf = true) ∧
  ∀ (w e0 e1 e2 : DWord) (i : Instr), decodeStoker w e0 e1 e2 = some i → encodeStoker i = some (w :: [e0, e1, e2].take (stExtra w))

/-- R46, R139, R162, R364, R408: words of the spec decode to what they stand for. -/
def Obligations.SpecWordsDecode : Prop :=
  let cast (pg : BitVec 4) (tc : BitVec 2) (d a b c : BitVec 11) (lc : BitVec 2) (ty : BitVec 4) (mod : BitVec 8) (ext : BitVec 16) (imm : BitVec 32) : CastWord :=
    { tc := tc, pg := pg, pn := 0, d := d, a := a, b := b, c := c, reuse := 0, lc := lc, ty := ty, mod := mod, ext := ext, imm := imm }
  decodeTableWord 128 0x0C03C020020000000230000000000000 = some (.gred .add (cast 15 0 8 4 0 0 0 2 0x30 0 0)) ∧
  decodeTableWord 128 0x2003C018010000000203000000000064 = some (.iadd (cast 15 0 6 2 0 0 0 2 3 0 100)) ∧
  decodeTableWord 64 0x3021000000000000 = some (.launch 0 (some 0)) ∧
  decodeTableWord 64 0x2500000000000011 = some (.intr 17) ∧
  decodeTableWord 64 0x5102100000000000 = some (.waitt false (.reg 1)) ∧
  decodeTableWord 64 0xE400100000000220 = some (.sgetreg 1 0x220) ∧
  decodeTableWord 32 0x1C013FBE = some (.bnz 19 0xFBE) ∧
  decodeTableWord 32 0x2800E9C0 = some (.stl 14 39) ∧
  decodeTableWord 32 0xE1000000 = some .dfall ∧
  -- unassigned places
  decodeTableWord 128 (0x18 * 2 ^ 120) = none ∧ decodeTableWord 64 (0xE7 * 2 ^ 56) = none ∧ decodeTableWord 32 (0x2A * 2 ^ 24) = none

/-- R25, R46, R59, R360, R365, R369, R407, R411, R414: a step runs the instruction that the place whose turn it is holds: the word at a
fragment's PC, a lane's command word, the bundle at a line core's PC, or an event; with nothing to do, the next tick comes. Whose turn it is stands in
the agenda, which is the model's (log 1). -/
def Obligations.StepRunsTheDecodedInstruction : Prop :=
  ∀ (s : State) (rest : List Turn),
    -- a fragment's next word: the fetch touches lines of the caches, and requests that another word of the fragment made are dropped
    (∀ c sl n (v : View), s.agenda = .issue c sl n :: rest →
      let s0 : State := { s with agenda := rest, cur := { s.cur with core := c, slot := sl, node := n, tc := 0, word := 0 } }
      s0.view = some v → v.nd.st = .ready → v.nd.owes = false →
      (∀ word : Option (BitVec 128),
        (∀ q ∈ (s.core c).claims ++ (s.core (partner c)).claims, q.slot = sl → q.node = n → word = some q.word) → s0.keepClaims c sl n word = s0) ∧
      (∀ pa x i, v.nd.pc.toNat < 0x01FFFFFC00000000 → s.translate c v.g.ctx v.nd.fatal .x v.nd.pc.toNat = .hit pa → s.homeRead pa 16 = .ok x →
        decodeCast (BitVec.ofNat 128 x) = some i → ∃ h : Hearth, h = { s.hearth with l2 := h.l2, hearthLines := h.hearthLines, touches := h.touches } ∧
          step s = exec i { s0.keepClaims c sl n (some (BitVec.ofNat 128 x)) with hearth := h, cur := { s0.cur with tc := x / 2 ^ 114 % 4, word := BitVec.ofNat 128 x } }) ∧
      (∀ w, s0.fetch c v.g.ctx v.nd.fatal v.nd.pc = .word w → decodeCast w = none →
        step s = .next ({ v with s := s0.keepClaims c sl n none }.trapAll 0x01 0))) ∧
    -- a lane's command word, which the lane keeps until it completes
    (∀ l w e0 e1 e2 i, s.agenda = .lane l :: rest →
      let t : State := { s with agenda := rest, cur := { s.cur with lane := l, word := 0, arg := .none } }
      l < 32 → (30 ≤ l ∨ (s.lane l).queue.isSome = true) → (s.lane l).late = false → (s.lane l).cmd = some (w, e0, e1, e2) → decodeStoker w e0 e1 e2 = some i →
      (∀ a, misaligned w [e0, e1, e2] = some a → step s = .next (t.laneFault l 4 a)) ∧
      (misaligned w [e0, e1, e2] = none → t.runsOff l i = false → step s = exec i (t.setLane l (s.lane l)))) ∧
    -- or that a firmware lane reads at its turn
    (∀ l w e0 e1 e2 i, s.agenda = .lane l :: rest →
      let t : State := { s with agenda := rest, cur := { s.cur with lane := l, word := 0, arg := .none } }
      30 ≤ l → l < 32 → (s.lane l).queue = none → (s.lane l).late = false → (s.lane l).cmd = none → t.laneFetch l = .word w e0 e1 e2 →
      decodeStoker w e0 e1 e2 = some i → misaligned w [e0, e1, e2] = none → t.runsOff l i = false →
      step s = exec i (t.setLane l { s.lane l with cmd := some (w, e0, e1, e2) })) ∧
    -- a bundle: each of its ops, and then the cycle ends
    (∀ n ops t, s.agenda = .bundle n :: rest → n < 64 →
      let k := s.line n
      let u : State := { s with agenda := rest, cur := { s.cur with word := 0, arg := .none } }
      k.running = true → k.ending = false → 0 ≤ k.pc → k.pc < 8192 → bundleOps (tget 0#256 s.flue.code k.pc.toNat) k.delay.isSome = some ops →
      (∀ e ∈ ops, u.holdsUp k e.2 = false) → runOps exec n ops u = .next t → (t.line n).running = true →
      step s = .next (t.setLine n ((t.line n).endCycle k.delay (ops.any fun (e : Nat × Instr) => redirects e.2)))) ∧
    (∀ n i op ops (u t : State), exec op { u with cur := { u.cur with line := n, fslot := i } } = .next t → runOps exec n ((i, op) :: ops) u = runOps exec n ops t) ∧
    -- an event
    (∀ i a, s.agenda = .event i a :: rest → encode i = none → step s = exec i { s with agenda := rest, cur := { s.cur with word := 0, arg := a } }) ∧
    (s.agenda = [] → step s = .next s.nextTick)

/-- R59, R103, R397, R416: the machine never stops: a trap, a fault of a queue and a stop of a band are next states, and the reasons of Fault
name no state that a step reaches. -/
def Obligations.EveryStepGoesOn : Prop := ∀ s : State, s.goesOn

/-- R330: memory keeps its canonical form under every step: its bytes by rising address, none equal to what an unlisted address reads as, and the
poisoned sectors rising. -/
def Obligations.StepKeepsMemoryForm : Prop := ∀ s t : State, s.memOk → step s = .next t → t.memOk

/-- What the machine holds after reset. Of R20, R27, R330, R335, R360, R392, R404, R406, R441, R442, R448, R469, R470, R480 and R483: the values
that they give. TICK (log 2), the agenda (log 1), the x registers (log 8) and memory that nothing has written (log 5) have values that the model
chose. -/
def Obligations.ResetLeaves : Prop :=
  let s := State.reset
  s.memOk ∧ s.tick = 0 ∧ s.box.stage = 0 ∧ s.box.err = 0 ∧ s.box.plimit = 1600 ∧ s.box.mgmtcause = 0 ∧ s.hearth.mantelWays = 1 ∧
  (∀ k, s.mem.byte k = 0) ∧ (∀ c, (s.core c).cyc = 0 ∧ (s.core c).groups = [] ∧ (s.core c).halted = false) ∧
  (∀ f, (s.flask f).capL.toNat * 16 = 0xFFFF0 ∧ (s.flask f).refill = 0xFFFF ∧ (s.flask f).allow = 0) ∧
  (∀ l, l < 30 → (s.lane l).queue = none) ∧ (∀ l, (s.lane l).pc = 0 ∧ ∀ i, (s.lane l).xr i = 0) ∧
  (∀ n, s.supGet n = 0) ∧ s.flue.fcyc = 0 ∧ s.flue.ctl = 0 ∧ (∀ n, (s.line n).acyc = 0 ∧ (s.line n).band = none) ∧
  (∀ n, (s.head n).enabled = false ∧ (s.head n).cfg = 0 ∧ (s.head n).fill = 0) ∧ s.launches = [] ∧ s.agenda = []
end

