-- ==== Sys2Proof/Laws/Encoding.lean ====
section
/-! SUPPORT. The fields of a casting word read back from where they are packed. -/

namespace Sys2Proof

/-- Every field of a packed word is the one that was packed. -/
theorem castFields_castPack (op : BitVec 8) (sub : BitVec 4) (f : CastWord) : castFields (castPack op sub f) = f := by
  cases f
  simp only [castFields, castPack, CastWord.mk.injEq]
  refine ⟨?_, ?_, ?_, ?_, ?_, ?_, ?_, ?_, ?_, ?_, ?_, ?_, ?_⟩ <;>
  (ext i hi; simp only [BitVec.getElem_extractLsb', BitVec.getLsbD_append]; grind)

theorem castPack_op (op : BitVec 8) (sub : BitVec 4) (f : CastWord) : (castPack op sub f).extractLsb' 120 8 = op := by
  cases f
  simp only [castPack]
  ext i hi; simp only [BitVec.getElem_extractLsb', BitVec.getLsbD_append]; grind

theorem castPack_sub (op : BitVec 8) (sub : BitVec 4) (f : CastWord) : (castPack op sub f).extractLsb' 116 4 = sub := by
  cases f
  simp only [castPack]
  ext i hi; simp only [BitVec.getElem_extractLsb', BitVec.getLsbD_append]; grind

end Sys2Proof
end

