-- ==== Sys2Proof/Laws/Table.lean ====
section
/-! SUPPORT. Reading after writing in the keyed lists, and that writing keeps their canonical form. -/

namespace Sys2Proof.Machine

variable {α : Type}

@[simp] theorem tfind_tput_self (t : Table α) (i : Nat) (x : α) : tfind (tput t i x) i = some x := by
  induction t with
  | nil => simp [tput, tfind]
  | cons e t ih => obtain ⟨j, y⟩ := e; simp only [tput]; split <;> (try split) <;> simp_all [tfind]; omega

@[simp] theorem tfind_tput_ne (t : Table α) {i k : Nat} (x : α) (h : k ≠ i) : tfind (tput t i x) k = tfind t k := by
  induction t with
  | nil => simp [tput, tfind, h.symm]
  | cons e t ih =>
    obtain ⟨j, y⟩ := e; simp only [tput]; split <;> (try split) <;> simp_all [tfind, h.symm]

@[simp] theorem tfind_tdel_ne (t : Table α) {i k : Nat} (h : k ≠ i) : tfind (tdel t i) k = tfind t k := by
  induction t with
  | nil => rfl
  | cons e t ih => obtain ⟨j, y⟩ := e; simp only [tdel]; split <;> simp_all [tfind, h.symm]

theorem tsorted_tail {e : Nat × α} {t : Table α} (h : tsorted (e :: t) = true) : tsorted t = true := by
  cases t with
  | nil => rfl
  | cons b t => simp_all [tsorted]

/-- In a sorted table every later key is greater. -/
theorem tsorted_lt {e : Nat × α} {t : Table α} (h : tsorted (e :: t) = true) : ∀ x ∈ t, e.1 < x.1 := by
  induction t generalizing e with
  | nil => simp
  | cons b t ih =>
    simp only [tsorted, Bool.and_eq_true, decide_eq_true_eq] at h
    intro x hx
    rcases List.mem_cons.1 hx with rfl | hx
    · exact h.1
    · exact Nat.lt_trans h.1 (ih h.2 x hx)

theorem tfind_none_of_lt {t : Table α} {i : Nat} (h : ∀ x ∈ t, i < x.1) : tfind t i = none := by
  induction t with
  | nil => rfl
  | cons e t ih =>
    obtain ⟨j, y⟩ := e
    have hj : i < j := h (j, y) (by simp)
    simp only [tfind, if_neg (show ¬ j = i by omega)]
    exact ih fun x hx => h x (List.mem_cons_of_mem _ hx)

@[simp] theorem tfind_tdel_self (t : Table α) (i : Nat) : tfind (tdel t i) i = none := by
  induction t with
  | nil => rfl
  | cons e t ih => obtain ⟨j, y⟩ := e; simp only [tdel]; split <;> simp_all [tfind]

/-- The keys of a written table: the old ones and the new one. -/
theorem mem_tput {t : Table α} {i : Nat} {x : α} {e : Nat × α} (h : e ∈ tput t i x) : e = (i, x) ∨ e ∈ t := by
  induction t with
  | nil => simpa [tput] using h
  | cons b t ih =>
    obtain ⟨j, y⟩ := b
    simp only [tput] at h
    split at h
    · rcases List.mem_cons.1 h with rfl | h
      · simp
      · rcases ih h with h | h <;> simp [h]
    · split at h <;> (rcases List.mem_cons.1 h with rfl | h <;> simp_all)

theorem mem_tdel {t : Table α} {i : Nat} {e : Nat × α} (h : e ∈ tdel t i) : e ∈ t := by
  induction t with
  | nil => simp [tdel] at h
  | cons b t ih =>
    obtain ⟨j, y⟩ := b
    simp only [tdel] at h
    split at h
    · exact List.mem_cons_of_mem _ (ih h)
    · rcases List.mem_cons.1 h with rfl | h
      · simp
      · exact List.mem_cons_of_mem _ (ih h)

theorem tsorted_cons {e : Nat × α} {t : Table α} (h : tsorted t = true) (hl : ∀ x ∈ t, e.1 < x.1) : tsorted (e :: t) = true := by
  cases t with
  | nil => rfl
  | cons b t => simp only [tsorted, Bool.and_eq_true, decide_eq_true_eq]; exact ⟨hl b (by simp), h⟩

theorem tsorted_tput {t : Table α} (i : Nat) (x : α) (h : tsorted t = true) : tsorted (tput t i x) = true := by
  induction t with
  | nil => rfl
  | cons e t ih =>
    obtain ⟨j, y⟩ := e
    have hl := tsorted_lt h
    simp only [tput]; split
    · refine tsorted_cons (ih (tsorted_tail h)) fun e he => ?_
      rcases mem_tput he with rfl | he
      · assumption
      · exact hl e he
    · split
      · exact tsorted_cons (tsorted_tail h) fun e he => by have := hl e he; simp_all
      · exact tsorted_cons h fun e he => by
          rcases List.mem_cons.1 he with rfl | he
          · simp; omega
          · have := hl e he; simp at this ⊢; omega

theorem tsorted_tdel {t : Table α} (i : Nat) (h : tsorted t = true) : tsorted (tdel t i) = true := by
  induction t with
  | nil => rfl
  | cons e t ih =>
    obtain ⟨j, y⟩ := e
    simp only [tdel]; split
    · exact ih (tsorted_tail h)
    · exact tsorted_cons (ih (tsorted_tail h)) fun e he => tsorted_lt h e (mem_tdel he)

variable [DecidableEq α]

@[simp] theorem tget_tset_self (d : α) (t : Table α) (i : Nat) (x : α) : tget d (tset d t i x) i = x := by
  unfold tget tset; split <;> simp_all

@[simp] theorem tget_tset_ne {d : α} (t : Table α) {i k : Nat} (x : α) (h : k ≠ i) : tget d (tset d t i x) k = tget d t k := by
  unfold tget tset; split <;> simp [h]

omit [DecidableEq α] in
@[simp] theorem tget_tput_self (d : α) (t : Table α) (i : Nat) (x : α) : tget d (tput t i x) i = x := by simp [tget]

omit [DecidableEq α] in
@[simp] theorem tget_tput_ne (d : α) (t : Table α) {i k : Nat} (x : α) (h : k ≠ i) : tget d (tput t i x) k = tget d t k := by simp [tget, h]

theorem twf_tset {d : α} {t : Table α} (i : Nat) (x : α) (h : twf d t = true) : twf d (tset d t i x) = true := by
  simp only [twf, Bool.and_eq_true, List.all_eq_true, decide_eq_true_eq] at h ⊢
  unfold tset; split
  · exact ⟨tsorted_tdel i h.1, fun e he => h.2 e (mem_tdel he)⟩
  · refine ⟨tsorted_tput i x h.1, fun e he => ?_⟩
    rcases mem_tput he with rfl | he
    · assumption
    · exact h.2 e he

end Sys2Proof.Machine
end

