-- ==== Sys2Proof/Laws/State.lean ====
section
/-! SUPPORT. What each update of the state does to each field, and what each accessor reads after an update. -/

namespace Sys2Proof.Machine

/-! ### setCore -/

@[simp] theorem State.setCore_tick (s : State) (c : Nat) (x : Core) : (s.setCore c x).tick = s.tick := rfl
@[simp] theorem State.setCore_free (s : State) (c : Nat) (x : Core) : (s.setCore c x).free = s.free := rfl
@[simp] theorem State.setCore_agenda (s : State) (c : Nat) (x : Core) : (s.setCore c x).agenda = s.agenda := rfl
@[simp] theorem State.setCore_inputs (s : State) (c : Nat) (x : Core) : (s.setCore c x).inputs = s.inputs := rfl
@[simp] theorem State.setCore_posted (s : State) (c : Nat) (x : Core) : (s.setCore c x).posted = s.posted := rfl
@[simp] theorem State.setCore_cur (s : State) (c : Nat) (x : Core) : (s.setCore c x).cur = s.cur := rfl
@[simp] theorem State.setCore_mem (s : State) (c : Nat) (x : Core) : (s.setCore c x).mem = s.mem := rfl
@[simp] theorem State.setCore_cores (s : State) (c : Nat) (x : Core) : (s.setCore c x).cores = tput s.cores c x := rfl
@[simp] theorem State.setCore_flasks (s : State) (c : Nat) (x : Core) : (s.setCore c x).flasks = s.flasks := rfl
@[simp] theorem State.setCore_launches (s : State) (c : Nat) (x : Core) : (s.setCore c x).launches = s.launches := rfl
@[simp] theorem State.setCore_faultQ (s : State) (c : Nat) (x : Core) : (s.setCore c x).faultQ = s.faultQ := rfl
@[simp] theorem State.setCore_saving (s : State) (c : Nat) (x : Core) : (s.setCore c x).saving = s.saving := rfl
@[simp] theorem State.setCore_stoker (s : State) (c : Nat) (x : Core) : (s.setCore c x).stoker = s.stoker := rfl
@[simp] theorem State.setCore_sup (s : State) (c : Nat) (x : Core) : (s.setCore c x).sup = s.sup := rfl
@[simp] theorem State.setCore_hearth (s : State) (c : Nat) (x : Core) : (s.setCore c x).hearth = s.hearth := rfl
@[simp] theorem State.setCore_flue (s : State) (c : Nat) (x : Core) : (s.setCore c x).flue = s.flue := rfl
@[simp] theorem State.setCore_damper (s : State) (c : Nat) (x : Core) : (s.setCore c x).damper = s.damper := rfl
@[simp] theorem State.setCore_box (s : State) (c : Nat) (x : Core) : (s.setCore c x).box = s.box := rfl
@[simp] theorem State.setCore_lastRead (s : State) (c : Nat) (x : Core) : (s.setCore c x).lastRead = s.lastRead := rfl

/-! ### setFlask -/

@[simp] theorem State.setFlask_tick (s : State) (f : Nat) (x : Flask) : (s.setFlask f x).tick = s.tick := rfl
@[simp] theorem State.setFlask_free (s : State) (f : Nat) (x : Flask) : (s.setFlask f x).free = s.free := rfl
@[simp] theorem State.setFlask_agenda (s : State) (f : Nat) (x : Flask) : (s.setFlask f x).agenda = s.agenda := rfl
@[simp] theorem State.setFlask_inputs (s : State) (f : Nat) (x : Flask) : (s.setFlask f x).inputs = s.inputs := rfl
@[simp] theorem State.setFlask_posted (s : State) (f : Nat) (x : Flask) : (s.setFlask f x).posted = s.posted := rfl
@[simp] theorem State.setFlask_cur (s : State) (f : Nat) (x : Flask) : (s.setFlask f x).cur = s.cur := rfl
@[simp] theorem State.setFlask_mem (s : State) (f : Nat) (x : Flask) : (s.setFlask f x).mem = s.mem := rfl
@[simp] theorem State.setFlask_cores (s : State) (f : Nat) (x : Flask) : (s.setFlask f x).cores = s.cores := rfl
@[simp] theorem State.setFlask_flasks (s : State) (f : Nat) (x : Flask) : (s.setFlask f x).flasks = tput s.flasks f x := rfl
@[simp] theorem State.setFlask_launches (s : State) (f : Nat) (x : Flask) : (s.setFlask f x).launches = s.launches := rfl
@[simp] theorem State.setFlask_faultQ (s : State) (f : Nat) (x : Flask) : (s.setFlask f x).faultQ = s.faultQ := rfl
@[simp] theorem State.setFlask_saving (s : State) (f : Nat) (x : Flask) : (s.setFlask f x).saving = s.saving := rfl
@[simp] theorem State.setFlask_stoker (s : State) (f : Nat) (x : Flask) : (s.setFlask f x).stoker = s.stoker := rfl
@[simp] theorem State.setFlask_sup (s : State) (f : Nat) (x : Flask) : (s.setFlask f x).sup = s.sup := rfl
@[simp] theorem State.setFlask_hearth (s : State) (f : Nat) (x : Flask) : (s.setFlask f x).hearth = s.hearth := rfl
@[simp] theorem State.setFlask_flue (s : State) (f : Nat) (x : Flask) : (s.setFlask f x).flue = s.flue := rfl
@[simp] theorem State.setFlask_damper (s : State) (f : Nat) (x : Flask) : (s.setFlask f x).damper = s.damper := rfl
@[simp] theorem State.setFlask_box (s : State) (f : Nat) (x : Flask) : (s.setFlask f x).box = s.box := rfl
@[simp] theorem State.setFlask_lastRead (s : State) (f : Nat) (x : Flask) : (s.setFlask f x).lastRead = s.lastRead := rfl

/-! ### setHead -/

@[simp] theorem State.setHead_tick (s : State) (h : Nat) (x : Head) : (s.setHead h x).tick = s.tick := rfl
@[simp] theorem State.setHead_free (s : State) (h : Nat) (x : Head) : (s.setHead h x).free = s.free := rfl
@[simp] theorem State.setHead_agenda (s : State) (h : Nat) (x : Head) : (s.setHead h x).agenda = s.agenda := rfl
@[simp] theorem State.setHead_inputs (s : State) (h : Nat) (x : Head) : (s.setHead h x).inputs = s.inputs := rfl
@[simp] theorem State.setHead_posted (s : State) (h : Nat) (x : Head) : (s.setHead h x).posted = s.posted := rfl
@[simp] theorem State.setHead_cur (s : State) (h : Nat) (x : Head) : (s.setHead h x).cur = s.cur := rfl
@[simp] theorem State.setHead_mem (s : State) (h : Nat) (x : Head) : (s.setHead h x).mem = s.mem := rfl
@[simp] theorem State.setHead_cores (s : State) (h : Nat) (x : Head) : (s.setHead h x).cores = s.cores := rfl
@[simp] theorem State.setHead_flasks (s : State) (h : Nat) (x : Head) : (s.setHead h x).flasks = s.flasks := rfl
@[simp] theorem State.setHead_launches (s : State) (h : Nat) (x : Head) : (s.setHead h x).launches = s.launches := rfl
@[simp] theorem State.setHead_faultQ (s : State) (h : Nat) (x : Head) : (s.setHead h x).faultQ = s.faultQ := rfl
@[simp] theorem State.setHead_saving (s : State) (h : Nat) (x : Head) : (s.setHead h x).saving = s.saving := rfl
@[simp] theorem State.setHead_stoker (s : State) (h : Nat) (x : Head) : (s.setHead h x).stoker = s.stoker := rfl
@[simp] theorem State.setHead_sup (s : State) (h : Nat) (x : Head) : (s.setHead h x).sup = s.sup := rfl
@[simp] theorem State.setHead_hearth (s : State) (h : Nat) (x : Head) : (s.setHead h x).hearth = s.hearth := rfl
@[simp] theorem State.setHead_flue (s : State) (h : Nat) (x : Head) : (s.setHead h x).flue = s.flue := rfl
@[simp] theorem State.setHead_damper (s : State) (h : Nat) (x : Head) : (s.setHead h x).damper = { s.damper with heads := tput s.damper.heads h x } := rfl
@[simp] theorem State.setHead_box (s : State) (h : Nat) (x : Head) : (s.setHead h x).box = s.box := rfl
@[simp] theorem State.setHead_lastRead (s : State) (h : Nat) (x : Head) : (s.setHead h x).lastRead = s.lastRead := rfl

/-! ### setGroup -/

@[simp] theorem State.setGroup_tick (s : State) (c sl : Nat) (g : Group) : (s.setGroup c sl g).tick = s.tick := rfl
@[simp] theorem State.setGroup_free (s : State) (c sl : Nat) (g : Group) : (s.setGroup c sl g).free = s.free := rfl
@[simp] theorem State.setGroup_agenda (s : State) (c sl : Nat) (g : Group) : (s.setGroup c sl g).agenda = s.agenda := rfl
@[simp] theorem State.setGroup_inputs (s : State) (c sl : Nat) (g : Group) : (s.setGroup c sl g).inputs = s.inputs := rfl
@[simp] theorem State.setGroup_posted (s : State) (c sl : Nat) (g : Group) : (s.setGroup c sl g).posted = s.posted := rfl
@[simp] theorem State.setGroup_cur (s : State) (c sl : Nat) (g : Group) : (s.setGroup c sl g).cur = s.cur := rfl
@[simp] theorem State.setGroup_mem (s : State) (c sl : Nat) (g : Group) : (s.setGroup c sl g).mem = s.mem := rfl
@[simp] theorem State.setGroup_cores (s : State) (c sl : Nat) (g : Group) : (s.setGroup c sl g).cores = tput s.cores c { s.core c with groups := tput (s.core c).groups sl g } := rfl
@[simp] theorem State.setGroup_flasks (s : State) (c sl : Nat) (g : Group) : (s.setGroup c sl g).flasks = s.flasks := rfl
@[simp] theorem State.setGroup_launches (s : State) (c sl : Nat) (g : Group) : (s.setGroup c sl g).launches = s.launches := rfl
@[simp] theorem State.setGroup_faultQ (s : State) (c sl : Nat) (g : Group) : (s.setGroup c sl g).faultQ = s.faultQ := rfl
@[simp] theorem State.setGroup_saving (s : State) (c sl : Nat) (g : Group) : (s.setGroup c sl g).saving = s.saving := rfl
@[simp] theorem State.setGroup_stoker (s : State) (c sl : Nat) (g : Group) : (s.setGroup c sl g).stoker = s.stoker := rfl
@[simp] theorem State.setGroup_sup (s : State) (c sl : Nat) (g : Group) : (s.setGroup c sl g).sup = s.sup := rfl
@[simp] theorem State.setGroup_hearth (s : State) (c sl : Nat) (g : Group) : (s.setGroup c sl g).hearth = s.hearth := rfl
@[simp] theorem State.setGroup_flue (s : State) (c sl : Nat) (g : Group) : (s.setGroup c sl g).flue = s.flue := rfl
@[simp] theorem State.setGroup_damper (s : State) (c sl : Nat) (g : Group) : (s.setGroup c sl g).damper = s.damper := rfl
@[simp] theorem State.setGroup_box (s : State) (c sl : Nat) (g : Group) : (s.setGroup c sl g).box = s.box := rfl
@[simp] theorem State.setGroup_lastRead (s : State) (c sl : Nat) (g : Group) : (s.setGroup c sl g).lastRead = s.lastRead := rfl

/-! ### setLaunch -/

@[simp] theorem State.setLaunch_tick (s : State) (i : Nat) (l : Launch) : (s.setLaunch i l).tick = s.tick := rfl
@[simp] theorem State.setLaunch_free (s : State) (i : Nat) (l : Launch) : (s.setLaunch i l).free = s.free := rfl
@[simp] theorem State.setLaunch_agenda (s : State) (i : Nat) (l : Launch) : (s.setLaunch i l).agenda = s.agenda := rfl
@[simp] theorem State.setLaunch_inputs (s : State) (i : Nat) (l : Launch) : (s.setLaunch i l).inputs = s.inputs := rfl
@[simp] theorem State.setLaunch_posted (s : State) (i : Nat) (l : Launch) : (s.setLaunch i l).posted = s.posted := rfl
@[simp] theorem State.setLaunch_cur (s : State) (i : Nat) (l : Launch) : (s.setLaunch i l).cur = s.cur := rfl
@[simp] theorem State.setLaunch_mem (s : State) (i : Nat) (l : Launch) : (s.setLaunch i l).mem = s.mem := rfl
@[simp] theorem State.setLaunch_cores (s : State) (i : Nat) (l : Launch) : (s.setLaunch i l).cores = s.cores := rfl
@[simp] theorem State.setLaunch_flasks (s : State) (i : Nat) (l : Launch) : (s.setLaunch i l).flasks = s.flasks := rfl
@[simp] theorem State.setLaunch_launches (s : State) (i : Nat) (l : Launch) : (s.setLaunch i l).launches = tput s.launches i l := rfl
@[simp] theorem State.setLaunch_faultQ (s : State) (i : Nat) (l : Launch) : (s.setLaunch i l).faultQ = s.faultQ := rfl
@[simp] theorem State.setLaunch_saving (s : State) (i : Nat) (l : Launch) : (s.setLaunch i l).saving = s.saving := rfl
@[simp] theorem State.setLaunch_stoker (s : State) (i : Nat) (l : Launch) : (s.setLaunch i l).stoker = s.stoker := rfl
@[simp] theorem State.setLaunch_sup (s : State) (i : Nat) (l : Launch) : (s.setLaunch i l).sup = s.sup := rfl
@[simp] theorem State.setLaunch_hearth (s : State) (i : Nat) (l : Launch) : (s.setLaunch i l).hearth = s.hearth := rfl
@[simp] theorem State.setLaunch_flue (s : State) (i : Nat) (l : Launch) : (s.setLaunch i l).flue = s.flue := rfl
@[simp] theorem State.setLaunch_damper (s : State) (i : Nat) (l : Launch) : (s.setLaunch i l).damper = s.damper := rfl
@[simp] theorem State.setLaunch_box (s : State) (i : Nat) (l : Launch) : (s.setLaunch i l).box = s.box := rfl
@[simp] theorem State.setLaunch_lastRead (s : State) (i : Nat) (l : Launch) : (s.setLaunch i l).lastRead = s.lastRead := rfl

/-! ### setLane -/

@[simp] theorem State.setLane_tick (s : State) (l : Nat) (k : Lane) : (s.setLane l k).tick = s.tick := rfl
@[simp] theorem State.setLane_free (s : State) (l : Nat) (k : Lane) : (s.setLane l k).free = s.free := rfl
@[simp] theorem State.setLane_agenda (s : State) (l : Nat) (k : Lane) : (s.setLane l k).agenda = s.agenda := rfl
@[simp] theorem State.setLane_inputs (s : State) (l : Nat) (k : Lane) : (s.setLane l k).inputs = s.inputs := rfl
@[simp] theorem State.setLane_posted (s : State) (l : Nat) (k : Lane) : (s.setLane l k).posted = s.posted := rfl
@[simp] theorem State.setLane_cur (s : State) (l : Nat) (k : Lane) : (s.setLane l k).cur = s.cur := rfl
@[simp] theorem State.setLane_mem (s : State) (l : Nat) (k : Lane) : (s.setLane l k).mem = s.mem := rfl
@[simp] theorem State.setLane_cores (s : State) (l : Nat) (k : Lane) : (s.setLane l k).cores = s.cores := rfl
@[simp] theorem State.setLane_flasks (s : State) (l : Nat) (k : Lane) : (s.setLane l k).flasks = s.flasks := rfl
@[simp] theorem State.setLane_launches (s : State) (l : Nat) (k : Lane) : (s.setLane l k).launches = s.launches := rfl
@[simp] theorem State.setLane_faultQ (s : State) (l : Nat) (k : Lane) : (s.setLane l k).faultQ = s.faultQ := rfl
@[simp] theorem State.setLane_saving (s : State) (l : Nat) (k : Lane) : (s.setLane l k).saving = s.saving := rfl
@[simp] theorem State.setLane_stoker (s : State) (l : Nat) (k : Lane) : (s.setLane l k).stoker = { s.stoker with lanes := tput s.stoker.lanes l k } := rfl
@[simp] theorem State.setLane_sup (s : State) (l : Nat) (k : Lane) : (s.setLane l k).sup = s.sup := rfl
@[simp] theorem State.setLane_hearth (s : State) (l : Nat) (k : Lane) : (s.setLane l k).hearth = s.hearth := rfl
@[simp] theorem State.setLane_flue (s : State) (l : Nat) (k : Lane) : (s.setLane l k).flue = s.flue := rfl
@[simp] theorem State.setLane_damper (s : State) (l : Nat) (k : Lane) : (s.setLane l k).damper = s.damper := rfl
@[simp] theorem State.setLane_box (s : State) (l : Nat) (k : Lane) : (s.setLane l k).box = s.box := rfl
@[simp] theorem State.setLane_lastRead (s : State) (l : Nat) (k : Lane) : (s.setLane l k).lastRead = s.lastRead := rfl

/-! ### setLine -/

@[simp] theorem State.setLine_tick (s : State) (n : Nat) (k : LineCore) : (s.setLine n k).tick = s.tick := rfl
@[simp] theorem State.setLine_free (s : State) (n : Nat) (k : LineCore) : (s.setLine n k).free = s.free := rfl
@[simp] theorem State.setLine_agenda (s : State) (n : Nat) (k : LineCore) : (s.setLine n k).agenda = s.agenda := rfl
@[simp] theorem State.setLine_inputs (s : State) (n : Nat) (k : LineCore) : (s.setLine n k).inputs = s.inputs := rfl
@[simp] theorem State.setLine_posted (s : State) (n : Nat) (k : LineCore) : (s.setLine n k).posted = s.posted := rfl
@[simp] theorem State.setLine_cur (s : State) (n : Nat) (k : LineCore) : (s.setLine n k).cur = s.cur := rfl
@[simp] theorem State.setLine_mem (s : State) (n : Nat) (k : LineCore) : (s.setLine n k).mem = s.mem := rfl
@[simp] theorem State.setLine_cores (s : State) (n : Nat) (k : LineCore) : (s.setLine n k).cores = s.cores := rfl
@[simp] theorem State.setLine_flasks (s : State) (n : Nat) (k : LineCore) : (s.setLine n k).flasks = s.flasks := rfl
@[simp] theorem State.setLine_launches (s : State) (n : Nat) (k : LineCore) : (s.setLine n k).launches = s.launches := rfl
@[simp] theorem State.setLine_faultQ (s : State) (n : Nat) (k : LineCore) : (s.setLine n k).faultQ = s.faultQ := rfl
@[simp] theorem State.setLine_saving (s : State) (n : Nat) (k : LineCore) : (s.setLine n k).saving = s.saving := rfl
@[simp] theorem State.setLine_stoker (s : State) (n : Nat) (k : LineCore) : (s.setLine n k).stoker = s.stoker := rfl
@[simp] theorem State.setLine_sup (s : State) (n : Nat) (k : LineCore) : (s.setLine n k).sup = s.sup := rfl
@[simp] theorem State.setLine_hearth (s : State) (n : Nat) (k : LineCore) : (s.setLine n k).hearth = s.hearth := rfl
@[simp] theorem State.setLine_flue (s : State) (n : Nat) (k : LineCore) : (s.setLine n k).flue = { s.flue with lines := tput s.flue.lines n k } := rfl
@[simp] theorem State.setLine_damper (s : State) (n : Nat) (k : LineCore) : (s.setLine n k).damper = s.damper := rfl
@[simp] theorem State.setLine_box (s : State) (n : Nat) (k : LineCore) : (s.setLine n k).box = s.box := rfl
@[simp] theorem State.setLine_lastRead (s : State) (n : Nat) (k : LineCore) : (s.setLine n k).lastRead = s.lastRead := rfl

/-! ### soon -/

@[simp] theorem State.soon_tick (s : State) (ts : List Turn) : (s.soon ts).tick = s.tick := rfl
@[simp] theorem State.soon_free (s : State) (ts : List Turn) : (s.soon ts).free = s.free := rfl
@[simp] theorem State.soon_agenda (s : State) (ts : List Turn) : (s.soon ts).agenda = ts ++ s.agenda := rfl
@[simp] theorem State.soon_inputs (s : State) (ts : List Turn) : (s.soon ts).inputs = s.inputs := rfl
@[simp] theorem State.soon_posted (s : State) (ts : List Turn) : (s.soon ts).posted = s.posted := rfl
@[simp] theorem State.soon_cur (s : State) (ts : List Turn) : (s.soon ts).cur = s.cur := rfl
@[simp] theorem State.soon_mem (s : State) (ts : List Turn) : (s.soon ts).mem = s.mem := rfl
@[simp] theorem State.soon_cores (s : State) (ts : List Turn) : (s.soon ts).cores = s.cores := rfl
@[simp] theorem State.soon_flasks (s : State) (ts : List Turn) : (s.soon ts).flasks = s.flasks := rfl
@[simp] theorem State.soon_launches (s : State) (ts : List Turn) : (s.soon ts).launches = s.launches := rfl
@[simp] theorem State.soon_faultQ (s : State) (ts : List Turn) : (s.soon ts).faultQ = s.faultQ := rfl
@[simp] theorem State.soon_saving (s : State) (ts : List Turn) : (s.soon ts).saving = s.saving := rfl
@[simp] theorem State.soon_stoker (s : State) (ts : List Turn) : (s.soon ts).stoker = s.stoker := rfl
@[simp] theorem State.soon_sup (s : State) (ts : List Turn) : (s.soon ts).sup = s.sup := rfl
@[simp] theorem State.soon_hearth (s : State) (ts : List Turn) : (s.soon ts).hearth = s.hearth := rfl
@[simp] theorem State.soon_flue (s : State) (ts : List Turn) : (s.soon ts).flue = s.flue := rfl
@[simp] theorem State.soon_damper (s : State) (ts : List Turn) : (s.soon ts).damper = s.damper := rfl
@[simp] theorem State.soon_box (s : State) (ts : List Turn) : (s.soon ts).box = s.box := rfl
@[simp] theorem State.soon_lastRead (s : State) (ts : List Turn) : (s.soon ts).lastRead = s.lastRead := rfl

/-! ### fault -/

@[simp] theorem State.fault_tick (s : State) (e : FaultEntry) : (s.fault e).tick = s.tick := rfl
@[simp] theorem State.fault_free (s : State) (e : FaultEntry) : (s.fault e).free = s.free := rfl
@[simp] theorem State.fault_agenda (s : State) (e : FaultEntry) : (s.fault e).agenda = s.agenda := rfl
@[simp] theorem State.fault_inputs (s : State) (e : FaultEntry) : (s.fault e).inputs = s.inputs := rfl
@[simp] theorem State.fault_posted (s : State) (e : FaultEntry) : (s.fault e).posted = s.posted := rfl
@[simp] theorem State.fault_cur (s : State) (e : FaultEntry) : (s.fault e).cur = s.cur := rfl
@[simp] theorem State.fault_mem (s : State) (e : FaultEntry) : (s.fault e).mem = s.mem := rfl
@[simp] theorem State.fault_cores (s : State) (e : FaultEntry) : (s.fault e).cores = s.cores := rfl
@[simp] theorem State.fault_flasks (s : State) (e : FaultEntry) : (s.fault e).flasks = s.flasks := rfl
@[simp] theorem State.fault_launches (s : State) (e : FaultEntry) : (s.fault e).launches = s.launches := rfl
@[simp] theorem State.fault_faultQ (s : State) (e : FaultEntry) : (s.fault e).faultQ = s.faultQ ++ [e] := rfl
@[simp] theorem State.fault_saving (s : State) (e : FaultEntry) : (s.fault e).saving = s.saving := rfl
@[simp] theorem State.fault_stoker (s : State) (e : FaultEntry) : (s.fault e).stoker = s.stoker := rfl
@[simp] theorem State.fault_sup (s : State) (e : FaultEntry) : (s.fault e).sup = s.sup := rfl
@[simp] theorem State.fault_hearth (s : State) (e : FaultEntry) : (s.fault e).hearth = s.hearth := rfl
@[simp] theorem State.fault_flue (s : State) (e : FaultEntry) : (s.fault e).flue = s.flue := rfl
@[simp] theorem State.fault_damper (s : State) (e : FaultEntry) : (s.fault e).damper = s.damper := rfl
@[simp] theorem State.fault_box (s : State) (e : FaultEntry) : (s.fault e).box = s.box := rfl
@[simp] theorem State.fault_lastRead (s : State) (e : FaultEntry) : (s.fault e).lastRead = s.lastRead := rfl

/-! ### fresh -/

@[simp] theorem State.fresh_tick (s : State) : (s.fresh).tick = s.tick := rfl
@[simp] theorem State.fresh_free (s : State) : (s.fresh).free = s.free + 1 := rfl
@[simp] theorem State.fresh_agenda (s : State) : (s.fresh).agenda = s.agenda := rfl
@[simp] theorem State.fresh_inputs (s : State) : (s.fresh).inputs = s.inputs := rfl
@[simp] theorem State.fresh_posted (s : State) : (s.fresh).posted = s.posted := rfl
@[simp] theorem State.fresh_cur (s : State) : (s.fresh).cur = s.cur := rfl
@[simp] theorem State.fresh_mem (s : State) : (s.fresh).mem = s.mem := rfl
@[simp] theorem State.fresh_cores (s : State) : (s.fresh).cores = s.cores := rfl
@[simp] theorem State.fresh_flasks (s : State) : (s.fresh).flasks = s.flasks := rfl
@[simp] theorem State.fresh_launches (s : State) : (s.fresh).launches = s.launches := rfl
@[simp] theorem State.fresh_faultQ (s : State) : (s.fresh).faultQ = s.faultQ := rfl
@[simp] theorem State.fresh_saving (s : State) : (s.fresh).saving = s.saving := rfl
@[simp] theorem State.fresh_stoker (s : State) : (s.fresh).stoker = s.stoker := rfl
@[simp] theorem State.fresh_sup (s : State) : (s.fresh).sup = s.sup := rfl
@[simp] theorem State.fresh_hearth (s : State) : (s.fresh).hearth = s.hearth := rfl
@[simp] theorem State.fresh_flue (s : State) : (s.fresh).flue = s.flue := rfl
@[simp] theorem State.fresh_damper (s : State) : (s.fresh).damper = s.damper := rfl
@[simp] theorem State.fresh_box (s : State) : (s.fresh).box = s.box := rfl
@[simp] theorem State.fresh_lastRead (s : State) : (s.fresh).lastRead = s.lastRead := rfl

/-! ### boxWrite -/

@[simp] theorem State.boxWrite_tick (s : State) (f : Firebox → Firebox) : (s.boxWrite f).tick = s.tick := rfl
@[simp] theorem State.boxWrite_free (s : State) (f : Firebox → Firebox) : (s.boxWrite f).free = s.free := rfl
@[simp] theorem State.boxWrite_agenda (s : State) (f : Firebox → Firebox) : (s.boxWrite f).agenda = s.agenda := rfl
@[simp] theorem State.boxWrite_inputs (s : State) (f : Firebox → Firebox) : (s.boxWrite f).inputs = s.inputs := rfl
@[simp] theorem State.boxWrite_posted (s : State) (f : Firebox → Firebox) : (s.boxWrite f).posted = s.posted := rfl
@[simp] theorem State.boxWrite_cur (s : State) (f : Firebox → Firebox) : (s.boxWrite f).cur = s.cur := rfl
@[simp] theorem State.boxWrite_mem (s : State) (f : Firebox → Firebox) : (s.boxWrite f).mem = s.mem := rfl
@[simp] theorem State.boxWrite_cores (s : State) (f : Firebox → Firebox) : (s.boxWrite f).cores = s.cores := rfl
@[simp] theorem State.boxWrite_flasks (s : State) (f : Firebox → Firebox) : (s.boxWrite f).flasks = s.flasks := rfl
@[simp] theorem State.boxWrite_launches (s : State) (f : Firebox → Firebox) : (s.boxWrite f).launches = s.launches := rfl
@[simp] theorem State.boxWrite_faultQ (s : State) (f : Firebox → Firebox) : (s.boxWrite f).faultQ = s.faultQ := rfl
@[simp] theorem State.boxWrite_saving (s : State) (f : Firebox → Firebox) : (s.boxWrite f).saving = s.saving := rfl
@[simp] theorem State.boxWrite_stoker (s : State) (f : Firebox → Firebox) : (s.boxWrite f).stoker = s.stoker := rfl
@[simp] theorem State.boxWrite_sup (s : State) (f : Firebox → Firebox) : (s.boxWrite f).sup = s.sup := rfl
@[simp] theorem State.boxWrite_hearth (s : State) (f : Firebox → Firebox) : (s.boxWrite f).hearth = s.hearth := rfl
@[simp] theorem State.boxWrite_flue (s : State) (f : Firebox → Firebox) : (s.boxWrite f).flue = s.flue := rfl
@[simp] theorem State.boxWrite_damper (s : State) (f : Firebox → Firebox) : (s.boxWrite f).damper = s.damper := rfl
@[simp] theorem State.boxWrite_box (s : State) (f : Firebox → Firebox) : (s.boxWrite f).box = f s.box := rfl
@[simp] theorem State.boxWrite_lastRead (s : State) (f : Firebox → Firebox) : (s.boxWrite f).lastRead = s.lastRead := rfl

/-! ### Accessors after updates -/

@[simp] theorem State.core_setCore_self (s : State) (c : Nat) (x : Core) : (s.setCore c x).core c = x := by simp [State.core]
@[simp] theorem State.core_setCore_ne (s : State) {c k : Nat} (x : Core) (h : k ≠ c) : (s.setCore c x).core k = s.core k := by simp [State.core, h]
@[simp] theorem State.flask_setFlask_self (s : State) (f : Nat) (x : Flask) : (s.setFlask f x).flask f = x := by simp [State.flask]
@[simp] theorem State.flask_setFlask_ne (s : State) {f k : Nat} (x : Flask) (h : k ≠ f) : (s.setFlask f x).flask k = s.flask k := by
  simp [State.flask, h]
@[simp] theorem State.head_setHead_self (s : State) (n : Nat) (x : Head) : (s.setHead n x).head n = x := by simp [State.head]
@[simp] theorem State.head_setHead_ne (s : State) {n k : Nat} (x : Head) (h : k ≠ n) : (s.setHead n x).head k = s.head k := by
  simp [State.head, h]
@[simp] theorem State.lane_setLane_self (s : State) (l : Nat) (k : Lane) : (s.setLane l k).lane l = k := by simp [State.lane]
@[simp] theorem State.lane_setLane_ne (s : State) {l m : Nat} (k : Lane) (h : m ≠ l) : (s.setLane l k).lane m = s.lane m := by
  simp [State.lane, h]
@[simp] theorem State.line_setLine_self (s : State) (n : Nat) (k : LineCore) : (s.setLine n k).line n = k := by simp [State.line]
@[simp] theorem State.line_setLine_ne (s : State) {n m : Nat} (k : LineCore) (h : m ≠ n) : (s.setLine n k).line m = s.line m := by
  simp [State.line, h]
@[simp] theorem State.group_setGroup_self (s : State) (c sl : Nat) (g : Group) : (s.setGroup c sl g).group? c sl = some g := by
  simp [State.group?, State.setGroup]
@[simp] theorem State.group_setGroup_ne_slot (s : State) {c sl m : Nat} (g : Group) (h : m ≠ sl) :
    (s.setGroup c sl g).group? c m = s.group? c m := by simp [State.group?, State.setGroup, h]
@[simp] theorem State.group_setGroup_ne_core (s : State) {c sl k m : Nat} (g : Group) (h : k ≠ c) :
    (s.setGroup c sl g).group? k m = s.group? k m := by simp [State.group?, State.setGroup, h]
@[simp] theorem State.core_setGroup_ne (s : State) {c k : Nat} (sl : Nat) (g : Group) (h : k ≠ c) : (s.setGroup c sl g).core k = s.core k := by
  simp [State.setGroup, h]
@[simp] theorem State.core_setGroup_self (s : State) (c sl : Nat) (g : Group) :
    (s.setGroup c sl g).core c = { s.core c with groups := tput (s.core c).groups sl g } := by simp [State.setGroup]
@[simp] theorem State.launch_setLaunch_self (s : State) (i : Nat) (l : Launch) : (s.setLaunch i l).launch? i = some l := by simp [State.launch?]
@[simp] theorem State.launch_setLaunch_ne (s : State) {i k : Nat} (l : Launch) (h : k ≠ i) : (s.setLaunch i l).launch? k = s.launch? k := by
  simp [State.launch?, h]
@[simp] theorem State.launch_setGroup (s : State) (c sl i : Nat) (g : Group) : (s.setGroup c sl g).launch? i = s.launch? i := rfl

end Sys2Proof.Machine
end

