-- ==== Sys2Proof/Laws/Flue.lean ====
section
/-! SUPPORT. What a slot op leaves of its line core. -/

namespace Sys2Proof.Machine

theorem onLine_eq {s : State} (h : s.cur.line < 64) (f : LineCore → State) : onLine s f = .next (f (s.line s.cur.line)) := by
  simp [onLine, h]

/-- A scalar op issues its result with latency 1. -/
theorem scalarOp_eq {s : State} (h : s.cur.line < 64) (d : BitVec 5) (rs : List Nat) (f : LineCore → Word) :
    scalarOp s d rs f = .next (s.scalarResult d rs (f (s.line s.cur.line))) := by
  rw [scalarOp, onLine_eq h]; rfl

/-- A vector op issues its result with its latency. -/
theorem vecOp_eq {s : State} (h : s.cur.line < 64) (lat : Nat) (d : BitVec 6) (rs : List Nat) (f : LineCore → Nat → Word) :
    vecOp s lat d rs f = .next (s.vectorResult lat d rs (f (s.line s.cur.line))) := by
  rw [vecOp, onLine_eq h]; rfl

end Sys2Proof.Machine
end

