-- ==== Sys2Proof/Laws/Lane.lean ====
section
/-! SUPPORT. What the shared shapes of the casting words leave when no lane traps. -/

namespace Sys2Proof.Machine

theorem State.view_s {s : State} {v : View} (h : s.view = some v) : v.s = s := by
  unfold State.view at h
  split at h
  · simp at h
  · split at h
    · simp only [Option.some.injEq] at h; rw [← h]
    · simp at h

theorem onFrag_of_view {s : State} {v : View} (h : s.view = some v) (f : View → State) : onFrag s f = .next (f v) := by
  simp [onFrag, h]

/-- The results of lanes, found by lane. -/
theorem tfind_map_lane {α : Type} (ls : List Nat) (f : Nat → α) (l : Nat) :
    tfind (ls.map fun l => (l, f l)) l = if l ∈ ls then some (f l) else none := by
  induction ls with
  | nil => rfl
  | cons a t ih =>
    simp only [List.map_cons, tfind, List.mem_cons]
    by_cases h : a = l
    · simp [h]
    · rw [if_neg h, ih]; simp [Ne.symm h]

theorem trapsOf_ok (ls : List Nat) (f : Nat → Thread) : trapsOf (ls.map fun l => (l, LaneRes.ok (f l))) = [] := by
  induction ls with
  | nil => rfl
  | cons a t ih => simp [trapsOf, LaneRes.trap?]

/-- The group that results of lanes leave when each is a thread. -/
theorem Group.apply_ok (g : Group) (ls : List Nat) (f : Nat → Thread) :
    g.apply (ls.map fun l => (l, LaneRes.ok (f l))) =
      { g with threads := g.threads.map fun (e : Nat × Thread) => if e.1 ∈ ls then (e.1, f e.1) else e } := by
  unfold Group.apply
  congr 1
  apply List.map_congr_left
  intro e _
  rw [tfind_map_lane ls fun l => LaneRes.ok (f l)]
  split <;> rename_i h <;> split at h <;> simp_all [LaneRes.thread]
  rw [← h]

/-- When every lane's result is a thread, the word completes in every lane. -/
theorem View.finish_ok (v : View) (w : CastWord) (f : Nat → Thread → Thread) :
    v.finish v.s ((v.active w).map fun l => (l, LaneRes.ok (f l (v.g.thread l)))) = v.done w f := by
  unfold View.finish View.done View.doneGroup View.laneGroup View.onward
  rw [trapsOf_ok (v.active w) fun l => f l (v.g.thread l), Group.apply_ok v.g (v.active w) fun l => f l (v.g.thread l)]

/-- An L-form word of registers whose lanes' results `F` are all threads `f` completes so. -/
theorem lane_done {s : State} {i : Instr} {w : CastWord} {v : View} {F : Nat → Thread → LaneRes} {f : Nat → Thread → Thread}
    (h : s.issues i w v) (hF : ∀ l ∈ v.active w, F l (v.g.thread l) = .ok (f l (v.g.thread l))) : v.lane i w F = v.done w f := by
  unfold View.lane
  rw [h.1.2]
  simp only
  rw [← View.finish_ok]
  congr 1
  apply List.map_congr_left
  intro l hl
  simp [h.2 l hl, hF l hl]

/-- A word of the shape of `View.lane` at the fragment that issues it. -/
theorem onFrag_lane_done {s : State} {i : Instr} {w : CastWord} {v : View} {F : View → Nat → Thread → LaneRes} {f : Nat → Thread → Thread}
    (h : s.issues i w v) (hF : ∀ l ∈ v.active w, F v l (v.g.thread l) = .ok (f l (v.g.thread l))) :
    onFrag s (fun v => v.lane i w (F v)) = .next (v.done w f) := by
  rw [onFrag_of_view h.1.1, lane_done h hF]

/-- A word of the shape of `View.uniform` whose checks pass. -/
theorem onFrag_uniform {s : State} {i : Instr} {v : View} {f : View → State} (h : s.decodes i v) :
    onFrag s (fun v => v.uniform i f) = .next (f v) := by
  rw [onFrag_of_view h.1]; simp [View.uniform, h.2]

/-! ### What a word that completes leaves -/

theorem View.done_group (v : View) (w : CastWord) (f : Nat → Thread → Thread) : (v.done w f).group? v.c v.slot = some (v.doneGroup w f) := by
  simp [View.done, State.group?, State.setGroup]

theorem View.groupDone_group (v : View) (g : Group) : (v.groupDone g).group? v.c v.slot = some (g.setNode v.onward) := by
  simp [View.groupDone, State.group?, State.setGroup]

@[simp] theorem View.done_mem (v : View) (w : CastWord) (f : Nat → Thread → Thread) : (v.done w f).mem = v.s.mem := rfl
@[simp] theorem View.groupDone_mem (v : View) (g : Group) : (v.groupDone g).mem = v.s.mem := rfl
@[simp] theorem View.done_faultQ (v : View) (w : CastWord) (f : Nat → Thread → Thread) : (v.done w f).faultQ = v.s.faultQ := rfl
@[simp] theorem View.groupDone_faultQ (v : View) (g : Group) : (v.groupDone g).faultQ = v.s.faultQ := rfl

theorem View.done_onlyCores (v : View) (w : CastWord) (f : Nat → Thread → Thread) : OnlyCores v.s (v.done w f) := rfl

end Sys2Proof.Machine
end

