-- ==== Sys2Proof/Laws/Memory.lean ====
section
/-! SUPPORT. Reading bytes after writing them, and that every operation on memory keeps its canonical form. -/

namespace Sys2Proof.Machine

theorem Memory.wf_cells {m : Memory} (h : m.wf = true) : tsorted m.cells = true := by
  simp only [Memory.wf, twf, Bool.and_eq_true] at h; exact h.1.1

/-! ### One byte -/

@[simp] theorem Memory.byte_setByte_self (m : Memory) (a : Nat) (b : Byte) : (m.setByte a b).byte a = b := tget_tset_self 0#8 m.cells a b

@[simp] theorem Memory.byte_setByte_ne (m : Memory) {a k : Nat} (b : Byte) (h : k ≠ a) : (m.setByte a b).byte k = m.byte k :=
  tget_tset_ne m.cells b h

theorem Memory.setByte_wf {m : Memory} (a : Nat) (b : Byte) (h : m.wf = true) : (m.setByte a b).wf = true := by
  simp only [Memory.wf, Bool.and_eq_true, Memory.setByte] at h ⊢
  exact ⟨twf_tset a b h.1, h.2⟩

@[simp] theorem Memory.setByte_poison (m : Memory) (a : Nat) (b : Byte) : (m.setByte a b).poison = m.poison := rfl

/-! ### Several bytes -/

theorem Memory.write_wf {m : Memory} (a n v : Nat) (h : m.wf = true) : (m.write a n v).wf = true := by
  induction n generalizing m a v with
  | zero => exact h
  | succ n ih => exact ih (a + 1) (v / 256) (Memory.setByte_wf a _ h)

@[simp] theorem Memory.write_poison (m : Memory) (a n v : Nat) : (m.write a n v).poison = m.poison := by
  induction n generalizing m a v with
  | zero => rfl
  | succ n ih => exact ih (m.setByte a _) (a + 1) (v / 256)

/-- A write leaves every byte outside its range. -/
theorem Memory.byte_write_outside (m : Memory) (a n v k : Nat) (h : k < a ∨ a + n ≤ k) : (m.write a n v).byte k = m.byte k := by
  induction n generalizing m a v with
  | zero => rfl
  | succ n ih =>
    simp only [Memory.write]
    rw [ih _ _ _ (by omega), Memory.byte_setByte_ne _ _ (by omega)]

/-- A byte in the range of a write reads as that byte of the value. -/
theorem Memory.byte_write_inside (m : Memory) (a n v i : Nat) (h : i < n) :
    (m.write a n v).byte (a + i) = BitVec.ofNat 8 (v / 256 ^ i) := by
  induction n generalizing m a v i with
  | zero => omega
  | succ n ih =>
    simp only [Memory.write]
    cases i with
    | zero =>
      rw [Memory.byte_write_outside _ _ _ _ _ (by omega)]
      simp
    | succ i =>
      have := ih (m.setByte a (BitVec.ofNat 8 v)) (a + 1) (v / 256) i (by omega)
      rw [show a + (i + 1) = a + 1 + i by omega, this, Nat.div_div_eq_div_mul]
      congr 2
      rw [Nat.pow_succ, Nat.mul_comm]

/-- A value read back where it was written. -/
theorem Memory.read_write (m : Memory) (a n v : Nat) : (m.write a n v).read a n = v % 256 ^ n := by
  induction n generalizing m a v with
  | zero => simp [Memory.read, Nat.mod_one]
  | succ n ih =>
    simp only [Memory.read, Memory.write]
    rw [ih, Memory.byte_write_outside _ _ _ _ _ (by omega), Memory.byte_setByte_self]
    rw [Nat.pow_succ', BitVec.toNat_ofNat, Nat.mod_mul]

/-! ### Poison -/

theorem Memory.clearPoison_wf {m : Memory} (a n : Nat) (h : m.wf = true) : (m.clearPoison a n).wf = true := by
  simp only [Memory.wf, Bool.and_eq_true, decide_eq_true_eq, Memory.clearPoison] at h ⊢
  exact ⟨h.1, decide_eq_true (h.2.filter _)⟩

@[simp] theorem Memory.byte_clearPoison (m : Memory) (a n k : Nat) : (m.clearPoison a n).byte k = m.byte k := rfl

theorem mem_sinsert {l : List Nat} {i x : Nat} (h : x ∈ sinsert l i) : x = i ∨ x ∈ l := by
  induction l with
  | nil => simpa [sinsert] using h
  | cons j t ih =>
    simp only [sinsert] at h
    split at h
    · rcases List.mem_cons.1 h with rfl | h
      · simp
      · rcases ih h with h | h <;> simp [h]
    · split at h <;> (rcases List.mem_cons.1 h with rfl | h <;> simp_all)

theorem pairwise_sinsert {l : List Nat} (i : Nat) (h : l.Pairwise (· < ·)) : (sinsert l i).Pairwise (· < ·) := by
  induction l with
  | nil => simp [sinsert]
  | cons j t ih =>
    simp only [List.pairwise_cons] at h
    simp only [sinsert]; split
    · simp only [List.pairwise_cons]
      exact ⟨fun x hx => by rcases mem_sinsert hx with rfl | hx; assumption; exact h.1 x hx, ih h.2⟩
    · split
      · simp only [List.pairwise_cons]; exact h
      · simp only [List.pairwise_cons]
        exact ⟨fun x hx => by rcases List.mem_cons.1 hx with rfl | hx; omega; have := h.1 x hx; omega, h⟩

theorem Memory.mark_wf {m : Memory} (p : Nat) (h : m.wf = true) : (m.mark p).wf = true := by
  simp only [Memory.wf, Bool.and_eq_true, decide_eq_true_eq, Memory.mark] at h ⊢
  exact ⟨h.1, decide_eq_true (pairwise_sinsert p h.2)⟩

@[simp] theorem Memory.byte_mark (m : Memory) (p k : Nat) : (m.mark p).byte k = m.byte k := rfl

/-! ### The parts of memory that a power loss or a reclaimed frame leaves -/

theorem tsorted_filter {α : Type} (f : Nat × α → Bool) {t : Table α} (h : tsorted t = true) : tsorted (t.filter f) = true := by
  induction t with
  | nil => rfl
  | cons e t ih =>
    simp only [List.filter_cons]; split
    · exact tsorted_cons (ih (tsorted_tail h)) fun x hx => tsorted_lt h x (List.mem_of_mem_filter hx)
    · exact ih (tsorted_tail h)

theorem Memory.filter_wf {m : Memory} (f : Host.Cell → Bool) (g : Nat → Bool) (h : m.wf = true) :
    Memory.wf { cells := m.cells.filter f, poison := m.poison.filter g } = true := by
  simp only [Memory.wf, twf, Bool.and_eq_true, decide_eq_true_eq, List.all_eq_true] at h ⊢
  exact ⟨⟨tsorted_filter f h.1.1, fun e he => h.1.2 e (List.mem_of_mem_filter he)⟩, h.2.filter _⟩

/-! ### Writes at the device point -/

/-- A write at the device point: it is discarded in a free frame, and else lays the bytes and clears whole sectors' markers. -/
theorem State.rawWrite_eq (s : State) (pa n v : Nat) :
    s.rawWrite pa n v = s ∨ s.rawWrite pa n v = { s with mem := (s.mem.write pa n v).clearPoison pa n } := by
  unfold State.rawWrite; split <;> simp

theorem State.rawWrite_wf {s : State} (pa n v : Nat) (h : s.mem.wf = true) : (s.rawWrite pa n v).mem.wf = true := by
  rcases s.rawWrite_eq pa n v with e | e <;> rw [e]
  · exact h
  · exact Memory.clearPoison_wf _ _ (Memory.write_wf _ _ _ h)

/-- A write at the device point leaves every byte outside its range. -/
theorem State.rawWrite_byte_outside (s : State) (pa n v k : Nat) (h : k < pa ∨ pa + n ≤ k) :
    (s.rawWrite pa n v).mem.byte k = s.mem.byte k := by
  rcases s.rawWrite_eq pa n v with e | e <;> rw [e]
  exact Memory.byte_write_outside _ _ _ _ _ h

end Sys2Proof.Machine
end

