-- ==== Sys2Proof/Laws/PerInstr.lean ====
section
/-! SUPPORT. Per instruction: it is written in one kind of code, and its code has no spare words. -/

/-- An instruction is written as a casting word, as a slot op or as command words, never as two of them; command words are at least one and at
most four. -/
def Sys2Proof.Laws.OneCode.Statement (i : Sys2Proof.Instr) : Prop :=
  (Sys2Proof.encodeCast i = none ∨ Sys2Proof.encodeFlue i = none) ∧
  (Sys2Proof.encodeStoker i = none ∨ Sys2Proof.encodeCast i = none ∧ Sys2Proof.encodeFlue i = none) ∧
  ∀ ws, Sys2Proof.encodeStoker i = some ws → 1 ≤ ws.length ∧ ws.length ≤ 4

namespace Sys2Proof.Laws

/-- A casting word. -/
theorem oneCode_cast {i : Instr} (h : encodeFlue i = none) (k : encodeStoker i = none) : OneCode.Statement i :=
  ⟨.inr h, .inl k, by simp [k]⟩
/-- A slot op, or an event. -/
theorem oneCode_flue {i : Instr} (h : encodeCast i = none) (k : encodeStoker i = none) : OneCode.Statement i :=
  ⟨.inl h, .inl k, by simp [k]⟩
/-- Command words. -/
theorem oneCode_stoker {i : Instr} {ws : List DWord} (h : encodeCast i = none) (k : encodeFlue i = none) (e : encodeStoker i = some ws)
    (n : 1 ≤ ws.length ∧ ws.length ≤ 4) : OneCode.Statement i :=
  ⟨.inl h, .inr ⟨h, k⟩, by simp [e, n]⟩

end Sys2Proof.Laws

theorem Sys2Proof.Laws.OneCode.ldi (xd : BitVec 4) (v : Sys2Proof.LdiVal) : Sys2Proof.Laws.OneCode.Statement (.ldi xd v) := by
  cases v <;> exact Sys2Proof.Laws.oneCode_stoker rfl rfl rfl (by simp)
theorem Sys2Proof.Laws.OneCode.stokerAdd (xd : BitVec 4) (xa : BitVec 4) (b : Sys2Proof.XOperand) : Sys2Proof.Laws.OneCode.Statement (.stokerAdd xd xa b) := by
  cases b <;> exact Sys2Proof.Laws.oneCode_stoker rfl rfl rfl (by simp [Sys2Proof.scalarWord])
theorem Sys2Proof.Laws.OneCode.stokerSub (xd : BitVec 4) (xa : BitVec 4) (b : Sys2Proof.XOperand) : Sys2Proof.Laws.OneCode.Statement (.stokerSub xd xa b) := by
  cases b <;> exact Sys2Proof.Laws.oneCode_stoker rfl rfl rfl (by simp [Sys2Proof.scalarWord])
theorem Sys2Proof.Laws.OneCode.stokerAnd (xd : BitVec 4) (xa : BitVec 4) (b : Sys2Proof.XOperand) : Sys2Proof.Laws.OneCode.Statement (.stokerAnd xd xa b) := by
  cases b <;> exact Sys2Proof.Laws.oneCode_stoker rfl rfl rfl (by simp [Sys2Proof.scalarWord])
theorem Sys2Proof.Laws.OneCode.stokerOr (xd : BitVec 4) (xa : BitVec 4) (b : Sys2Proof.XOperand) : Sys2Proof.Laws.OneCode.Statement (.stokerOr xd xa b) := by
  cases b <;> exact Sys2Proof.Laws.oneCode_stoker rfl rfl rfl (by simp [Sys2Proof.scalarWord])
theorem Sys2Proof.Laws.OneCode.stokerXor (xd : BitVec 4) (xa : BitVec 4) (b : Sys2Proof.XOperand) : Sys2Proof.Laws.OneCode.Statement (.stokerXor xd xa b) := by
  cases b <;> exact Sys2Proof.Laws.oneCode_stoker rfl rfl rfl (by simp [Sys2Proof.scalarWord])
theorem Sys2Proof.Laws.OneCode.stokerShl (xd : BitVec 4) (xa : BitVec 4) (b : Sys2Proof.XOperand) : Sys2Proof.Laws.OneCode.Statement (.stokerShl xd xa b) := by
  cases b <;> exact Sys2Proof.Laws.oneCode_stoker rfl rfl rfl (by simp [Sys2Proof.scalarWord])
theorem Sys2Proof.Laws.OneCode.stokerShr (xd : BitVec 4) (xa : BitVec 4) (b : Sys2Proof.XOperand) : Sys2Proof.Laws.OneCode.Statement (.stokerShr xd xa b) := by
  cases b <;> exact Sys2Proof.Laws.oneCode_stoker rfl rfl rfl (by simp [Sys2Proof.scalarWord])
theorem Sys2Proof.Laws.OneCode.stokerBr (cond : Sys2Proof.BrCond) (xa : BitVec 4) (xb : BitVec 4) (off : Sys2Proof.Word) : Sys2Proof.Laws.OneCode.Statement (.stokerBr cond xa xb off) :=
  Sys2Proof.Laws.oneCode_stoker rfl rfl rfl (by simp)
theorem Sys2Proof.Laws.OneCode.callb (addr : Sys2Proof.DWord) : Sys2Proof.Laws.OneCode.Statement (.callb addr) :=
  Sys2Proof.Laws.oneCode_stoker rfl rfl rfl (by simp)
theorem Sys2Proof.Laws.OneCode.write (f : Sys2Proof.MemFlags) (addr : Sys2Proof.DWord) (v : Sys2Proof.DWord) : Sys2Proof.Laws.OneCode.Statement (.write f addr v) :=
  Sys2Proof.Laws.oneCode_stoker rfl rfl rfl (by simp)
theorem Sys2Proof.Laws.OneCode.stx (f : Sys2Proof.MemFlags) (xs : BitVec 4) (addr : Sys2Proof.DWord) : Sys2Proof.Laws.OneCode.Statement (.stx f xs addr) :=
  Sys2Proof.Laws.oneCode_stoker rfl rfl rfl (by simp)
theorem Sys2Proof.Laws.OneCode.ldx (f : Sys2Proof.MemFlags) (xd : BitVec 4) (addr : Sys2Proof.DWord) : Sys2Proof.Laws.OneCode.Statement (.ldx f xd addr) :=
  Sys2Proof.Laws.oneCode_stoker rfl rfl rfl (by simp)
theorem Sys2Proof.Laws.OneCode.copy (dst : Sys2Proof.DWord) (src : Sys2Proof.DWord) (len : Sys2Proof.DWord) : Sys2Proof.Laws.OneCode.Statement (.copy dst src len) :=
  Sys2Proof.Laws.oneCode_stoker rfl rfl rfl (by simp)
theorem Sys2Proof.Laws.OneCode.cache (m : Sys2Proof.CacheOp) (addr : Sys2Proof.DWord) (len : Sys2Proof.DWord) : Sys2Proof.Laws.OneCode.Statement (.cache m addr len) :=
  Sys2Proof.Laws.oneCode_stoker rfl rfl rfl (by simp)
theorem Sys2Proof.Laws.OneCode.present (seq : Sys2Proof.Word) (addr : Sys2Proof.DWord) : Sys2Proof.Laws.OneCode.Statement (.present seq addr) :=
  Sys2Proof.Laws.oneCode_stoker rfl rfl rfl (by simp)
theorem Sys2Proof.Laws.OneCode.intr (vec : BitVec 11) : Sys2Proof.Laws.OneCode.Statement (.intr vec) :=
  Sys2Proof.Laws.oneCode_stoker rfl rfl rfl (by simp)
theorem Sys2Proof.Laws.OneCode.launch (rec : Sys2Proof.DWord) (sig : Option Sys2Proof.DWord) : Sys2Proof.Laws.OneCode.Statement (.launch rec sig) := by
  cases sig <;> exact Sys2Proof.Laws.oneCode_stoker rfl rfl rfl (by simp)
theorem Sys2Proof.Laws.OneCode.stokerFence (launches : Bool) (sys : Bool) : Sys2Proof.Laws.OneCode.Statement (.stokerFence launches sys) :=
  Sys2Proof.Laws.oneCode_stoker rfl rfl rfl (by simp)
theorem Sys2Proof.Laws.OneCode.wait (cond : Sys2Proof.WaitCond) (sem : BitVec 10) (v : Sys2Proof.XVal) : Sys2Proof.Laws.OneCode.Statement (.wait cond sem v) := by
  cases v <;> exact Sys2Proof.Laws.oneCode_stoker rfl rfl rfl (by simp [Sys2Proof.xvalWords])
theorem Sys2Proof.Laws.OneCode.waitt (rel : Bool) (v : Sys2Proof.XVal) : Sys2Proof.Laws.OneCode.Statement (.waitt rel v) := by
  cases v <;> exact Sys2Proof.Laws.oneCode_stoker rfl rfl rfl (by simp [Sys2Proof.xvalWords])
theorem Sys2Proof.Laws.OneCode.signal (m : Sys2Proof.SignalOp) (sys : Bool) (sem : BitVec 10) (v : Sys2Proof.XVal) : Sys2Proof.Laws.OneCode.Statement (.signal m sys sem v) := by
  cases v <;> exact Sys2Proof.Laws.oneCode_stoker rfl rfl rfl (by simp [Sys2Proof.xvalWords])
theorem Sys2Proof.Laws.OneCode.sqctlEnable (queue : BitVec 13) : Sys2Proof.Laws.OneCode.Statement (.sqctlEnable queue) :=
  Sys2Proof.Laws.oneCode_stoker rfl rfl rfl (by simp)
theorem Sys2Proof.Laws.OneCode.sqctlDisable (queue : BitVec 13) : Sys2Proof.Laws.OneCode.Statement (.sqctlDisable queue) :=
  Sys2Proof.Laws.oneCode_stoker rfl rfl rfl (by simp)
theorem Sys2Proof.Laws.OneCode.sqctlReset (queue : BitVec 13) : Sys2Proof.Laws.OneCode.Statement (.sqctlReset queue) :=
  Sys2Proof.Laws.oneCode_stoker rfl rfl rfl (by simp)
theorem Sys2Proof.Laws.OneCode.sqctlUnmap (queue : BitVec 13) : Sys2Proof.Laws.OneCode.Statement (.sqctlUnmap queue) :=
  Sys2Proof.Laws.oneCode_stoker rfl rfl rfl (by simp)
theorem Sys2Proof.Laws.OneCode.spreempt (keepq : Bool) (ctx : BitVec 6) : Sys2Proof.Laws.OneCode.Statement (.spreempt keepq ctx) :=
  Sys2Proof.Laws.oneCode_stoker rfl rfl rfl (by simp)
theorem Sys2Proof.Laws.OneCode.sresume (ctx : BitVec 6) : Sys2Proof.Laws.OneCode.Statement (.sresume ctx) :=
  Sys2Proof.Laws.oneCode_stoker rfl rfl rfl (by simp)
theorem Sys2Proof.Laws.OneCode.ssetreg (xs : BitVec 4) (reg : BitVec 16) : Sys2Proof.Laws.OneCode.Statement (.ssetreg xs reg) :=
  Sys2Proof.Laws.oneCode_stoker rfl rfl rfl (by simp)
theorem Sys2Proof.Laws.OneCode.sgetreg (xd : BitVec 4) (reg : BitVec 16) : Sys2Proof.Laws.OneCode.Statement (.sgetreg xd reg) :=
  Sys2Proof.Laws.oneCode_stoker rfl rfl rfl (by simp)
theorem Sys2Proof.Laws.OneCode.svsemBind (ctx : BitVec 6) (virt : BitVec 10) (countM1 : BitVec 12) (phys : BitVec 12) : Sys2Proof.Laws.OneCode.Statement (.svsemBind ctx virt countM1 phys) :=
  Sys2Proof.Laws.oneCode_stoker rfl rfl rfl (by simp)
theorem Sys2Proof.Laws.OneCode.svsemUnbind (ctx : BitVec 6) (virt : BitVec 10) (countM1 : BitVec 12) : Sys2Proof.Laws.OneCode.Statement (.svsemUnbind ctx virt countM1) :=
  Sys2Proof.Laws.oneCode_stoker rfl rfl rfl (by simp)
theorem Sys2Proof.Laws.OneCode.nop (w : Sys2Proof.CastWord) : Sys2Proof.Laws.OneCode.Statement (.nop w) :=
  Sys2Proof.Laws.oneCode_cast rfl rfl
theorem Sys2Proof.Laws.OneCode.bra (w : Sys2Proof.CastWord) : Sys2Proof.Laws.OneCode.Statement (.bra w) :=
  Sys2Proof.Laws.oneCode_cast rfl rfl
theorem Sys2Proof.Laws.OneCode.brx (w : Sys2Proof.CastWord) : Sys2Proof.Laws.OneCode.Statement (.brx w) :=
  Sys2Proof.Laws.oneCode_cast rfl rfl
theorem Sys2Proof.Laws.OneCode.call (w : Sys2Proof.CastWord) : Sys2Proof.Laws.OneCode.Statement (.call w) :=
  Sys2Proof.Laws.oneCode_cast rfl rfl
theorem Sys2Proof.Laws.OneCode.callx (w : Sys2Proof.CastWord) : Sys2Proof.Laws.OneCode.Statement (.callx w) :=
  Sys2Proof.Laws.oneCode_cast rfl rfl
theorem Sys2Proof.Laws.OneCode.ret (w : Sys2Proof.CastWord) : Sys2Proof.Laws.OneCode.Statement (.ret w) :=
  Sys2Proof.Laws.oneCode_cast rfl rfl
theorem Sys2Proof.Laws.OneCode.join (w : Sys2Proof.CastWord) : Sys2Proof.Laws.OneCode.Statement (.join w) :=
  Sys2Proof.Laws.oneCode_cast rfl rfl
theorem Sys2Proof.Laws.OneCode.exit (w : Sys2Proof.CastWord) : Sys2Proof.Laws.OneCode.Statement (.exit w) :=
  Sys2Proof.Laws.oneCode_cast rfl rfl
theorem Sys2Proof.Laws.OneCode.bar (w : Sys2Proof.CastWord) : Sys2Proof.Laws.OneCode.Statement (.bar w) :=
  Sys2Proof.Laws.oneCode_cast rfl rfl
theorem Sys2Proof.Laws.OneCode.arrive (w : Sys2Proof.CastWord) : Sys2Proof.Laws.OneCode.Statement (.arrive w) :=
  Sys2Proof.Laws.oneCode_cast rfl rfl
theorem Sys2Proof.Laws.OneCode.setw (w : Sys2Proof.CastWord) : Sys2Proof.Laws.OneCode.Statement (.setw w) :=
  Sys2Proof.Laws.oneCode_cast rfl rfl
theorem Sys2Proof.Laws.OneCode.shfl (m : Sys2Proof.ShflOp) (w : Sys2Proof.CastWord) : Sys2Proof.Laws.OneCode.Statement (.shfl m w) :=
  Sys2Proof.Laws.oneCode_cast rfl rfl
theorem Sys2Proof.Laws.OneCode.vote (m : Sys2Proof.VoteOp) (w : Sys2Proof.CastWord) : Sys2Proof.Laws.OneCode.Statement (.vote m w) :=
  Sys2Proof.Laws.oneCode_cast rfl rfl
theorem Sys2Proof.Laws.OneCode.elect (w : Sys2Proof.CastWord) : Sys2Proof.Laws.OneCode.Statement (.elect w) :=
  Sys2Proof.Laws.oneCode_cast rfl rfl
theorem Sys2Proof.Laws.OneCode.gred (m : Sys2Proof.RedOp) (w : Sys2Proof.CastWord) : Sys2Proof.Laws.OneCode.Statement (.gred m w) :=
  Sys2Proof.Laws.oneCode_cast rfl rfl
theorem Sys2Proof.Laws.OneCode.gscan (m : Sys2Proof.ScanOp) (w : Sys2Proof.CastWord) : Sys2Proof.Laws.OneCode.Statement (.gscan m w) :=
  Sys2Proof.Laws.oneCode_cast rfl rfl
theorem Sys2Proof.Laws.OneCode.rdsys (w : Sys2Proof.CastWord) : Sys2Proof.Laws.OneCode.Statement (.rdsys w) :=
  Sys2Proof.Laws.oneCode_cast rfl rfl
theorem Sys2Proof.Laws.OneCode.wrsys (w : Sys2Proof.CastWord) : Sys2Proof.Laws.OneCode.Statement (.wrsys w) :=
  Sys2Proof.Laws.oneCode_cast rfl rfl
theorem Sys2Proof.Laws.OneCode.kset (w : Sys2Proof.CastWord) : Sys2Proof.Laws.OneCode.Statement (.kset w) :=
  Sys2Proof.Laws.oneCode_cast rfl rfl
theorem Sys2Proof.Laws.OneCode.kget (w : Sys2Proof.CastWord) : Sys2Proof.Laws.OneCode.Statement (.kget w) :=
  Sys2Proof.Laws.oneCode_cast rfl rfl
theorem Sys2Proof.Laws.OneCode.plop (m : Sys2Proof.PlopOp) (w : Sys2Proof.CastWord) : Sys2Proof.Laws.OneCode.Statement (.plop m w) :=
  Sys2Proof.Laws.oneCode_cast rfl rfl
theorem Sys2Proof.Laws.OneCode.hmk (w : Sys2Proof.CastWord) : Sys2Proof.Laws.OneCode.Statement (.hmk w) :=
  Sys2Proof.Laws.oneCode_cast rfl rfl
theorem Sys2Proof.Laws.OneCode.trap (w : Sys2Proof.CastWord) : Sys2Proof.Laws.OneCode.Statement (.trap w) :=
  Sys2Proof.Laws.oneCode_cast rfl rfl
theorem Sys2Proof.Laws.OneCode.dbrk (w : Sys2Proof.CastWord) : Sys2Proof.Laws.OneCode.Statement (.dbrk w) :=
  Sys2Proof.Laws.oneCode_cast rfl rfl
theorem Sys2Proof.Laws.OneCode.tret (w : Sys2Proof.CastWord) : Sys2Proof.Laws.OneCode.Statement (.tret w) :=
  Sys2Proof.Laws.oneCode_cast rfl rfl
theorem Sys2Proof.Laws.OneCode.sleep (w : Sys2Proof.CastWord) : Sys2Proof.Laws.OneCode.Statement (.sleep w) :=
  Sys2Proof.Laws.oneCode_cast rfl rfl
theorem Sys2Proof.Laws.OneCode.iadd (w : Sys2Proof.CastWord) : Sys2Proof.Laws.OneCode.Statement (.iadd w) :=
  Sys2Proof.Laws.oneCode_cast rfl rfl
theorem Sys2Proof.Laws.OneCode.isub (w : Sys2Proof.CastWord) : Sys2Proof.Laws.OneCode.Statement (.isub w) :=
  Sys2Proof.Laws.oneCode_cast rfl rfl
theorem Sys2Proof.Laws.OneCode.ineg (w : Sys2Proof.CastWord) : Sys2Proof.Laws.OneCode.Statement (.ineg w) :=
  Sys2Proof.Laws.oneCode_cast rfl rfl
theorem Sys2Proof.Laws.OneCode.iabs (w : Sys2Proof.CastWord) : Sys2Proof.Laws.OneCode.Statement (.iabs w) :=
  Sys2Proof.Laws.oneCode_cast rfl rfl
theorem Sys2Proof.Laws.OneCode.imin (w : Sys2Proof.CastWord) : Sys2Proof.Laws.OneCode.Statement (.imin w) :=
  Sys2Proof.Laws.oneCode_cast rfl rfl
theorem Sys2Proof.Laws.OneCode.imax (w : Sys2Proof.CastWord) : Sys2Proof.Laws.OneCode.Statement (.imax w) :=
  Sys2Proof.Laws.oneCode_cast rfl rfl
theorem Sys2Proof.Laws.OneCode.imul (w : Sys2Proof.CastWord) : Sys2Proof.Laws.OneCode.Statement (.imul w) :=
  Sys2Proof.Laws.oneCode_cast rfl rfl
theorem Sys2Proof.Laws.OneCode.imulh (w : Sys2Proof.CastWord) : Sys2Proof.Laws.OneCode.Statement (.imulh w) :=
  Sys2Proof.Laws.oneCode_cast rfl rfl
theorem Sys2Proof.Laws.OneCode.imad (w : Sys2Proof.CastWord) : Sys2Proof.Laws.OneCode.Statement (.imad w) :=
  Sys2Proof.Laws.oneCode_cast rfl rfl
theorem Sys2Proof.Laws.OneCode.idivs (w : Sys2Proof.CastWord) : Sys2Proof.Laws.OneCode.Statement (.idivs w) :=
  Sys2Proof.Laws.oneCode_cast rfl rfl
theorem Sys2Proof.Laws.OneCode.idive (w : Sys2Proof.CastWord) : Sys2Proof.Laws.OneCode.Statement (.idive w) :=
  Sys2Proof.Laws.oneCode_cast rfl rfl
theorem Sys2Proof.Laws.OneCode.and (w : Sys2Proof.CastWord) : Sys2Proof.Laws.OneCode.Statement (.and w) :=
  Sys2Proof.Laws.oneCode_cast rfl rfl
theorem Sys2Proof.Laws.OneCode.or (w : Sys2Proof.CastWord) : Sys2Proof.Laws.OneCode.Statement (.or w) :=
  Sys2Proof.Laws.oneCode_cast rfl rfl
theorem Sys2Proof.Laws.OneCode.xor (w : Sys2Proof.CastWord) : Sys2Proof.Laws.OneCode.Statement (.xor w) :=
  Sys2Proof.Laws.oneCode_cast rfl rfl
theorem Sys2Proof.Laws.OneCode.andn (w : Sys2Proof.CastWord) : Sys2Proof.Laws.OneCode.Statement (.andn w) :=
  Sys2Proof.Laws.oneCode_cast rfl rfl
theorem Sys2Proof.Laws.OneCode.not (w : Sys2Proof.CastWord) : Sys2Proof.Laws.OneCode.Statement (.not w) :=
  Sys2Proof.Laws.oneCode_cast rfl rfl
theorem Sys2Proof.Laws.OneCode.tern (w : Sys2Proof.CastWord) : Sys2Proof.Laws.OneCode.Statement (.tern w) :=
  Sys2Proof.Laws.oneCode_cast rfl rfl
theorem Sys2Proof.Laws.OneCode.shl (w : Sys2Proof.CastWord) : Sys2Proof.Laws.OneCode.Statement (.shl w) :=
  Sys2Proof.Laws.oneCode_cast rfl rfl
theorem Sys2Proof.Laws.OneCode.shr (w : Sys2Proof.CastWord) : Sys2Proof.Laws.OneCode.Statement (.shr w) :=
  Sys2Proof.Laws.oneCode_cast rfl rfl
theorem Sys2Proof.Laws.OneCode.sar (w : Sys2Proof.CastWord) : Sys2Proof.Laws.OneCode.Statement (.sar w) :=
  Sys2Proof.Laws.oneCode_cast rfl rfl
theorem Sys2Proof.Laws.OneCode.rot (w : Sys2Proof.CastWord) : Sys2Proof.Laws.OneCode.Statement (.rot w) :=
  Sys2Proof.Laws.oneCode_cast rfl rfl
theorem Sys2Proof.Laws.OneCode.bfx (w : Sys2Proof.CastWord) : Sys2Proof.Laws.OneCode.Statement (.bfx w) :=
  Sys2Proof.Laws.oneCode_cast rfl rfl
theorem Sys2Proof.Laws.OneCode.bfi (w : Sys2Proof.CastWord) : Sys2Proof.Laws.OneCode.Statement (.bfi w) :=
  Sys2Proof.Laws.oneCode_cast rfl rfl
theorem Sys2Proof.Laws.OneCode.popc (w : Sys2Proof.CastWord) : Sys2Proof.Laws.OneCode.Statement (.popc w) :=
  Sys2Proof.Laws.oneCode_cast rfl rfl
theorem Sys2Proof.Laws.OneCode.clz (w : Sys2Proof.CastWord) : Sys2Proof.Laws.OneCode.Statement (.clz w) :=
  Sys2Proof.Laws.oneCode_cast rfl rfl
theorem Sys2Proof.Laws.OneCode.brev (w : Sys2Proof.CastWord) : Sys2Proof.Laws.OneCode.Statement (.brev w) :=
  Sys2Proof.Laws.oneCode_cast rfl rfl
theorem Sys2Proof.Laws.OneCode.icmp (m : Sys2Proof.CmpOp) (w : Sys2Proof.CastWord) : Sys2Proof.Laws.OneCode.Statement (.icmp m w) :=
  Sys2Proof.Laws.oneCode_cast rfl rfl
theorem Sys2Proof.Laws.OneCode.sel (w : Sys2Proof.CastWord) : Sys2Proof.Laws.OneCode.Statement (.sel w) :=
  Sys2Proof.Laws.oneCode_cast rfl rfl
theorem Sys2Proof.Laws.OneCode.mov (w : Sys2Proof.CastWord) : Sys2Proof.Laws.OneCode.Statement (.mov w) :=
  Sys2Proof.Laws.oneCode_cast rfl rfl
theorem Sys2Proof.Laws.OneCode.icvt (w : Sys2Proof.CastWord) : Sys2Proof.Laws.OneCode.Statement (.icvt w) :=
  Sys2Proof.Laws.oneCode_cast rfl rfl
theorem Sys2Proof.Laws.OneCode.lea (w : Sys2Proof.CastWord) : Sys2Proof.Laws.OneCode.Statement (.lea w) :=
  Sys2Proof.Laws.oneCode_cast rfl rfl
theorem Sys2Proof.Laws.OneCode.leaGlb (w : Sys2Proof.CastWord) : Sys2Proof.Laws.OneCode.Statement (.leaGlb w) :=
  Sys2Proof.Laws.oneCode_cast rfl rfl
theorem Sys2Proof.Laws.OneCode.idp4 (w : Sys2Proof.CastWord) : Sys2Proof.Laws.OneCode.Statement (.idp4 w) :=
  Sys2Proof.Laws.oneCode_cast rfl rfl
theorem Sys2Proof.Laws.OneCode.idp2 (w : Sys2Proof.CastWord) : Sys2Proof.Laws.OneCode.Statement (.idp2 w) :=
  Sys2Proof.Laws.oneCode_cast rfl rfl
theorem Sys2Proof.Laws.OneCode.perm (w : Sys2Proof.CastWord) : Sys2Proof.Laws.OneCode.Statement (.perm w) :=
  Sys2Proof.Laws.oneCode_cast rfl rfl
theorem Sys2Proof.Laws.OneCode.fadd (w : Sys2Proof.CastWord) : Sys2Proof.Laws.OneCode.Statement (.fadd w) :=
  Sys2Proof.Laws.oneCode_cast rfl rfl
theorem Sys2Proof.Laws.OneCode.fsub (w : Sys2Proof.CastWord) : Sys2Proof.Laws.OneCode.Statement (.fsub w) :=
  Sys2Proof.Laws.oneCode_cast rfl rfl
theorem Sys2Proof.Laws.OneCode.fmul (w : Sys2Proof.CastWord) : Sys2Proof.Laws.OneCode.Statement (.fmul w) :=
  Sys2Proof.Laws.oneCode_cast rfl rfl
theorem Sys2Proof.Laws.OneCode.ffma (w : Sys2Proof.CastWord) : Sys2Proof.Laws.OneCode.Statement (.ffma w) :=
  Sys2Proof.Laws.oneCode_cast rfl rfl
theorem Sys2Proof.Laws.OneCode.fsum3 (w : Sys2Proof.CastWord) : Sys2Proof.Laws.OneCode.Statement (.fsum3 w) :=
  Sys2Proof.Laws.oneCode_cast rfl rfl
theorem Sys2Proof.Laws.OneCode.fmin (w : Sys2Proof.CastWord) : Sys2Proof.Laws.OneCode.Statement (.fmin w) :=
  Sys2Proof.Laws.oneCode_cast rfl rfl
theorem Sys2Proof.Laws.OneCode.fmax (w : Sys2Proof.CastWord) : Sys2Proof.Laws.OneCode.Statement (.fmax w) :=
  Sys2Proof.Laws.oneCode_cast rfl rfl
theorem Sys2Proof.Laws.OneCode.fabs (w : Sys2Proof.CastWord) : Sys2Proof.Laws.OneCode.Statement (.fabs w) :=
  Sys2Proof.Laws.oneCode_cast rfl rfl
theorem Sys2Proof.Laws.OneCode.fneg (w : Sys2Proof.CastWord) : Sys2Proof.Laws.OneCode.Statement (.fneg w) :=
  Sys2Proof.Laws.oneCode_cast rfl rfl
theorem Sys2Proof.Laws.OneCode.fcmp (m : Sys2Proof.FCmpOp) (w : Sys2Proof.CastWord) : Sys2Proof.Laws.OneCode.Statement (.fcmp m w) :=
  Sys2Proof.Laws.oneCode_cast rfl rfl
theorem Sys2Proof.Laws.OneCode.fclass (w : Sys2Proof.CastWord) : Sys2Proof.Laws.OneCode.Statement (.fclass w) :=
  Sys2Proof.Laws.oneCode_cast rfl rfl
theorem Sys2Proof.Laws.OneCode.fdiv (w : Sys2Proof.CastWord) : Sys2Proof.Laws.OneCode.Statement (.fdiv w) :=
  Sys2Proof.Laws.oneCode_cast rfl rfl
theorem Sys2Proof.Laws.OneCode.frcp (w : Sys2Proof.CastWord) : Sys2Proof.Laws.OneCode.Statement (.frcp w) :=
  Sys2Proof.Laws.oneCode_cast rfl rfl
theorem Sys2Proof.Laws.OneCode.fsqrt (w : Sys2Proof.CastWord) : Sys2Proof.Laws.OneCode.Statement (.fsqrt w) :=
  Sys2Proof.Laws.oneCode_cast rfl rfl
theorem Sys2Proof.Laws.OneCode.frsqrt (w : Sys2Proof.CastWord) : Sys2Proof.Laws.OneCode.Statement (.frsqrt w) :=
  Sys2Proof.Laws.oneCode_cast rfl rfl
theorem Sys2Proof.Laws.OneCode.fexp2 (w : Sys2Proof.CastWord) : Sys2Proof.Laws.OneCode.Statement (.fexp2 w) :=
  Sys2Proof.Laws.oneCode_cast rfl rfl
theorem Sys2Proof.Laws.OneCode.fexp (w : Sys2Proof.CastWord) : Sys2Proof.Laws.OneCode.Statement (.fexp w) :=
  Sys2Proof.Laws.oneCode_cast rfl rfl
theorem Sys2Proof.Laws.OneCode.flog2 (w : Sys2Proof.CastWord) : Sys2Proof.Laws.OneCode.Statement (.flog2 w) :=
  Sys2Proof.Laws.oneCode_cast rfl rfl
theorem Sys2Proof.Laws.OneCode.flog (w : Sys2Proof.CastWord) : Sys2Proof.Laws.OneCode.Statement (.flog w) :=
  Sys2Proof.Laws.oneCode_cast rfl rfl
theorem Sys2Proof.Laws.OneCode.fsin (w : Sys2Proof.CastWord) : Sys2Proof.Laws.OneCode.Statement (.fsin w) :=
  Sys2Proof.Laws.oneCode_cast rfl rfl
theorem Sys2Proof.Laws.OneCode.fcos (w : Sys2Proof.CastWord) : Sys2Proof.Laws.OneCode.Statement (.fcos w) :=
  Sys2Proof.Laws.oneCode_cast rfl rfl
theorem Sys2Proof.Laws.OneCode.ftanh (w : Sys2Proof.CastWord) : Sys2Proof.Laws.OneCode.Statement (.ftanh w) :=
  Sys2Proof.Laws.oneCode_cast rfl rfl
theorem Sys2Proof.Laws.OneCode.fatan2 (w : Sys2Proof.CastWord) : Sys2Proof.Laws.OneCode.Statement (.fatan2 w) :=
  Sys2Proof.Laws.oneCode_cast rfl rfl
theorem Sys2Proof.Laws.OneCode.fpow (w : Sys2Proof.CastWord) : Sys2Proof.Laws.OneCode.Statement (.fpow w) :=
  Sys2Proof.Laws.oneCode_cast rfl rfl
theorem Sys2Proof.Laws.OneCode.fcvt (w : Sys2Proof.CastWord) : Sys2Proof.Laws.OneCode.Statement (.fcvt w) :=
  Sys2Proof.Laws.oneCode_cast rfl rfl
theorem Sys2Proof.Laws.OneCode.fcvti (w : Sys2Proof.CastWord) : Sys2Proof.Laws.OneCode.Statement (.fcvti w) :=
  Sys2Proof.Laws.oneCode_cast rfl rfl
theorem Sys2Proof.Laws.OneCode.icvtf (w : Sys2Proof.CastWord) : Sys2Proof.Laws.OneCode.Statement (.icvtf w) :=
  Sys2Proof.Laws.oneCode_cast rfl rfl
theorem Sys2Proof.Laws.OneCode.frint (w : Sys2Proof.CastWord) : Sys2Proof.Laws.OneCode.Statement (.frint w) :=
  Sys2Proof.Laws.oneCode_cast rfl rfl
theorem Sys2Proof.Laws.OneCode.fscale (w : Sys2Proof.CastWord) : Sys2Proof.Laws.OneCode.Statement (.fscale w) :=
  Sys2Proof.Laws.oneCode_cast rfl rfl
theorem Sys2Proof.Laws.OneCode.fgetexp (w : Sys2Proof.CastWord) : Sys2Proof.Laws.OneCode.Statement (.fgetexp w) :=
  Sys2Proof.Laws.oneCode_cast rfl rfl
theorem Sys2Proof.Laws.OneCode.ld (w : Sys2Proof.CastWord) : Sys2Proof.Laws.OneCode.Statement (.ld w) :=
  Sys2Proof.Laws.oneCode_cast rfl rfl
theorem Sys2Proof.Laws.OneCode.st (w : Sys2Proof.CastWord) : Sys2Proof.Laws.OneCode.Statement (.st w) :=
  Sys2Proof.Laws.oneCode_cast rfl rfl
theorem Sys2Proof.Laws.OneCode.ldd (w : Sys2Proof.CastWord) : Sys2Proof.Laws.OneCode.Statement (.ldd w) :=
  Sys2Proof.Laws.oneCode_cast rfl rfl
theorem Sys2Proof.Laws.OneCode.std (w : Sys2Proof.CastWord) : Sys2Proof.Laws.OneCode.Statement (.std w) :=
  Sys2Proof.Laws.oneCode_cast rfl rfl
theorem Sys2Proof.Laws.OneCode.atom (m : Sys2Proof.AtomOp) (w : Sys2Proof.CastWord) : Sys2Proof.Laws.OneCode.Statement (.atom m w) :=
  Sys2Proof.Laws.oneCode_cast rfl rfl
theorem Sys2Proof.Laws.OneCode.red (m : Sys2Proof.RedMemOp) (w : Sys2Proof.CastWord) : Sys2Proof.Laws.OneCode.Statement (.red m w) :=
  Sys2Proof.Laws.oneCode_cast rfl rfl
theorem Sys2Proof.Laws.OneCode.cas (w : Sys2Proof.CastWord) : Sys2Proof.Laws.OneCode.Statement (.cas w) :=
  Sys2Proof.Laws.oneCode_cast rfl rfl
theorem Sys2Proof.Laws.OneCode.fence (w : Sys2Proof.CastWord) : Sys2Proof.Laws.OneCode.Statement (.fence w) :=
  Sys2Proof.Laws.oneCode_cast rfl rfl
theorem Sys2Proof.Laws.OneCode.qfence (w : Sys2Proof.CastWord) : Sys2Proof.Laws.OneCode.Statement (.qfence w) :=
  Sys2Proof.Laws.oneCode_cast rfl rfl
theorem Sys2Proof.Laws.OneCode.mark (w : Sys2Proof.CastWord) : Sys2Proof.Laws.OneCode.Statement (.mark w) :=
  Sys2Proof.Laws.oneCode_cast rfl rfl
theorem Sys2Proof.Laws.OneCode.waitv (m : Sys2Proof.CmpOp) (w : Sys2Proof.CastWord) : Sys2Proof.Laws.OneCode.Statement (.waitv m w) :=
  Sys2Proof.Laws.oneCode_cast rfl rfl
theorem Sys2Proof.Laws.OneCode.waitb (m : Sys2Proof.EngineSel) (w : Sys2Proof.CastWord) : Sys2Proof.Laws.OneCode.Statement (.waitb m w) :=
  Sys2Proof.Laws.oneCode_cast rfl rfl
theorem Sys2Proof.Laws.OneCode.spill (w : Sys2Proof.CastWord) : Sys2Proof.Laws.OneCode.Statement (.spill w) :=
  Sys2Proof.Laws.oneCode_cast rfl rfl
theorem Sys2Proof.Laws.OneCode.fill (w : Sys2Proof.CastWord) : Sys2Proof.Laws.OneCode.Statement (.fill w) :=
  Sys2Proof.Laws.oneCode_cast rfl rfl
theorem Sys2Proof.Laws.OneCode.smp (w : Sys2Proof.CastWord) : Sys2Proof.Laws.OneCode.Statement (.smp w) :=
  Sys2Proof.Laws.oneCode_cast rfl rfl
theorem Sys2Proof.Laws.OneCode.smpres (w : Sys2Proof.CastWord) : Sys2Proof.Laws.OneCode.Statement (.smpres w) :=
  Sys2Proof.Laws.oneCode_cast rfl rfl
theorem Sys2Proof.Laws.OneCode.qpush (w : Sys2Proof.CastWord) : Sys2Proof.Laws.OneCode.Statement (.qpush w) :=
  Sys2Proof.Laws.oneCode_cast rfl rfl
theorem Sys2Proof.Laws.OneCode.qpop (w : Sys2Proof.CastWord) : Sys2Proof.Laws.OneCode.Statement (.qpop w) :=
  Sys2Proof.Laws.oneCode_cast rfl rfl
theorem Sys2Proof.Laws.OneCode.qpeek (w : Sys2Proof.CastWord) : Sys2Proof.Laws.OneCode.Statement (.qpeek w) :=
  Sys2Proof.Laws.oneCode_cast rfl rfl
theorem Sys2Proof.Laws.OneCode.ldk (w : Sys2Proof.CastWord) : Sys2Proof.Laws.OneCode.Statement (.ldk w) :=
  Sys2Proof.Laws.oneCode_cast rfl rfl
theorem Sys2Proof.Laws.OneCode.pref (w : Sys2Proof.CastWord) : Sys2Proof.Laws.OneCode.Statement (.pref w) :=
  Sys2Proof.Laws.oneCode_cast rfl rfl
theorem Sys2Proof.Laws.OneCode.ccop (m : Sys2Proof.CacheOp) (w : Sys2Proof.CastWord) : Sys2Proof.Laws.OneCode.Statement (.ccop m w) :=
  Sys2Proof.Laws.oneCode_cast rfl rfl
theorem Sys2Proof.Laws.OneCode.mma (w : Sys2Proof.CastWord) : Sys2Proof.Laws.OneCode.Statement (.mma w) :=
  Sys2Proof.Laws.oneCode_cast rfl rfl
theorem Sys2Proof.Laws.OneCode.mmaw (w : Sys2Proof.CastWord) : Sys2Proof.Laws.OneCode.Statement (.mmaw w) :=
  Sys2Proof.Laws.oneCode_cast rfl rfl
theorem Sys2Proof.Laws.OneCode.azero (w : Sys2Proof.CastWord) : Sys2Proof.Laws.OneCode.Statement (.azero w) :=
  Sys2Proof.Laws.oneCode_cast rfl rfl
theorem Sys2Proof.Laws.OneCode.acopy (w : Sys2Proof.CastWord) : Sys2Proof.Laws.OneCode.Statement (.acopy w) :=
  Sys2Proof.Laws.oneCode_cast rfl rfl
theorem Sys2Proof.Laws.OneCode.aadd (w : Sys2Proof.CastWord) : Sys2Proof.Laws.OneCode.Statement (.aadd w) :=
  Sys2Proof.Laws.oneCode_cast rfl rfl
theorem Sys2Proof.Laws.OneCode.ascl (w : Sys2Proof.CastWord) : Sys2Proof.Laws.OneCode.Statement (.ascl w) :=
  Sys2Proof.Laws.oneCode_cast rfl rfl
theorem Sys2Proof.Laws.OneCode.ald (w : Sys2Proof.CastWord) : Sys2Proof.Laws.OneCode.Statement (.ald w) :=
  Sys2Proof.Laws.oneCode_cast rfl rfl
theorem Sys2Proof.Laws.OneCode.ast (w : Sys2Proof.CastWord) : Sys2Proof.Laws.OneCode.Statement (.ast w) :=
  Sys2Proof.Laws.oneCode_cast rfl rfl
theorem Sys2Proof.Laws.OneCode.mset (w : Sys2Proof.CastWord) : Sys2Proof.Laws.OneCode.Statement (.mset w) :=
  Sys2Proof.Laws.oneCode_cast rfl rfl
theorem Sys2Proof.Laws.OneCode.cmode (w : Sys2Proof.CastWord) : Sys2Proof.Laws.OneCode.Statement (.cmode w) :=
  Sys2Proof.Laws.oneCode_cast rfl rfl
theorem Sys2Proof.Laws.OneCode.cdrain (w : Sys2Proof.CastWord) : Sys2Proof.Laws.OneCode.Statement (.cdrain w) :=
  Sys2Proof.Laws.oneCode_cast rfl rfl
theorem Sys2Proof.Laws.OneCode.csave (w : Sys2Proof.CastWord) : Sys2Proof.Laws.OneCode.Statement (.csave w) :=
  Sys2Proof.Laws.oneCode_cast rfl rfl
theorem Sys2Proof.Laws.OneCode.crest (w : Sys2Proof.CastWord) : Sys2Proof.Laws.OneCode.Statement (.crest w) :=
  Sys2Proof.Laws.oneCode_cast rfl rfl
theorem Sys2Proof.Laws.OneCode.lcopy (w : Sys2Proof.CastWord) : Sys2Proof.Laws.OneCode.Statement (.lcopy w) :=
  Sys2Proof.Laws.oneCode_cast rfl rfl
theorem Sys2Proof.Laws.OneCode.lfill (w : Sys2Proof.CastWord) : Sys2Proof.Laws.OneCode.Statement (.lfill w) :=
  Sys2Proof.Laws.oneCode_cast rfl rfl
theorem Sys2Proof.Laws.OneCode.lgat (w : Sys2Proof.CastWord) : Sys2Proof.Laws.OneCode.Statement (.lgat w) :=
  Sys2Proof.Laws.oneCode_cast rfl rfl
theorem Sys2Proof.Laws.OneCode.lredArr (w : Sys2Proof.CastWord) : Sys2Proof.Laws.OneCode.Statement (.lredArr w) :=
  Sys2Proof.Laws.oneCode_cast rfl rfl
theorem Sys2Proof.Laws.OneCode.lredOrd (w : Sys2Proof.CastWord) : Sys2Proof.Laws.OneCode.Statement (.lredOrd w) :=
  Sys2Proof.Laws.oneCode_cast rfl rfl
theorem Sys2Proof.Laws.OneCode.lcont (w : Sys2Proof.CastWord) : Sys2Proof.Laws.OneCode.Statement (.lcont w) :=
  Sys2Proof.Laws.oneCode_cast rfl rfl
theorem Sys2Proof.Laws.OneCode.lsave (w : Sys2Proof.CastWord) : Sys2Proof.Laws.OneCode.Statement (.lsave w) :=
  Sys2Proof.Laws.oneCode_cast rfl rfl
theorem Sys2Proof.Laws.OneCode.lrest (w : Sys2Proof.CastWord) : Sys2Proof.Laws.OneCode.Statement (.lrest w) :=
  Sys2Proof.Laws.oneCode_cast rfl rfl
theorem Sys2Proof.Laws.OneCode.sadd (d : BitVec 5) (a : BitVec 5) (b : BitVec 5) : Sys2Proof.Laws.OneCode.Statement (.sadd d a b) :=
  Sys2Proof.Laws.oneCode_flue rfl rfl
theorem Sys2Proof.Laws.OneCode.ssub (d : BitVec 5) (a : BitVec 5) (b : BitVec 5) : Sys2Proof.Laws.OneCode.Statement (.ssub d a b) :=
  Sys2Proof.Laws.oneCode_flue rfl rfl
theorem Sys2Proof.Laws.OneCode.sand (d : BitVec 5) (a : BitVec 5) (b : BitVec 5) : Sys2Proof.Laws.OneCode.Statement (.sand d a b) :=
  Sys2Proof.Laws.oneCode_flue rfl rfl
theorem Sys2Proof.Laws.OneCode.sor (d : BitVec 5) (a : BitVec 5) (b : BitVec 5) : Sys2Proof.Laws.OneCode.Statement (.sor d a b) :=
  Sys2Proof.Laws.oneCode_flue rfl rfl
theorem Sys2Proof.Laws.OneCode.sxor (d : BitVec 5) (a : BitVec 5) (b : BitVec 5) : Sys2Proof.Laws.OneCode.Statement (.sxor d a b) :=
  Sys2Proof.Laws.oneCode_flue rfl rfl
theorem Sys2Proof.Laws.OneCode.sshl (d : BitVec 5) (a : BitVec 5) (b : BitVec 5) : Sys2Proof.Laws.OneCode.Statement (.sshl d a b) :=
  Sys2Proof.Laws.oneCode_flue rfl rfl
theorem Sys2Proof.Laws.OneCode.sshr (d : BitVec 5) (a : BitVec 5) (b : BitVec 5) : Sys2Proof.Laws.OneCode.Statement (.sshr d a b) :=
  Sys2Proof.Laws.oneCode_flue rfl rfl
theorem Sys2Proof.Laws.OneCode.smul (d : BitVec 5) (a : BitVec 5) (b : BitVec 5) : Sys2Proof.Laws.OneCode.Statement (.smul d a b) :=
  Sys2Proof.Laws.oneCode_flue rfl rfl
theorem Sys2Proof.Laws.OneCode.sslt (d : BitVec 5) (a : BitVec 5) (b : BitVec 5) : Sys2Proof.Laws.OneCode.Statement (.sslt d a b) :=
  Sys2Proof.Laws.oneCode_flue rfl rfl
theorem Sys2Proof.Laws.OneCode.sldl (d : BitVec 5) (imm : BitVec 18) : Sys2Proof.Laws.OneCode.Statement (.sldl d imm) :=
  Sys2Proof.Laws.oneCode_flue rfl rfl
theorem Sys2Proof.Laws.OneCode.sldh (d : BitVec 5) (imm : BitVec 18) : Sys2Proof.Laws.OneCode.Statement (.sldh d imm) :=
  Sys2Proof.Laws.oneCode_flue rfl rfl
theorem Sys2Proof.Laws.OneCode.sget (d : BitVec 5) (sel : BitVec 6) : Sys2Proof.Laws.OneCode.Statement (.sget d sel) :=
  Sys2Proof.Laws.oneCode_flue rfl rfl
theorem Sys2Proof.Laws.OneCode.vext (d : BitVec 5) (a : BitVec 6) (lane : BitVec 6) : Sys2Proof.Laws.OneCode.Statement (.vext d a lane) :=
  Sys2Proof.Laws.oneCode_flue rfl rfl
theorem Sys2Proof.Laws.OneCode.saddi (d : BitVec 5) (a : BitVec 5) (imm : BitVec 6) : Sys2Proof.Laws.OneCode.Statement (.saddi d a imm) :=
  Sys2Proof.Laws.oneCode_flue rfl rfl
theorem Sys2Proof.Laws.OneCode.ssubi (d : BitVec 5) (a : BitVec 5) (imm : BitVec 6) : Sys2Proof.Laws.OneCode.Statement (.ssubi d a imm) :=
  Sys2Proof.Laws.oneCode_flue rfl rfl
theorem Sys2Proof.Laws.OneCode.sandi (d : BitVec 5) (a : BitVec 5) (imm : BitVec 6) : Sys2Proof.Laws.OneCode.Statement (.sandi d a imm) :=
  Sys2Proof.Laws.oneCode_flue rfl rfl
theorem Sys2Proof.Laws.OneCode.sori (d : BitVec 5) (a : BitVec 5) (imm : BitVec 6) : Sys2Proof.Laws.OneCode.Statement (.sori d a imm) :=
  Sys2Proof.Laws.oneCode_flue rfl rfl
theorem Sys2Proof.Laws.OneCode.sxori (d : BitVec 5) (a : BitVec 5) (imm : BitVec 6) : Sys2Proof.Laws.OneCode.Statement (.sxori d a imm) :=
  Sys2Proof.Laws.oneCode_flue rfl rfl
theorem Sys2Proof.Laws.OneCode.sshli (d : BitVec 5) (a : BitVec 5) (imm : BitVec 6) : Sys2Proof.Laws.OneCode.Statement (.sshli d a imm) :=
  Sys2Proof.Laws.oneCode_flue rfl rfl
theorem Sys2Proof.Laws.OneCode.sshri (d : BitVec 5) (a : BitVec 5) (imm : BitVec 6) : Sys2Proof.Laws.OneCode.Statement (.sshri d a imm) :=
  Sys2Proof.Laws.oneCode_flue rfl rfl
theorem Sys2Proof.Laws.OneCode.smuli (d : BitVec 5) (a : BitVec 5) (imm : BitVec 6) : Sys2Proof.Laws.OneCode.Statement (.smuli d a imm) :=
  Sys2Proof.Laws.oneCode_flue rfl rfl
theorem Sys2Proof.Laws.OneCode.sslti (d : BitVec 5) (a : BitVec 5) (imm : BitVec 6) : Sys2Proof.Laws.OneCode.Statement (.sslti d a imm) :=
  Sys2Proof.Laws.oneCode_flue rfl rfl
theorem Sys2Proof.Laws.OneCode.flueBr (off : BitVec 18) : Sys2Proof.Laws.OneCode.Statement (.flueBr off) :=
  Sys2Proof.Laws.oneCode_flue rfl rfl
theorem Sys2Proof.Laws.OneCode.bz (a : BitVec 5) (off : BitVec 12) : Sys2Proof.Laws.OneCode.Statement (.bz a off) :=
  Sys2Proof.Laws.oneCode_flue rfl rfl
theorem Sys2Proof.Laws.OneCode.bnz (a : BitVec 5) (off : BitVec 12) : Sys2Proof.Laws.OneCode.Statement (.bnz a off) :=
  Sys2Proof.Laws.oneCode_flue rfl rfl
theorem Sys2Proof.Laws.OneCode.ldl (d : BitVec 6) (a : BitVec 5) : Sys2Proof.Laws.OneCode.Statement (.ldl d a) :=
  Sys2Proof.Laws.oneCode_flue rfl rfl
theorem Sys2Proof.Laws.OneCode.ldlx (d : BitVec 6) (a : BitVec 6) : Sys2Proof.Laws.OneCode.Statement (.ldlx d a) :=
  Sys2Proof.Laws.oneCode_flue rfl rfl
theorem Sys2Proof.Laws.OneCode.ldmC (d : BitVec 3) (a : BitVec 6) (b : BitVec 6) : Sys2Proof.Laws.OneCode.Statement (.ldmC d a b) :=
  Sys2Proof.Laws.oneCode_flue rfl rfl
theorem Sys2Proof.Laws.OneCode.ldmD (d : BitVec 3) (a : BitVec 6) (b : BitVec 6) : Sys2Proof.Laws.OneCode.Statement (.ldmD d a b) :=
  Sys2Proof.Laws.oneCode_flue rfl rfl
theorem Sys2Proof.Laws.OneCode.ldmM (d : BitVec 3) (a : BitVec 6) (b : BitVec 6) : Sys2Proof.Laws.OneCode.Statement (.ldmM d a b) :=
  Sys2Proof.Laws.oneCode_flue rfl rfl
theorem Sys2Proof.Laws.OneCode.ldg (d : BitVec 3) (a : BitVec 5) (b : BitVec 6) : Sys2Proof.Laws.OneCode.Statement (.ldg d a b) :=
  Sys2Proof.Laws.oneCode_flue rfl rfl
theorem Sys2Proof.Laws.OneCode.wtk (d : BitVec 6) (a : BitVec 3) : Sys2Proof.Laws.OneCode.Statement (.wtk d a) :=
  Sys2Proof.Laws.oneCode_flue rfl rfl
theorem Sys2Proof.Laws.OneCode.stl (a : BitVec 5) (b : BitVec 6) : Sys2Proof.Laws.OneCode.Statement (.stl a b) :=
  Sys2Proof.Laws.oneCode_flue rfl rfl
theorem Sys2Proof.Laws.OneCode.stlx (a : BitVec 6) (b : BitVec 6) : Sys2Proof.Laws.OneCode.Statement (.stlx a b) :=
  Sys2Proof.Laws.oneCode_flue rfl rfl
theorem Sys2Proof.Laws.OneCode.vfadd (d : BitVec 6) (a : BitVec 6) (b : BitVec 6) : Sys2Proof.Laws.OneCode.Statement (.vfadd d a b) :=
  Sys2Proof.Laws.oneCode_flue rfl rfl
theorem Sys2Proof.Laws.OneCode.vfsub (d : BitVec 6) (a : BitVec 6) (b : BitVec 6) : Sys2Proof.Laws.OneCode.Statement (.vfsub d a b) :=
  Sys2Proof.Laws.oneCode_flue rfl rfl
theorem Sys2Proof.Laws.OneCode.vfmul (d : BitVec 6) (a : BitVec 6) (b : BitVec 6) : Sys2Proof.Laws.OneCode.Statement (.vfmul d a b) :=
  Sys2Proof.Laws.oneCode_flue rfl rfl
theorem Sys2Proof.Laws.OneCode.vffma (d : BitVec 6) (a : BitVec 6) (b : BitVec 6) (c : BitVec 6) : Sys2Proof.Laws.OneCode.Statement (.vffma d a b c) :=
  Sys2Proof.Laws.oneCode_flue rfl rfl
theorem Sys2Proof.Laws.OneCode.vfmin (d : BitVec 6) (a : BitVec 6) (b : BitVec 6) : Sys2Proof.Laws.OneCode.Statement (.vfmin d a b) :=
  Sys2Proof.Laws.oneCode_flue rfl rfl
theorem Sys2Proof.Laws.OneCode.vfmax (d : BitVec 6) (a : BitVec 6) (b : BitVec 6) : Sys2Proof.Laws.OneCode.Statement (.vfmax d a b) :=
  Sys2Proof.Laws.oneCode_flue rfl rfl
theorem Sys2Proof.Laws.OneCode.vfrcp (d : BitVec 6) (a : BitVec 6) : Sys2Proof.Laws.OneCode.Statement (.vfrcp d a) :=
  Sys2Proof.Laws.oneCode_flue rfl rfl
theorem Sys2Proof.Laws.OneCode.vfrsqrt (d : BitVec 6) (a : BitVec 6) : Sys2Proof.Laws.OneCode.Statement (.vfrsqrt d a) :=
  Sys2Proof.Laws.oneCode_flue rfl rfl
theorem Sys2Proof.Laws.OneCode.vcvtfi (d : BitVec 6) (a : BitVec 6) : Sys2Proof.Laws.OneCode.Statement (.vcvtfi d a) :=
  Sys2Proof.Laws.oneCode_flue rfl rfl
theorem Sys2Proof.Laws.OneCode.vcvtif (d : BitVec 6) (a : BitVec 6) : Sys2Proof.Laws.OneCode.Statement (.vcvtif d a) :=
  Sys2Proof.Laws.oneCode_flue rfl rfl
theorem Sys2Proof.Laws.OneCode.vfclt (d : BitVec 6) (a : BitVec 6) (b : BitVec 6) : Sys2Proof.Laws.OneCode.Statement (.vfclt d a b) :=
  Sys2Proof.Laws.oneCode_flue rfl rfl
theorem Sys2Proof.Laws.OneCode.vfcle (d : BitVec 6) (a : BitVec 6) (b : BitVec 6) : Sys2Proof.Laws.OneCode.Statement (.vfcle d a b) :=
  Sys2Proof.Laws.oneCode_flue rfl rfl
theorem Sys2Proof.Laws.OneCode.vfceq (d : BitVec 6) (a : BitVec 6) (b : BitVec 6) : Sys2Proof.Laws.OneCode.Statement (.vfceq d a b) :=
  Sys2Proof.Laws.oneCode_flue rfl rfl
theorem Sys2Proof.Laws.OneCode.viadd (d : BitVec 6) (a : BitVec 6) (b : BitVec 6) : Sys2Proof.Laws.OneCode.Statement (.viadd d a b) :=
  Sys2Proof.Laws.oneCode_flue rfl rfl
theorem Sys2Proof.Laws.OneCode.visub (d : BitVec 6) (a : BitVec 6) (b : BitVec 6) : Sys2Proof.Laws.OneCode.Statement (.visub d a b) :=
  Sys2Proof.Laws.oneCode_flue rfl rfl
theorem Sys2Proof.Laws.OneCode.vand (d : BitVec 6) (a : BitVec 6) (b : BitVec 6) : Sys2Proof.Laws.OneCode.Statement (.vand d a b) :=
  Sys2Proof.Laws.oneCode_flue rfl rfl
theorem Sys2Proof.Laws.OneCode.vor (d : BitVec 6) (a : BitVec 6) (b : BitVec 6) : Sys2Proof.Laws.OneCode.Statement (.vor d a b) :=
  Sys2Proof.Laws.oneCode_flue rfl rfl
theorem Sys2Proof.Laws.OneCode.vxor (d : BitVec 6) (a : BitVec 6) (b : BitVec 6) : Sys2Proof.Laws.OneCode.Statement (.vxor d a b) :=
  Sys2Proof.Laws.oneCode_flue rfl rfl
theorem Sys2Proof.Laws.OneCode.vshl (d : BitVec 6) (a : BitVec 6) (b : BitVec 6) : Sys2Proof.Laws.OneCode.Statement (.vshl d a b) :=
  Sys2Proof.Laws.oneCode_flue rfl rfl
theorem Sys2Proof.Laws.OneCode.vshr (d : BitVec 6) (a : BitVec 6) (b : BitVec 6) : Sys2Proof.Laws.OneCode.Statement (.vshr d a b) :=
  Sys2Proof.Laws.oneCode_flue rfl rfl
theorem Sys2Proof.Laws.OneCode.vsar (d : BitVec 6) (a : BitVec 6) (b : BitVec 6) : Sys2Proof.Laws.OneCode.Statement (.vsar d a b) :=
  Sys2Proof.Laws.oneCode_flue rfl rfl
theorem Sys2Proof.Laws.OneCode.vimul (d : BitVec 6) (a : BitVec 6) (b : BitVec 6) : Sys2Proof.Laws.OneCode.Statement (.vimul d a b) :=
  Sys2Proof.Laws.oneCode_flue rfl rfl
theorem Sys2Proof.Laws.OneCode.viclt (d : BitVec 6) (a : BitVec 6) (b : BitVec 6) : Sys2Proof.Laws.OneCode.Statement (.viclt d a b) :=
  Sys2Proof.Laws.oneCode_flue rfl rfl
theorem Sys2Proof.Laws.OneCode.vieq (d : BitVec 6) (a : BitVec 6) (b : BitVec 6) : Sys2Proof.Laws.OneCode.Statement (.vieq d a b) :=
  Sys2Proof.Laws.oneCode_flue rfl rfl
theorem Sys2Proof.Laws.OneCode.viaddi (d : BitVec 6) (a : BitVec 6) (imm : BitVec 6) : Sys2Proof.Laws.OneCode.Statement (.viaddi d a imm) :=
  Sys2Proof.Laws.oneCode_flue rfl rfl
theorem Sys2Proof.Laws.OneCode.visubi (d : BitVec 6) (a : BitVec 6) (imm : BitVec 6) : Sys2Proof.Laws.OneCode.Statement (.visubi d a imm) :=
  Sys2Proof.Laws.oneCode_flue rfl rfl
theorem Sys2Proof.Laws.OneCode.vandi (d : BitVec 6) (a : BitVec 6) (imm : BitVec 6) : Sys2Proof.Laws.OneCode.Statement (.vandi d a imm) :=
  Sys2Proof.Laws.oneCode_flue rfl rfl
theorem Sys2Proof.Laws.OneCode.vori (d : BitVec 6) (a : BitVec 6) (imm : BitVec 6) : Sys2Proof.Laws.OneCode.Statement (.vori d a imm) :=
  Sys2Proof.Laws.oneCode_flue rfl rfl
theorem Sys2Proof.Laws.OneCode.vxori (d : BitVec 6) (a : BitVec 6) (imm : BitVec 6) : Sys2Proof.Laws.OneCode.Statement (.vxori d a imm) :=
  Sys2Proof.Laws.oneCode_flue rfl rfl
theorem Sys2Proof.Laws.OneCode.vshli (d : BitVec 6) (a : BitVec 6) (imm : BitVec 6) : Sys2Proof.Laws.OneCode.Statement (.vshli d a imm) :=
  Sys2Proof.Laws.oneCode_flue rfl rfl
theorem Sys2Proof.Laws.OneCode.vshri (d : BitVec 6) (a : BitVec 6) (imm : BitVec 6) : Sys2Proof.Laws.OneCode.Statement (.vshri d a imm) :=
  Sys2Proof.Laws.oneCode_flue rfl rfl
theorem Sys2Proof.Laws.OneCode.vsari (d : BitVec 6) (a : BitVec 6) (imm : BitVec 6) : Sys2Proof.Laws.OneCode.Statement (.vsari d a imm) :=
  Sys2Proof.Laws.oneCode_flue rfl rfl
theorem Sys2Proof.Laws.OneCode.vimuli (d : BitVec 6) (a : BitVec 6) (imm : BitVec 6) : Sys2Proof.Laws.OneCode.Statement (.vimuli d a imm) :=
  Sys2Proof.Laws.oneCode_flue rfl rfl
theorem Sys2Proof.Laws.OneCode.viclti (d : BitVec 6) (a : BitVec 6) (imm : BitVec 6) : Sys2Proof.Laws.OneCode.Statement (.viclti d a imm) :=
  Sys2Proof.Laws.oneCode_flue rfl rfl
theorem Sys2Proof.Laws.OneCode.vieqi (d : BitVec 6) (a : BitVec 6) (imm : BitVec 6) : Sys2Proof.Laws.OneCode.Statement (.vieqi d a imm) :=
  Sys2Proof.Laws.oneCode_flue rfl rfl
theorem Sys2Proof.Laws.OneCode.vsel (d : BitVec 6) (a : BitVec 6) (b : BitVec 6) (c : BitVec 6) : Sys2Proof.Laws.OneCode.Statement (.vsel d a b c) :=
  Sys2Proof.Laws.oneCode_flue rfl rfl
theorem Sys2Proof.Laws.OneCode.vbcast (d : BitVec 6) (a : BitVec 5) : Sys2Proof.Laws.OneCode.Statement (.vbcast d a) :=
  Sys2Proof.Laws.oneCode_flue rfl rfl
theorem Sys2Proof.Laws.OneCode.vlane (d : BitVec 6) : Sys2Proof.Laws.OneCode.Statement (.vlane d) :=
  Sys2Proof.Laws.oneCode_flue rfl rfl
theorem Sys2Proof.Laws.OneCode.vh2f (d : BitVec 6) (a : BitVec 6) (imm : BitVec 6) : Sys2Proof.Laws.OneCode.Statement (.vh2f d a imm) :=
  Sys2Proof.Laws.oneCode_flue rfl rfl
theorem Sys2Proof.Laws.OneCode.vf2h (d : BitVec 6) (a : BitVec 6) (b : BitVec 6) : Sys2Proof.Laws.OneCode.Statement (.vf2h d a b) :=
  Sys2Proof.Laws.oneCode_flue rfl rfl
theorem Sys2Proof.Laws.OneCode.vmov (d : BitVec 6) (a : BitVec 6) : Sys2Proof.Laws.OneCode.Statement (.vmov d a) :=
  Sys2Proof.Laws.oneCode_flue rfl rfl
theorem Sys2Proof.Laws.OneCode.mmul (d : BitVec 6) (a : BitVec 6) (b : BitVec 6) (c : BitVec 6) : Sys2Proof.Laws.OneCode.Statement (.mmul d a b c) :=
  Sys2Proof.Laws.oneCode_flue rfl rfl
theorem Sys2Proof.Laws.OneCode.coreCycle : Sys2Proof.Laws.OneCode.Statement .coreCycle :=
  Sys2Proof.Laws.oneCode_flue rfl rfl
theorem Sys2Proof.Laws.OneCode.allowanceRefill : Sys2Proof.Laws.OneCode.Statement .allowanceRefill :=
  Sys2Proof.Laws.oneCode_flue rfl rfl
theorem Sys2Proof.Laws.OneCode.voltageTrim : Sys2Proof.Laws.OneCode.Statement .voltageTrim :=
  Sys2Proof.Laws.oneCode_flue rfl rfl
theorem Sys2Proof.Laws.OneCode.batchComplete : Sys2Proof.Laws.OneCode.Statement .batchComplete :=
  Sys2Proof.Laws.oneCode_flue rfl rfl
theorem Sys2Proof.Laws.OneCode.slotRetire : Sys2Proof.Laws.OneCode.Statement .slotRetire :=
  Sys2Proof.Laws.oneCode_flue rfl rfl
theorem Sys2Proof.Laws.OneCode.blockDispatch : Sys2Proof.Laws.OneCode.Statement .blockDispatch :=
  Sys2Proof.Laws.oneCode_flue rfl rfl
theorem Sys2Proof.Laws.OneCode.blockWaitExpiry : Sys2Proof.Laws.OneCode.Statement .blockWaitExpiry :=
  Sys2Proof.Laws.oneCode_flue rfl rfl
theorem Sys2Proof.Laws.OneCode.blockResume : Sys2Proof.Laws.OneCode.Statement .blockResume :=
  Sys2Proof.Laws.oneCode_flue rfl rfl
theorem Sys2Proof.Laws.OneCode.faultEntryWrite : Sys2Proof.Laws.OneCode.Statement .faultEntryWrite :=
  Sys2Proof.Laws.oneCode_flue rfl rfl
theorem Sys2Proof.Laws.OneCode.owedGroup : Sys2Proof.Laws.OneCode.Statement .owedGroup :=
  Sys2Proof.Laws.oneCode_flue rfl rfl
theorem Sys2Proof.Laws.OneCode.dWindowOpen : Sys2Proof.Laws.OneCode.Statement .dWindowOpen :=
  Sys2Proof.Laws.oneCode_flue rfl rfl
theorem Sys2Proof.Laws.OneCode.dWindowClose : Sys2Proof.Laws.OneCode.Statement .dWindowClose :=
  Sys2Proof.Laws.oneCode_flue rfl rfl
theorem Sys2Proof.Laws.OneCode.blockSwap : Sys2Proof.Laws.OneCode.Statement .blockSwap :=
  Sys2Proof.Laws.oneCode_flue rfl rfl
theorem Sys2Proof.Laws.OneCode.watchdogExpiry : Sys2Proof.Laws.OneCode.Statement .watchdogExpiry :=
  Sys2Proof.Laws.oneCode_flue rfl rfl
theorem Sys2Proof.Laws.OneCode.preemptSave : Sys2Proof.Laws.OneCode.Statement .preemptSave :=
  Sys2Proof.Laws.oneCode_flue rfl rfl
theorem Sys2Proof.Laws.OneCode.launchEnd : Sys2Proof.Laws.OneCode.Statement .launchEnd :=
  Sys2Proof.Laws.oneCode_flue rfl rfl
theorem Sys2Proof.Laws.OneCode.sleepExpiry : Sys2Proof.Laws.OneCode.Statement .sleepExpiry :=
  Sys2Proof.Laws.oneCode_flue rfl rfl
theorem Sys2Proof.Laws.OneCode.waitvReread : Sys2Proof.Laws.OneCode.Statement .waitvReread :=
  Sys2Proof.Laws.oneCode_flue rfl rfl
theorem Sys2Proof.Laws.OneCode.missAdmission : Sys2Proof.Laws.OneCode.Statement .missAdmission :=
  Sys2Proof.Laws.oneCode_flue rfl rfl
theorem Sys2Proof.Laws.OneCode.walkComplete : Sys2Proof.Laws.OneCode.Statement .walkComplete :=
  Sys2Proof.Laws.oneCode_flue rfl rfl
theorem Sys2Proof.Laws.OneCode.faultBufferWrite : Sys2Proof.Laws.OneCode.Statement .faultBufferWrite :=
  Sys2Proof.Laws.oneCode_flue rfl rfl
theorem Sys2Proof.Laws.OneCode.fbresolveRetry : Sys2Proof.Laws.OneCode.Statement .fbresolveRetry :=
  Sys2Proof.Laws.oneCode_flue rfl rfl
theorem Sys2Proof.Laws.OneCode.fbresolveFatal : Sys2Proof.Laws.OneCode.Statement .fbresolveFatal :=
  Sys2Proof.Laws.oneCode_flue rfl rfl
theorem Sys2Proof.Laws.OneCode.l1Writeback : Sys2Proof.Laws.OneCode.Statement .l1Writeback :=
  Sys2Proof.Laws.oneCode_flue rfl rfl
theorem Sys2Proof.Laws.OneCode.l1LineExpire : Sys2Proof.Laws.OneCode.Statement .l1LineExpire :=
  Sys2Proof.Laws.oneCode_flue rfl rfl
theorem Sys2Proof.Laws.OneCode.routerCombineFlush : Sys2Proof.Laws.OneCode.Statement .routerCombineFlush :=
  Sys2Proof.Laws.oneCode_flue rfl rfl
theorem Sys2Proof.Laws.OneCode.p3Promotion : Sys2Proof.Laws.OneCode.Statement .p3Promotion :=
  Sys2Proof.Laws.oneCode_flue rfl rfl
theorem Sys2Proof.Laws.OneCode.reservationWindowAdvance : Sys2Proof.Laws.OneCode.Statement .reservationWindowAdvance :=
  Sys2Proof.Laws.oneCode_flue rfl rfl
theorem Sys2Proof.Laws.OneCode.l2LockWrite : Sys2Proof.Laws.OneCode.Statement .l2LockWrite :=
  Sys2Proof.Laws.oneCode_flue rfl rfl
theorem Sys2Proof.Laws.OneCode.refreshAdjust : Sys2Proof.Laws.OneCode.Statement .refreshAdjust :=
  Sys2Proof.Laws.oneCode_flue rfl rfl
theorem Sys2Proof.Laws.OneCode.freeDeclare : Sys2Proof.Laws.OneCode.Statement .freeDeclare :=
  Sys2Proof.Laws.oneCode_flue rfl rfl
theorem Sys2Proof.Laws.OneCode.freeReclaim : Sys2Proof.Laws.OneCode.Statement .freeReclaim :=
  Sys2Proof.Laws.oneCode_flue rfl rfl
theorem Sys2Proof.Laws.OneCode.freecmdComplete : Sys2Proof.Laws.OneCode.Statement .freecmdComplete :=
  Sys2Proof.Laws.oneCode_flue rfl rfl
theorem Sys2Proof.Laws.OneCode.l2WayGate : Sys2Proof.Laws.OneCode.Statement .l2WayGate :=
  Sys2Proof.Laws.oneCode_flue rfl rfl
theorem Sys2Proof.Laws.OneCode.l2WayUngate : Sys2Proof.Laws.OneCode.Statement .l2WayUngate :=
  Sys2Proof.Laws.oneCode_flue rfl rfl
theorem Sys2Proof.Laws.OneCode.hearthWayGate : Sys2Proof.Laws.OneCode.Statement .hearthWayGate :=
  Sys2Proof.Laws.oneCode_flue rfl rfl
theorem Sys2Proof.Laws.OneCode.hearthWayUngate : Sys2Proof.Laws.OneCode.Statement .hearthWayUngate :=
  Sys2Proof.Laws.oneCode_flue rfl rfl
theorem Sys2Proof.Laws.OneCode.wayGateDone : Sys2Proof.Laws.OneCode.Statement .wayGateDone :=
  Sys2Proof.Laws.oneCode_flue rfl rfl
theorem Sys2Proof.Laws.OneCode.correctedError : Sys2Proof.Laws.OneCode.Statement .correctedError :=
  Sys2Proof.Laws.oneCode_flue rfl rfl
theorem Sys2Proof.Laws.OneCode.uncorrectableError : Sys2Proof.Laws.OneCode.Statement .uncorrectableError :=
  Sys2Proof.Laws.oneCode_flue rfl rfl
theorem Sys2Proof.Laws.OneCode.linebufRowSpare : Sys2Proof.Laws.OneCode.Statement .linebufRowSpare :=
  Sys2Proof.Laws.oneCode_flue rfl rfl
theorem Sys2Proof.Laws.OneCode.errdropRead : Sys2Proof.Laws.OneCode.Statement .errdropRead :=
  Sys2Proof.Laws.oneCode_flue rfl rfl
theorem Sys2Proof.Laws.OneCode.crucibleBeat : Sys2Proof.Laws.OneCode.Statement .crucibleBeat :=
  Sys2Proof.Laws.oneCode_flue rfl rfl
theorem Sys2Proof.Laws.OneCode.crucCommandComplete : Sys2Proof.Laws.OneCode.Statement .crucCommandComplete :=
  Sys2Proof.Laws.oneCode_flue rfl rfl
theorem Sys2Proof.Laws.OneCode.timeslotTurnEnd : Sys2Proof.Laws.OneCode.Statement .timeslotTurnEnd :=
  Sys2Proof.Laws.oneCode_flue rfl rfl
theorem Sys2Proof.Laws.OneCode.crucGateBypass : Sys2Proof.Laws.OneCode.Statement .crucGateBypass :=
  Sys2Proof.Laws.oneCode_flue rfl rfl
theorem Sys2Proof.Laws.OneCode.claimGrant : Sys2Proof.Laws.OneCode.Statement .claimGrant :=
  Sys2Proof.Laws.oneCode_flue rfl rfl
theorem Sys2Proof.Laws.OneCode.pairGrant : Sys2Proof.Laws.OneCode.Statement .pairGrant :=
  Sys2Proof.Laws.oneCode_flue rfl rfl
theorem Sys2Proof.Laws.OneCode.timeslotWrite : Sys2Proof.Laws.OneCode.Statement .timeslotWrite :=
  Sys2Proof.Laws.oneCode_flue rfl rfl
theorem Sys2Proof.Laws.OneCode.ladleStart : Sys2Proof.Laws.OneCode.Statement .ladleStart :=
  Sys2Proof.Laws.oneCode_flue rfl rfl
theorem Sys2Proof.Laws.OneCode.ladleTransfer : Sys2Proof.Laws.OneCode.Statement .ladleTransfer :=
  Sys2Proof.Laws.oneCode_flue rfl rfl
theorem Sys2Proof.Laws.OneCode.ladleGateBypass : Sys2Proof.Laws.OneCode.Statement .ladleGateBypass :=
  Sys2Proof.Laws.oneCode_flue rfl rfl
theorem Sys2Proof.Laws.OneCode.ladleCommandComplete : Sys2Proof.Laws.OneCode.Statement .ladleCommandComplete :=
  Sys2Proof.Laws.oneCode_flue rfl rfl
theorem Sys2Proof.Laws.OneCode.windowArrival : Sys2Proof.Laws.OneCode.Statement .windowArrival :=
  Sys2Proof.Laws.oneCode_flue rfl rfl
theorem Sys2Proof.Laws.OneCode.windowApply : Sys2Proof.Laws.OneCode.Statement .windowApply :=
  Sys2Proof.Laws.oneCode_flue rfl rfl
theorem Sys2Proof.Laws.OneCode.lcontPerform : Sys2Proof.Laws.OneCode.Statement .lcontPerform :=
  Sys2Proof.Laws.oneCode_flue rfl rfl
theorem Sys2Proof.Laws.OneCode.stokerStep : Sys2Proof.Laws.OneCode.Statement .stokerStep :=
  Sys2Proof.Laws.oneCode_flue rfl rfl
theorem Sys2Proof.Laws.OneCode.quantumExpiry : Sys2Proof.Laws.OneCode.Statement .quantumExpiry :=
  Sys2Proof.Laws.oneCode_flue rfl rfl
theorem Sys2Proof.Laws.OneCode.borrowReclaim : Sys2Proof.Laws.OneCode.Statement .borrowReclaim :=
  Sys2Proof.Laws.oneCode_flue rfl rfl
theorem Sys2Proof.Laws.OneCode.queueUnmap : Sys2Proof.Laws.OneCode.Statement .queueUnmap :=
  Sys2Proof.Laws.oneCode_flue rfl rfl
theorem Sys2Proof.Laws.OneCode.waittTimer : Sys2Proof.Laws.OneCode.Statement .waittTimer :=
  Sys2Proof.Laws.oneCode_flue rfl rfl
theorem Sys2Proof.Laws.OneCode.waitTimeout : Sys2Proof.Laws.OneCode.Statement .waitTimeout :=
  Sys2Proof.Laws.oneCode_flue rfl rfl
theorem Sys2Proof.Laws.OneCode.wake : Sys2Proof.Laws.OneCode.Statement .wake :=
  Sys2Proof.Laws.oneCode_flue rfl rfl
theorem Sys2Proof.Laws.OneCode.wakeFatal : Sys2Proof.Laws.OneCode.Statement .wakeFatal :=
  Sys2Proof.Laws.oneCode_flue rfl rfl
theorem Sys2Proof.Laws.OneCode.semdoorSet : Sys2Proof.Laws.OneCode.Statement .semdoorSet :=
  Sys2Proof.Laws.oneCode_flue rfl rfl
theorem Sys2Proof.Laws.OneCode.semdoorAdd : Sys2Proof.Laws.OneCode.Statement .semdoorAdd :=
  Sys2Proof.Laws.oneCode_flue rfl rfl
theorem Sys2Proof.Laws.OneCode.semdoorMax : Sys2Proof.Laws.OneCode.Statement .semdoorMax :=
  Sys2Proof.Laws.oneCode_flue rfl rfl
theorem Sys2Proof.Laws.OneCode.supfaultRead : Sys2Proof.Laws.OneCode.Statement .supfaultRead :=
  Sys2Proof.Laws.oneCode_flue rfl rfl
theorem Sys2Proof.Laws.OneCode.stokerNop : Sys2Proof.Laws.OneCode.Statement .stokerNop :=
  Sys2Proof.Laws.oneCode_stoker rfl rfl rfl (by simp)
theorem Sys2Proof.Laws.OneCode.retb : Sys2Proof.Laws.OneCode.Statement .retb :=
  Sys2Proof.Laws.oneCode_stoker rfl rfl rfl (by simp)
theorem Sys2Proof.Laws.OneCode.yieldq : Sys2Proof.Laws.OneCode.Statement .yieldq :=
  Sys2Proof.Laws.oneCode_stoker rfl rfl rfl (by simp)
theorem Sys2Proof.Laws.OneCode.yield : Sys2Proof.Laws.OneCode.Statement .yield :=
  Sys2Proof.Laws.oneCode_cast rfl rfl
theorem Sys2Proof.Laws.OneCode.ifence : Sys2Proof.Laws.OneCode.Statement .ifence :=
  Sys2Proof.Laws.oneCode_cast rfl rfl
theorem Sys2Proof.Laws.OneCode.ccommit : Sys2Proof.Laws.OneCode.Statement .ccommit :=
  Sys2Proof.Laws.oneCode_cast rfl rfl
theorem Sys2Proof.Laws.OneCode.cpair : Sys2Proof.Laws.OneCode.Statement .cpair :=
  Sys2Proof.Laws.oneCode_cast rfl rfl
theorem Sys2Proof.Laws.OneCode.cunpair : Sys2Proof.Laws.OneCode.Statement .cunpair :=
  Sys2Proof.Laws.oneCode_cast rfl rfl
theorem Sys2Proof.Laws.OneCode.lcommit : Sys2Proof.Laws.OneCode.Statement .lcommit :=
  Sys2Proof.Laws.oneCode_cast rfl rfl
theorem Sys2Proof.Laws.OneCode.lcancel : Sys2Proof.Laws.OneCode.Statement .lcancel :=
  Sys2Proof.Laws.oneCode_cast rfl rfl
theorem Sys2Proof.Laws.OneCode.fend : Sys2Proof.Laws.OneCode.Statement .fend :=
  Sys2Proof.Laws.oneCode_flue rfl rfl
theorem Sys2Proof.Laws.OneCode.dready : Sys2Proof.Laws.OneCode.Statement .dready :=
  Sys2Proof.Laws.oneCode_flue rfl rfl
theorem Sys2Proof.Laws.OneCode.dfall : Sys2Proof.Laws.OneCode.Statement .dfall :=
  Sys2Proof.Laws.oneCode_flue rfl rfl
theorem Sys2Proof.Laws.OneCode.wArrival : Sys2Proof.Laws.OneCode.Statement .wArrival :=
  Sys2Proof.Laws.oneCode_flue rfl rfl
theorem Sys2Proof.Laws.OneCode.flueWalkComplete : Sys2Proof.Laws.OneCode.Statement .flueWalkComplete :=
  Sys2Proof.Laws.oneCode_flue rfl rfl
theorem Sys2Proof.Laws.OneCode.fcodeWrite : Sys2Proof.Laws.OneCode.Statement .fcodeWrite :=
  Sys2Proof.Laws.oneCode_flue rfl rfl
theorem Sys2Proof.Laws.OneCode.headEnable : Sys2Proof.Laws.OneCode.Statement .headEnable :=
  Sys2Proof.Laws.oneCode_flue rfl rfl
theorem Sys2Proof.Laws.OneCode.headDisable : Sys2Proof.Laws.OneCode.Statement .headDisable :=
  Sys2Proof.Laws.oneCode_flue rfl rfl
theorem Sys2Proof.Laws.OneCode.lineStart : Sys2Proof.Laws.OneCode.Statement .lineStart :=
  Sys2Proof.Laws.oneCode_flue rfl rfl
theorem Sys2Proof.Laws.OneCode.bandLatch : Sys2Proof.Laws.OneCode.Statement .bandLatch :=
  Sys2Proof.Laws.oneCode_flue rfl rfl
theorem Sys2Proof.Laws.OneCode.bandDeadline : Sys2Proof.Laws.OneCode.Statement .bandDeadline :=
  Sys2Proof.Laws.oneCode_flue rfl rfl
theorem Sys2Proof.Laws.OneCode.frameWordStore : Sys2Proof.Laws.OneCode.Statement .frameWordStore :=
  Sys2Proof.Laws.oneCode_flue rfl rfl
theorem Sys2Proof.Laws.OneCode.dresvWrite : Sys2Proof.Laws.OneCode.Statement .dresvWrite :=
  Sys2Proof.Laws.oneCode_flue rfl rfl
theorem Sys2Proof.Laws.OneCode.powerOn : Sys2Proof.Laws.OneCode.Statement .powerOn :=
  Sys2Proof.Laws.oneCode_flue rfl rfl
theorem Sys2Proof.Laws.OneCode.functionReset : Sys2Proof.Laws.OneCode.Statement .functionReset :=
  Sys2Proof.Laws.oneCode_flue rfl rfl
theorem Sys2Proof.Laws.OneCode.contextWindowRead : Sys2Proof.Laws.OneCode.Statement .contextWindowRead :=
  Sys2Proof.Laws.oneCode_flue rfl rfl
theorem Sys2Proof.Laws.OneCode.contextWindowWrite : Sys2Proof.Laws.OneCode.Statement .contextWindowWrite :=
  Sys2Proof.Laws.oneCode_flue rfl rfl
theorem Sys2Proof.Laws.OneCode.bootGo : Sys2Proof.Laws.OneCode.Statement .bootGo :=
  Sys2Proof.Laws.oneCode_flue rfl rfl
theorem Sys2Proof.Laws.OneCode.imageLoaded : Sys2Proof.Laws.OneCode.Statement .imageLoaded :=
  Sys2Proof.Laws.oneCode_flue rfl rfl
theorem Sys2Proof.Laws.OneCode.imageVerified : Sys2Proof.Laws.OneCode.Statement .imageVerified :=
  Sys2Proof.Laws.oneCode_flue rfl rfl
theorem Sys2Proof.Laws.OneCode.handover : Sys2Proof.Laws.OneCode.Statement .handover :=
  Sys2Proof.Laws.oneCode_flue rfl rfl
theorem Sys2Proof.Laws.OneCode.attestGo : Sys2Proof.Laws.OneCode.Statement .attestGo :=
  Sys2Proof.Laws.oneCode_flue rfl rfl
theorem Sys2Proof.Laws.OneCode.attestDone : Sys2Proof.Laws.OneCode.Statement .attestDone :=
  Sys2Proof.Laws.oneCode_flue rfl rfl
theorem Sys2Proof.Laws.OneCode.flitCrcError : Sys2Proof.Laws.OneCode.Statement .flitCrcError :=
  Sys2Proof.Laws.oneCode_flue rfl rfl
theorem Sys2Proof.Laws.OneCode.portDown : Sys2Proof.Laws.OneCode.Statement .portDown :=
  Sys2Proof.Laws.oneCode_flue rfl rfl
theorem Sys2Proof.Laws.OneCode.peerRequest : Sys2Proof.Laws.OneCode.Statement .peerRequest :=
  Sys2Proof.Laws.oneCode_flue rfl rfl
theorem Sys2Proof.Laws.OneCode.peererrRead : Sys2Proof.Laws.OneCode.Statement .peererrRead :=
  Sys2Proof.Laws.oneCode_flue rfl rfl
theorem Sys2Proof.Laws.OneCode.thermalLimit : Sys2Proof.Laws.OneCode.Statement .thermalLimit :=
  Sys2Proof.Laws.oneCode_flue rfl rfl
theorem Sys2Proof.Laws.OneCode.thermalTrip : Sys2Proof.Laws.OneCode.Statement .thermalTrip :=
  Sys2Proof.Laws.oneCode_flue rfl rfl
theorem Sys2Proof.Laws.OneCode.debugHalt : Sys2Proof.Laws.OneCode.Statement .debugHalt :=
  Sys2Proof.Laws.oneCode_flue rfl rfl
theorem Sys2Proof.Laws.OneCode.debugResume : Sys2Proof.Laws.OneCode.Statement .debugResume :=
  Sys2Proof.Laws.oneCode_flue rfl rfl
theorem Sys2Proof.Laws.OneCode.dbgdataRead : Sys2Proof.Laws.OneCode.Statement .dbgdataRead :=
  Sys2Proof.Laws.oneCode_flue rfl rfl
theorem Sys2Proof.Laws.OneCode.dbgdataWrite : Sys2Proof.Laws.OneCode.Statement .dbgdataWrite :=
  Sys2Proof.Laws.oneCode_flue rfl rfl
theorem Sys2Proof.Laws.OneCode.registerWrite : Sys2Proof.Laws.OneCode.Statement .registerWrite :=
  Sys2Proof.Laws.oneCode_flue rfl rfl
theorem Sys2Proof.Laws.OneCode.flueCycle : Sys2Proof.Laws.OneCode.Statement .flueCycle :=
  Sys2Proof.Laws.oneCode_flue rfl rfl
theorem Sys2Proof.Laws.OneCode.memoryRequestPerform : Sys2Proof.Laws.OneCode.Statement .memoryRequestPerform :=
  Sys2Proof.Laws.oneCode_flue rfl rfl
theorem Sys2Proof.Laws.OneCode.portUp : Sys2Proof.Laws.OneCode.Statement .portUp :=
  Sys2Proof.Laws.oneCode_flue rfl rfl
theorem Sys2Proof.Laws.OneCode.refillUpdate : Sys2Proof.Laws.OneCode.Statement .refillUpdate :=
  Sys2Proof.Laws.oneCode_flue rfl rfl
theorem Sys2Proof.Laws.OneCode.powerOff : Sys2Proof.Laws.OneCode.Statement .powerOff :=
  Sys2Proof.Laws.oneCode_flue rfl rfl
theorem Sys2Proof.Laws.OneCode.corePowerGate : Sys2Proof.Laws.OneCode.Statement .corePowerGate :=
  Sys2Proof.Laws.oneCode_flue rfl rfl
theorem Sys2Proof.Laws.OneCode.corePowerUngate : Sys2Proof.Laws.OneCode.Statement .corePowerUngate :=
  Sys2Proof.Laws.oneCode_flue rfl rfl
theorem Sys2Proof.Laws.OneCode.sinval (ctx : BitVec 6) (range : Option (Sys2Proof.DWord × Sys2Proof.DWord)) : Sys2Proof.Laws.OneCode.Statement (.sinval ctx range) := by
  cases range <;> exact Sys2Proof.Laws.oneCode_stoker rfl rfl rfl (by simp)
end

