-- ==== Sys2Proof/Laws/Stoker.lean ====
section
/-! SUPPORT. What a command word leaves: the lane past the word, and who may run it. -/

namespace Sys2Proof.Machine

theorem tput_tput {α : Type} (t : Table α) (i : Nat) (x y : α) : tput (tput t i x) i y = tput t i y := by
  induction t with
  | nil => simp [tput]
  | cons e t ih =>
    obtain ⟨j, z⟩ := e
    simp only [tput]
    split
    · simp [tput, *]
    · split <;> simp [tput, *]

@[simp] theorem State.setLane_setLane (s : State) (l : Nat) (a b : Lane) : (s.setLane l a).setLane l b = s.setLane l b := by
  simp [State.setLane, tput_tput]

/-- A word that completes moves its lane past itself and its extra words. -/
theorem State.laneDone_eq (s : State) (l : Nat) (i : Instr) : s.laneDone l i = s.lanePast l (1 + extraWords i) := by
  unfold State.laneDone State.lanePast Lane.past Lane.fresh
  by_cases h : (s.lane l).queue.isSome = true ∧ (s.lane l).pc = 0
  · simp only [(show ((s.lane l).queue.isSome && (s.lane l).pc == 0) = true by simpa using h), if_true, if_pos h]
  · have : ((s.lane l).queue.isSome && (s.lane l).pc == 0) = false := by simpa using h
    simp only [this]; simp only [Bool.false_eq_true, if_false, if_neg h]

/-- A word that sets an x register and completes. -/
theorem State.laneSet_eq (s : State) (l : Nat) (i : Instr) (xd : BitVec 4) (x : DWord) :
    s.laneSet l i xd x = s.setLane l (((s.lane l).setX xd x).past (1 + extraWords i)) := by
  rw [State.laneSet, State.laneDone_eq, State.lanePast, State.lane_setLane_self, State.setLane_setLane]

theorem onLane_eq {s : State} {l : Nat} (h : s.atLane l) (f : Nat → State) : onLane s f = .next (f l) := by
  obtain ⟨rfl, h2, h3⟩ := h
  simp only [onLane, firmware, Bool.or_eq_true, decide_eq_true_eq, h2, h3, true_and, if_true]

/-- A supervisor's word: performed in lanes 30 and 31, a PRIV fault elsewhere (R365). -/
theorem onSup_eq {s : State} {l : Nat} (h : s.atLane l) (i : Instr) (f : Nat → State) :
    onSup s i f = .next (if 30 ≤ l then f l else s.laneFault l fPriv (cmdWord i)) := by
  rw [onSup, onLane_eq h]; simp [firmware]

theorem Lane.inRing_iff (k : Lane) : (k.queue.isSome && k.pc == 0) = true ↔ k.inRing := by simp [Lane.inRing]

end Sys2Proof.Machine
end

