-- ==== Sys2Proof/Tests/Slice0.lean ====
section
/-! SUPPORT. Tests: ill-formed terms that the checks refuse, words of the spec, small steps with the spec's results, and for each
statement with hypotheses a state that meets them. -/

open Sys2Proof Sys2Proof.Machine

namespace Sys2Proof.Tests

-- The theorems here are checked one after the other: each evaluates much, and together they would hold too much at once.
set_option Elab.async false

/-! ### Terms -/

/-- A casting word with guard 15, of class D, with nothing else set. -/
def word : CastWord := { tc := 3, pg := 15, pn := 0, d := 0, a := 0, b := 0, c := 0, reuse := 0, lc := 0, ty := 0, mod := 0, ext := 0, imm := 0 }

/-- A word of a type and a length code with three operands in one file. -/
def word3 (ty : BitVec 4) (lc : BitVec 2) (d a b c : BitVec 11) : CastWord := { word with ty := ty, lc := lc, d := d, a := a, b := b, c := c }

/-! ### Ill-formed terms: one for each check of a casting word (R42, R46-R58), and of a slot op (R408, R410) -/

theorem test_wf_add : (Instr.iadd (word3 2 0 6 2 3 0)).wf = true := by decide +kernel
theorem test_illformed_length : (Instr.iadd (word3 2 1 6 2 4 0)).wf = false := by decide +kernel
theorem test_illformed_type : (Instr.iadd (word3 0xA 0 6 2 3 0)).wf = false := by decide +kernel
theorem test_illformed_extra : (Instr.icmp .eq { word3 2 0 1 2 3 0 with mod := 0xC }).wf = false := by decide +kernel
theorem test_illformed_mod : (Instr.imulh { word3 2 0 6 2 3 0 with mod := 2 }).wf = false := by decide +kernel
theorem test_illformed_ext : (Instr.iadd { word3 2 0 6 2 3 0 with ext := 1 }).wf = false := by decide +kernel
theorem test_illformed_imm : (Instr.iadd { word3 2 0 6 2 3 0 with imm := 1 }).wf = false := by decide +kernel
theorem test_illformed_dest : (Instr.iadd (word3 3 1 5 2 4 0)).wf = false := by decide +kernel
theorem test_illformed_dest_predicate : (Instr.icmp .eq (word3 2 0 15 2 3 0)).wf = false := by decide +kernel
theorem test_illformed_source_a : (Instr.iadd { word3 2 0 6 128 3 0 with ext := 0x8000 }).wf = false := by decide +kernel
theorem test_illformed_source_b : (Instr.iadd { word3 2 0 6 2 3 0 with mod := 1 }).wf = false := by decide +kernel
theorem test_illformed_source_c : (Instr.iadd (word3 2 0 6 2 3 1)).wf = false := by decide +kernel
theorem test_illformed_reuse : (Instr.iadd { word3 2 0 6 2 0 0 with mod := 1, reuse := 2 }).wf = false := by decide +kernel
theorem test_illformed_guard : (Instr.setw { word with pg := 3, imm := 32 }).wf = false := by decide +kernel
theorem test_illformed_call_window : (Instr.call { word with mod := 129 }).wf = false := by decide +kernel
theorem test_illformed_class : (Instr.imul { word3 2 0 6 2 3 0 with tc := 0 }).wf = false := by decide +kernel
theorem test_illformed_sysreg : (Instr.rdsys { word3 6 0 2 0x16 0 0 with d := 2 }).wf = false := by decide +kernel
theorem test_illformed_sget : (Instr.sget 3 5).wf = false := by decide +kernel
theorem test_illformed_ldg : (Instr.ldg 1 3 7).wf = false := by decide +kernel
theorem test_illformed_vh2f : (Instr.vh2f 1 2 2).wf = false := by decide +kernel

/-! ### Words of the spec -/

/-- R52's example `iadd.s32.sat v6, v2, 100`, and its bytes as the table of R144 stores them. -/
theorem test_decode_iadd : decodeCast 0x2003C018010000000203000000000064 = some (.iadd { word3 2 0 6 2 0 0 with tc := 0, mod := 3, imm := 100 }) := by
  decide +kernel
theorem test_decode_gred : decodeCast 0x0C03C020020000000230000000000000 = some (.gred .add { word3 2 0 8 4 0 0 with tc := 0, mod := 0x30 }) := by
  decide +kernel
theorem test_encode_gred : encode (.gred .add { word3 2 0 8 4 0 0 with tc := 0, mod := 0x30 }) = some (.cast 0x0C03C020020000000230000000000000) := by
  decide +kernel
/-- The word that R73's chapter takes through the fields. -/
theorem test_decode_ffma : decodeCast 0x4208E030020090110A00400000000000 =
    some (.ffma { word3 0xA 0 12 4 9 8 with tc := 2, pg := 3, pn := 1, reuse := 4, ext := 0x4000 }) := by decide +kernel
theorem test_decode_atom : decodeCast 0x6463C020050060000F01000000000000 = some (.atom .exch { word3 0xF 0 8 10 6 0 with tc := 0, mod := 1 }) := by
  decide +kernel
theorem test_decode_fcvt : decodeCast 0x4B07C024020000000D300A0000000000 =
    some (.fcvt { word3 0xD 0 9 4 0 0 with tc := 1, mod := 0x30, ext := 0x0A00 }) := by decide +kernel
theorem test_decode_mma : decodeCast 0x8007C000008030000002000000000000 = some (.mma { word3 0 0 0 1 3 0 with tc := 1, mod := 2 }) := by decide +kernel
theorem test_decode_lcopy : decodeCast 0x9007C000080000000006000000000000 = some (.lcopy { word with tc := 1, a := 16, mod := 6 }) := by decide +kernel
theorem test_decode_nop : decodeCast 0x0103C000000000000000000000000000 = some (.nop { word with tc := 0 }) := by decide +kernel
theorem test_decode_zero : decodeCast 0 = none ∧ decodeFlue 0x2A000000 = none := by decide +kernel
theorem test_decode_wait : decode (.stoker [0x5010000000000001, 1]) = some (.wait .ge 1 (.word 1)) := by decide +kernel
theorem test_decode_svsem : decode (.stoker [0xE601080000F00000]) = some (.svsemBind 2 0 15 0) := by decide +kernel
theorem test_decode_launch : decode (.stoker [0x3021000000000000, 0x5000010000, 0x10402]) = some (.launch 0x5000010000 (some 0x10402)) := by decide +kernel
theorem test_decode_intr : decode (.stoker [0x2500000000000011]) = some (.intr 17) := by decide +kernel
theorem test_decode_waitt : decode (.stoker [0x5102100000000000]) = some (.waitt false (.reg 1)) := by decide +kernel
theorem test_decode_sgetreg : decode (.stoker [0xE400100000000220]) = some (.sgetreg 1 0x220) := by decide +kernel
theorem test_decode_br : decode (.stoker [0x10000000FFFFFFF0]) = some (.stokerBr .always 0 0 (-16)) := by decide +kernel
theorem test_decode_bnz : decodeFlue 0x1C013FBE = some (.bnz 19 (-66)) := by decide +kernel
theorem test_decode_stl : decodeFlue 0x2800E9C0 = some (.stl 14 39) := by decide +kernel
theorem test_decode_band : decodeFlue 0xE0000000 = some .dready ∧ decodeFlue 0xE1000000 = some .dfall := by decide +kernel

/-! ### Steps of one thread, with the spec's results -/

/-- A thread with these cells, and nothing else set. -/
def thread (v : Table Word) : Thread := { Thread.none with alive := true, hmask := 0x1FFFE, v := v }

/-- A page of one address space where every access is allowed. -/
def page (va pa : Nat) : TlbEntry := { ctx := 0, va := va, size := 4096, pa := pa, r := true, w := true, x := true }

/-- Core 0 about to perform a word for one thread, in service; its launch, its group and its translations as given. -/
def fragOf (l : Launch) (g : Group) (tlb : List TlbEntry) : State :=
  let s := State.reset
  let s : State := { s with launches := [(0, l)], box := { s.box with stage := 4 } }
  s.setCore 0 { s.core 0 with groups := [(0, g)], utlb := tlb }

/-- The group of one thread. -/
def groupOf (t : Thread) : Group := { tinyGroup with threads := [(0, t)] }

/-- Core 0 about to perform a word for one thread. -/
def frag (t : Thread) : State := fragOf tinyLaunch (groupOf t) []

/-- The thread after a word. -/
def after (i : Instr) (s : State) : Option Thread :=
  match exec i s with | .next s => (s.group? 0 0).map (·.thread 0) | _ => none

/-- The last step of the kernel of R148: the fourth idivs, and the idive behind it. -/
theorem test_idivs : (after (.idivs (word3 6 0 4 4 6 0)) (frag (thread [(4, 0x64000000), (6, 7)]))).map (fun t => (t.cell 4, t.cell 5)) = some (14, 2) := by
  decide +kernel
theorem test_idive : (after (.idive { word3 2 0 8 4 2 1 with ext := 0x6000 })
      (fragOf tinyLaunch { groupOf (thread [(4, 14), (5, 2)]) with kregs := [(1, 0xFFFFFF9C), (2, 7)] } [])).map (fun t => (t.cell 8, t.cell 9))
    = some (0xFFFFFFF2, 0xFFFFFFFE) := by decide +kernel
theorem test_mov : (after (.mov { word3 3 1 4 0 0 0 with mod := 1, imm := 0xFFFFFFFF }) (frag (thread []))).map (fun t => (t.cell 4, t.cell 5))
    = some (0xFFFFFFFF, 0xFFFFFFFF) := by decide +kernel
theorem test_mov_b : (after (.mov { word3 0xF 1 4 0 0 0 with mod := 1, imm := 0xFFFFFFFF }) (frag (thread [(5, 9)]))).map (fun t => (t.cell 4, t.cell 5))
    = some (0xFFFFFFFF, 0) := by decide +kernel
theorem test_shr_s8 : (after (.shr { word3 0 0 4 1 0 0 with mod := 1 }) (frag (thread [(1, 0x80)]))).map (·.cell 4) = some 0xFFFFFF80 := by decide +kernel
theorem test_bfx : (after (.bfx { word3 2 0 4 1 0 0 with mod := 1, imm := 0x0804 }) (frag (thread [(1, 0xA50)]))).map (·.cell 4) = some 0xFFFFFFA5 := by
  decide +kernel
theorem test_perm : (after (.perm (word3 0xF 0 4 1 2 3)) (frag (thread [(1, 0x44332211), (2, 0x88776655), (3, 0x08080504)]))).map (·.cell 4)
    = some 0x00006655 := by decide +kernel
theorem test_icvt : (after (.icvt { word3 4 0 4 1 0 0 with mod := 0x20 }) (frag (thread [(1, 0xFFFFFF01)]))).map (·.cell 4) = some 1 := by decide +kernel
theorem test_icvt_sat : (after (.icvt { word3 4 0 4 1 0 0 with mod := 0x22 }) (frag (thread [(1, 0xFFFFFF01)]))).map (·.cell 4) = some 0 := by decide +kernel
theorem test_idp4_sat : (after (.idp4 { word3 2 0 4 1 2 3 with mod := 6 }) (frag (thread [(1, 0xFF7F0102), (2, 0x02020202), (3, 0x7FFFFFF0)]))).map (·.cell 4)
    = some 0x7FFFFFFF := by decide +kernel
theorem test_idp4_wrap : (after (.idp4 { word3 2 0 4 1 2 3 with mod := 4 }) (frag (thread [(1, 0xFF7F0102), (2, 0x02020202), (3, 0x7FFFFFF0)]))).map (·.cell 4)
    = some 0x800000F2 := by decide +kernel

/-- Rows of the table of R231: 1 / 3 in .v.c1 at a precision. -/
def third (pr : Word) : Option (Word × Word × Word) :=
  (after (.fdiv (word3 0xC 0 4 5 6 0)) (frag { thread [(5, 0x3FFF0000), (6, 0x40008000)] with pr := pr })).map fun t => (t.cell 4, t.pr, t.fpflags)
theorem test_fdiv_8 : third 0x008 = some (0x3FFD5600, 0x008, 1) := by decide +kernel
theorem test_fdiv_up : third 0x211 = some (0x3FFD5556, 0x211, 1) := by decide +kernel
theorem test_fdiv_clamp : third 0x814 = some (0x3FFD5555, 0x30814, 1) := by decide +kernel
/-- The example of R238's chapter: 500.0 becomes 448 and raises NX; without SAT it overflows to the NaN. -/
theorem test_fcvt_sat : (after (.fcvt { word3 0xD 0 9 4 0 0 with mod := 0x30, ext := 0x0A00 }) (frag (thread [(4, 0x43FA0000)]))).map
    (fun t => (t.cell 9, t.fpflags)) = some (0x7E, 1) := by decide +kernel
theorem test_fcvt_over : (after (.fcvt { word3 0xD 0 9 4 0 0 with ext := 0x0A00 }) (frag (thread [(4, 0x43FA0000)]))).map
    (fun t => (t.cell 9, t.fpflags)) = some (0x7F, 5) := by decide +kernel
/-- The record of R92. -/
theorem test_spill_record :
    spillRecord (thread ((List.range 16).map fun i => (i, BitVec.ofNat 32 (0x1000 + i)))) 16 0x401010 =
      (40, 0x00000010000000280000000000401010000F0E0D0C0B0A0908070605040302010000100000000001) := by decide +kernel
/-- Rows of the table of R139: 32 threads that hold THREADID in v4, under a grant of 32. -/
def wide : State :=
  fragOf tinyLaunch { tinyGroup with
    grant := 32, nodes := [{ leafNode 0xFFFFFFFF 0 none none false with id := 0 }]
    threads := (List.range 32).map fun l => (l, { thread [(4, BitVec.ofNat 32 l)] with tid := l, g := l }) } []
def laneAfter (i : Instr) (l : Nat) : Option Word :=
  match exec i wide with | .next s => (s.group? 0 0).map fun g => (g.thread l).cell 8 | _ => none
theorem test_gred_all : laneAfter (.gred .add (word3 2 0 8 4 0 0)) 3 = some 0x1F0 := by decide +kernel
theorem test_gred_segment : laneAfter (.gred .add { word3 2 0 8 4 0 0 with mod := 0x30 }) 20 = some 0x9C := by decide +kernel
theorem test_shfl_pair : laneAfter (.shfl .pair { word3 0xF 0 8 4 0 0 with mod := 1, imm := 16 }) 3 = some 0x13 := by decide +kernel
/-- A word whose class is too low traps ILLCLASS (0x02), and a misaligned load MISALIGN (0x04); its thread ends without a handler (R103). -/
theorem test_illclass : (match exec (.imul { word3 2 0 6 2 3 0 with tc := 0 }) (frag (thread [])) with | .next s => s.faultQ.map (·.cause) | _ => []) = [0x02] := by
  decide +kernel

/-! ### Witnesses: for each statement with hypotheses, states and operands that meet them -/

/-- The view of a fragment that is there. -/
abbrev viewOf (s : State) (h : s.view.isSome = true := by decide +kernel) : View := s.view.get h

/-- The words that a state can issue, in lanes that are active. -/
def issuable (s : State) (ps : List (Instr × CastWord)) : Bool :=
  match s.view with
  | some v => ps.all fun p => v.check p.1 == none && (v.active p.2).all (fun l => !(v.g.thread l).readsBad p.1) && !(v.active p.2).isEmpty
  | none => false

theorem issues_of_issuable {s : State} {ps : List (Instr × CastWord)} (h : issuable s ps = true) :
    ∃ v, ∀ p ∈ ps, s.issues p.1 p.2 v ∧ v.active p.2 ≠ [] := by
  unfold issuable at h
  split at h
  · rename_i v hv
    refine ⟨v, fun p hp => ?_⟩
    have := List.all_eq_true.1 h p hp
    simp only [Bool.and_eq_true, beq_iff_eq, List.all_eq_true, Bool.not_eq_true', List.isEmpty_eq_false_iff] at this
    exact ⟨⟨⟨hv, this.1.1⟩, this.1.2⟩, this.2⟩
  · simp at h

/-- Each word with the instruction made of it. -/
def each (fs : List (CastWord → Instr)) (w : CastWord) : List (Instr × CastWord) := fs.map fun f => (f w, w)

def plain : State := frag (thread [(1, 3), (2, 5)])

theorem witness_KZeroAndPredicateFifteen : plain.view.isSome = true ∧ ({ word with pg := 15 } : CastWord).pg = 15 ∧
    (word3 2 0 15 1 2 0).d = 15 ∧ VoteOp.all ≠ .ballot ∧ (word3 0xF 0 4 1 0 15).c = 15 := by decide +kernel

theorem witness_IntegerArithmeticWords : (∃ v, ∀ p ∈
    each [.iadd, .isub, .imul, .imulh, .imin, .imax, .imad, .idp4, .idp2] (word3 2 0 6 2 4 0) ++ each [.ineg, .iabs] (word3 2 0 6 2 0 0) ++
      each [.imad] { word3 2 0 6 1 2 4 with mod := 4 } ++ each [.idivs] (word3 6 0 4 4 6 0) ++ each [.idive] (word3 2 0 8 4 2 1),
    plain.issues p.1 p.2 v ∧ v.active p.2 ≠ []) ∧ 100 < 2 ^ 8 ∧ 0 < 7 ∧ 7 < 2 ^ 8 := ⟨issues_of_issuable (by decide +kernel), by decide⟩

theorem witness_BitAndShiftWords : ∃ v, ∀ p ∈
    each [.and, .or, .xor, .andn, .tern, .perm] (word3 0xF 0 6 2 4 0) ++ each [.not, .popc, .clz, .brev] (word3 0xF 0 6 2 0 0) ++
      each [.shl, .shr, .sar, .rot, .bfx, .bfi] (word3 2 0 6 2 4 0),
    plain.issues p.1 p.2 v ∧ v.active p.2 ≠ [] := issues_of_issuable (by decide +kernel)

theorem witness_CompareAndMoveWords : ∃ v, ∀ p ∈
    each [.icmp .lt] (word3 2 0 1 2 4 0) ++ each [.icmp .lt] { word3 2 0 1 2 4 3 with mod := 4 } ++ each [.sel] (word3 0xF 0 6 2 4 3) ++
      each [.mov] (word3 0xF 0 6 0 4 0) ++ each [.icvt] { word3 4 0 6 2 0 0 with mod := 0x20 } ++ each [.lea] (word3 7 1 6 2 4 0) ++
      each [.leaGlb] (word3 7 1 6 2 0 0) ++ each [.plop .and] (word3 0 0 1 2 3 0),
    plain.issues p.1 p.2 v ∧ v.active p.2 ≠ [] := issues_of_issuable (by decide +kernel)

/-- No lane of these takes PREC_EXH or FPE: their results are not .v, and XT is clear. -/
theorem witness_KilnRoundingWords :
    let ps := each [.fadd, .fsub, .fmul, .fdiv, .fatan2, .fpow, .ffma, .fsum3, .fscale] (word3 0xA 0 6 2 4 0) ++
      each [.frcp, .fsqrt, .frsqrt, .fexp2, .fexp, .flog2, .flog, .fsin, .fcos, .ftanh] (word3 0xA 0 6 2 0 0) ++
      each [.fcvt] { word3 0xA 0 6 2 0 0 with ext := 0x0800 } ++ each [.icvtf] { word3 0xA 0 6 2 0 0 with ext := 0x0200 }
    (∃ v, ∀ p ∈ ps, plain.issues p.1 p.2 v ∧ v.active p.2 ≠ []) ∧ ∀ p ∈ ps, p.2.modBit 4 = false ∧ isV p.2.ty = false :=
  ⟨issues_of_issuable (by decide +kernel), by decide +kernel⟩

theorem witness_KilnExactWords :
    let ps := each [.fmin, .fmax] (word3 0xA 0 6 2 4 0) ++ each [.fabs, .fneg, .fclass, .frint, .fgetexp] (word3 0xA 0 6 2 0 0) ++
      each [.fcmp .lt] (word3 0xA 0 1 2 4 0) ++ each [.fcvti] { word3 2 0 6 2 0 0 with ext := 0x0A00 }
    (∃ v, ∀ p ∈ ps, plain.issues p.1 p.2 v ∧ v.active p.2 ≠ []) ∧ ∀ p ∈ ps, p.2.modBit 4 = false :=
  ⟨issues_of_issuable (by decide +kernel), by decide +kernel⟩

/-- A target of binary32 and one of E4M3; sums of finite data that are zero, and not; data that are zero, and not. -/
theorem witness_RoundingRule :
    (2 ≤ f32T.p ∧ f32T.e4m3 = false) ∧ (let t := (fmtOf 0xD 0).target .sst 5; t.e4m3 = true ∧ t.p = 4 ∧ t.mode = .sst) ∧
    (∀ x ∈ [FV.fin true 0 0, .fin true 0 5], x.isZero = true ∧ x.neg = true) ∧ (∀ x ∈ [FV.fin false 0 0, .fin false 0 5], x.isZero = true ∧ x.neg = false) ∧
    ([FV.fin false 3 0, .fin true 1 0].map fun x => match x with | .fin _ _ _ => true | _ => false) = [true, true] ∧
    ([FV.fin false 3 0, .fin true 3 0].map fun x => match x with | .fin n m e => (n, m, e) | _ => (false, 0, 0)) = [(false, 3, 0), (true, 3, 0)] ∧
    0 < 3 ∧ 0 * 3 = 0 ∧ 2 * 3 ≠ 0 := by decide +kernel

theorem witness_RoundingRule_sums :
    (([FV.fin false 3 0, .fin true 1 0].map FV.rat).sum ≠ 0) ∧ ([FV.fin false 3 0, .fin true 3 0].map FV.rat).sum = 0 ∧
    (FV.fin false 2 0).rat * (FV.fin false 3 0).rat + (FV.fin true 6 0).rat = 0 ∧ (FV.fin false 2 0).rat * (FV.fin false 3 0).rat + (FV.fin true 5 0).rat ≠ 0 := by
  norm_num [FV.rat]

/-- Data whose functions settle at once: 1/2, 3, and the points (2, −1) and (3, 1/2). -/
theorem witness_KilnRealFunctions :
    let need := f32T.need
    let found (f : Nat → Option Mag) : Bool := (settleLoop f 4 (firstTry need)).isSome
    let found2 (f : Nat → Option (Bool × Mag)) : Bool := (settleLoop f 4 (firstTry need)).isSome
    (2 ≤ f32T.p ∧ f32T.p ≤ 241 ∧ f32T.e4m3 = false ∧ -16382 ≤ f32T.emin ∧ f32T.emin ≤ f32T.emax ∧ f32T.emax ≤ 16383 ∧ f32T.p ≤ 300) ∧
    found (exp2Try need false 1 (-1)) = true ∧ found (expTry need true 1 (-1)) = true ∧ found (log2Try need 3 0) = true ∧ found (lnTry need 3 0) = true ∧
    found2 (sinCosTry need false 1 (-1)) = true ∧ found2 (sinCosTry need true 1 (-1)) = true ∧ found (tanhTry need 1 (-1)) = true ∧
    found (atanTry need 1 0 true 2 0) = true ∧ (∀ q ∈ [1, 2, 3, 4], found (piTry need q) = true) ∧ found (powTry need 3 0 false 1 (-1)) = true ∧
    found (powTry need 3 0 true 3 0) = true ∧ isIntFV 3 0 = true := by decide +kernel

theorem witness_KilnSpecialOperands : (FV.nan true).isNan = true ∧ ¬ (FV.fin false 1 0).isNan = true ∧ FV.fin false 1 0 ≠ .inf true ∧ (1 : Nat) ≠ 0 ∧
    FV.inf true ∈ [FV.nan false, .inf false, .inf true] ∧ FV.inf false ∈ [FV.nan false, .inf false, .inf true] ∧ Odd 1 :=
  ⟨rfl, by decide, by decide, by decide, by decide, by decide, ⟨0, rfl⟩⟩

theorem witness_CrossLaneWords :
    (∃ v, ∀ p ∈ each [.shfl .pick, .shfl .rot, .shfl .shift, .shfl .pair] (word3 0xF 0 8 4 2 0) ++ each [.vote .all, .vote .any, .vote .uni] (word3 0 0 1 2 0 0) ++
      each [.vote .ballot] (word3 0xF 2 8 2 0 0) ++ each [.elect] (word3 0 0 1 0 0 0), wide.issues p.1 p.2 v ∧ v.active p.2 ≠ []) ∧
    ∀ l ∈ (viewOf wide).active (word3 0xF 0 8 4 2 0), ((viewOf wide).g.thread l).badCells = [] :=
  ⟨issues_of_issuable (by decide +kernel), by decide +kernel⟩

/-- An integer reduction, and one of .v whose lanes exhaust their precision with XA. -/
theorem witness_ReductionWords :
    let s := fragOf tinyLaunch (groupOf { thread [(4, 0x3FFF0000)] with pr := 0x814 }) []
    let w := word3 0xC 0 8 4 0 0
    (∃ v, ∀ p ∈ each [.gred .add, .gscan .add] (word3 2 0 8 4 0 0) ++ each [.gred .xor] (word3 0xF 0 8 4 0 0) ++ each [.gred .seq, .gscan .seq] w,
      s.issues p.1 p.2 v ∧ v.active p.2 ≠ []) ∧
    (∀ l ∈ (viewOf s).active w, ((viewOf s).g.thread l).badCells = []) ∧
    (fmtOf w.ty w.lc).prec < prP ((viewOf s).g.thread 0).pr ∧ prXa ((viewOf s).g.thread 0).pr = true ∧ ¬ (w.ty.toNat < 8 ∨ isB w.ty = true) :=
  ⟨issues_of_issuable (by decide +kernel), by decide +kernel, by decide +kernel, by decide +kernel, by decide +kernel⟩

/-- Inputs of reductions: finite ones whose sum is not 0, a NaN alone, and a NaN beside 1.0. -/
theorem witness_ReductionWords_values :
    ([5, 3].Perm [3, 5] ∧ (∀ y ∈ [5, 3].map (valOf 2 32), valOf 2 32 3 ≤ y) ∧ (∀ y ∈ [5, 3].map (valOf 2 32), y ≤ valOf 2 32 5)) ∧
    (let finite (xs : List Nat) : Bool := xs.all fun x => match f32.decode x with | .fin _ _ _ => true | _ => false
     2 ≤ f32.prec ∧ f32.e4m3 = false ∧ finite [0x3F800000, 0x40000000] = true ∧
     [0x7FC00000, 0x3F800000].any (fun x => (f32.decode x).isNan) = true ∧ (∀ x ∈ [0x7FC00000, 0x3F800000], (f32.decode x).isInf = false) ∧
     (f32.decode 0x3F800000).isNan = false) := by decide +kernel


/-- A launch with a spill region at 0x800, its record at 0x400 and a handler at 0x1000; the pages it uses have translations. -/
def mappedLaunch : Launch := { tinyLaunch with recAddr := 0x400, rec_ := { tinyRec with spillbase := 0x800, trapentry := 0x1000 } }
def mapped (t : Thread) : State := { fragOf mappedLaunch (groupOf t) [page 0 0, page (2 ^ 45) 0x3000] with mem := ({ cells := [], poison := [] } : Memory).write 0x42C 4 256 }

theorem witness_SystemRegisterWords :
    (∃ v, ∀ p ∈ each [.rdsys] (word3 6 0 4 0x15 0 0) ++ each [.wrsys] (word3 6 0 0x00 1 0 0) ++ each [.wrsys] (word3 7 1 0x14 2 0 0) ++
      each [.wrsys] (word3 6 0 0x15 1 0 0) ++ each [.wrsys] (word3 6 0 0x12 4 0 0) ++ each [.kset] (word3 0 0 5 1 0 0) ++
      each [.kset] { word3 0 0 0 1 0 0 with mod := 2 } ++ each [.kget] (word3 0 0 4 1 0 0) ++ each [.hmk] { word with imm := 0x1FFFE },
      (frag (thread [])).issues p.1 p.2 v ∧ v.active p.2 ≠ []) ∧
    (let v := viewOf (frag (thread []))
     (∀ l ∈ v.active word, let x := srcA (.wrsys (word3 7 1 0x14 2 0 0)) v.g (word3 7 1 0x14 2 0 0) (v.g.thread l) 2
        bits x 0 8 ≠ 1 ∧ bits x 0 8 < 242 ∧ bits x 8 3 < 6 ∧ x % 16 = 0 ∧ x < 2 ^ 57 ∧ x % 4 ≠ 3) ∧
     (v.active word).head? = some 0 ∧ v.lanes.head? = some 0) :=
  ⟨issues_of_issuable (by decide +kernel), by decide +kernel⟩

/-- A fragment whose join is at its own PC. -/
def joining : State := fragOf tinyLaunch { groupOf (thread []) with nodes := [{ leafNode 1 0 (some 0) none false with id := 0 }] } []

theorem witness_ControlTransferWords :
    (∃ v, ∀ p ∈ each [.nop, .join, .exit] word ++ each [.bra] { word with imm := 4 } ++ each [.brx] (word3 0 0 0 2 0 0),
      (frag (thread [])).issues p.1 p.2 v ∧ v.active p.2 ≠ []) ∧
    (let v := viewOf (frag (thread []))
     v.check .ifence = none ∧ v.lanes ≠ [] ∧ v.active word = v.lanes ∧ (∀ l ∈ v.lanes, l < 128) ∧ v.nd.rpc ≠ some v.nd.pc ∧
     ∀ l ∈ v.active word, (v.g.thread l).cells 2 2 % 16 = 0 ∧ (v.g.thread l).cells 2 2 < 2 ^ 57) ∧
    (let v := viewOf joining
     v.check (.join word) = none ∧ (v.active word).length = v.lanes.length ∧ v.nd.rpc = some v.nd.pc) ∧
    ([(0, 16#64), (3, 32)].map (·.1)).Nodup ∧ ∀ e ∈ [(0, 16#64), (3, 32)], e.1 < 128 :=
  ⟨issues_of_issuable (by decide +kernel), by decide +kernel, by decide +kernel, by decide +kernel, by decide +kernel⟩

/-- Lanes 0 and 1 of one fragment, of which lane 0 takes a branch (predicate 0); fifteen further fragments of one lane each. -/
def crowd : Group :=
  { tinyGroup with
    grant := 32, nextNode := 16, threads := (List.range 17).map fun l => (l, { thread [] with tid := l, g := l, pred := if l = 0 then 1 else 0 })
    nodes := { leafNode 3 0 none none false with id := 0 } :: (List.range 15).map fun i => { leafNode (1#128 <<< (i + 2)) 0 none none false with id := i + 1 } }
def branchWord : CastWord := { word with pg := 0, imm := 4 }
/-- The group behind that branch: one fragment has no room in the table. -/
def crowded (v : View) : Group :=
  v.g.gotoParts v.nd (transferParts ((v.active branchWord).map fun l => (l, 80#64)) (maskOf (v.lanes.filter fun l => decide (l ∉ v.active branchWord))) (v.nd.pc + 16)) branchWord.rj
/-- An entry whose last child is at its join, and another whose child runs. -/
def lastChild : State :=
  fragOf tinyLaunch { groupOf (thread []) with
    nextNode := 4
    nodes := [{ leafNode 1 0 (some 0) (some 1) false with id := 0 }, { leafNode 1 0 none none false with id := 1, st := .join },
      { leafNode 2 0 none none false with id := 2, st := .join }, { leafNode 2 0 (some 64) (some 2) false with id := 3 }] } []

/-- Splits that have room in the table, and that push an entry onto the stack, whose page is there and is not; the last child of an entry. -/
theorem witness_ControlTransferWords_split :
    (let v := viewOf (fragOf tinyLaunch crowd [])
     v.check (.bra branchWord) = none ∧ v.lanes = [0, 1] ∧ v.active branchWord = [0] ∧ (crowded v).stack.length = 1 ∧
     (match v.s.pushNeeds v.c (crowded v) v.l.rec_ v.g.stack.length v.nd.fatal with | .miss _ => true | _ => false) = true) ∧
    (let v := viewOf (fragOf mappedLaunch crowd [page (2 ^ 45) 0x3000])
     v.check (.bra branchWord) = none ∧ v.lanes ≠ [] ∧ v.s.pushNeeds v.c (crowded v) v.l.rec_ v.g.stack.length v.nd.fatal = .ready) ∧
    (let v := viewOf lastChild
     let p : Node := { leafNode 1 0 none none false with id := 1, st := .join }
     v.check (.join word) = none ∧ (v.active word).length = v.lanes.length ∧ v.nd.rpc = some v.nd.pc ∧ v.g.stack = [] ∧ (v.g.nodes.map (·.id)).Nodup ∧
     p ∈ v.g.nodes ∧ v.nd.parent = some p.id ∧ p.st = .join ∧ p.mask ≠ 0 ∧ v.nd.isLeaf = true ∧
     (∀ n ∈ v.g.nodes, n.id ≠ v.nd.id → n.parent ≠ some p.id) ∧
     ∀ n ∈ v.g.nodes, n.id ≠ p.id → if n.isLeaf = true then n.mask ≠ 0 else ∃ k ∈ v.g.nodes, k.id ≠ v.nd.id ∧ k.parent = some n.id) ∧
    (let g := groupOf (thread [])
     (g.nodes.filter Node.isLeaf).length + 2 ≤ 16 ∧ g.nodes.length + 2 ≤ 32 ∧ (∀ f ∈ g.nodes, (g.chain f).length < 31) ∧ g.stack = [] ∧
     ∀ n ∈ g.nodes, n.isLeaf = true ∧ n.mask ≠ 0) ∧
    crowd.hasRoom = false ∧ crowd.nodes.any Node.isLeaf = true := by decide +kernel

/-- The state behind a call with a delta of 16. -/
def called : State := match exec (.call { word with mod := 1, imm := 4 }) (mapped (thread [(0, 0x1000)])) with | .next s => s | _ => .reset

theorem witness_CallAndReturnWords :
    (let s := mapped (thread [(0, 0x1000)])
     let v := viewOf s
     v.check (.call { word with mod := 1, imm := 4 }) = none ∧ v.check (.callx { word with mod := 1, a := 2 }) = none ∧ v.active word ≠ [] ∧ v.spillLimit = ([], 256) ∧
     (∀ l ∈ v.active word, (v.g.thread l).badCells = [] ∧ (v.g.thread l).top + (spillRecord (v.g.thread l) 16 (v.nd.pc + 16)).1 ≤ 256 ∧
       v.s.trRange v.c v.g.ctx v.nd.fatal .w (spillVa v.l.rec_ (v.g.thread l) (v.g.thread l).top) (spillRecord (v.g.thread l) 16 (v.nd.pc + 16)).1 =
         .ok [(0x810, (spillRecord (v.g.thread l) 16 (v.nd.pc + 16)).1)] ∧ (v.g.thread l).cells 2 2 % 16 = 0 ∧ (v.g.thread l).cells 2 2 < 2 ^ 57) ∧
     v.check (.ret word) = none ∧ ∀ l ∈ v.active word, (v.g.thread l).top = 16) ∧
    (let v := viewOf called
     let u := thread [(0, 0x1000)]
     let rcd := spillRecord u 16 16
     v.check (.ret word) = none ∧ v.active word ≠ [] ∧ (∀ l ∈ v.active word, v.ret1 (v.g.thread l) = .go 56 16 16 0x1000) ∧
     -- the record as it stands in memory
     16 * 1 ≤ v.g.win ∧ (16 : DWord).toNat % 16 = 0 ∧ ∀ l ∈ v.active word, let t := v.g.thread l
       rcd.1 + 16 ≤ t.top ∧ v.trLoc .r (.glob (spillVa v.l.rec_ t (t.top - 16))) 16 = .ok [(0x838, 16)] ∧
       v.peek (.glob (spillVa v.l.rec_ t (t.top - 16))) 16 = .ok (bits rcd.2 (8 * (rcd.1 - 16)) 128) ∧
       v.trLoc .r (.glob (spillVa v.l.rec_ t (t.top - rcd.1))) (rcd.1 - 16) = .ok [(0x810, 40)] ∧
       v.peek (.glob (spillVa v.l.rec_ t (t.top - rcd.1))) (rcd.1 - 16) = .ok (bits rcd.2 0 (8 * (rcd.1 - 16)))) := by decide +kernel

/-- A block of two threads, of which one is placed here; and of one. -/
def blockOf (size : Nat) : State :=
  fragOf { tinyLaunch with rec_ := { tinyRec with size := [size] } } (groupOf (thread [])) []

/-- The same block of two, whose one thread here has arrived at barrier 3 in this phase already. -/
def arrivedOnce : State :=
  match (blockOf 2).block? 0 0 with
  | some b => (blockOf 2).setBlock 0 0 { b with bars := [(3, { phase := 65535, arrived := [0], later := [] })] }
  | none => blockOf 2

theorem witness_RendezvousWords_again :
    (∃ v, ∀ p ∈ each [.bar, .arrive] { word with imm := 3 }, arrivedOnce.issues p.1 p.2 v ∧ v.active p.2 ≠ []) ∧
    (arrivedOnce.block? 0 0).map (fun b => ((b.bar 3).arrived, b.allIn 2 (b.bar 3).arrived)) = some ([0], false) :=
  ⟨issues_of_issuable (by decide +kernel), by decide +kernel⟩

theorem witness_RendezvousWords :
    (∃ v, ∀ p ∈ each [.bar, .arrive] { word with imm := 3 } ++ each [.setw] { word with imm := 32 } ++ each [.setw] { word with imm := 5 },
      (blockOf 2).issues p.1 p.2 v ∧ v.active p.2 ≠ []) ∧
    (∀ s ∈ [blockOf 1, blockOf 2], s.view.isSome = true ∧ s.block? 0 0 = tfind tinyLaunch.blocks 0) ∧
    (∀ b ∈ (blockOf 2).block? 0 0, (∀ i ∈ [0], i ∉ (b.bar 3).arrived) ∧ b.allIn 2 (sunion (b.bar 3).arrived [0]) = false ∧
      b.allIn 1 (sunion (b.bar 3).arrived [0]) = true ∧ (b.bar 3).later = [] ∧ b.allIn 2 (sunion b.setwArrived [0]) = false ∧
      b.allIn 1 (sunion b.setwArrived [0]) = true) ∧
    (∀ s ∈ [blockOf 1, blockOf 2], (s.group? 0 0).map (·.remnant) = some false ∧ tsorted s.cores = true ∧ ∀ e ∈ s.cores, tsorted e.2.groups = true) ∧
    32 ∈ [128, 64, 32, 16, 8] ∧ 5 ∉ [128, 64, 32, 16, 8] ∧ (viewOf (blockOf 1)).check (.setw { word with imm := 32 }) = none :=
  ⟨issues_of_issuable (by decide +kernel), by decide +kernel, by decide +kernel, by decide +kernel, by decide +kernel, by decide +kernel, by decide +kernel⟩

/-- A fragment in handler mode. -/
def handling : State := fragOf mappedLaunch { groupOf (thread []) with nodes := [{ leafNode 1 0 none none true with id := 0 }] } [page 0 0]

theorem witness_TrapReturnAndYieldWords :
    (∃ v, ∀ p ∈ each [.trap, .dbrk, .sleep] { word with imm := 9 } ++ each [.sleep] word, (frag (thread [])).issues p.1 p.2 v ∧ v.active p.2 ≠ []) ∧
    (viewOf (frag (thread []))).check .yield = none ∧ (frag (thread [])).haltBreak 0 = false ∧
    (let s : State := { frag (thread []) with sup := { Sup.reset with ctxctl := [(0, 4)] } }
     s.haltBreak 0 = true ∧ (viewOf s).check (.dbrk { word with imm := 9 }) = none ∧ (viewOf s).active word ≠ []) ∧
    (let v := viewOf handling
     v.check (.tret word) = none ∧ v.lanes ≠ [] ∧ ∀ l ∈ v.lanes, (v.g.thread l).trappc = 0) :=
  ⟨issues_of_issuable (by decide +kernel), by decide +kernel⟩

/-- A class that is too low; a cell with an error; a precision that is exhausted; and a result with a flag under XT. -/
theorem witness_TrapsComeBeforeEffects :
    (let i := Instr.imul { word3 2 0 6 2 4 0 with tc := 0 }
     (opSpec i).isSome = true ∧ (viewOf plain).check i = some 0x02) ∧
    (let s := frag { thread [] with badCells := [2] }
     let i := Instr.iadd (word3 2 0 6 2 4 0)
     (viewOf s).check i = none ∧ (viewOf s).active (word3 2 0 6 2 4 0) = [0] ∧ ((viewOf s).g.thread 0).readsBad i = true) ∧
    (let s := frag { thread [] with pr := 0x14 }
     let w := word3 0xC 0 4 5 6 0
     (∃ v, ∀ p ∈ each [.fadd] w, s.issues p.1 p.2 v ∧ v.active p.2 ≠ []) ∧ isV w.ty = true ∧ (fmtOf w.ty w.lc).prec < prP ((viewOf s).g.thread 0).pr ∧
       prXa ((viewOf s).g.thread 0).pr = false) ∧
    (let s := frag (thread [(2, 0x7F800000), (4, 0xFF800000)])
     let w := { word3 0xA 0 6 2 4 0 with mod := 0x10 }
     (∃ v, ∀ p ∈ each [.fadd] w, s.issues p.1 p.2 v ∧ v.active p.2 ≠ []) ∧ isV w.ty = false ∧ w.modBit 4 = true ∧
       (roundSum f32T [f32.decode 0x7F800000, f32.decode 0xFF800000]).flags &&& 28 ≠ 0) :=
  ⟨by decide +kernel, by decide +kernel, ⟨issues_of_issuable (by decide +kernel), by decide +kernel⟩, ⟨issues_of_issuable (by decide +kernel), by decide +kernel⟩⟩

theorem witness_TakingATrap :
    let info : Table (Nat × DWord) := [(0, 4, 0x123)]
    info ≠ [] ∧ (info.map (·.1)).Nodup ∧ (viewOf (mapped (thread []))).nd.mask &&& ~~~maskOf (info.map (·.1)) = 0 ∧
    (let v := viewOf (mapped (thread []))
     (∀ e ∈ info, routed v.l.rec_ v.nd.hmode (v.g.thread e.1) e.2.1 = true) ∧
     v.s.translate v.c v.g.ctx v.nd.fatal .w (privVa v.l.rec_ (v.g.thread 0).g 0) = .hit 0x3000) ∧
    (let v := viewOf plain
     v.nd.mask &&& ~~~maskOf (info.map (·.1)) = 0 ∧ (∀ e ∈ info, routed v.l.rec_ v.nd.hmode (v.g.thread e.1) e.2.1 = false) ∧
     (plain.block? v.g.launch v.g.block).map (·.setwArrived) = some []) ∧
    -- a page that the L1 holds
    (let s := (mapped (thread [])).setCore 0 { (mapped (thread [])).core 0 with split := 4 }
     let v := viewOf s
     v.s.translate v.c v.g.ctx v.nd.fatal .w (privVa v.l.rec_ (v.g.thread 0).g 0) = .hit 0x3000 ∧ 0x3000 % 32 = 0 ∧ s.l1Used v.c 0x3000 = true ∧
     s.mem.poisoned 0x3000 32 = false ∧ s.stateWord 0x3000 32 = none ∧ s.isFree 0x3000 = false) := by decide +kernel

/-- Core 0 with pages 0 to 0x3FFF, a window of 4 KiB, and an image of one texel at 0x10000 whose descriptor is at 0x600, which k2:k3 name; the thread's
v2:v3 is 0x100, its v8 0x40. -/
def memory : State :=
  let t := thread [(2, 0x100), (4, 7), (5, 9), (8, 0x40)]
  let s := fragOf mappedLaunch { groupOf t with kregs := [(2, 0x600)] } [page 0 0, page 0x10000 0x4000, page (2 ^ 45) 0x3000]
  let m : Memory := { cells := [], poison := [] }
  let s : State := { s with mem := (m.write 0x42C 4 256).write 0x600 64 (0x10000 + 2 ^ 232) }
  s.setCore 0 { s.core 0 with wins := [{ launch := 0, block := 0, q := 4096, bytes := [], poison := [] }] }

/-- The words of the memory and image families in space `sp`: type .z32 or .b, address v2 or v8, data v4. -/
def glob (ty : BitVec 4) (d a b c : BitVec 11) : CastWord := { word3 ty 0 d a b c with mod := 1 }
def pad (ty : BitVec 4) (d a b c : BitVec 11) : CastWord := { word3 ty 0 d a b c with mod := 2 }
def image (ty : BitVec 4) (d a b c : BitVec 11) : CastWord := { word3 ty 0 d a b c with mod := 6 }

/-- The plans of these words in lane 0 are ready. -/
def readyAt (s : State) (xs : List (CastWord × Nat × Nat × Need)) : Bool :=
  match s.view with
  | some v => xs.all fun (w, n, al, need) => v.access w n al need (v.g.thread 0) == .ready && v.g.lsqHeld v.nd.mask == false && v.active w == [0]
  | none => false

theorem witness_LoadAndStoreWords :
    (∃ v, ∀ p ∈ each [.ld] (glob 6 8 2 0 0) ++ each [.st] (glob 6 0 2 4 0) ++ each [.ld] (pad 6 9 8 0 0) ++ each [.st] (pad 6 0 8 4 0) ++
      each [.ld] (image 0xF 8 4 0 2) ++ each [.st] (image 0xF 0 4 4 2) ++ each [.ldd] (glob 0xC 8 2 0 0) ++ each [.std] (glob 0xC 0 2 4 0),
      memory.issues p.1 p.2 v ∧ v.active p.2 ≠ []) ∧
    readyAt memory [(glob 6 8 2 0 0, 4, 4, .r), (glob 6 0 2 4 0, 4, 4, .w), (pad 6 9 8 0 0, 4, 4, .r), (pad 6 0 8 4 0, 4, 4, .w), (glob 0xC 8 2 0 0, 4, 2, .r),
      (glob 0xC 0 2 4 0, 4, 2, .w)] = true ∧
    (let v := viewOf memory
     planAct ((v.settled (.ld (image 0xF 8 6 0 2))).planTexel (image 0xF 8 6 0 2) (v.g.thread 0) .r) = .ready ∧
     planAct ((v.settled (.st (image 0xF 0 6 4 2))).planTexel (image 0xF 0 6 4 2) (v.g.thread 0) .w) = .ready ∧
     decdalBytes 0 = 4 ∧ prP (v.g.thread 0).pr = 0) := ⟨issues_of_issuable (by decide +kernel), by decide +kernel, by decide +kernel⟩

/-- The same core with half of its scratchpad an L1. -/
def cached : State := memory.setCore 0 { memory.core 0 with split := 4 }

/-- Sector 8 in the L1 of that core. -/
def holding (x : L1Sector) : State := cached.setCore 0 { cached.core 0 with l1 := [(8, x)] }

/-- A window, memory through the L1, memory at the home slice, and poison in each; a bad sector in the L1, and one that holds a part. -/
theorem witness_OneLaneReadsAndWrites :
    let v := viewOf memory
    let t := v.g.thread 0
    (v.locate t 2 (addressOf (pad 6 9 8 0 0) v.g t) 4 = some (.pad 0 0x40) ∧ acquiresWide (pad 6 9 8 0 0) = false ∧ releasesWide (pad 6 0 8 4 0) = false ∧
      (memory.window? 0 v.g.launch v.g.block).isSome = true ∧ ({ launch := 0, block := 0, q := 4096, bytes := [], poison := [2] } : Window).poisoned 0x40 4 = true) ∧
    (v.locate t 1 (addressOf (glob 6 8 2 0 0) v.g t) 4 = some (.glob 0x100) ∧ v.trLoc .r (.glob 0x100) 4 = .ok [(0x100, 4)] ∧ v.trLoc .w (.glob 0x100) 4 = .ok [(0x100, 4)] ∧
      (glob 6 8 2 0 0).space ≠ 5 ∧ acquiresWide (glob 6 8 2 0 0) = false ∧ 7 < 256 ^ 4) ∧
    (cached.l1Used 0 0x100 = true ∧ (∀ sec ∈ sectorsOf 0x100 4, sec ∉ cached.mem.poison) ∧
      tfind (cached.core 0).l1 8 = none ∧ 8 ∈ sectorsOf 0x100 4 ∧ 8 ∈ (cached.mem.mark 8).poison) ∧
    (∀ x ∈ [({ have_ := BitVec.allOnes 32, dirty := 3, data := 0, filled := 0, wrote := 1, bad := true } : L1Sector),
        { have_ := 3, dirty := 3, data := 0, filled := 0, wrote := 1 }],
      (x.bad = true ∨ x.have_ ≠ byteMask 0 32) ∧ tfind ((holding x).core 0).l1 8 = some x ∧ (holding x).isFree (32 * 8) = false ∧ (holding x).l1Used 0 0x100 = true) ∧
    memory.l1Used 0 0x100 = false ∧ memory.homeRead 0x100 4 = .ok 0 := by decide +kernel

theorem witness_WhatIsStoredReadsBack :
    0 < 4 ∧ 0x100 % 32 + 4 ≤ 32 ∧ memory.isHomed 0x100 = true ∧ memory.isFree 0x100 = false ∧ memory.mem.poisoned 0x100 4 = false ∧ memory.stateWord 0x100 4 = none ∧
    tfind (memory.core 0).l1 (0x100 / 32) = none := by decide +kernel

/-- Whether a word leaves a next state. -/
def goes (i : Instr) (s : State) : Bool := match exec i s with | .next _ => true | _ => false

/-- Whether a word leaves a next state in which its whole fragment goes on. -/
def completes (i : Instr) (s : State) : Bool :=
  match exec i s, s.view with
  | .next t, some v => (t.group? v.c v.slot).bind (·.anyNode? v.nd.id) == some v.onward
  | _, _ => false

/-- The same core with eight bytes on the thread's spill stack, and at 0x40 of its window a queue of two slots, of which slot 0 is full. -/
def spilled : State :=
  let s := memory.setGroup 0 0 ((memory.group? 0 0).getD tinyGroup |>.mapThreads [0] fun t => { t with top := 24 })
  s.mapWindow 0 0 0 fun d => d.store 0x40 32 (2 ^ 32 + 2 * 2 ^ 64 + 5 * 2 ^ 128 + 2 ^ 192)

/-- A store of four bytes at 0x100, and the byte at 0x5000, which nothing touches. -/
theorem witness_StoresChangeTheirBytesOnly :
    readyAt memory [(glob 6 0 2 4 0, 4, 4, .w), (glob 0xC 0 2 4 0, 4, 2, .w), (glob 6 8 2 0 0, 4, 4, .r)] = true ∧
    goes (.st (glob 6 0 2 4 0)) memory = true ∧ goes (.st (image 0xF 0 6 4 2)) memory = true ∧ goes (.std (glob 0xC 0 2 4 0)) memory = true ∧
    goes (.ld (glob 6 8 2 0 0)) memory = true ∧ tfind (memory.core 0).l1 (0x5000 / 32) = none ∧ memory.hearth.requests ++ memory.hearth.routers = [] ∧
    (∀ i ∈ [Instr.atom .add (glob 6 8 2 4 0), .cas (glob 0xF 8 2 4 0), .red .add (glob 6 0 2 4 0)], completes i memory = true) ∧
    (∀ i ∈ [Instr.spill (word3 0xF 0 0 0 4 0), .qpush (pad 0xF 1 8 4 0), .qpop (pad 0xF 4 8 0 1), .qpeek (pad 0xF 4 8 0 1)], completes i spilled = true) ∧
    tfind (spilled.core 0).l1 (0x5000 / 32) = none ∧ spilled.hearth.requests ++ spilled.hearth.routers = [] ∧
    (let v := viewOf memory
     v.locate (v.g.thread 0) 1 (addressOf (glob 6 0 2 4 0) v.g (v.g.thread 0)) 4 = some (.glob 0x100) ∧ v.trLoc .w (.glob 0x100) 4 = .ok [(0x100, 4)] ∧
     trapsOf (v.inOrder (fun s _ t => v.loadLane (glob 6 8 2 0 0) 4 (fun t x => .ok (t.setInt (glob 6 8 2 0 0) x)) s t) (v.active (glob 6 8 2 0 0)) memory.settleReds).2 = []) := by
  decide +kernel


theorem witness_AtomicWords :
    (∃ v, ∀ p ∈ each [.atom .add] (glob 6 8 2 4 0) ++ each [.red .add] (glob 6 0 2 4 0) ++ each [.atom .exch, .cas] (glob 0xF 8 2 4 0),
      memory.issues p.1 p.2 v ∧ v.active p.2 ≠ []) ∧
    (let v := viewOf memory
     let t := v.g.thread 0
     v.g.lsqHeld v.nd.mask = false ∧ v.active (glob 6 0 2 4 0) = [0] ∧ (glob 6 0 2 4 0).ord = 0 ∧ v.checkAtom (glob 6 8 2 4 0) t true false = .ready ∧
     v.checkAtom (glob 6 0 2 4 0) t true true = .ready ∧ v.checkAtom (glob 0xF 8 2 4 0) t true false = .ready ∧
     v.locate t 1 (addressOf (glob 6 0 2 4 0) v.g t) 4 = some (.glob 0x100) ∧ v.trLoc .rw (.glob 0x100) 4 = .ok [(0x100, 4)] ∧ memory.isHomed 0x100 = true ∧
     (∀ sec ∈ sectorsOf 0x100 4, tfind (memory.core 0).l1 sec = none) ∧
     (v.read memory true (.glob 0x100) 4).2 = .ok 0 ∧ (v.read memory.settleReds true (.glob 0x100) 4).2 = .ok 0 ∧ memory.isFree 0x100 = false ∧
     memory.stateWord 0x100 4 = none ∧
     (v.write (v.read memory true (.glob 0x100) 4).1 true (wkindOf (glob 6 8 2 4 0) false) (.glob 0x100) 4 7).2 = true) :=
  ⟨issues_of_issuable (by decide +kernel), by decide +kernel⟩

/-- Operands of fadd: a NaN, infinities of both signs, and zeros. -/
theorem witness_AtomicWords_fadd :
    (f32.decode 0x7FC00000).isNan = true ∧ (f32.decode 0x7F800000).isInf = true ∧ (f32.decode 0xFF800000).isInf = true ∧
    (f32.decode 0x7F800000).neg ≠ (f32.decode 0xFF800000).neg ∧ (f32.decode 0).isNan = false ∧ (f32.decode 0).isInf = false ∧ (f32.decode 0).isZero = true := by
  decide +kernel

/-- Atomics on the block's window: its bytes good, and poisoned. -/
theorem witness_AtomicWords_pad :
    let bad : State := memory.setCore 0 { memory.core 0 with wins := [{ launch := 0, block := 0, q := 4096, bytes := [], poison := [2] }] }
    (∃ v, ∀ p ∈ each [.atom .add] (pad 6 8 8 4 0) ++ each [.red .add] (pad 6 0 8 4 0) ++ each [.cas] (pad 0xF 8 8 4 0), memory.issues p.1 p.2 v ∧ v.active p.2 ≠ []) ∧
    (∃ v, ∀ p ∈ each [.red .add] (pad 6 0 8 4 0), bad.issues p.1 p.2 v ∧ v.active p.2 ≠ []) ∧
    (∀ s ∈ [memory, bad], ∀ v ∈ s.view, let t := v.g.thread 0
      v.active (pad 6 0 8 4 0) = [0] ∧ v.g.lsqHeld v.nd.mask = false ∧ v.checkAtom (pad 6 8 8 4 0) t true false = .ready ∧
      v.checkAtom (pad 6 0 8 4 0) t true true = .ready ∧ v.checkAtom (pad 0xF 8 8 4 0) t true false = .ready ∧
      v.locate t 2 (addressOf (pad 6 0 8 4 0) v.g t) 4 = some (.pad 0 0x40)) ∧
    ((viewOf memory).read memory.settleReds true (.pad 0 0x40) 4).2 = .ok 0 ∧
    (memory.window? 0 0 0).map (·.poisoned 0x40 4) = some false ∧ (bad.window? 0 0 0).map (·.poisoned 0x40 4) = some true :=
  ⟨issues_of_issuable (by decide +kernel), issues_of_issuable (by decide +kernel), by decide +kernel⟩

/-- A group whose batch 0 of the Crucible is not done. -/
def batched : State := fragOf tinyLaunch { groupOf (thread []) with cruc := { CrucState.start with closed := [0] } } []

theorem witness_OrderingAndWaitWords :
    (∃ v, ∀ p ∈ each [.fence] { word with ext := 0xD800 } ++ each [.mark] word ++ each [.qfence] { word with mod := 0x60 } ++
      each [.waitv .eq, .waitv .ne] (glob 6 8 2 4 0) ++ each [.waitb .cruc] { word with imm := 1 } ++ each [.waitb .cruc] word,
      memory.issues p.1 p.2 v ∧ v.active p.2 ≠ []) ∧
    readyAt memory [(glob 6 8 2 4 0, 4, 4, .r)] = true ∧
    (let v := viewOf memory
     let w := glob 6 8 2 4 0
     v.lanes ≠ [] ∧ (v.waitRound w .ne memory.settleReds (v.active w)).2 = ([(0, 0)], [], []) ∧
     (v.waitRound w .eq memory.settleReds (v.active w)).2 = ([], [], [0]) ∧ v.waitPages w [0] = []) ∧
    (let v := viewOf memory
     (1 : BitVec 16) = v.g.openBatch .cruc ∧ (0 : BitVec 16) ≠ v.g.openBatch .cruc ∧ ¬ (((0 : BitVec 16) - v.g.openBatch .cruc).toNat ≤ 32767) ∧
     (0 : BitVec 16) ∉ v.g.savedBatches .cruc ∧ memory.batchDone v.c v.g .cruc 0 = true) ∧
    (viewOf batched).check (.waitb .cruc word) = none ∧ batched.batchDone 0 (viewOf batched).g .cruc 0 = false :=
  ⟨issues_of_issuable (by decide +kernel), by decide +kernel, by decide +kernel, by decide +kernel, by decide +kernel, by decide +kernel⟩

theorem witness_SpillAndQueueWords :
    (∃ v, ∀ p ∈ each [.spill] (word3 0xF 0 0 0 4 0) ++ each [.fill] (word3 0xF 0 4 0 0 0) ++ each [.qpush] (pad 0xF 1 8 4 0) ++ each [.qpop, .qpeek] (pad 0xF 4 8 0 1),
      spilled.issues p.1 p.2 v ∧ v.active p.2 ≠ []) ∧
    readyAt spilled [(pad 0xF 1 8 4 0, 16, 16, .rw), (pad 0xF 4 8 0 1, 16, 16, .rw)] = true ∧
    (let v := viewOf spilled
     let t := v.g.thread 0
     { v with s := v.s.settleReds }.spillLimit = ([], 256) ∧ t.top + 8 ≤ 256 ∧ 16 + 8 ≤ t.top ∧
     v.s.trRange v.c v.g.ctx v.nd.fatal .w (spillVa v.l.rec_ t t.top) 8 = .ok [(0x818, 8)] ∧
     v.s.trRange v.c v.g.ctx v.nd.fatal .r (spillVa v.l.rec_ t (t.top - 8)) 8 = .ok [(0x810, 8)]) :=
  ⟨issues_of_issuable (by decide +kernel), by decide +kernel⟩

theorem witness_ConstantCacheAndImageWords :
    (∃ v, ∀ p ∈ each [.ldk] (glob 0xF 4 2 0 0) ++ each [.pref] { word with a := 2, mod := 1 } ++ each [.ccop .wb] { word with a := 2, b := 4, mod := 1, ext := 0x1800 } ++
      each [.ccop .inv] { word with mod := 0x20, ext := 0x1800 } ++ each [.smp] { word3 0xF 2 12 6 4 2 with mod := 6 } ++ each [.smpres] { word3 6 0 12 6 4 2 with mod := 6 },
      memory.issues p.1 p.2 v ∧ v.active p.2 ≠ []) ∧
    (let v := viewOf memory
     let t := v.g.thread 0
     v.g.lsqHeld v.nd.mask = false ∧ t.readsBad (.ldk (glob 0xF 4 2 0 0)) = false ∧ v.checkAccess t 1 (addressOf (glob 0xF 4 2 0 0) v.g t) 4 4 .r = .ready ∧
     v.locate t 1 (addressOf (glob 0xF 4 2 0 0) v.g t) 4 = some (.glob 0x100) ∧ (v.load memory.settleReds (glob 0xF 4 2 0 0) (.glob 0x100) 4).2 = .ok 0 ∧
     (∀ l ∈ v.active { word with a := 2, b := 4, mod := 1, ext := 0x1800 },
       dataB v.g { word with a := 2, b := 4, mod := 1, ext := 0x1800 } (v.g.thread l) 1 ≤ 2 ^ 24) ∧
     planAct ((v.settled (.smp { word3 0xF 2 12 6 4 2 with mod := 6 })).planSmp { word3 0xF 2 12 6 4 2 with mod := 6 } t) = .ready ∧
     planAct ((v.settled (.smpres { word3 6 0 12 6 4 2 with mod := 6 })).planRes { word3 6 0 12 6 4 2 with mod := 6 } t) = .ready) :=
  ⟨issues_of_issuable (by decide +kernel), by decide +kernel⟩

/-- A local handle of one bf16 element at an offset of the core's scratchpad. -/
def handle (base : Nat) : BitVec 256 := BitVec.ofNat 256 (base + 2 * 2 ^ 48 + 2 ^ 64 + 2 * 2 ^ 72 + 2 ^ 137)

/-- The group of one thread with every tile and mask pair claimed, and handles in the windows of three banks. -/
def clawed : Group :=
  { groupOf (thread [(2, 0x100)]) with
    kregs := [(2, 0x600)], hregs := [(1, handle 0x40), (3, handle 0x40040), (4, handle 0x80040)]
    cruc := { CrucState.start with tiles := BitVec.allOnes 16, masks := BitVec.allOnes 8 } }
def crucible : State :=
  let s := fragOf mappedLaunch clawed [page 0 0]
  s.setCore 0 { s.core 0 with wins := [{ launch := 0, block := 0, q := 4096, bytes := [], poison := [] }] }

/-- The words of the Crucible's commands. -/
def crucWords : List (Instr × CastWord) :=
  each [.mma] (word3 0 0 0 1 3 0) ++ each [.mmaw] (word3 0 0 0 1 3 16) ++ each [.azero] (word3 0 0 0 0 0 0) ++ each [.acopy, .aadd] (word3 0 0 1 2 0 0) ++
    each [.ascl] (word3 0 0 1 4 5 0) ++ each [.ald] (word3 0 0 1 1 0 0) ++ each [.ast] (word3 0 0 0 1 2 0) ++ each [.mset] (word3 0 0 1 4 0 0) ++
    each [.mset] { word3 0 0 5 8 0 0 with mod := 2 }

/-- A queue of sixteen commands. -/
def aCmd (i : Instr) : CrucCmd :=
  { word := (encodeCast i).getD 0, pc := 0, batch := 1, seq := 0, rm := 0, sat := false, ha := 0, hb := 0, kv := [], g := 0, paired := false, begun := false, prog := 0,
    beat := 0, beatB := 0, stop := false, held := none, bypass := false, done := false, inherited := false }

/-- Crucible words that are checked, and entered; a full queue; and tiles, masks, forms, addresses and banks that fail. -/
theorem witness_CrucibleCommandWords :
    (∃ v, ∀ p ∈ crucWords, crucible.issues p.1 p.2 v ∧ v.active p.2 ≠ []) ∧ crucible.box.stage = 4 ∧
    (let v := viewOf crucible
     v.g.cruc.queue.length < 16 ∧ v.g.cruc.reject (v.mmaChecks (word3 0 0 0 1 3 0) [] none) = none ∧
     v.g.cruc.reject (v.mmaChecks (word3 0 0 0 1 3 16) [] (some (v.g.kvec 16 16))) = none ∧ v.g.cruc.reject (v.moveChecks (word3 0 0 1 1 0 0) 1) = none ∧
     v.g.cruc.reject { tiles := [1, 2], masks := [] } = none ∧ v.g.cruc.reject { masks := [1] } = none ∧
     (v.g.cruc.reject (v.mmaChecks (word3 0 0 0 9 3 0) [] none)).isSome = true) ∧
    16 ≤ (List.replicate 16 (aCmd (.azero word))).length ∧
    (let x := CrucState.start
     ¬ (x.tiles.getLsbD 3 = true ∧ x.relTiles.getLsbD 3 = false) ∧ [3].head? = some 3 ∧ (∀ t ∈ ([] : List Nat), x.tiles.getLsbD t = true ∧ x.relTiles.getLsbD t = false)) :=
  ⟨issues_of_issuable (by decide +kernel), by decide +kernel, by decide +kernel, by decide +kernel, by decide +kernel⟩

/-- A group of the Crucible's state `x` on core 0, whose tile 2 belongs to slot 5. -/
def withCruc (x : CrucState) : State :=
  let s := fragOf tinyLaunch { groupOf (thread []) with cruc := x } []
  { s.setCore 0 { s.core 0 with tileOwner := [(2, 5)] } with cur := { Cursor.reset with tc := 1 } }

theorem witness_CrucibleControlWords :
    (∃ v, ∀ p ∈ each [.cmode] { word with imm := 0x19 } ++ each [.cmode] { word with imm := 0x40 } ++ each [.cmode] { word with imm := 0x20 } ++ each [.cmode] { word with imm := 0x10120 } ++
      each [.cmode] { word with imm := 0x40120 } ++ each [.cdrain] word ++ each [.cdrain] { word with mod := 2 }, (withCruc .start).issues p.1 p.2 v ∧ v.active p.2 ≠ []) ∧
    (let s := withCruc .start
     let v := viewOf s
     v.check .cpair = none ∧ v.check .cunpair = none ∧ v.check .ccommit = none ∧ v.g.cruc.queue.length < 16 ∧ v.g.cruc.closed.length < 8 ∧ v.g.cruc.paired = false ∧
     (s.core 0).claims = [] ∧ s.claimFree 0 1 1 = true ∧ s.claimFree 0 4 1 = false ∧ v.g.cruc.tiles = 0) ∧
    (let s := withCruc { CrucState.start with tiles := 1, closed := List.replicate 8 0 }
     let v := viewOf s
     v.check .cpair = none ∧ v.g.cruc.tiles &&& ~~~v.g.cruc.relTiles ≠ 0 ∧ (s.core (partner 0)).claims = [] ∧ s.claimFree (partner 0) 1 0 = true ∧ 8 ≤ v.g.cruc.closed.length) ∧
    (let v := viewOf (withCruc { CrucState.start with paired := true })
     v.check .cunpair = none ∧ v.g.cruc.paired = true ∧ v.check (.cmode { word with imm := 0x20 }) = none) ∧
    (let legal (w : Word) : Bool := w &&& 0xC0 == 0 && decide ((w &&& 7).toNat ≤ 4) && (w.getLsbD 5 || w >>> 8 == 0) && (w.getLsbD 4 || w &&& 0xF == 0)
     legal 0x19 = true ∧ legal 0x20 = true ∧ legal 0x10120 = true ∧ legal 0x40120 = true ∧ legal 0x40 = false ∧ (0x19 : Word).getLsbD 5 = false ∧
     (0x20 : Word).extractLsb' 16 16 = 0 ∧ (0x20 : Word).extractLsb' 8 8 = 0 ∧ (0x10120 : Word).extractLsb' 16 16 ≠ 0) ∧
    -- a pair whose cunpair an abort has taken out of the queue
    (let s0 := withCruc { CrucState.start with tiles := 1, paired := false }
     let s := s0.setCore 1 { s0.core 1 with tileOwner := [(0, 1000)] }
     (viewOf s0).g.cruc.queue = [] ∧ s.claimFree 1 1 0 = false ∧ (s.freePartner 0 0).claimFree 1 1 0 = true) :=
  ⟨issues_of_issuable (by decide +kernel), by decide +kernel, by decide +kernel, by decide +kernel, by decide +kernel, by decide +kernel⟩

/-- A handler that saves and restores the engines of its group at 0x600, which k2:k3 name; its group claims nothing and has no command. -/
def saving : State :=
  let g : Group := { groupOf (thread [(2, 0x100)]) with kregs := [(2, 0x600)], nodes := [{ leafNode 1 0 none none true with id := 0 }], cruc := .start }
  let s := fragOf mappedLaunch g [page 0 0]
  let m : Memory := { cells := [], poison := [] }
  { s with mem := m.write 0x42C 4 256 }

theorem witness_ImageWords :
    (∃ v, ∀ p ∈ each [.csave, .crest, .lsave, .lrest] { word with a := 2 }, saving.issues p.1 p.2 v ∧ v.active p.2 ≠ []) ∧
    saving.box.stage = 4 ∧ 0x601 % 64 ≠ 0 ∧ 0x600 % 64 = 0 ∧ (viewOf saving).g.kcells 2 2 = 0x600 ∧
    (let v := viewOf saving
     imageLen (setBits v.g.cruc.tiles.toNat 16).length (setBits v.g.cruc.masks.toNat 8).length v.g.pairHeld (v.g.cruc.queue.filter fun y => !y.done).length = 64 ∧
     64 + 128 * (v.g.ladle.queue.filter fun y => !y.done).length = 64 ∧ (globLoc 0x600 64).isSome = true ∧ v.trLoc .w (.glob 0x600) 64 = .ok [(0x600, 64)] ∧
     v.trLoc .r (.glob 0x600) 64 = .ok [(0x600, 64)] ∧ v.peek (.glob 0x600) 64 = .ok 0) ∧
    (crucHeader 0).map (fun h => (h.len, h.ncmd, h.paired, h.tiles, h.masks)) = some (64, 0, false, 0, 0) ∧ saving.claimFree 0 0 0 = true ∧
    (saving.core 0).claims = [] ∧ (viewOf saving).g.cruc.holds = false ∧ (viewOf saving).g.ladle.queue = [] ∧ ladleHeadBad 0 = none ∧ (saving.core 0).buffered = 0 :=
  ⟨issues_of_issuable (by decide +kernel), by decide +kernel⟩

/-- The same with an image at 0x600: its first bytes, and a record behind its data. -/
def imaged (hd at_ rec_ : Nat) : State :=
  let s := saving.setCore 0 { saving.core 0 with utlb := (List.range 6).map fun i => page (4096 * i) (4096 * i) }
  { s with mem := (s.mem.write 0x600 8 hd).write (0x600 + at_) 160 rec_ }
/-- What crest reads there, once its header is sound: whether every record is, whether the claims agree, and whether the indices are free. -/
def imageAt (s : State) : Option (Bool × Bool × Bool) :=
  let v := viewOf saving
  let u := { v with s := s }
  match u.trLoc .r (.glob 0x600) 64, u.peek (.glob 0x600) 64 with
  | .ok _, .ok hd => (crucHeader hd).bind fun h => match u.trLoc .r (.glob 0x600) h.len, u.peek (.glob 0x600) h.len with
    | .ok _, .ok img =>
      let recs := (List.range h.ncmd).map fun i => bits img (8 * (h.recAt + 160 * i)) (8 * 160)
      some (recs.all recordOk, claimsAgree h recs, (s.core 0).claims == [] && s.claimFree 0 h.tiles h.masks)
    | _, _ => none
  | _, _ => none

/-- Images of a tile, a mask pair and a command; of a record that no command has; and of a claim that the header does not hold. -/
theorem witness_ImageWords_crest :
    imageAt (imaged (1 + 2 ^ 16 + 2 ^ 40) 16464 ((encodeCast (.azero (word3 0 0 0 0 0 0))).getD 0).toNat) = some (true, true, true) ∧
    imageAt (imaged (2 ^ 40) 64 0) = some (false, true, true) ∧
    imageAt (imaged (2 ^ 40) 64 ((encodeCast (.cmode { word with tc := 1, imm := 0x10020 })).getD 0).toNat) = some (true, false, true) := by decide +kernel

/-- Commands to save, of each engine. -/
theorem witness_ImageWords_records :
    (let g : Group := { clawed with cruc := { clawed.cruc with queue := [aCmd (.azero word)] } }
     g.cruc.rm ≤ 4 ∧ (g.cruc.queue.filter fun y => !y.done).length ≤ 16 ∧ (g.cruc.queue.filter fun y => !y.done)[0]? = some (aCmd (.azero word)) ∧ (aCmd (.azero word)).rm ≤ 4 ∧
     cmodeRec (aCmd (.azero word)).word.toNat = none ∧ (setBits g.cruc.tiles.toNat 16)[3]? = some 3 ∧ (setBits g.cruc.masks.toNat 8)[2]? = some 2) ∧
    (let y : LadleCmd := { word := 0, pc := 0, batch := 1, desc := List.replicate 16 0, seq := 1, srcCore := 0, srcG := 0, started := false, begun := false, sent := true,
                           sentIn := 0, prog := 0, bypass := false, parked := none, fatal := [], done := false, inherited := false }
     let g : Group := { clawed with ladle := { LadleState.start with queue := [y] } }
     (g.ladle.queue.filter fun y => !y.done)[0]? = some y ∧ y.desc.length = 16 ∧ y.srcCore < 2 ^ 16 ∧ y.prog < 2 ^ 48 ∧ (g.ladle.queue.filter fun y => !y.done).length ≤ 16 ∧
     -- an image of one lfill, and a core whose buffer is full
     (let r := ((encodeCast (.lfill { word with tc := 1, a := 32 })).getD 0).toNat + 0xAB * 2 ^ 256 + 0x200 * 2 ^ 320 + 8 * 2 ^ 448
      ladleHeadBad 1 = none ∧ ladleRecBad r 0 = none) ∧
     ({ saving.core 0 with groups := (List.range 16).map fun i => (i, { g with ladle := { g.ladle with queue := List.replicate 16 y } }) } : Core).buffered = 256) ∧
    ((saving.settleReds.runToBoundary 0 0 2048).group? 0 0).map (·.cruc.queue) = some [] := by decide +kernel

/-- Descriptors in k16 on: a copy, a fill, a gather through indices in the core's scratchpad, the two reductions, and a continuation. -/
def ladling : State :=
  let k (n : Nat) (cs : List (Nat × Word)) : Table Word := cs.map fun e => (n + e.1, e.2)
  let ks := k 16 [(0, 0x100), (2, 0x200), (6, 9)] ++ k 32 [(0, 0xAB), (2, 0x200), (6, 8)] ++ k 48 [(0, 0x100), (2, 0x200), (6, 9)] ++
    k 64 [(0, 0x100), (2, 0x200), (6, 1161)] ++ k 80 [(0, 0x100), (2, 0x200), (6, 1161), (14, 1)] ++ k 96 [(0, 0x400)]
  let s : State := { fragOf mappedLaunch { groupOf (thread []) with kregs := ks } [page 0 0] with cur := { Cursor.reset with tc := 1 } }
  s.setCore 0 { s.core 0 with wins := [{ launch := 0, block := 0, q := 4096, bytes := [], poison := [] }] }

/-- Each command with a legal descriptor; a copy without spaces; and a scratchpad that the block does not have. -/
theorem witness_LadleCommandWords :
    (∃ v, ∀ p ∈ each [.lcopy] { word with a := 16 } ++ each [.lfill] { word with a := 32 } ++ each [.lgat] { word with a := 48 } ++
      each [.lredArr] { word with a := 64 } ++ each [.lredOrd] { word with a := 80 } ++ each [.lcont] { word with a := 96 },
      ladling.issues p.1 p.2 v ∧ v.active p.2 ≠ []) ∧
    (let v := viewOf ladling
     let kv (n : Nat) := v.g.kvec n 16
     let access (k : LKind) (n : Nat) := ladling.ladleAccess v.c v.g.launch v.g.block k (descOf (kv n))
     v.check .lcommit = none ∧ v.check .lcancel = none ∧ v.g.ladle.queue.length < 16 ∧ (ladling.core 0).buffered < 256 ∧ v.g.ladle.closed.length < 8 ∧
     (∀ e ∈ [(LKind.copy, 16), (.fill, 32), (.gat, 48), (.arr, 64), (.ord, 80)], ladleCell e.1 (kv e.2) 0 0 = none ∧ access e.1 e.2 = none) ∧
     ladleCell .cont (kv 96) 0 0 = none ∧ ladleCell .copy (kv 32) 0 0 = some 6 ∧
     (fragOf mappedLaunch (groupOf (thread [])) []).ladleAccess 0 0 0 .gat (descOf (kv 48)) = some 0) :=
  ⟨issues_of_issuable (by decide +kernel), by decide +kernel⟩

/-! ### Lanes -/

/-- Lane 0 with queue 5, in its ring; and behind a callb from there. -/
def ringLane : Lane := { Lane.reset 0 with queue := some 5, get := 10, st := .fetch, x := [(1, 0x100), (2, 3)] }
def laned (k : Lane) : State := { State.reset with stoker := { Stoker.reset with lanes := [(0, k)] }, cur := { Cursor.reset with lane := 0 } }
def ring : State := laned ringLane
def block : State := laned { ringLane with pc := 0x2000, rstack := [0x40] }
/-- Lane 30, which runs firmware. -/
def firmware : State := { State.reset with cur := { Cursor.reset with lane := 30 } }

/-- Lane 30 at the last word of the image: of the boot firmware, and of a loaded one. -/
def atEnd (b : Firebox) (pc : Nat) : State :=
  { firmware with box := b, stoker := { Stoker.reset with lanes := [(30, { Lane.reset 30 with pc := BitVec.ofNat 64 pc })] } }

theorem witness_StokerScalarWords_end :
    ∀ s ∈ [atEnd Firebox.reset 0x7FFFF8, atEnd { Firebox.reset with stage := 4, imageLen := 0x1000 } 0xFF8],
      s.codeLen = ((s.lane 30).pc + 8).toNat ∧ (s.lane 30).queue = none ∧ (s.lane 30).xr 0 = 0 := by decide +kernel

theorem witness_StokerScalarWords :
    (ring.atLane 0 ∧ (ring.lane 0).inRing ∧ ring.lane 0 = ringLane ∧ 0x2004 % 8 ≠ 0 ∧ 0x2000 % 8 = 0 ∧ ringLane.rstack = []) ∧
    (block.atLane 0 ∧ ¬ (block.lane 0).inRing ∧ (block.lane 0).rstack = [] ++ [0x40] ∧ (block.lane 0).rstack.length < 2) ∧
    (firmware.atLane 30 ∧ ¬ (firmware.lane 30).inRing ∧ firmware.codeLen ≤ (0x8000000 : DWord).toNat ∧ ((firmware.lane 30).pc + 8).toNat < firmware.codeLen ∧ (firmware.lane 30).rstack.length < 2) ∧
    2 ≤ [0x40, (0x2010 : DWord)].length := by
  unfold State.atLane Lane.inRing; decide +kernel

/-- Memory of device 0 and its semaphores, as the firmware reaches them: data at 0x100, a launch record at 0x400, contexts 0 and 1 in force. -/
def aRecord : Nat := 256 * 2 ^ 320 + 16 * 2 ^ 352 + 32 * 2 ^ 384 + 2 ^ 640 + 2 ^ 896
def served : State :=
  let m : Memory := { cells := [], poison := [] }
  { firmware with
    mem := (m.write 0x100 8 0x1234).write 0x400 256 aRecord, box := { Firebox.reset with stage := 4, imageLen := 0x1000 }
    sup := { Sup.reset with ctxctl := [(0, 0x0103), (1, 0x0103)], semspill := [(1, 0x8000)] }
    stoker := { Stoker.reset with bind := [(1024 + 7, 9)], sems := [(9, 5)] } }

/-- Accesses that perform, that are misaligned, and that park; a copy of four bytes; a flip of a slot. -/
theorem witness_StokerMemoryWords :
    served.atLane 30 ∧ 0x101 % 4 ≠ 0 ∧ served.laneTr 30 .w 0x100 8 = .ok [(0x100, 8)] ∧ served.laneTr 30 .rw 0x108 8 = .ok [(0x108, 8)] ∧
    (served.writeHome { rel := true } [(0x100, 8)] 7).2 = true ∧ served.laneTr 30 .r 0x100 4 = .ok [(0x100, 4)] ∧ served.readHome [(0x100, 4)] = .ok 0x1234 ∧
    ring.atLane 0 ∧ ring.laneTr 0 .r 0x100 4 = .park 0x100 ∧ 2 ^ 20 < (0x200000 : DWord).toNat ∧
    (let b := min 4 ((0 / 4096 + 1) * 4096); b = 0 + 4 ∧ (served.lane 30).prog = 0) ∧ served.copyStop 30 0x200 0x100 0 4 = none ∧
    (ring.copyStop 0 0x200 0x100 0 4).isSome = true ∧ served.readHome [(0x100, 4)] = .ok 0x1234 ∧
    ({ served with mem := served.mem.mark 8 } : State).readHome [(0x100, 4)] = .poison ∧ served.laneTr 30 .w 0x200 4 = .ok [(0x200, 4)] ∧
    (served.writeHome {} [(0x200, 4)] 0x1234).2 = true ∧ served.readHome [(0x108, 8)] = .ok 0 ∧ bits 0 0 4 ≠ 1 ∧
    ({ served with mem := served.mem.write 0x108 8 1 } : State).readHome [(0x108, 8)] = .ok 1 ∧
    (served.writeHome { rel := true, present := true } [(0x108, 8)] (9 * 2 ^ 32 + 2)).2 = true := by
  unfold State.atLane; decide +kernel

/-- A chunk of eight bytes, from 0x100 to 0x200; and lengths that R388 does not admit. -/
theorem witness_StokerMemoryWords_chunk :
    ((served.lane 30).prog = 0 ∧ served.copyStop 30 0x200 0x100 0 8 = none ∧ 6 % 4 ≠ 0 ∧ 2 ^ 20 < 2 ^ 20 + 4 ∧
      (∀ a ∈ [0x100, 0x104, 0x200, 0x204], served.isHomed a = true ∧ served.isHomed (a + 3) = true ∧ served.isFree a = false ∧ served.isFree (a + 3) = false ∧
        served.mem.poisoned a 4 = false ∧ served.stateWord a 4 = none)) ∧
    ∀ t : State, t = { served with mem := t.mem, hearth := t.hearth } → ∀ e ∈ [0, 1],
      t.laneTr 30 .r (0x100 + 4 * e) 4 = .ok [(0x100 + 4 * e, 4)] ∧ t.laneTr 30 .w (0x200 + 4 * e) 4 = .ok [(0x200 + 4 * e, 4)] :=
  ⟨by decide +kernel, fun _ _ => by simp [State.laneTr, State.paRegion, Machine.firmware]⟩

/-- A launch that is accepted, refused and has no room; fences, waits and signals that hold and that do not. -/
theorem witness_StokerControlWords :
    served.atLane 30 ∧ served.laneCtx 30 = 0 ∧ (17 : BitVec 11).toNat < 536 ∧ (sigOf 0x10402).isSome = true ∧
    served.laneTr 30 .r 0x400 256 = .ok [(0x400, 256)] ∧ served.readHome [(0x400, 256)] = .ok aRecord ∧ served.launchBad 0 aRecord = none ∧
    served.launchBad 0 (aRecord + 1) = some 0 ∧ served.freeLaunch = some 0 ∧
    (∀ e ∈ served.launches, e.2.queue ≠ some 8222) ∧ (∃ e ∈ [(0, { tinyLaunch with queue := some 8222 })], e.2.queue = some 8222) ∧
    (let a := served.spillAt 0 1
     served.bound 0 1 = none ∧ served.semRead 0 1 = .ok 0 ∧ served.homeRead a 8 = .ok 0 ∧ served.isHomed a = true ∧ served.isFree a = false ∧
     served.isFree (a + 7) = false ∧ served.stateWord a 8 = none ∧ served.stoker.watch = []) ∧
    (let s : State := { served with mem := served.mem.mark (served.spillAt 0 1 / 32) }
     s.homeRead (s.spillAt 0 1) 8 = .poison ∧ s.semRead 0 1 = .error (7, s.spillAt 0 1)) ∧
    (let s : State := { served with sup := { served.sup with semspill := [(0, 2 ^ 49)] } }
     s.homeRead (s.spillAt 0 1) 8 = .refused) ∧ (0 : DWord).toNat ≤ served.tick.toNat ∧ ¬ (1 : DWord).toNat ≤ served.tick.toNat ∧ served.bound 1 7 = some 9 := by
  unfold State.atLane; decide +kernel

/-- Queue 5 DISABLED, with a sound descriptor at 0x500, and FAULTED. -/
def queued (st : Nat) : State :=
  { served with mem := (((served.mem.write 0x500 8 st).write 0x508 8 0x2000).write 0x510 1 10).write 0x520 8 0 }

theorem witness_StokerSupervisorWords :
    ring.atLane 0 ∧ served.atLane 30 ∧
    (swState ((queued 0).statew 5) = 0 ∧ (queued 0).descBad 5 = false ∧ bits ((queued 0).statew 5) 17 7 = 0 ∧ bits ((queued 0).statew 5) 4 12 = 0 ∧ (queued 0).laneOf 5 = none) ∧
    (∀ s ∈ [queued 7, queued 15, queued (2 ^ 17), queued 0x10],
      7 ≤ swState (s.statew 5) ∨ swState (s.statew 5) = 0 ∧ (bits (s.statew 5) 17 7 ≠ 0 ∨ bits (s.statew 5) 4 12 ≠ 0)) ∧
    (swState (served.statew 5) = 0 ∧ served.descBad 5 = true) ∧ swState ((queued 6).statew 5) = 6 ∧ ring.laneOf 5 = some 0 ∧
    (served.lanesOf 1 = [] ∧ served.cores = [] ∧ ring.lanesOf 0 = [0]) ∧ served.stoker.waits = [] ∧ (∀ e ∈ served.launches, e.2.broken = false) ∧
    ((served.setRun 1 false).preemptAll 1).saving = [] ∧ supAssigned 0x0220 = true ∧ supAssigned 0xFFFF = false ∧
    (0x1000 : DWord).toNat % 4096 = 0 ∧ 1024 < (1023 : BitVec 10).toNat + 2 ∧ served.bound 1 7 ≠ none ∧ served.bound 1 8 = none ∧
    (∀ e ∈ served.stoker.bind, ¬ ((16 : Nat) ≤ e.2 ∧ e.2 < 16 + 2)) ∧ served.homeRead (served.spillAt 1 8) 16 = .ok 0 ∧
    (served.paRegion (served.spillAt 1 8)).isSome = true := by
  unfold State.atLane; decide +kernel

theorem witness_AQueueFaultIsRecorded :
    (ring.lane 0).queue = some 5 ∧ fIllcmd < 256 ∧ ring.slotSets = [] ∧ (∀ k < 256, ring.isHomed (ring.qAddr 5 k) = true ∧ ring.isFree (ring.qAddr 5 k) = false) ∧
    ring.qVector 5 < 536 ∧ (let s : State := { ring with mem := ring.mem.write (ring.qAddr 5 0x14) 2 536 }; s.qCtx 5 = 0 ∧ 536 ≤ s.qVector 5) := by
  decide +kernel

/-! ### Line cores -/

/-- Line core 0 with part 0 of head 0's band 0, whose slot has its planes at 0x100, and a translation of page 0. -/
def lineCore : LineCore := { LineCore.reset with band := some { head := 0, band := 0, part := 0 }, running := true, utlb := [page 0 0] }
def aBand : Band :=
  { n := 0, decision := .undecided, slot := some 0, pinned := true, dx := 0, dy := 0, pw := 0, parts := [{ core := 0, start := 0, cols := 0, first := 0, ready := false }]
    hdr := some { base := 0x100, seq := 0, width := 1, height := 1, pitch := 4, cplane := 0, dplane := 0, mplane := 0, rtick := 0 } }
def lined (k : LineCore) : State :=
  { State.reset with
    flue := { Flue.reset with lines := [(0, k)] }, damper := { heads := [(0, { Head.reset with bands := [aBand] })], retire := [] }
    mem := { cells := [], poison := [] } }

theorem witness_SlotIntegerOps : State.reset.cur.line < 64 := by decide
theorem witness_SlotVectorFloatOps : State.reset.cur.line < 64 ∧ (f32.decode 0x7FC00000).isNan = true ∧ f32.decode 0x7F800000 = .inf false ∧
    f32.decode 0xFF800000 = .inf true ∧ f32.decode 0x3F800000 = .fin false 0x800000 (-23) ∧ f32.decode 0xBF800000 = .fin true 0x800000 (-23) ∧
    f32.decode 0 = .fin false 0 (-149) ∧ f32.decode 0x80000000 = .fin true 0 (-149) := by decide +kernel

/-- Loads with a w register that is free, in use, and full; with a page there and missing; of good and of poisoned words. -/
theorem witness_SlotMemoryOps :
    (lined lineCore).cur.line < 64 ∧ ((lined lineCore).line 0) = lineCore ∧ (lineCore.wr 0).st = .empty ∧ ((lined lineCore).bandSlot lineCore).isSome = true ∧
    (lined lineCore).homeRead (0x100 + 0 + clampTo 1 (0 : Int) * 4 + 4 * clampTo 1 0) 4 = .ok 0 ∧
    -- the same words with a marker
    (let s : State := { lined lineCore with mem := { cells := [], poison := [0, 8] } }
     s.bandSlot lineCore = (lined lineCore).bandSlot lineCore ∧ s.homeRead 0x100 4 = .poison ∧ s.homeRead 0 4 = .poison ∧ s.ldgMissing lineCore 0 0 = []) ∧
    (lined lineCore).ldgMissing lineCore 0 0 = [] ∧ (lined LineCore.reset).ldgMissing LineCore.reset 0 0 ≠ [] ∧ (lined lineCore).homeRead 0 4 = .ok 0 ∧
    (({ lineCore with w := [(0, { st := .full, data := [] })] } : LineCore).wr 0).st = .full ∧
    (({ lineCore with w := [(0, { st := .pending, data := [] })] } : LineCore).wr 0).st = .pending := by decide +kernel

/-- A band that is decided, one that is not with all its other parts ready, and one with a part that is not; another core of the band that runs. -/
theorem witness_SlotControlOps :
    (lined lineCore).cur.line < 64 ∧ lineCore.band = some { head := 0, band := 0, part := 0 } ∧ LineCore.reset.band = none ∧
    ((lined lineCore).head 0).band? 0 = some aBand ∧ aBand.decision = .undecided ∧ Decision.ready ≠ .undecided ∧
    (∀ p ∈ aBand.parts.mapIdx fun i p => if i = 0 then { p with ready := true } else p, p.ready = true) ∧
    (∃ p ∈ aBand.parts.mapIdx fun i p => if i = 1 then { p with ready := true } else p, p.ready = false) ∧
    ((lined lineCore).line 0).running = true ∧ some 0 ≠ (none : Option Nat) := by decide +kernel

/-- Two results on s2, one due now and one behind it, and one on f3. -/
theorem witness_ResultsLandOnTime :
    let p : Pending := { due := 0, issue := 0, slot := 0, dest := .s 2, vals := [(0, 7)] }
    let q : Pending := { due := 3, issue := 0, slot := 1, dest := .s 2, vals := [(0, 8)] }
    let f : Pending := { due := 0, issue := 0, slot := 2, dest := .f 3, vals := lanes64 fun _ => 1 }
    let k : LineCore := { LineCore.reset with pend := [p, q, f] }
    (∀ q ∈ k.pend, ∀ x ∈ [q.dest], x = .f 3 → ∀ e ∈ q.vals, e.1 < 64) ∧ k.act < q.due ∧ q ∈ k.pend ∧ q ∈ k.land.pend ∧
    (∀ q ∈ k.pend, q.due ≤ k.act → q.dest ≠ .s 4) ∧ (∀ q ∈ k.pend, q.due ≤ k.act → q.dest ≠ .f 5) ∧
    k.pend = [] ++ [p] ++ [q, f] ∧ p.due ≤ k.act ∧ (∀ x ∈ [q, f], x.due ≤ k.act → x.dest ≠ .s 2) ∧ k.pend = [p, q] ++ [f] ++ [] ∧ f.due ≤ k.act := by decide +kernel

/-! ### Events -/

/-- A state whose cursor holds an event's operands. -/
def at_ (s : State) (a : EventArg) : State := { s with cur := { s.cur with arg := a } }

/-- The fragment of `frag` asleep until `n`; and waiting in a waitv. -/
def sleeping (n : Nat) : State := fragOf tinyLaunch { groupOf (thread []) with nodes := [{ leafNode 1 0 none none false with id := 0, st := .asleep n }], eligibleFor := 960 } []
def waitWord : BitVec 128 := (encodeCast (.waitv .ne (glob 6 8 2 4 0))).getD 0
def inWaitv : State := memory.setGroup 0 0 { groupOf (thread [(2, 0x100), (4, 7)]) with kregs := [(2, 0x600)], nodes := [{ leafNode 1 0 none none false with id := 0, st := .waitv waitWord 1 [] }] }

/-- A core that is due and one that is not; a full count and the end of a window; a core with a group and one without; owed, asleep and waiting fragments. -/
theorem witness_CoreEvents :
    (let s := frag (thread [])
     s.coreOn 0 = true ∧ (s.core 0).gated = false ∧ (s.core 0).nextCycle ≤ s.tick.toNat ∧ ¬ ((5 : Nat) ≤ s.tick.toNat) ∧ (s.core 0).groups ≠ [] ∧ s.box.stage = 4) ∧
    ((State.reset.core 0).groups = [] ∧ (State.reset.core 0).gated = false ∧ State.reset.box.stage ≠ 4) ∧
    (let s := sleeping 0
     (s.group? 0 0).map (·.eligibleFor) = some 960 ∧ (s.group? 0 0).bind (·.anyNode? 0) = some { leafNode 1 0 none none false with id := 0, st := .asleep 0 }) ∧
    (let s := inWaitv
     (s.group? 0 0).bind (·.anyNode? 0) = some { leafNode 1 0 none none false with id := 0, st := .waitv waitWord 1 [] } ∧
     decodeCast waitWord = some (.waitv .ne (glob 6 8 2 4 0)) ∧ (s.launch? 0).isSome = true ∧
     ((viewOf s).waitRound (glob 6 8 2 4 0) .ne s.settleReds ((viewOf s).g.lanes 1)).2 = ([(0, 0)], [], [])) := by decide +kernel

theorem witness_PowerEvents :
    (at_ .reset (.at 3 100 200)).cur.arg = .at 3 100 200 ∧ (at_ .reset (.thermal 31 1600)).cur.arg = .thermal 31 1600 ∧ 31 < 96 ∧ 96 ≤ 96 ∧
    -- column 31 comes to 100 °C, stack 40 to 106 °C, device 90 to 115 °C
    (31 < 32 ∧ (tget 0#16 State.reset.box.therm 31).toNat ≤ 16 * 95 ∧ 16 * 95 < (1600#16).toNat) ∧
    ((tget 0#16 State.reset.box.therm 40).toNat ≤ 16 * 105 ∧ 16 * 105 < (1696#16).toNat) ∧ 16 * 115 ≤ (1840#16).toNat ∧ State.reset.box.off = false ∧ ({ Firebox.reset with off := true } : Firebox).off = true := by decide +kernel

/-- Launch 0 of context 0, which is valid and runs on flask 0, with a block to place. -/
def placing : State :=
  { State.reset with
    launches := [(0, { tinyLaunch with blocks := [], nextBlock := 0 })], box := { Firebox.reset with stage := 4 }, sup := { Sup.reset with ctxctl := [(0, 0x0103)] } }
/-- The same, 2^20 ticks on. -/
def lateBlock : State := { placing with tick := 0x100000 }
/-- A fragment that waits for a batch while its launch has a block that no flask admits. -/
def swapping : State :=
  let g : Group := { groupOf (thread []) with nodes := [{ leafNode 1 0 none none false with id := 0, st := .batch .cruc 1 }] }
  { fragOf { tinyLaunch with rec_ := { tinyRec with units := 2 } } g [] with sup := { Sup.reset with ctxctl := [(0, 3)] } }

/-- A thread whose save area and fault record have translations, to be saved. -/
def saved0 : Launch := { mappedLaunch with rec_ := { mappedLaunch.rec_ with savebase := 0x10000, faultrec := 0x400, win := 16 } }
def toSave : State :=
  let s := fragOf saved0 { groupOf (thread []) with win := 16 } [page 0 0, page 0x10000 0x4000, page 0x400000010000 0x5000, page 0x800000010000 0x6000]
  { s with saving := [{ core := 0, launch := 0, swap := false }] }
/-- A saved block whose save area may not be read, so that its launch ends with a fault record when it is to return. -/
def returning : State :=
  let l : Launch := { saved0 with blocks := saved0.blocks.map fun e => (e.1, { e.2 with place := .saved }) }
  { placing with launches := [(0, l)], flasks := [(0, { Flask.reset with tlb := [{ page 0x10000 0x4000 with r := false }] })] }
def aFault : FaultEntry :=
  { launch := 0, cause := 4, double := false, engine := false, core := 0, batch := 0, thread := 0, pc := 0, detail := 0x123, counted := some 0 }

theorem witness_LaunchEvents :
    (let l : Launch := { tinyLaunch with blocks := [], nextBlock := 0 }
     placing.launchOrder = [] ++ (0, l) :: [] ∧ placing.mayPlace l 0 = true ∧ placing.notHeldUp 0 0 l = true ∧ (placing.placeNext 0 0 l).isSome = true ∧
     placing.mayPlace l 1 = false ∧ (0, 0) ∉ (lateBlock.flask 0).blockWait ∧ lateBlock.mayPlace l 0 = true ∧ lateBlock.launchOrder = [] ++ (0, l) :: [] ∧
     lateBlock.overdue 0 = [(0, 0)] ∧ (0, 0) ∈ lateBlock.waits l 0 ∧ (placing.resumeFirst 0 (placing.resumable 0)).1 = false) ∧ placing.resumable 0 = [] ∧
    (returning.resumeFirst 0 (returning.resumable 0)).1 = true ∧ returning.resumable 0 ≠ [] ∧
    swapping.swapDue 0 = true ∧ placing.swapDue 0 = false ∧ tinyLaunch.watchdog < 2 ^ 34 ∧
    ({ tinyLaunch with nextBlock := 0, watchdog := 2 ^ 34 } : Launch).missing = true ∧ tinyLaunch.missing = false ∧
    ({ placing with sup := { placing.sup with ctxctl := [(0, 0x0103)] } } : State).ctxRun 0 = true ∧ State.reset.ctxRun 0 = false ∧
    ((swapping.core 0).groups.map fun e => e.2.remnant) = [false] ∧ swapping.partsOn 0 0 ≠ [] ∧
    (frag (thread [])).launchOver 0 = false ∧
    ({ State.reset with launches := [(0, { tinyLaunch with blocks := [] })] } : State).launchOver 0 = true ∧
    (let s : State := { toSave with faultQ := [aFault] }
     (s.launch? aFault.launch).isSome = true ∧ s.trRange 0 0 [] .w ((saved0.rec_.faultrec.toNat + 0x40 + 32 * 0) % 2 ^ 64) 32 = .ok [(0x440, 32)] ∧
     s.isHomed 0x440 = true ∧ s.isFree 0x440 = false ∧ s.slotSets = []) := by decide +kernel

theorem witness_LaunchEvents_save :
    let s1 := (toSave.partsOn 0 0 none).foldl (fun s e => (s.takeOwed 0 e.1 true).runToBoundary 0 e.1 2048) toSave.settleReds
    toSave.saving.find? (fun q => q.core == 0 && q.launch == 0) = some { core := 0, launch := 0, swap := false } ∧ (s1.partsOn 0 0 none).length = 1 ∧
    (∀ e ∈ toSave.partsOn 0 0 none, ∀ x ∈ e.2.threads, x.2.alive = true ∧ (e.2.seat x.1 x.2).isSome = true) ∧
    ∀ w ∈ s1.saveWrites 0 saved0.rec_ (s1.partsOn 0 0 none) (s1.padsOn 0 0 none), ((fun r => match r with | RangeTr.ok _ => true | _ => false) (s1.trRange 0 0 [] .w w.va w.n)) = true := by
  decide +kernel

theorem witness_LaunchEvents_resume : returning.resumable 0 = (0, 0) :: [] ∧
    (match returning.launch? 0, returning.block? 0 0 with
     | some l, some b => (match returning.resumeBlock 0 0 0 l b with | .done _ => true | _ => false)
     | _, _ => false) = true := by decide +kernel

/-- A page table at 0x10000 whose entry 0 leads to itself, so that page 0x5000 is a leaf, page 0x6000 is invalid and page 0 is malformed. -/
def pageTable : State :=
  let m : Memory := { cells := [], poison := [] }
  { State.reset with mem := (m.write 0x10000 8 0x10001).write 0x10028 8 0x700F, sup := { Sup.reset with ctxroot := [(0, 0x10001)] } }
def missing (page : Nat) (p : MergePhase) : MergeEntry :=
  { ctx := 0, page := page, kind := 1, source := 0, reqs := [.frag 0 0 0], merges := 1, tick := 0, phase := p, order := 0 }
def missed (page : Nat) (p : MergePhase) : State := { pageTable with flasks := [(0, { Flask.reset with merge := [(3, missing page p)] })] }
def aMiss : MissReq := { ctx := 0, page := 0x5000, kind := 1, source := 0, who := .frag 0 0 0, tick := 0 }
def aFb : FbEntry := { va := 0x5000, ctx := 0, kind := 1, source := 0, unit_ := 0, merges := 1, tick := 0, tag := 3 }

/-- A merge table of 4,096 entries for page 0x6000. -/
def fullTable (ks : List Nat) : Table MergeEntry := ks.map fun i => (i, missing 0x6000 .queued)
theorem fullTable_find (ks : List Nat) (i : Nat) (h : i ∈ ks) : (tfind (fullTable ks) i).isSome = true := by
  induction ks with
  | nil => simp at h
  | cons k ks ih =>
    by_cases e : k = i
    · simp [fullTable, tfind, e]
    · simp only [fullTable, List.map_cons, tfind, e, if_false]
      exact ih (by simpa [Ne.symm e] using h)

theorem witness_TranslationEvents_full : tfree (fullTable (List.range 4096)) 4096 = none ∧ (∀ e ∈ fullTable (List.range 4096), e.2.ctx ≠ 0 ∨ e.2.page ≠ 0x5000) ∧
    (tfree ([] : Table MergeEntry) 4096).isSome = true := by
  refine ⟨?_, ?_, ?_⟩
  · simp only [tfree, List.find?_eq_none, List.mem_range]
    intro i hi
    have := fullTable_find (List.range 4096) i (by simpa using hi)
    simpa [Option.isNone_iff_eq_none, Option.isSome_iff_ne_none] using this
  · intro e he
    obtain ⟨i, -, rfl⟩ := List.mem_map.1 he
    simp [missing]
  · simp only [tfree, List.find?_isSome]
    exact ⟨0, by simp, rfl⟩

theorem witness_TranslationEvents :
    (∃ q ∈ [aMiss], (missing 0x5000 .queued).ctx = q.ctx ∧ (missing 0x5000 .queued).page = q.page) ∧
    (∀ p ∈ [(0x5000, MergePhase.walking), (0x6000, .walking), (0, .walking), (0x5000, .queued)],
      let s := missed p.1 p.2
      tsorted (s.flask 0).merge = true ∧ tfind (s.flask 0).merge 3 = some (missing p.1 p.2)) ∧
    (let te : TlbEntry := { ctx := 0, va := 0x5000, size := 4096, pa := 0x7000, r := true, w := true, x := false }
     ((missed 0x5000 .walking).flaskWalk 0 0 0x5000).2 = .leaf te ∧ te ∉ ((missed 0x5000 .walking).flask 0).tlb) ∧
    ((missed 0x6000 .walking).flaskWalk 0 0 0x6000).2 = .invalid ∧ ((missed 0 .walking).flaskWalk 0 0 0).2 = .malformed ∧
    (let s : State := { State.reset with hearth := { Hearth.reset with fbQ := [aFb] } }
     s.sup.fbput - s.sup.fbget ≠ 16384 ∧ (16384 : Word) - 0 = 16384 ∧ s.isHomed (s.sup.fbbase.toNat + 32 * 0) = true ∧ s.isFree 0 = false ∧ s.stateWord 0 32 = none) ∧
    State.reset.pendingOf 3 = none ∧ (missed 0x6000 .pending).pendingOf 3 = some (missing 0x6000 .pending) ∧
    pageTable.walk pageTable.flueCtx 0x5000 0 = .leaf { ctx := 0, va := 0x5000, size := 4096, pa := 0x7000, r := true, w := true, x := false } ∧
    pageTable.walk pageTable.flueCtx 0x6000 0 = .invalid ∧ pageTable.walk pageTable.flueCtx 0 0 = .malformed := by decide +kernel

/-- A sector in the L1 of core 0 with dirty bytes. -/
def aSector : L1Sector := { have_ := BitVec.allOnes 32, dirty := 3, data := 0x1234, filled := 0, wrote := 1 }
def aRed (ctx pa core prio : Nat) : RedReq :=
  { ctx := ctx, pa := pa, n := 4, op := .add, ty := 6, val := 7, srcs := [{ launch := 0, thread := 0, core := core, pc := 0, addr := 0, val := 7 }], since := 0, prio := prio, evict := 0 }
/-- Two requests in the routers, two of different classes at an arbitration point, and a free-frame command that has not performed. -/
def network : State :=
  { memory with
    hearth := { Hearth.reset with
      routers := [aRed 0 0x100 0 3, aRed 0 0x100 0 3, aRed 0 0x200 0 3], requests := [aRed 0 0x100 0 3, aRed 0 0x104 1 2], freeOp := some (1, 9)
      l2 := [{ slice := 3, set_ := 0, way := 2, line := 0, valid := 1, dirty := 0, locked := true, evict := 0, used := 0 }] } }

theorem witness_MemorySystemEvents :
    (let s := (frag (thread [])).setCore 0 { (frag (thread [])).core 0 with l1 := [(8, aSector)] }
     tfind (s.core 0).l1 8 = some aSector ∧ s.isFree (8 * 32) = false ∧ aSector.dirty.getLsbD (0x101 % 32) = true ∧ s.isFree 0x101 = false ∧
     aSector.have_ &&& aSector.dirty ≠ 0 ∧ { aSector with dirty := 0 }.have_ &&& { aSector with dirty := 0 }.dirty = 0) ∧
    (network.hearth.routers[0]? = some (aRed 0 0x100 0 3) ∧ network.hearth.routers[1]? = some (aRed 0 0x100 0 3) ∧
     (∀ y ∈ network.hearth.routers.take 0, (aRed 0 0x100 0 3).meets y = false) ∧ (∃ y ∈ network.hearth.routers.take 1, (aRed 0 0x100 0 3).meets y = true)) ∧
    (network.hearth.requests[0]? = some (aRed 0 0x100 0 3) ∧ network.hearth.requests[1]? = some (aRed 0 0x104 1 2) ∧ (0x100 / 128 = 0x104 / 128) ∧ (∃ y ∈ network.hearth.requests, y.prio < 3) ∧
     (∀ y ∈ network.hearth.requests, 2 ≤ y.prio) ∧ (∀ y ∈ network.hearth.requests.take 1, y.prio ≠ 2) ∧ network.homeRead 0x104 4 = .ok 0 ∧
     network.isHomed 0x104 = true ∧ network.isFree 0x104 = false ∧ network.stateWord 0x104 4 = none) ∧
    network.hearth.freeOp = some (1, 9) ∧ network.hearth.freeOp ≠ some (2, 9) ∧ (some (3, 9) : Option (Nat × Nat)) = some (3, 9) ∧
    (∃ r ∈ network.hearth.routers ++ network.hearth.requests, r.pa / 0x200000 = 0) ∧ (∀ r ∈ network.hearth.routers ++ network.hearth.requests, r.pa / 0x200000 ≠ 9) ∧
    ¬ (0x6000000000 ≤ bits (0x200001 : DWord).toNat 21 31 * 2 ^ 21) ∧ 0x6000000000 ≤ bits (0x6000000000 : DWord).toNat 21 31 * 2 ^ 21 ∧
    (∃ x ∈ network.hearth.l2, x.slice = 3 ∧ x.way = 2 ∧ x.locked = true) ∧ (network.waygate 3).getLsbD 2 = false ∧
    (let s : State := { network with sup := { network.sup with waygate := [(3, 4)], hgate := 2 } }
     (s.waygate 3).getLsbD 2 = true ∧ (s.waygate 3).getLsbD 34 = false ∧ s.sup.hgate.getLsbD 1 = true ∧ s.sup.hgskip.getLsbD 1 = false ∧ s.sup.hgate.getLsbD 0 = false ∧
     s.hearth.mantelWays ≤ 1 ∧ ({ s.hearth with mantelWays := 2 } : Hearth).mantelWays > 1) := by decide +kernel

/-- A unit with eight errors counted, so that the next, within 2^33 ticks of the first, makes nine. -/
def eightErrors (u : ErrUnit) : State := { State.reset with tick := 8, hearth := { Hearth.reset with errUnits := [(u, (List.range 8).map fun i => BitVec.ofNat 64 i)] } }

theorem witness_ErrorEvents :
    State.reset.sup.errput - State.reset.sup.errget ≠ 1024 ∧ (1024 : Word) - 0 = 1024 ∧
    (∀ u ∈ [ErrUnit.quad 0 1, .sramRow 0 1, .accRow 0 1, .gmemRow 0 1, .linebufRow 0 1],
      let s := eightErrors u
      let old := ((s.hearth.errUnits.find? fun e => e.1 == u).map (·.2)).getD [] ++ [s.tick]
      let ticks := old.drop (old.length - 9)
      ticks.length = 9 ∧ s.tick.toNat - (ticks.headD 0).toNat < 2 ^ 33) ∧
    (((State.reset.hearth.errUnits.find? fun e => e.1 == ErrUnit.quad 0 1).map (·.2)).getD [] ++ [State.reset.tick]).length ≠ 9 ∧
    ((frag (thread [])).group? 0 0).isSome = true ∧ 0x400 / 32 ∉ sectorsOf (State.reset.sup.errbase.toNat + 32 * 0) 32 ∧ (memory.window? 0 0 0).isSome = true ∧
    ((frag (thread [])).group? 0 0).map (fun g => (tfind g.threads 0).isSome) = some true ∧ State.reset.lineBlank 0 = true ∧
    (State.reset.core 0).sramSpares ≠ 0 ∧ (State.reset.core 0).accSpares ≠ 0 := by decide +kernel

/-- A group with a command at the head of its queue, and with a complete one; its closed batch 0 has no command. -/
def commanded (done : Bool) : State :=
  let w : CrucCmd := { aCmd (.azero (word3 0 0 0 0 0 0)) with done := done }
  let s := fragOf tinyLaunch { clawed with cruc := { clawed.cruc with queue := [w], closed := [0] }, nodes := [{ leafNode 1 0 none none false with id := 0, st := .batch .cruc 0 }] } []
  { s with flasks := [(0, { Flask.reset with allow := 1000000 })] }
/-- A core on which slot 0 waits for tile 1, for itself or for the group of the partner core. -/
def claimant (for_ : Option Nat) : State :=
  let s := fragOf tinyLaunch { groupOf (thread []) with nodes := [{ leafNode 1 0 none none false with id := 0, st := .claim }] } []
  s.setCore 0 { s.core 0 with claims := [{ slot := 0, node := 0, tiles := 2, masks := 0, forCore := for_, granted := false }] }

theorem witness_CrucibleEvents :
    State.reset.crucPick 0 = none ∧ (commanded false).crucPick 0 = some (0, { core := 0, slot := 0, half := 0 }) ∧
    ((commanded false).group? 0 0).map (fun g => g.cruc.queue.length) = some 1 ∧ State.reset.turnOver 0 = false ∧
    ({ State.reset with sup := { Sup.reset with timeslot := [(0, 0x180)] } } : State).turnOver 0 = true ∧ (State.reset.core 0).waiting = [] ∧
    (((claimant none).core 0).waiting = [{ slot := 0, node := 0, tiles := 2, masks := 0, forCore := none, granted := false }] ∧ (claimant none).claimFree 0 2 0 = true ∧
     ((claimant none).setCore 0 { (claimant none).core 0 with tileOwner := [(1, 5)] }).claimFree 0 2 0 = false) ∧
    (((claimant (some 1)).core (partner 1)).waiting = [{ slot := 0, node := 0, tiles := 2, masks := 0, forCore := some 1, granted := false }] ∧
     (claimant (some 1)).claimFree (partner 1) 2 0 = true) ∧
    ((commanded true).group? 0 0).map (fun g => g.cruc.queue.map fun x => (x.done, x.seq)) = some [(true, 0)] ∧
    ((commanded false).group? 0 0).bind ((commanded false).batchReady · .cruc) = some 0 ∧ State.reset.batchReady clawed .cruc = none ∧
    (∀ y ∈ (commanded false).cores, ∀ x ∈ y.2.groups, x.2.inherits .cruc 0 (y.1 == 0) = false) ∧ (0 : BitVec 16) ∉ ([0] : List (BitVec 16)).drop 1 ∧
    (bits 0x01000000 24 8 ≠ 0 ∧ bits 0x180 24 8 = 0 ∧ bits 0x180 6 1 = 0 ∧ ¬ (bits 0x180 8 16 = 0 ∧ bits 0x180 7 1 = 1)) := by decide +kernel

/-- A command of a Ladle queue with a descriptor of `ladling`. -/
def lCmd (i : Instr) (k : Nat) (started : Bool) (prog : Nat) : LadleCmd :=
  { word := (encodeCast i).getD 0, pc := 0, batch := 1, desc := (viewOf ladling).g.kvec k 16, seq := 1, srcCore := 0, srcG := 0, started := started, begun := false,
    sent := false, sentIn := 0, prog := prog, bypass := false, parked := none, fatal := [], done := false, inherited := false }
def copying (x : LadleCmd) : State :=
  let s := fragOf mappedLaunch { groupOf (thread []) with ladle := { LadleState.start with queue := [x] } } [page 0 0]
  let m : Memory := { cells := [], poison := [] }
  { s with mem := m.write 0x400 256 aRecord, flasks := [(0, { Flask.reset with allow := 1000000 })], sup := { Sup.reset with ctxctl := [(0, 0x0103)] } }
def fullWindow : OrdWindow :=
  { ctx := 0, dst := 0x200, aux := 0, desc := (viewOf ladling).g.kvec 80 16, expect := 1, arrived := 1, fatal := []
    contribs := [{ core := 0, g := 0, seq := 1, launch := 0, batch := 1, pc := 0, values := [5] }] }

theorem witness_LadleEvents :
    (let x := lCmd (.lcopy { word with a := 16 }) 16 false 0
     State.reset.nextStart 0 = none ∧ ((copying x).nextStart 0).map (fun e => (e.1, e.2.2)) = some (0, x) ∧ State.reset.nextTransfer 0 = none) ∧
    (let x := lCmd (.lcopy { word with a := 16 }) 16 true 0
     ((copying x).nextTransfer 0).map (fun e => (e.1, e.2.2)) = some (0, x) ∧ x.kind.map (·.1) = some .copy ∧
     ∀ g ∈ (copying x).group? 0 0, x ∈ g.ladle.queue ∧
       (match (State.ladleRun 0 g x .copy (((copying x).setCore 0 { (copying x).core 0 with rrLadle := x.seq }).settleReds.charge 0 20) x.transfer).2.2 with | .ok _ => true | _ => false) = true) ∧
    (let x := lCmd (.lredOrd { word with a := 80 }) 80 true 1
     x.isKind .ord = true ∧ x.started = true ∧ x.sent = false ∧ x.done = false ∧ x.parked = none ∧ x.d.count ≤ x.prog ∧ (copying x).windowCan 0 x = true ∧
     (∀ g ∈ (copying x).group? 0 0, (copying x).stopping 0 g = false) ∧ (copying x).windowOf 0 x.dstName x.auxName = none ∧
     ∀ g ∈ (copying x).group? 0 0, (State.readAll 0 g x (copying x).settleReds (List.range x.d.count)).2 = ([0], .ok 0)) ∧
    (let s := copying (lCmd (.lredOrd { word with a := 80 }) 80 true 1)
     fullWindow.expect ≤ fullWindow.arrived ∧ fullWindow.contribs.foldl (fun acc x => insertContrib x acc) [] = fullWindow.contribs ∧ (descOf fullWindow.desc).count = 1 ∧
     s.translate 0 0 [] .rw (wrap 64 ((descOf fullWindow.desc).dstOf 0)) = .hit 0x200 ∧ s.isHomed 0x200 = true ∧ s.isFree 0x200 = false ∧
     s.stateWord 0x200 4 = none ∧ s.homeRead 0x200 4 = .ok 0 ∧ s.hearth.requests = [] ∧ s.hearth.routers = []) ∧
    (let x := lCmd (.lcont { word with a := 96 }) 96 false 0
     let s := copying x
     (∀ g ∈ s.group? 0 0, s.contDue 0 g = some x) ∧ (globLoc x.d.src 256).isSome = true ∧ s.trRange 0 0 [] .r x.d.src 256 = .ok [(0x400, 256)] ∧
     (s.settleReds.readParts 0 true [(0x400, 256)]).2 = .ok aRecord ∧
     (let s1 := (s.settleReds.readParts 0 true [(0x400, 256)]).1
      let s2 := s1.acquire 0 (s1.hearth.nextEpoch - 1)
      s2.launchBad 0 (withKarg aRecord x.desc) = none ∧ s2.waitingConts 0 < 64 ∧ s2.freeLaunch = some 1)) := by decide +kernel

/-- Requesters of page 0x5000. -/
def parkedAt : State := memory.setGroup 0 0 { groupOf (thread []) with nodes := [{ leafNode 1 0 none none false with id := 0, st := .parked [0x5000, 0x6000] }] }

theorem witness_TranslationEvents_wake :
    ((parkedAt.group? 0 0).bind (·.anyNode? 0)).map (·.st) = some (.parked [0x5000, 0x6000]) ∧
    ((inWaitv.group? 0 0).bind (·.anyNode? 0)).map (·.st) = some (.waitv waitWord 1 []) ∧
    ((copying (lCmd (.lcopy { word with a := 16 }) 16 true 0)).group? 0 0).isSome = true ∧ (toSave.launch? 0).isSome = true ∧
    tfind ({ Hearth.reset with windows := [(0, fullWindow)] } : Hearth).windows 0 = some fullWindow ∧ pageOf 0x5008 = 0x5000 ∧ globLoc 0x5008 1 ≠ none := by
  decide +kernel

/-- However many spare rows a line buffer has, a state has used them up; and where it has any, the state after reset has one left. -/
theorem witness_ErrorEvents_spares :
    (0 < Config.lineSpares 0 → State.reset.spareOf (128 + 0) < Config.lineSpares 0) ∧
    Config.lineSpares 0 ≤ ({ State.reset with hearth := { Hearth.reset with rowSpares := [(128, Config.lineSpares 0)] } } : State).spareOf (128 + 0) :=
  ⟨id, Nat.le_refl _⟩

/-- A continuation whose record is at an address, and what may stop its read: no such address, a page that may not be read, a marker. -/
def lcontOf (src : Nat) : LadleCmd :=
  { lCmd (.lcont { word with a := 96 }) 96 false 0 with desc := BitVec.ofNat 32 src :: BitVec.ofNat 32 (src / 2 ^ 32) :: List.replicate 14 0 }

theorem witness_LadleEvents_lcont :
    let due (s : State) (x : LadleCmd) : Bool := (s.group? 0 0).any fun g => s.contDue 0 g == some x
    (let x := lcontOf 0x01FFFFFC00000000
     due (copying x) x = true ∧ globLoc x.d.src 256 = none) ∧
    (let x := lcontOf 0x400
     let s := copying x
     let shut := s.setCore 0 { s.core 0 with utlb := [{ page 0 0 with r := false }] }
     let marked : State := { s with mem := s.mem.mark 32 }
     (globLoc x.d.src 256).isSome = true ∧ due shut x = true ∧ shut.trRange 0 0 x.fatal .r x.d.src 256 = .bad 0x400 ∧ due marked x = true ∧
     marked.trRange 0 0 x.fatal .r x.d.src 256 = .ok [(0x400, 256)] ∧ (marked.readParts 0 true [(0x400, 256)]).2 = .poison) := by decide +kernel

/-- Queue 5 with `put` words to take, in memory and in the list of its class; context 0 is valid and runs. -/
def candidate (put : Nat) : State :=
  let s := queued 2
  { s with mem := s.mem.write 0x504 4 put, stoker := { Stoker.reset with ready := [[5], [], [], []] } }
/-- Lanes 0-29 hold queues: lane 24 borrows for class 1. -/
def borrowed : State :=
  let k (l : Nat) : Nat × Lane := (l, { Lane.reset l with queue := some (100 + l) })
  let s := candidate 1
  { s with mem := s.mem.write (256 * 124 + 0x11) 1 1, stoker := { s.stoker with lanes := (List.range 30).map k } }

theorem witness_StokerEvents :
    ring.mapAll.lane 0 = ringLane ∧ (ring.lane 0).queue.isSome = true ∧ (ring.lane 0).cmd = none ∧ (ring.lane 0).mappedAt = ring.tick.toNat ∧
    (at_ ring (.at 1 0 0)).cur.arg = .at 1 0 0 ∧ ring.cur.arg = .none ∧
    (((candidate 1).lane 0).queue = none ∧ (candidate 1).takes 0 = some 5 ∧
     (swPut ((candidate 1).statew 5) + 2 ^ 32 - (candidate 1).qRead 5 0x18 4) % 2 ^ 32 ≤ (candidate 1).ringLen 5) ∧
    (let s : State := { laned { ringLane with waitSince := some 0 } with tick := 0x200000, mem := (candidate 1).mem, sup := served.sup, stoker :=
        { Stoker.reset with lanes := [(0, { ringLane with waitSince := some 0 })], ready := [[5], [], [], []] } }
     (s.lane 0).mappedAt + (2 ^ 20 - 2 ^ 16) ≤ s.tick.toNat ∧ (∃ d ∈ [0], laneClass 0 = some d ∧ s.cands d ≠ []) ∧ (∃ t ∈ (s.lane 0).waitSince, t + 2 ^ 16 ≤ s.tick.toNat)) ∧
    (borrowed.cands 0 ≠ [] ∧ (∀ m < 30, laneClass m = some 0 → (borrowed.lane m).queue ≠ none) ∧
     (borrowed.lane 24).queue = some 124 ∧ 0 < borrowed.qClass 124 ∧ borrowed.cands 1 = []) ∧
    (∀ q ∈ [100, 101], (borrowed.lane (q - 100)).queue = some q ∧ (borrowed.lane (q - 100)).inWait = false) ∧
    (let s := laned { ringLane with st := .waiting, cmd := some (0x5010000000000001, 1, 0, 0) }
     (s.lane 0).inWait = true ∧ swWake ((s.saveLane 0 5).statew 5) = false ∧
     ((s.saveLane 0 5).watchFor (s.qCtx 5) 5 (s.lane 0).waitInfo.1 (s.lane 0).waitInfo.2).isSome = true) ∧
    ring.partWord 0 = false ∧
    -- a queue that unmapped in a wait: its condition holds, or does not
    (let u := queued 3
     swState (u.statew 5) = 3 ∧ swWake (u.statew 5) = false ∧ u.watchFor (u.qCtx 5) 5 1 0 = none ∧ (u.watchFor (u.qCtx 5) 5 1 1).isSome = true ∧
     bits 1 12 1 = 0 ∧ u.semRead 0 (1 % 1024) = .ok 0 ∧ u.stoker.watch.length < 1024 ∧ waitHolds .ge 0 (BitVec.ofNat 64 1) = false ∧ waitHolds .ge 0 (BitVec.ofNat 64 0) = true ∧
     bits 4096 12 1 = 1 ∧ (u.watchFor 0 5 4096 7).isSome = true) ∧
    ((5 : Nat) < 8192 ∧ (queued 5).qRead 5 0x12 2 = 0 ∧ 0 ∉ (queued 5).box.inReset ∧ swState ((queued 5).statew 5) = 5 ∧ swState ((queued 2).statew 5) ≠ 5 ∧
      (queued 2).qRead 5 0x12 2 ≠ 1 ∧ 1023 < 1024) := by decide +kernel

/-- Queue 5 in lane 0, whose ring ends inside a launch of three words. -/
def cutShort : State :=
  { pageTable with
    mem := (((pageTable.mem.write 0x500 8 (3 + 11 * 2 ^ 32)).write 0x508 8 0x5000).write 0x510 1 10).write 0x7050 8 0x3021000000000000
    stoker := ring.stoker, cur := ring.cur }
/-- A wake of function 1 and a doorbell of function 2 that wait. -/
def behind : State :=
  { ring with posted := [(1, .event .wake (.value 1 5 0))], stoker := { ring.stoker with sigQ := [{ ctx := 2, sem := 3, op := .add, value := 1, door := true }] } }

theorem witness_StokerEvents_posted :
    (cutShort.partWord 0 = true ∧ (cutShort.lane 0).queue = some 5) ∧ ((laned { ringLane with late := true }).lane 0).late = true ∧
    behind.postedWaits 1 = true ∧ behind.postedWaits 2 = true ∧ behind.postedWaits 3 = false ∧ (at_ behind (.at 3 0 0)).cur.arg = .at 3 0 0 ∧
    (∃ e ∈ behind.posted, e.1 = 1) ∧ ¬ ∃ e ∈ behind.posted, e.1 = 2 := by decide +kernel

/-- A head whose set, mailbox, ring and frame word are in the Mantel and in memory. -/
def aHead (next : Nat) : Head :=
  { Head.reset with cfg := 0x10081, geom := 0x10000F0000, period := 0x400000, set := BitVec.ofNat 64 (0x10000000000 + 512 + 12), pose := 0x10000010000, ring := 0x100000, dmseq := 0x200000, nextBand := next }
/-- Head 4, at tick 1,000; one published slot, with a header, and line core 0 to serve it. -/
def heads (next : Nat) (x : Nat) : State :=
  let m : Memory := { cells := [], poison := [] }
  { State.reset with
    tick := 1000, box := { Firebox.reset with stage := 4 }, flue := { Flue.reset with ctl := 1, fcores := [(4, 1)] }, damper := { heads := [(4, aHead next)], retire := [] }
    mem := m.write 0x10000000000 64 (x + 2 ^ 64 + 2 ^ 80 + 2 ^ 104 + 2 ^ 136 + 2 ^ 168 + 2 ^ 200) }

/-- The published slot, a later one behind it, and a head that is enabled for both. -/
def twoSlots : State := { heads 1 2 with mem := (heads 1 2).mem.write 0x10000001000 8 (2 ^ 32 + 2) }

theorem witness_FlueAndDamperEvents :
    (((lined lineCore).line 0).wr 0).st ≠ .pending ∧ 8191 < 8192 ∧
    (let h := { aHead 0 with cfg := 0 }
     let s : State := { heads 1 2 with damper := { heads := [(4, h)], retire := [] } }
     h.enabled = false ∧ (aHead 0).enabled = true ∧ 4 < 20 ∧ ((0x10081 : DWord) &&& 0x1FFF1FF7 = 0x10081) ∧ bits (0x10081 : DWord).toNat 1 2 ≠ 3 ∧
     s.enableOk 4 { h with cfg := 0x10081 } = true ∧ s.enableOk 4 { h with cfg := 0x10071 } = false ∧ (0x10080 : DWord) = (aHead 0).cfg &&& ~~~1#64) ∧
    (let s := heads 1 2
     let h := s.head 4
     h.at_ h.line ≤ s.tick.toNat ∧ ¬ ((aHead 0).at_ 16 ≤ s.tick.toNat) ∧ h.line % h.vtotal < h.vactive ∧ 16 % h.vtotal = h.vactive ∧
     (∀ i < h.hactive, s.isHomed (0x100000 + 4 * i) = true ∧ s.isFree (0x100000 + 4 * i) = false ∧ s.stateWord (0x100000 + 4 * i) 4 = none) ∧
     s.mem.poisoned (0x10000000000 + 0x100) 4 = false ∧ s.isHomed (bits h.dmseq.toNat 3 49 * 8) = true ∧ s.stateWord (bits h.dmseq.toNat 3 49 * 8) 8 = none) ∧
    -- a physical head whose first band fell back on a slot, and whose band is ready
    (let p : Part := { core := 0, start := 0, cols := 2, first := 0, ready := true }
     let h := { aHead 1 with bands := [{ aBand with decision := .fell }] }
     h.enabled = true ∧ h.at_ h.line ≤ (1000 : DWord).toNat ∧ h.line % h.vtotal < h.vactive ∧
     h.band? (h.line / h.vtotal * h.vtotal + h.line % h.vtotal / h.bandLines * h.bandLines) = some { aBand with decision := .fell } ∧ aBand.hdr.isSome = true ∧
     0 < h.hactive ∧ ({ aBand with decision := .ready, parts := [p] } : Band).parts = [p] ∧ 1 < p.cols) ∧
    ((heads 0 2).head 4).bandStart 0 < ((heads 0 2).head 4).lead ∧
    (let s := heads 1 2
     let h := s.head 4
     17 = h.bandStart h.nextBand ∧ h.lead ≤ 17 ∧ h.at_ (17 - h.lead) ≤ s.tick.toNat ∧ h.band? 17 = none ∧ s.newestSlot h.set = some 0x10000000000 ∧
     ((s.pin 0x10000000000).slotHeader 0x10000000000).isSome = true ∧ h.partCount ≤ (s.idleLines 4 (h.bandLines * h.partWidth)).length ∧ h.partCount = 1) ∧
    (heads 1 1).newestSlot (aHead 1).set = none ∧
    (let s : State := { heads 1 2 with mem := (heads 1 2).mem.write 0x10000000008 1 0 }
     s.newestSlot (aHead 1).set = some 0x10000000000 ∧ (s.pin 0x10000000000).slotHeader 0x10000000000 = none) ∧
    (({ heads 1 2 with flue := { Flue.reset with ctl := 1 } } : State).idleLines 4 1024 = []) ∧
    bits 0x1600000000000A 56 8 ≤ 0x17 ∧ bits 0xFF00000000000000 56 8 > 0x3F ∧ 0x10000000000 ∈ twoSlots.retirable ∧ 0x10000000000 ∉ (heads 1 2).retirable ∧
    twoSlots.isFree 0x10000000000 = false := by decide +kernel

/-- A red of 7 on its way to a marked sector, or to the state word of an EMPTY slot. -/
def badRed (pa : Nat) : State :=
  { heads 1 0 with hearth := { Hearth.reset with requests := [aRed 0 pa 0 3] }, mem := { cells := [], poison := [8] } }

theorem witness_MemorySystemEvents_bad :
    (badRed 0x100).hearth.requests[0]? = some (aRed 0 0x100 0 3) ∧ (badRed 0x100).homeRead 0x100 4 = .poison ∧
    (badRed 0x10000000000).homeRead 0x10000000000 4 = .ok 0 ∧ ((badRed 0x10000000000).stateWord 0x10000000000 4).isSome = true ∧
    ∀ y ∈ (aRed 0 0x10000000000 0 3).srcs, (badRed 0x10000000000).homeWrite 0x10000000000 4 (atomVal (redAtom .add) 6 32 0 y.val.toNat) {} 0 = none := by
  decide +kernel

/-- A boot image of one page with a wrong magic number; and a loaded stage. -/
def staged (n : Nat) : State := { ring with box := { Firebox.reset with stage := n } }
/-- Function 1's window and queue. -/
def windowed : State := { pageTable with sup := { pageTable.sup with ctxroot := [(1, 0x10001)] } }

/-- The same, where the page of the window is that of an EMPTY slot. -/
def rejecting : State :=
  { windowed with mem := windowed.mem.write 0x10028 8 0x1000000000F, damper := { heads := [(4, aHead 0)], retire := [] } }

/-- (Whether an image verifies is open: the checks of a record behind the signature hold of a state only under that choice.) -/
theorem witness_FireboxEvents :
    State.reset.box.stage = 0 ∧ (staged 5).box.stage = 5 ∧ (staged 1).box.stage = 1 ∧ (staged 2).box.stage = 2 ∧ (staged 2).box.storeRead 0 4 ≠ 0x4B465731 ∧
    (staged 3).box.handing = false ∧ (∃ l < 30, ((staged 3).lane l).queue ≠ none) ∧ (∀ l < 30, (State.reset.lane l).queue = none) ∧ (frag (thread [])).saving = [] ∧
    (∀ b ∈ [{ Firebox.reset with stage := 4 }, { Firebox.reset with stage := 4, attCount := 1024 }, { Firebox.reset with stage := 4, fixedIndex := some 1 }],
      b.stage = 4 ∧ b.attgo = false ∧ ∀ j ∈ b.fixedIndex, j ≠ b.attidx.toNat % 2 ^ 15) ∧
    State.reset.slotSets = [] ∧ 2 ^ 51 + State.reset.box.outaddr.toNat % 2 ^ 51 + 5340 ≤ 2 ^ 52 ∧ 0 < 63 ∧ 63 ∉ State.reset.box.inReset ∧
    ring.qCtx 5 = 0 ∧ (∃ e ∈ (frag (thread [])).cores, ∃ x ∈ e.2.groups, x.2.ctx = 0 ∧ x.2.remnant = false) ∧
    windowed.windowTr 1 0x6000 4 .r = none ∧ windowed.windowTr 1 0x5000 4 .r = some [(0x7000, 4)] ∧ windowed.readHome [(0x7000, 4)] = .ok 0 ∧
    windowed.windowTr 1 0x5000 4 .w = some [(0x7000, 4)] ∧ ((windowed.windowTouch 1 0x5000 4 .w false).writeHome {} [(0x7000, 4)] 7).2 = true ∧ 1 ∉ windowed.box.inReset ∧
    2 ^ 36 < 2 ^ 36 - 4 + 8 ∧ windowed.windowTr 1 (2 ^ 36 - 4) 8 .r = none ∧ (State.reset.msixWord 0 0 1).getLsbD 32 = true ∧
    -- a reset of function 1 that may complete; one that must wait for queue 5, which is of context 0; and one of 100 ms
    (let s : State := { ring with box := { Firebox.reset with stage := 4, inReset := [1], resetAt := [(1, 0)] } }
     (∀ q ∈ s.saving, s.launch? q.launch = none) ∧ (∀ l < 30, ∀ q ∈ (s.lane l).queue, s.qCtx q ≠ 1) ∧ 1 ∈ s.box.inReset) ∧
    (∃ l < 30, ∃ q ∈ (ring.lane l).queue, ring.qCtx q = 0) ∧ 0 + 800000000 ≤ (800000000 : DWord).toNat := by decide +kernel

theorem witness_FireboxEvents_rejected :
    windowed.postedWaits 1 = false ∧ rejecting.windowTr 1 0x5000 4 .w = some [(0x10000000000, 4)] ∧
    ((rejecting.windowTouch 1 0x5000 4 .w false).writeHome {} [(0x10000000000, 4)] 7).2 = false := by decide +kernel

/-- The digest of "abc" (FIPS 180-4). -/
theorem test_sha256_abc : beNat (sha256 [0x61, 0x62, 0x63]) = 0xba7816bf8f01cfea414140de5dae2223b00361a396177a9cb410ff61f20015ad := by decide +kernel

/-- Peer 2 is up and admitted to the first GiB; core 0 is halted with a debugger's name of lane 0's cell 2. -/
def peered : State :=
  { (frag (thread [])).setCore 0 { (frag (thread [])).core 0 with halted := true } with
    box := { Firebox.reset with stage := 4, peer := [(2, 0x101)], ports := [(0, true)], ingress := [(2, 0x100000000)], dbgSel := 2 } }

theorem witness_HostEvents :
    peered.postedWaits 3 = false ∧ behind.postedWaits ((pageOwner (.wakeReg 1 5)).getD 0) = true ∧ (∃ e ∈ behind.posted, e.1 = 1) ∧ tget false peered.box.ports 0 = true ∧ tget false peered.box.ports 1 = false ∧ peered.box.stage = 4 ∧
    (peered.peerUp 2 = true ∧ bits (tget 0#64 peered.box.ingress 2).toNat 0 9 * 2 ^ 30 ≤ 0x100 ∧
     0x100 + 4 ≤ bits (tget 0#64 peered.box.ingress 2).toNat 0 9 * 2 ^ 30 + bits (tget 0#64 peered.box.ingress 2).toNat 32 9 * 2 ^ 30 ∧
     peered.isHomed 0x100 = true ∧ peered.isFree 0x100 = false ∧ peered.stateWord 0x100 4 = none ∧ peered.hearth.requests = [] ∧ peered.hearth.routers = [] ∧
     peered.homeRead 0x100 4 = .ok 0) ∧ ((1 : DWord).toNat = 1 % 256 ^ 4) ∧ State.reset.peerUp 2 = false ∧
    (State.reset.core 0).halted = false ∧ (peered.core peered.box.dbgCore).halted = true ∧ (peered.dbgView peered.dbgName).isSome = true ∧
    bits peered.box.dbgSel.toNat 60 4 = 0 ∧ bits peered.box.dbgSel.toNat 0 16 = 2 ∧ sysAssigned 0x15 = true ∧
    pageOwner (.semdoor 3) = some 3 ∧ 3 ∈ ([3] : List Nat) ∧ 5 < 1024 ∧ (0x700001005 : Nat) = 0x700001005 / 2 ^ 32 * 2 ^ 32 + 2 ^ 12 + 5 ∧
    supAssigned 0x0220 = true ∧ ((heads 1 2).head 4).enabled = true ∧ (∀ e ∈ ((frag (thread [])).core 0).groups, ∀ n ∈ e.2.nodes ++ e.2.stack, n.owes = false) ∧
    (peered.group? peered.box.dbgCore (bits peered.box.dbgSel.toNat 24 6)).isSome = true ∧ (peered.launch? 0).isSome = true ∧
    pageOwner (.bar 3 0) = none ∧ State.reset.box.stage < 3 := by decide +kernel

/-! ### The whole machine -/

theorem witness_IntegerUnitFrame : ∃ v, ∀ p ∈
    each [.iadd, .isub, .imin, .imax, .imul, .imulh, .imad, .idp4, .idp2, .icmp .lt] (word3 2 0 6 2 4 0) ++
      each [.and, .or, .xor, .andn, .tern, .perm] (word3 0xF 0 6 2 4 0) ++ each [.idive] (word3 2 0 8 4 2 1) ++ each [.sel] (word3 0xF 0 6 2 4 3),
    plain.issues p.1 p.2 v ∧ v.active p.2 ≠ [] := issues_of_issuable (by decide +kernel)

theorem witness_EncodingsRoundTrip :
    (Instr.iadd (word3 2 0 6 2 4 0)).wf = true ∧ (encode (.iadd (word3 2 0 6 2 4 0))).isSome = true ∧ (Instr.svsemBind 2 0 15 0).wf = true ∧
    (encode (.svsemBind 2 0 15 0)).isSome = true ∧ (decodeCast 0x2003C018010000000203000000000064).isSome = true ∧ (decodeFlue 0x1C013FBE).isSome = true ∧
    (decodeStoker 0x5010000000000001 1 0 0).isSome = true := by decide +kernel

/-- A fragment, a lane and a line core whose turn it is. -/
theorem witness_StepRunsTheDecodedInstruction :
    (let s := State.reset.withFetchWord 128 0x2003C018010000000203000000000064
     s.agenda = [.issue 0 0 0] ∧
     (let t : State := { s with agenda := [], cur := { s.cur with core := 0, slot := 0, node := 0, tc := 0, word := 0 } }
      t.view.map (fun v => (v.nd.st, v.nd.owes, v.nd.pc)) = some (.ready, false, 0) ∧ s.translate 0 0 [] .x 0 = .hit 0 ∧
      s.homeRead 0 16 = .ok 0x2003C018010000000203000000000064)) ∧
    (let s := State.reset.withFetchWord 128 0
     let t : State := { s with agenda := [], cur := { s.cur with core := 0, slot := 0, node := 0, tc := 0, word := 0 } }
     t.fetch 0 0 [] 0 = .word 0 ∧ decodeCast 0 = none) ∧
    (let s := State.reset.withFetchWord 64 0x2500000000000011
     s.agenda = [.lane 31] ∧
     ((s.lane 31).queue = none ∧ (s.lane 31).late = false ∧ (s.lane 31).cmd = none) ∧
     (let t : State := { s with agenda := [], cur := { s.cur with lane := 31, word := 0, arg := .none } }
      t.laneFetch 31 = .word 0x2500000000000011 0 0 0 ∧ decodeStoker 0x2500000000000011 0 0 0 = some (.intr 17) ∧ t.runsOff 31 (.intr 17) = false ∧
      misaligned 0x2500000000000011 [0, 0, 0] = none) ∧
     -- the same word presented; and a callb to 4, which is misaligned
     ((s.setLane 31 { s.lane 31 with cmd := some (0x2500000000000011, 0, 0, 0) }).lane 31).cmd = some (0x2500000000000011, 0, 0, 0) ∧
     (encodeStoker (.callb 4)).bind (fun ws => misaligned (ws.headD 0) (ws.drop 1)) = some 4) ∧
     (∀ q ∈ (State.reset.core 0).claims ++ (State.reset.core (partner 0)).claims, q.slot = 0 → q.node = 0 → none = some q.word) ∧
    (let s := State.reset.withFetchWord 32 0xE0000000
     s.agenda = [.bundle 0] ∧ (s.line 0).running = true ∧ (s.line 0).ending = false ∧ (s.line 0).pc = 0 ∧
     (bundleOps (tget 0#256 s.flue.code 0) (s.line 0).delay.isSome).map (·.map (·.2)) = some [.dready] ∧ s.holdsUp (s.line 0) .dready = false) ∧
    encode .flueCycle = none := by decide +kernel

theorem witness_StepKeepsMemoryForm :
    State.reset.mem.wf = true ∧ memory.mem.wf = true ∧ (match step { memory with agenda := [.event (.st (glob 6 0 2 4 0)) .none] } with | .next t => t.mem.wf | _ => false) = true := by
  decide +kernel

end Sys2Proof.Tests
end

section
/-! SUPPORT. The decode checks of casting words, and the operands k0 and predicate 15 (O1). -/

namespace Sys2Proof.Machine

/-! ### Decode checks (R58) -/

/-- The check of a word with operands whose row refuses it. -/
theorem View.check_of_illegal {v : View} {i : Instr} {sp : OpSpec} {w : CastWord} (h : opSpec i = some (sp, w))
    (hl : legalIn v.g.win i sp w = false) : v.check i = some causeIllop := by
  simp [View.check, checkWord, h, hl]

theorem View.lane_of_check {v : View} {i : Instr} {cause : Nat} (h : v.check i = some cause) (w : CastWord) (f : Nat → Thread → LaneRes) :
    v.lane i w f = v.trapAll cause 0 := by
  simp [View.lane, h]

theorem View.memory_of_check {v : View} {i : Instr} {cause : Nat} (h : v.check i = some cause) (w : CastWord) (need : Need)
    (plan : Nat → Thread → LaneAct) (perform : State → Nat → Thread → State × LaneRes) (before after : State → State) :
    v.memory i w need plan perform before after = v.trapAll cause 0 := by
  simp [View.memory, h]

/-- A word that names predicate 15 as its destination in D is refused (R42). -/
theorem View.check_of_pDst_d {v : View} {i : Instr} {sp : OpSpec} {w : CastWord} (h : opSpec i = some (sp, w)) (hd : sp.d = .pDst)
    (h15 : w.d = 15) : v.check i = some causeIllop :=
  View.check_of_illegal h (by simp [legalIn, fieldOk, hd, h15])

/-- A word that names predicate 15 as its destination in C is refused (R42). -/
theorem View.check_of_pDst_c {v : View} {i : Instr} {sp : OpSpec} {w : CastWord} (h : opSpec i = some (sp, w)) (hc : sp.c = .pDst)
    (h15 : w.c = 15) : v.check i = some causeIllop :=
  View.check_of_illegal h (by simp [legalIn, fieldOk, hc, h15])

/-- A word with a predicate destination in D, which is 15, traps ILLOP. -/
theorem exec_of_d_fifteen {s : State} {v : View} {w : CastWord} {m : CmpOp} {f : FCmpOp} {n : VoteOp} {p : PlopOp} {i : Instr}
    (hv : s.view = some v) (h15 : w.d = 15) (hn : n ≠ .ballot)
    (hi : i ∈ [Instr.icmp m w, .fcmp f w, .vote n w, .elect w, .plop p w, .qpush w]) : exec i s = .next (v.trapAll causeIllop 0) := by
  simp only [List.mem_cons, List.not_mem_nil, or_false] at hi
  rcases hi with rfl | rfl | rfl | rfl | rfl | rfl <;> refine (onFrag_of_view hv _).trans (congrArg _ ?_)
  · exact View.lane_of_check (View.check_of_pDst_d rfl rfl h15) _ _
  · exact View.lane_of_check (View.check_of_pDst_d rfl rfl h15) _ _
  · cases n with
    | ballot => exact absurd rfl hn
    | all | any | uni => exact View.lane_of_check (View.check_of_pDst_d rfl rfl h15) _ _
  · exact View.lane_of_check (View.check_of_pDst_d rfl rfl h15) _ _
  · cases p <;> exact View.lane_of_check (View.check_of_pDst_d rfl rfl h15) _ _
  · exact View.memory_of_check (View.check_of_pDst_d rfl rfl h15) _ _ _ _ _ _

/-- qpop and qpeek with predicate 15 in C trap ILLOP. -/
theorem exec_of_c_fifteen {s : State} {v : View} {w : CastWord} {i : Instr} (hv : s.view = some v) (h15 : w.c = 15)
    (hi : i ∈ [Instr.qpop w, .qpeek w]) : exec i s = .next (v.trapAll causeIllop 0) := by
  simp only [List.mem_cons, List.not_mem_nil, or_false] at hi
  rcases hi with rfl | rfl <;>
    exact (onFrag_of_view hv _).trans (congrArg _ (View.memory_of_check (View.check_of_pDst_c rfl rfl h15) _ _ _ _ _ _))

theorem Thread.p_fifteen (t : Thread) : t.p 15 = true := rfl

/-- Guard 15 holds unless PN complements it (R42). -/
theorem Thread.guard_fifteen {t : Thread} {w : CastWord} (h : w.pg = 15) : t.guard w = (w.pn == 0) := by
  have hp : ∀ x : BitVec 1, (true != (x == 1)) = (x == 0) := by decide
  simpa [Thread.guard, h, Thread.p_fifteen] using hp w.pn

/-- Settles O1: k0 by the branches of kreg and setK, the guard by the cases of PN, and the destinations by the check of the field. -/
theorem kZeroAndPredicateFifteen : Obligations.KZeroAndPredicateFifteen := by
  unfold Obligations.KZeroAndPredicateFifteen
  refine ⟨fun g x => ⟨rfl, rfl⟩, fun t w h => ⟨t.p_fifteen, Thread.guard_fifteen h⟩, ?_⟩
  rintro s v w m f n p i hv (⟨h15, hn, hi⟩ | ⟨h15, hi⟩)
  · exact exec_of_d_fifteen hv h15 hn hi
  · exact exec_of_c_fifteen hv h15 hi

end Sys2Proof.Machine
end

section
/-! SUPPORT. The machine after reset (O59). -/

namespace Sys2Proof.Machine

/-- Every supervisor register reads 0 after reset (R392). -/
theorem State.supGet_reset (n : Nat) : State.reset.supGet n = 0 := by
  unfold State.supGet
  split_ifs
  case neg => split <;> rfl
  all_goals rfl

/-- L is 0xF_FFF0 in every flask after reset (R480). -/
theorem State.capL_reset (f : Nat) : (State.reset.flask f).capL.toNat * 16 = 0xFFFF0 := by
  show Flask.reset.capL.toNat * 16 = 0xFFFF0
  decide

theorem State.enabled_reset (n : Nat) : (State.reset.head n).enabled = false := by
  show Head.reset.enabled = false
  decide

/-- Settles O59: every field of the reset state is read off, the tables being empty. -/
theorem resetLeaves : Obligations.ResetLeaves := by
  unfold Obligations.ResetLeaves
  exact ⟨rfl, rfl, rfl, rfl, rfl, rfl, rfl, fun _ => rfl, fun _ => ⟨rfl, rfl, rfl⟩, fun f => ⟨State.capL_reset f, rfl, rfl⟩, fun _ _ => rfl,
    fun _ => ⟨rfl, fun _ => rfl⟩, State.supGet_reset, rfl, rfl, fun _ => ⟨rfl, rfl⟩, fun n => ⟨State.enabled_reset n, rfl, rfl⟩, rfl, rfl⟩
end Sys2Proof.Machine
end

section
/-! SUPPORT. Steps that change cores only, requests for claims, and the turns that a step takes (O56). -/

namespace Sys2Proof.Machine

/-! ### Steps that change cores only -/

theorem OnlyCores.refl (s : State) : OnlyCores s s := rfl

theorem OnlyCores.trans {s t u : State} (h : OnlyCores s t) (k : OnlyCores t u) : OnlyCores s u := by
  rw [OnlyCores, k, h]

theorem OnlyCores.setCore {s t : State} (h : OnlyCores s t) (c : Nat) (k : Core) : OnlyCores s (t.setCore c k) := by
  rw [OnlyCores, State.setCore, h]

/-! ### Requests for claims -/

theorem State.endClaim_onlyCores (s : State) (c slot node : Nat) (f : Option Nat) : OnlyCores s (s.endClaim c slot node f) :=
  (OnlyCores.refl s).setCore _ _

theorem State.undoClaim_onlyCores (s : State) (c slot node : Nat) (f : Option Nat) : OnlyCores s (s.undoClaim c slot node f) := by
  unfold State.undoClaim
  dsimp only
  split
  · exact .refl s
  · exact ((OnlyCores.refl s).setCore _ _).trans (State.endClaim_onlyCores _ _ _ _ _)

theorem State.letClaims_onlyCores (s : State) (c slot node : Nat) : OnlyCores s (s.letClaims c slot node) :=
  (State.undoClaim_onlyCores _ _ _ _ _).trans (State.undoClaim_onlyCores _ _ _ _ _)

theorem State.keepClaims_onlyCores (s : State) (c slot node : Nat) (word : Option (BitVec 128)) : OnlyCores s (s.keepClaims c slot node word) := by
  unfold State.keepClaims
  dsimp only
  split
  · exact State.letClaims_onlyCores s c slot node
  · exact .refl s

/-- Nothing is dropped where every request of the fragment is of the word that it performs. -/
theorem State.keepClaims_of_same {s : State} {c slot node : Nat} {word : Option (BitVec 128)}
    (h : ∀ q ∈ (s.core c).claims ++ (s.core (partner c)).claims, q.slot = slot → q.node = node → word = some q.word) :
    s.keepClaims c slot node word = s := by
  unfold State.keepClaims
  refine if_neg ?_
  simp only [Bool.or_eq_true, List.any_eq_true, Bool.and_eq_true, beq_iff_eq, bne_iff_ne, not_or, not_exists, not_and, and_imp]
  exact ⟨fun q hq _ hs hn hw => hw (h q (List.mem_append_left _ hq) hs hn), fun q hq _ hs hn hw => hw (h q (List.mem_append_right _ hq) hs hn)⟩

/-! ### A fragment's turn -/

/-- A fetch touches lines of the caches and nothing else (R332). -/
theorem State.fetchTouch_eq (s : State) (c ctx : Nat) (pc : DWord) : ∃ l2 hl n,
    s.fetchTouch c ctx pc = { s with hearth := { s.hearth with l2 := l2, hearthLines := hl, touches := n } } := by
  unfold State.fetchTouch
  split
  · exact ⟨_, _, _, rfl⟩
  · exact ⟨_, _, _, rfl⟩

/-- The class that a word carries, of the number that the fetch read. -/
theorem tcOf_ofNat (x : Nat) : tcOf (BitVec.ofNat 128 x) = x / 2 ^ 114 % 4 := by
  simp only [tcOf, bits, BitVec.toNat_ofNat]
  omega

/-- The bytes at a PC that code may have, where its page is present and its sector whole, are the word fetched. -/
theorem State.fetch_of_hit {s : State} {c ctx : Nat} {fatal : List Nat} {pc : DWord} {pa x : Nat} (hpc : pc.toNat < 0x01FFFFFC00000000)
    (ht : s.translate c ctx fatal .x pc.toNat = .hit pa) (hr : s.homeRead pa 16 = .ok x) :
    s.fetch c ctx fatal pc = .word (BitVec.ofNat 128 x) := by
  simp [State.fetch, if_neg (Nat.not_le.2 hpc), ht, hr]

theorem step_of_agenda {s : State} {t : Turn} {rest : List Turn} (h : s.agenda = t :: rest) : step s = State.turn exec { s with agenda := rest } t := by
  simp [step, State.advance, h]

/-- The state with the cursor at a fragment whose turn begins. -/
def State.atFragment (s : State) (c sl n : Nat) : State := { s with cur := { s.cur with core := c, slot := sl, node := n, tc := 0, word := 0 } }

/-- The turn of a ready fragment that owes no trap, whose word decodes. -/
theorem State.issueTurn_of_word {s : State} {c sl n : Nat} {v : View} {w : BitVec 128} {i : Instr} (hv : (s.atFragment c sl n).view = some v)
    (hr : v.nd.st = .ready) (ho : v.nd.owes = false) (hf : (s.atFragment c sl n).fetch c v.g.ctx v.nd.fatal v.nd.pc = .word w)
    (hd : decodeCast w = some i) :
    State.issueTurn exec s c sl n = exec i { ((s.atFragment c sl n).keepClaims c sl n (some w)).fetchTouch c v.g.ctx v.nd.pc with
      cur := { (s.atFragment c sl n).cur with tc := tcOf w, word := w } } := by
  unfold State.issueTurn
  generalize hs : ({ s with cur := { s.cur with core := c, slot := sl, node := n, tc := 0, word := 0 } } : State) = s0
  obtain rfl : s.atFragment c sl n = s0 := hs
  simp [hv, hr, ho, hf, hd]

/-- The turn of a ready fragment that owes no trap, whose word does not decode: it traps ILLOP (R59). -/
theorem State.issueTurn_of_illop {s : State} {c sl n : Nat} {v : View} {w : BitVec 128} (hv : (s.atFragment c sl n).view = some v)
    (hr : v.nd.st = .ready) (ho : v.nd.owes = false) (hf : (s.atFragment c sl n).fetch c v.g.ctx v.nd.fatal v.nd.pc = .word w)
    (hd : decodeCast w = none) :
    State.issueTurn exec s c sl n = .next (View.trapAll { v with s := (s.atFragment c sl n).keepClaims c sl n none } causeIllop 0) := by
  unfold State.issueTurn
  generalize hs : ({ s with cur := { s.cur with core := c, slot := sl, node := n, tc := 0, word := 0 } } : State) = s0
  obtain rfl : s.atFragment c sl n = s0 := hs
  simp [hv, hr, ho, hf, hd]

/-- A step at a fragment whose bytes decode: only lines of the caches differ from the state that performs the word. -/
theorem step_of_word {s : State} {rest : List Turn} {c sl n : Nat} {v : View} {pa x : Nat} {i : Instr} (ha : s.agenda = .issue c sl n :: rest)
    (hv : (State.atFragment { s with agenda := rest } c sl n).view = some v) (hr : v.nd.st = .ready) (ho : v.nd.owes = false)
    (hpc : v.nd.pc.toNat < 0x01FFFFFC00000000) (ht : s.translate c v.g.ctx v.nd.fatal .x v.nd.pc.toNat = .hit pa)
    (hm : s.homeRead pa 16 = .ok x) (hd : decodeCast (BitVec.ofNat 128 x) = some i) :
    ∃ h : Hearth, h = { s.hearth with l2 := h.l2, hearthLines := h.hearthLines, touches := h.touches } ∧
      step s = exec i { (State.atFragment { s with agenda := rest } c sl n).keepClaims c sl n (some (BitVec.ofNat 128 x)) with
        hearth := h
        cur := { (State.atFragment { s with agenda := rest } c sl n).cur with tc := x / 2 ^ 114 % 4, word := BitVec.ofNat 128 x } } := by
  have hf : (State.atFragment { s with agenda := rest } c sl n).fetch c v.g.ctx v.nd.fatal v.nd.pc = .word (BitVec.ofNat 128 x) :=
    State.fetch_of_hit hpc ht hm
  have hk := State.keepClaims_onlyCores (State.atFragment { s with agenda := rest } c sl n) c sl n (some (BitVec.ofNat 128 x))
  obtain ⟨l2, hl, m, hq⟩ := State.fetchTouch_eq
    ((State.atFragment { s with agenda := rest } c sl n).keepClaims c sl n (some (BitVec.ofNat 128 x))) c v.g.ctx v.nd.pc
  refine ⟨{ s.hearth with l2 := l2, hearthLines := hl, touches := m }, rfl, ?_⟩
  rw [step_of_agenda ha, State.turn, State.issueTurn_of_word hv hr ho hf hd, hq, tcOf_ofNat, hk]
  rfl

/-! ### A lane's turn -/

/-- The state with the cursor at a lane whose turn begins. -/
def State.atLaneTurn (s : State) (l : Nat) : State := { s with cur := { s.cur with lane := l, word := 0, arg := .none } }

theorem State.laneFetch_of_cmd {s : State} {l : Nat} {w e0 e1 e2 : DWord} (h : (s.lane l).cmd = some (w, e0, e1, e2)) :
    s.laneFetch l = .word w e0 e1 e2 := by
  simp [State.laneFetch, h]

/-- A lane that performs has its turn through laneTurn. -/
theorem step_of_lane {s t : State} {rest : List Turn} {l : Nat} {i : Option Instr} (ha : s.agenda = .lane l :: rest) (hl : l < 32)
    (hq : 30 ≤ l ∨ (s.lane l).queue.isSome = true) (ht : State.laneTurn { s with agenda := rest } l = (t, i)) :
    step s = i.elim (.next t) (exec · t) := by
  have hlive : State.laneLive { s with agenda := rest } l = true := by
    show (decide (l < 32) && (firmware l || (s.lane l).queue.isSome)) = true
    simpa [firmware, hl] using hq
  rw [step_of_agenda ha, State.turn, if_pos hlive, ht]
  cases i <;> rfl

/-- A lane with its word at hand, which decodes, takes the MISALIGN fault of one of its extra words (R365). -/
theorem State.laneTurn_of_misaligned {s : State} {l a : Nat} {w e0 e1 e2 : DWord} {i : Instr} (hl : (s.lane l).late = false)
    (hj : (s.atLaneTurn l).justMapped l = false) (hf : (s.atLaneTurn l).laneFetch l = .word w e0 e1 e2)
    (hd : decodeStoker w e0 e1 e2 = some i) (hm : misaligned w [e0, e1, e2] = some a) :
    s.laneTurn l = ((s.atLaneTurn l).laneFault l fMisalign a, none) := by
  unfold State.laneTurn
  generalize ht : ({ s with cur := { s.cur with lane := l, word := 0, arg := .none } } : State) = t
  obtain rfl : s.atLaneTurn l = t := ht
  simp [hl, hj, hf, hd, hm]

/-- A lane with its word at hand, which decodes and is aligned, performs it and keeps it until it completes. -/
theorem State.laneTurn_of_word {s : State} {l : Nat} {w e0 e1 e2 : DWord} {i : Instr} (hl : (s.lane l).late = false)
    (hj : (s.atLaneTurn l).justMapped l = false) (hf : (s.atLaneTurn l).laneFetch l = .word w e0 e1 e2)
    (hd : decodeStoker w e0 e1 e2 = some i) (hm : misaligned w [e0, e1, e2] = none) (hr : (s.atLaneTurn l).runsOff l i = false)
    (ht : (s.atLaneTurn l).fetchLane l (1 + stExtra w) = s.atLaneTurn l) :
    s.laneTurn l = ((s.atLaneTurn l).setLane l { s.lane l with cmd := some (w, e0, e1, e2) }, some i) := by
  have hk : (s.atLaneTurn l).lane l = s.lane l := rfl
  unfold State.laneTurn
  generalize hs : ({ s with cur := { s.cur with lane := l, word := 0, arg := .none } } : State) = t
  obtain rfl : s.atLaneTurn l = t := hs
  simp [hl, hj, hf, hd, hm, hr, ht, hk]

/-- Neither firmware nor a word that its lane holds touches the caches. -/
theorem State.fetchLane_of_held {s : State} {l n : Nat} (h : firmware l = true ∨ (s.lane l).cmd.isSome = true) : s.fetchLane l n = s := by
  unfold State.fetchLane
  exact if_pos (by simpa using h)

/-! ### A line core's turn -/

theorem State.runOps_cons {u t : State} {n i : Nat} {op : Instr} {ops : List (Nat × Instr)}
    (h : exec op { u with cur := { u.cur with line := n, fslot := i } } = .next t) : runOps exec n ((i, op) :: ops) u = runOps exec n ops t := by
  rw [runOps, h]

/-- The turn of a line core whose bundle passes its check and is not held up: its ops, then the end of the cycle (R411). -/
theorem State.bundleTurn_of_ops {u t : State} {n : Nat} {ops : List (Nat × Instr)} (hr : (u.line n).running = true)
    (he : (u.line n).ending = false) (h0 : 0 ≤ (u.line n).pc) (h1 : (u.line n).pc < 8192)
    (ho : bundleOps (tget 0#256 u.flue.code (u.line n).pc.toNat) (u.line n).delay.isSome = some ops)
    (hh : ∀ e ∈ ops, u.holdsUp (u.line n) e.2 = false) (ht : runOps exec n ops u = .next t) (hk : (t.line n).running = true) :
    State.bundleTurn exec u n = .next (t.setLine n ((t.line n).endCycle (u.line n).delay (ops.any fun (e : Nat × Instr) => redirects e.2))) := by
  have hpc : ¬ ((u.line n).pc < 0 ∨ 8192 ≤ (u.line n).pc) := by omega
  have hf : ops.find? (fun (e : Nat × Instr) => u.holdsUp (u.line n) e.2) = none := by simpa using hh
  unfold State.bundleTurn
  simp only [he, hr, if_neg hpc, ho, hf, ht, hk]
  rfl

/-! ### An event's turn -/

/-- An instruction that no word encodes is an event. -/
theorem isEvent_of_encode {i : Instr} (h : encode i = none) : isEvent i = true := by
  unfold encode at h
  split at h
  · cases h
  · split at h
    · cases h
    · simp_all [isEvent, encodeCast]

/-! ### The step -/

theorem step_of_nothing {s : State} (h : s.agenda = []) : step s = .next s.nextTick := by
  simp [step, State.advance, h]

/-- Settles O56: each turn by what its place holds; a fragment's, a lane's, a line core's and an event's by their own lemmas. -/
theorem stepRunsTheDecodedInstruction : Obligations.StepRunsTheDecodedInstruction := by
  unfold Obligations.StepRunsTheDecodedInstruction
  intro s rest
  refine ⟨fun c sl n v ha => ?_, fun l w e0 e1 e2 i ha => ?_, fun l w e0 e1 e2 i ha => ?_, fun n ops t ha hn => ?_, fun n i op ops u t h => ?_,
    fun i a ha he => ?_, step_of_nothing⟩
  · intro s0 hv hr ho
    refine ⟨fun word h => State.keepClaims_of_same h, fun pa x i hpc ht hm hd => step_of_word ha hv hr ho hpc ht hm hd, fun w hf hd => ?_⟩
    rw [step_of_agenda ha]
    exact State.issueTurn_of_illop hv hr ho hf hd
  · intro t hl hq hlate hc hd
    have hj : t.justMapped l = false := by
      have h : (t.lane l).cmd.isNone = false := by rw [show (t.lane l).cmd = _ from hc]; rfl
      simp [State.justMapped, h]
    have hf : t.laneFetch l = .word w e0 e1 e2 := State.laneFetch_of_cmd hc
    refine ⟨fun a hm => ?_, fun hm ho => ?_⟩
    · exact step_of_lane ha hl hq (State.laneTurn_of_misaligned hlate hj hf hd hm)
    · have hk : t.fetchLane l (1 + stExtra w) = t := State.fetchLane_of_held (.inr (by rw [show (t.lane l).cmd = _ from hc]; rfl))
      refine (step_of_lane ha hl hq (State.laneTurn_of_word hlate hj hf hd hm ho hk)).trans ?_
      show exec i (t.setLane l { s.lane l with cmd := some (w, e0, e1, e2) }) = exec i (t.setLane l (s.lane l))
      rw [← hc]
  · intro t h30 hl hq hlate hc hf hd hm ho
    have hj : t.justMapped l = false := by
      have h : (t.lane l).queue.isSome = false := by rw [show (t.lane l).queue = _ from hq]; rfl
      simp [State.justMapped, h]
    have hk : t.fetchLane l (1 + stExtra w) = t := State.fetchLane_of_held (.inl (by simpa [firmware] using h30))
    exact step_of_lane ha hl (.inl h30) (State.laneTurn_of_word hlate hj hf hd hm ho hk)
  · intro k u hr he h0 h1 ho hh ht hk
    rw [step_of_agenda ha, State.turn, if_pos hn]
    exact State.bundleTurn_of_ops hr he h0 h1 ho hh ht hk
  · exact State.runOps_cons h
  · rw [step_of_agenda ha, State.turn, if_pos (isEvent_of_encode he)]

end Sys2Proof.Machine
end

section
/-! SUPPORT. What the load and the store of one lane do (O20). -/

namespace Sys2Proof.Machine

/-! ### Reads and writes of one part -/

theorem joinRes_zero (n : Nat) (a : PRes) : joinRes n a (.ok 0) = a := by
  cases a <;> simp [joinRes]

theorem State.readParts_one (s : State) (c pa n : Nat) : s.readParts c false [(pa, n)] = s.coreRead c pa n := by
  simp [State.readParts, joinRes_zero]

theorem State.writeParts_one (s : State) (c pa n x : Nat) (k : WKind) :
    s.writeParts c false k [(pa, n)] x = match s.coreWrite c pa n (x % 256 ^ n) k with | some t => (t, true) | none => (s, false) := by
  simp only [State.writeParts, Bool.false_eq_true, if_false]
  cases s.coreWrite c pa n (x % 256 ^ n) k <;> rfl

/-! ### The core's own reads -/

theorem State.coreRead_of_unused {s : State} {c pa : Nat} (n : Nat) (h : s.l1Used c pa = false) :
    s.coreRead c pa n = (s.cacheTouch pa n false, s.homeRead pa n) := by
  simp [State.coreRead, h]

/-- A plain load through the L1 where no sector of it is poisoned. -/
theorem State.coreRead_of_clean {s : State} {c pa n : Nat} (h : s.l1Used c pa = true) (hb : ∀ sec ∈ sectorsOf pa n, ¬ s.l1Poison c sec = true) :
    s.coreRead c pa n = ((s.coreRead c pa n).1, .ok ((s.coreRead c pa n).1.coreBytes c pa n)) := by
  have ha : ((sectorsOf pa n).any fun sec => s.l1Poison c sec) = false := by simpa using hb
  simp only [State.coreRead, h, ha]
  rfl

/-- A plain load through the L1 that finds poison leaves the state. -/
theorem State.coreRead_of_poison {s : State} {c pa n : Nat} (h : s.l1Used c pa = true) (hb : ∃ sec ∈ sectorsOf pa n, s.l1Poison c sec = true) :
    s.coreRead c pa n = (s, .poison) := by
  have ha : ((sectorsOf pa n).any fun sec => s.l1Poison c sec) = true := by simpa using hb
  simp only [State.coreRead, h, ha]
  rfl

/-! ### The load of one lane -/

/-- A load that does not acquire at a wide scope: what the read of its place gives. -/
theorem View.loadLane_plain {v : View} {w : CastWord} {s : State} {t : Thread} {n : Nat} {put : Thread → Nat → LaneRes} {loc : Loc}
    (hl : v.locate t w.space (addressOf w v.g t) n = some loc) (ha : acquiresWide w = false) :
    v.loadLane w n put s t = ((v.load s w loc n).1, lanePut (v.load s w loc n).2 t (addressOf w v.g t) (put t)) := by
  simp only [View.loadLane, hl, ha]
  rfl

theorem View.load_pad {v : View} {s : State} {w : CastWord} {c off : Nat} {wd : Window} (n : Nat)
    (hw : s.window? c v.g.launch v.g.block = some wd) :
    v.load s w (.pad c off) n = (s, if wd.poisoned off n then .poison else .ok (wd.read off n)) := by
  have h : v.load s w (.pad c off) n = v.read s (acquiresWide w) (.pad c off) n := by
    unfold View.load
    split
    · rename_i heq; cases heq
    · rfl
  rw [h]
  simp [View.read, hw]

/-- A plain load from a global place of one part, outside constant space, is the core's own read. -/
theorem View.load_glob {v : View} {s : State} {w : CastWord} {va pa n : Nat} (ht : v.trLoc .r (.glob va) n = .ok [(pa, n)])
    (h5 : w.space ≠ 5) (ha : acquiresWide w = false) : v.load s w (.glob va) n = s.coreRead v.c pa n := by
  have h : v.load s w (.glob va) n = v.read s (acquiresWide w) (.glob va) n := by
    unfold View.load
    split
    · rename_i heq _; exact absurd heq h5
    · rfl
  rw [h]
  simp only [View.read, ht, ha, State.readParts_one]

/-! ### The store of one lane -/

/-- A store that does not release at a wide scope: what the write of its place gives, or an ACCESS entry (R39). -/
theorem View.storeLane_plain {v : View} {w : CastWord} {s : State} {t : Thread} {n x : Nat} {loc : Loc}
    (hl : v.locate t w.space (addressOf w v.g t) n = some loc) (hr : releasesWide w = false) :
    v.storeLane w n x s t =
      let r := v.write s false (wkindOf w false) loc n x
      if r.2 then r.1 else r.1.fault (threadEntry v.g.launch v.c t causeAccess false v.nd.pc (BitVec.ofNat 64 (addressOf w v.g t))) := by
  simp only [View.storeLane, hl, hr]
  rfl

theorem View.write_glob {v : View} {s : State} {k : WKind} {va pa n x : Nat} (ht : v.trLoc .w (.glob va) n = .ok [(pa, n)]) :
    v.write s false k (.glob va) n x = match s.coreWrite v.c pa n (x % 256 ^ n) k with | some t => (t, true) | none => (s, false) := by
  simp only [View.write, ht]
  exact State.writeParts_one s v.c pa n x k

/-- Settles O20, by the place that the address names and, for a global load, by whether its bytes go through the L1 and are poisoned. -/
theorem oneLaneReadsAndWrites : Obligations.OneLaneReadsAndWrites := by
  unfold Obligations.OneLaneReadsAndWrites
  intro v w s t n x put a
  refine ⟨fun c off wd hl hw ha => ?_, fun va pa hl ht h5 ha => ?_, fun c off hl hr => ?_, fun va pa hl ht hr hx => ?_⟩
  · rw [View.loadLane_plain hl ha, View.load_pad n hw]
    constructor <;> intro hp <;> simp only [hp] <;> rfl
  · intro bad
    have hbad : ∀ sec, s.l1Poison v.c sec = true ↔ bad sec := by
      intro sec
      show _ ↔ (s.isFree (32 * sec) = false ∧ _)
      unfold State.l1Poison
      cases s.isFree (32 * sec) <;> cases tfind (s.core v.c).l1 sec <;> simp
    rw [View.loadLane_plain hl ha, View.load_glob ht h5 ha]
    refine ⟨fun hu y hy => ?_, fun hu hc => ?_, fun hu ⟨sec, hm, hp⟩ => ?_⟩
    · rw [State.coreRead_of_unused n hu, hy]; rfl
    · rw [State.coreRead_of_clean hu fun sec hm hp => hc sec hm ((hbad sec).1 hp)]; rfl
    · rw [State.coreRead_of_poison hu ⟨sec, hm, (hbad sec).2 hp⟩]; rfl
  · rw [View.storeLane_plain hl hr]; rfl
  · rw [View.storeLane_plain hl hr, View.write_glob ht, Nat.mod_eq_of_lt hx]
    cases s.coreWrite v.c pa n x (wkindOf w false) <;> rfl

end Sys2Proof.Machine
end

section
/-! SUPPORT. The L1 of a core: what its operations leave unchanged, and that a stored byte stays in its copy until it is read (R181-R183). -/

namespace Sys2Proof.Machine

/-! ### Steps that change memory, cores and what the caches hold -/

/-- Nothing but memory, the cores, the lines that the arrays hold and the epochs of sectors differs. -/
def OnlyCaches (s t : State) : Prop :=
  t = { s with
    mem := t.mem, cores := t.cores
    hearth := { s.hearth with l2 := t.hearth.l2, hearthLines := t.hearth.hearthLines, touches := t.hearth.touches, sectorEpoch := t.hearth.sectorEpoch } }

theorem OnlyCaches.refl (s : State) : OnlyCaches s s := rfl

theorem OnlyCaches.trans {s t u : State} (h : OnlyCaches s t) (k : OnlyCaches t u) : OnlyCaches s u := by
  rw [OnlyCaches, k, h]

theorem OnlyCaches.setCore {s t : State} (h : OnlyCaches s t) (c : Nat) (k : Core) : OnlyCaches s (t.setCore c k) := h.trans rfl

theorem OnlyCaches.cacheTouch {s t : State} (h : OnlyCaches s t) (pa n : Nat) (wr : Bool) (ev : Nat) : OnlyCaches s (t.cacheTouch pa n wr ev) := h.trans rfl

theorem OnlyCaches.stampEpoch {s t : State} (h : OnlyCaches s t) (pa n e : Nat) : OnlyCaches s (t.stampEpoch pa n e) := h.trans rfl

theorem OnlyCaches.rawWrite {s t : State} (h : OnlyCaches s t) (pa n v : Nat) : OnlyCaches s (t.rawWrite pa n v) := by
  rcases t.rawWrite_eq pa n v with e | e <;> rw [e]
  · exact h
  · exact h.trans rfl

theorem OnlyCaches.mark {s t : State} (h : OnlyCaches s t) (sec : Nat) : OnlyCaches s (t.mark sec) := by
  unfold State.mark
  split
  · exact h
  · exact h.trans rfl

theorem OnlyCaches.foldl {α : Type} {s t : State} (h : OnlyCaches s t) {f : State → α → State} (l : List α) (hf : ∀ s a, OnlyCaches s (f s a)) :
    OnlyCaches s (l.foldl f t) :=
  List.foldlRecOn l f h fun b hb a _ => hb.trans (hf b a)

section
variable {s t : State} (h : OnlyCaches s t)
include h

theorem OnlyCaches.paRegion (pa : Nat) : t.paRegion pa = s.paRegion pa := by rw [h]; rfl
theorem OnlyCaches.isHomed (pa : Nat) : t.isHomed pa = s.isHomed pa := by rw [h]; rfl
theorem OnlyCaches.isFree (pa : Nat) : t.isFree pa = s.isFree pa := by rw [h]; rfl
theorem OnlyCaches.stateWord (pa n : Nat) : t.stateWord pa n = s.stateWord pa n := by rw [h]; rfl
theorem OnlyCaches.tick : t.tick = s.tick := by rw [h]

end

/-- What holds before the write of a sector's dirty bytes, and is kept by a write of some of them and by the marker that goes with
them, holds after it. -/
theorem writeBytes_keeps {P : State → Prop} {s : State} {base : Nat} {x : L1Sector} (h : P s)
    (hw : ∀ t pa n v, (∀ j, pa ≤ j → j < pa + n → base ≤ j ∧ x.dirty.getLsbD (j - base) = true) → P t → P (t.rawWrite pa n v))
    (hm : x.bad = true → ∀ t, P t → P (t.mark (base / 32))) : P (writeBytes s base x) := by
  have hall : ∀ i, i < 32 → (byteMask 0 32).getLsbD i = true := by decide
  have hb : P (if x.dirty = byteMask 0 32 then s.rawWrite base 32 x.data.toNat
      else (List.range 32).foldl (fun s i => if x.dirty.getLsbD i then s.rawWrite (base + i) 1 (x.byte i) else s) s) := by
    split
    · rename_i hd
      exact hw _ _ _ _ (fun j h1 h2 => ⟨h1, hd ▸ hall _ (by omega)⟩) h
    · refine List.foldlRecOn (motive := P) _ _ h fun t ht i _ => ?_
      split
      · rename_i hd
        exact hw _ _ _ _ (fun j h1 h2 => ⟨by omega, by rwa [show j - base = i by omega]⟩) ht
      · exact ht
  unfold writeBytes
  dsimp only
  by_cases hx : x.bad = true
  · rw [if_pos hx]; exact hm hx _ hb
  · rw [if_neg hx]; exact hb

theorem writeBytes_onlyCaches (s : State) (base : Nat) (x : L1Sector) : OnlyCaches s (writeBytes s base x) :=
  writeBytes_keeps (.refl s) (fun _ _ _ _ _ h => h.rawWrite _ _ _) fun _ _ h => h.mark _

/-- Nothing but memory, what the arrays hold, and the L1 and write signature of core `c` differs. -/
structure OnlyL1 (s t : State) (c : Nat) : Prop where
  caches : OnlyCaches s t
  own : t.core c = { s.core c with l1 := (t.core c).l1, sig := (t.core c).sig }
  others : ∀ k, k ≠ c → t.core k = s.core k

theorem OnlyL1.refl (s : State) (c : Nat) : OnlyL1 s s c := ⟨.refl s, rfl, fun _ _ => rfl⟩

theorem OnlyL1.trans {s t u : State} {c : Nat} (h : OnlyL1 s t c) (k : OnlyL1 t u c) : OnlyL1 s u c :=
  ⟨h.caches.trans k.caches, by rw [k.own, h.own], fun j hj => (k.others j hj).trans (h.others j hj)⟩

/-- A step of memory and of the arrays. -/
theorem OnlyL1.of_cores {s t : State} {c : Nat} (h : OnlyCaches s t) (k : t.cores = s.cores) : OnlyL1 s t c := by
  have hc : ∀ j, t.core j = s.core j := fun j => by simp [State.core, k]
  exact ⟨h, by rw [hc], fun j _ => hc j⟩

theorem OnlyL1.setCore (s : State) (c : Nat) (l1 : Table L1Sector) (sig : BitVec 1024) :
    OnlyL1 s (s.setCore c { s.core c with l1 := l1, sig := sig }) c :=
  ⟨rfl, by simp, fun j hj => by simp [hj]⟩

theorem OnlyL1.foldl {α : Type} {s t : State} {c : Nat} (h : OnlyL1 s t c) {f : State → α → State} (l : List α) (hf : ∀ s a, OnlyL1 s (f s a) c) :
    OnlyL1 s (l.foldl f t) c :=
  List.foldlRecOn (motive := fun u => OnlyL1 s u c) l f h fun b hb a _ => hb.trans (hf b a)

theorem OnlyL1.l1Used {s t : State} {c : Nat} (h : OnlyL1 s t c) (pa : Nat) : t.l1Used c pa = s.l1Used c pa := by
  have hs : (t.core c).split = (s.core c).split := by rw [h.own]
  rw [State.l1Used, State.l1Used, Core.l1Lines, Core.l1Lines, h.caches.isHomed, hs]

@[simp] theorem State.rawWrite_cores (s : State) (pa n v : Nat) : (s.rawWrite pa n v).cores = s.cores := by
  rcases s.rawWrite_eq pa n v with e | e <;> rw [e]

@[simp] theorem State.mark_cores (s : State) (sec : Nat) : (s.mark sec).cores = s.cores := by
  unfold State.mark; split <;> rfl

@[simp] theorem writeBytes_cores (s : State) (base : Nat) (x : L1Sector) : (writeBytes s base x).cores = s.cores :=
  writeBytes_keeps (P := fun t => t.cores = s.cores) rfl (fun _ _ _ _ _ h => by simpa using h) fun _ _ h => by simpa using h

/-! ### What the operations of an L1 change -/

/-- What is written back of a sector that is dirty. -/
theorem writeBack_onlyL1 (s : State) (c sec e : Nat) (x : L1Sector) :
    OnlyL1 s (((writeBytes s (32 * sec) x).cacheTouch (32 * sec) 32 true).stampEpoch (32 * sec) 32 e) c :=
  .of_cores (((writeBytes_onlyCaches _ _ _).cacheTouch _ _ _ _).stampEpoch _ _ _) (writeBytes_cores _ _ _)

theorem State.l1WriteBack_onlyL1 (s : State) (c sec : Nat) : OnlyL1 s (s.l1WriteBack c sec) c := by
  unfold State.l1WriteBack
  split
  · exact .refl s c
  · refine OnlyL1.trans ?_ (OnlyL1.setCore _ c _ _)
    split
    · exact .refl s c
    · exact writeBack_onlyL1 _ _ _ _ _

theorem State.l1WriteBackAll_onlyL1 (s : State) (c : Nat) : OnlyL1 s (s.l1WriteBackAll c) c :=
  (OnlyL1.refl s c).foldl _ fun t sec => t.l1WriteBack_onlyL1 c sec

theorem State.l1Drop_onlyL1 (s : State) (c sec : Nat) : OnlyL1 s (s.l1Drop c sec) c := OnlyL1.setCore s c _ _

theorem State.l1Flush_onlyL1 (s : State) (c pa n : Nat) : OnlyL1 s (s.l1Flush c pa n) c := by
  unfold State.l1Flush
  refine OnlyL1.foldl ?_ _ fun t sec => t.l1Drop_onlyL1 c sec
  split
  · exact s.l1WriteBackAll_onlyL1 c
  · exact .refl s c

theorem State.l1Evict_onlyL1 (s : State) (c sec : Nat) : OnlyL1 s (s.l1Evict c sec) c := by
  unfold State.l1Evict
  dsimp only
  split
  · exact .refl s c
  · split
    · exact .refl s c
    · refine OnlyL1.foldl ?_ _ fun t e => t.l1Drop_onlyL1 c e.1
      split
      · exact s.l1WriteBackAll_onlyL1 c
      · exact .refl s c

theorem State.l1Touch_onlyL1 (s : State) (c sec : Nat) : OnlyL1 s (s.l1Touch c sec) c :=
  OnlyL1.trans (t := { s with hearth := { s.hearth with touches := s.hearth.touches + 1 } }) (.of_cores rfl rfl) (OnlyL1.setCore _ c _ _)

theorem State.l1Store_onlyL1 (s : State) (c sec lo n v : Nat) : OnlyL1 s (s.l1Store c sec lo n v) c := by
  unfold State.l1Store
  dsimp only
  refine OnlyL1.trans (OnlyL1.trans ?_ (OnlyL1.setCore _ c _ _)) (State.l1Touch_onlyL1 _ _ _)
  split
  · exact .refl s c
  · exact s.l1Evict_onlyL1 c sec

theorem State.l1Fill_onlyL1 (s : State) (c sec : Nat) : OnlyL1 s (s.l1Fill c sec) c := by
  have ht : ∀ t : State, OnlyL1 t (t.cacheTouch (32 * sec) 32 false) c := fun t => .of_cores rfl rfl
  unfold State.l1Fill
  split
  · split
    · exact State.l1Touch_onlyL1 _ _ _
    · exact ((ht s).trans (OnlyL1.setCore _ c _ _)).trans (State.l1Touch_onlyL1 _ _ _)
  · exact (((s.l1Evict_onlyL1 c sec).trans (ht _)).trans (OnlyL1.setCore _ c _ _)).trans (State.l1Touch_onlyL1 _ _ _)

/-! ### A sector without an error -/

/-- Neither memory nor core `c`'s own copy holds an error in sector `sec`. -/
def CleanAt (s : State) (c sec : Nat) : Prop := (∀ y, tfind (s.core c).l1 sec = some y → y.bad = false) ∧ sec ∉ s.mem.poison

theorem State.rawWrite_poison {s : State} {pa n v sec : Nat} (h : sec ∉ s.mem.poison) : sec ∉ (s.rawWrite pa n v).mem.poison := by
  rcases s.rawWrite_eq pa n v with e | e <;> rw [e]
  · exact h
  · intro hm
    exact h (by simpa using (List.mem_filter.1 hm).1)

theorem State.mark_poison {s : State} {j sec : Nat} (h : sec ∉ s.mem.poison) (hj : j ≠ sec) : sec ∉ (s.mark j).mem.poison := by
  unfold State.mark
  split
  · exact h
  · intro hm
    rcases mem_sinsert hm with e | e
    · exact hj e.symm
    · exact h e

/-- What a sector without an error of its own writes back leaves no error in memory that was not there. -/
theorem writeBytes_poison {s : State} {base sec : Nat} {x : L1Sector} (h : sec ∉ s.mem.poison) (hb : x.bad = true → base / 32 ≠ sec) :
    sec ∉ (writeBytes s base x).mem.poison :=
  writeBytes_keeps (P := fun t => sec ∉ t.mem.poison) h (fun _ _ _ _ _ h => State.rawWrite_poison h) fun hx _ h => State.mark_poison h (hb hx)

/-- A copy that comes anew into the L1, or an old one with no new error, leaves the sector without one. -/
theorem CleanAt.setCore {s : State} {c sec : Nat} (h : CleanAt s c sec) (k : Core)
    (hk : ∀ y, tfind k.l1 sec = some y → y.bad = false) : CleanAt (s.setCore c k) c sec := by
  exact ⟨by simpa using hk, h.2⟩

theorem CleanAt.l1WriteBack {s : State} {c sec : Nat} (h : CleanAt s c sec) (j : Nat) : CleanAt (s.l1WriteBack c j) c sec := by
  unfold State.l1WriteBack
  split
  · exact h
  · rename_i x hx
    have hbad : j = sec → x.bad = false := fun e => h.1 x (e ▸ hx)
    have hcore : ∀ y, tfind (tput (s.core c).l1 j { x with dirty := 0, wrote := 0 }) sec = some y → y.bad = false := by
      intro y hy
      by_cases e : sec = j
      · subst e
        obtain rfl := Option.some.inj (tfind_tput_self _ _ _ ▸ hy)
        exact hbad rfl
      · rw [tfind_tput_ne _ _ e] at hy
        exact h.1 y hy
    dsimp only
    split
    · exact h.setCore _ hcore
    · have hm : sec ∉ (writeBytes s (32 * j) x).mem.poison := by
        refine writeBytes_poison h.2 fun hx e => ?_
        have := hbad (by omega)
        simp_all
      have hc : (((writeBytes s (32 * j) x).cacheTouch (32 * j) 32 true).stampEpoch (32 * j) 32 (s.hearth.nextEpoch - 1)).core c = s.core c :=
        congrArg (tget Core.reset · c) (writeBytes_cores s (32 * j) x)
      exact ⟨by rw [hc]; simpa using hcore, hm⟩

theorem tfind_of_tdel {α : Type} {t : Table α} {i k : Nat} {x : α} (h : tfind (tdel t i) k = some x) : tfind t k = some x := by
  by_cases e : k = i
  · subst e; simp at h
  · rwa [tfind_tdel_ne _ e] at h

theorem CleanAt.l1Drop {s : State} {c sec : Nat} (h : CleanAt s c sec) (j : Nat) : CleanAt (s.l1Drop c j) c sec :=
  h.setCore _ fun y hy => h.1 y (tfind_of_tdel hy)

theorem CleanAt.l1WriteBackAll {s : State} {c sec : Nat} (h : CleanAt s c sec) : CleanAt (s.l1WriteBackAll c) c sec :=
  List.foldlRecOn (motive := fun t => CleanAt t c sec) _ _ h fun _ ht j _ => ht.l1WriteBack j

theorem CleanAt.l1Flush {s : State} {c sec : Nat} (h : CleanAt s c sec) (pa n : Nat) : CleanAt (s.l1Flush c pa n) c sec := by
  refine List.foldlRecOn (motive := fun t => CleanAt t c sec) _ _ ?_ fun _ ht j _ => ht.l1Drop j
  split
  · exact h.l1WriteBackAll
  · exact h

theorem CleanAt.l1Evict {s : State} {c sec : Nat} (h : CleanAt s c sec) (j : Nat) : CleanAt (s.l1Evict c j) c sec := by
  unfold State.l1Evict
  dsimp only
  split
  · exact h
  · split
    · exact h
    · refine List.foldlRecOn (motive := fun t => CleanAt t c sec) _ _ ?_ fun _ ht e _ => ht.l1Drop e.1
      split
      · exact h.l1WriteBackAll
      · exact h

end Sys2Proof.Machine
end

section
/-! SUPPORT. A byte that a core stores stays in its L1's copy until it is read back; and the bytes of a write at the device point (O21). -/

namespace Sys2Proof.Machine

/-! ### Bits of a copy's masks -/

theorem testBit_bits (v lo n j : Nat) : (bits v lo n).testBit j = (decide (j < n) && v.testBit (lo + j)) := by
  simp [bits, Nat.testBit_mod_two_pow, Nat.testBit_div_two_pow, Nat.add_comm]

/-- A byte of a sum of whole bytes, each below its place. -/
theorem testBit_dataMask_fold (m : BitVec 32) (k : Nat) :
    (List.range k).foldl (fun acc i => if m.getLsbD i then acc + 255 * 256 ^ i else acc) 0 < 2 ^ (8 * k) ∧
    ∀ j, ((List.range k).foldl (fun acc i => if m.getLsbD i then acc + 255 * 256 ^ i else acc) 0).testBit j =
      (decide (j < 8 * k) && m.getLsbD (j / 8)) := by
  induction k with
  | zero => simp
  | succ k ih =>
    obtain ⟨hlt, hbit⟩ := ih
    rw [List.range_succ, List.foldl_append]
    simp only [List.foldl_cons, List.foldl_nil]
    generalize (List.range k).foldl (fun acc i => if m.getLsbD i then acc + 255 * 256 ^ i else acc) 0 = acc at *
    have h256 : 256 ^ k = 2 ^ (8 * k) := by rw [show 256 = 2 ^ 8 by norm_num, ← pow_mul]
    have hpow : 2 ^ (8 * (k + 1)) = 2 ^ (8 * k) * 256 := by rw [Nat.mul_add, pow_add]; norm_num
    split
    · rename_i hm
      refine ⟨by rw [h256, hpow]; omega, fun j => ?_⟩
      rw [h256, Nat.add_comm, Nat.mul_comm, Nat.two_pow_add_eq_or_of_lt hlt, Nat.testBit_or, Nat.testBit_two_pow_mul, hbit]
      have h255 : ∀ i, (255 : Nat).testBit i = decide (i < 8) := fun i => Nat.testBit_two_pow_sub_one 8 i
      rw [h255]
      by_cases h1 : j < 8 * k
      · have : ¬ 8 * k ≤ j := by omega
        have : j < 8 * (k + 1) := by omega
        simp [*]
      · have : 8 * k ≤ j := by omega
        by_cases h2 : j < 8 * (k + 1)
        · have : j / 8 = k := by omega
          simp [*]; omega
        · simp [*]; omega
    · rename_i hm
      refine ⟨by rw [hpow]; omega, fun j => ?_⟩
      rw [hbit]
      by_cases h1 : j < 8 * k
      · have : j < 8 * (k + 1) := by omega
        simp [*]
      · by_cases h2 : j < 8 * (k + 1)
        · have : j / 8 = k := by omega
          simp [*]
        · simp [*]

/-- A mask of bits holds the bits of the bytes that the mask of bytes names. -/
theorem getLsbD_dataMask (m : BitVec 32) (j : Nat) (h : j < 256) : (dataMask m).getLsbD j = m.getLsbD (j / 8) := by
  rw [dataMask, BitVec.getLsbD_ofNat, (testBit_dataMask_fold m 32).2]
  simp [h]

theorem getLsbD_byteMask (lo n j : Nat) (h : j < 32) : (byteMask lo n).getLsbD j = decide (lo ≤ j ∧ j < lo + n) := by
  rw [byteMask, BitVec.getLsbD_ofNat, Nat.mul_comm, Nat.testBit_two_pow_mul, Nat.testBit_two_pow_sub_one]
  rw [Bool.eq_iff_iff]
  simp [h]
  omega

/-- The bytes of a copy agree where its data do. -/
theorem L1Sector.byte_congr {x y : L1Sector} {i : Nat} (h : ∀ j < 8, x.data.getLsbD (8 * i + j) = y.data.getLsbD (8 * i + j)) : x.byte i = y.byte i := by
  apply Nat.eq_of_testBit_eq
  intro j
  rw [L1Sector.byte, L1Sector.byte, testBit_bits, testBit_bits]
  by_cases hj : j < 8
  · simpa [hj, BitVec.getLsbD] using h j hj
  · simp [hj]

/-! ### The byte that a store leaves in the copy -/

/-- Byte `i` of `n` bytes of `v` laid at byte `lo` of a copy's data. -/
theorem L1Sector.byte_laid {x : L1Sector} {old : BitVec 256} {lo n v i : Nat} (hn : lo + n ≤ 32) (hi : i < n)
    (hx : x.data = (old &&& ~~~dataMask (byteMask lo n)) ||| (BitVec.ofNat 256 (v * 256 ^ lo) &&& dataMask (byteMask lo n))) :
    x.byte (lo + i) = v / 256 ^ i % 256 := by
  apply Nat.eq_of_testBit_eq
  intro j
  rw [L1Sector.byte, testBit_bits, show 256 ^ i = 2 ^ (8 * i) by rw [show 256 = 2 ^ 8 by norm_num, ← pow_mul],
    show v / 2 ^ (8 * i) % 256 = bits v (8 * i) 8 from rfl, testBit_bits]
  by_cases hj : j < 8
  · have hm : (dataMask (byteMask lo n)).getLsbD (8 * (lo + i) + j) = true := by
      rw [getLsbD_dataMask _ _ (by omega), getLsbD_byteMask _ _ _ (by omega)]
      simp; omega
    have hd : x.data.getLsbD (8 * (lo + i) + j) = (BitVec.ofNat 256 (v * 256 ^ lo)).getLsbD (8 * (lo + i) + j) := by
      rw [hx, BitVec.getLsbD_or, BitVec.getLsbD_and, BitVec.getLsbD_and, BitVec.getLsbD_not, hm]; simp
    rw [show x.data.toNat.testBit (8 * (lo + i) + j) = x.data.getLsbD (8 * (lo + i) + j) from rfl, hd, BitVec.getLsbD_ofNat,
      show 256 ^ lo = 2 ^ (8 * lo) by rw [show 256 = 2 ^ 8 by norm_num, ← pow_mul], Nat.mul_comm v, Nat.testBit_two_pow_mul]
    have h1 : 8 * (lo + i) + j < 256 := by omega
    have h2 : 8 * lo ≤ 8 * (lo + i) + j := by omega
    have h3 : 8 * (lo + i) + j - 8 * lo = 8 * i + j := by omega
    simp [h1, h2, h3]
  · simp [hj]

/-- Bytes read one by one make up the value whose bytes they are. -/
theorem State.coreBytes_eq {s : State} {c pa n v : Nat} (h : ∀ i < n, s.coreByte c (pa + i) = v / 256 ^ i % 256) : s.coreBytes c pa n = v % 256 ^ n := by
  induction n generalizing pa v with
  | zero => simp [State.coreBytes, Nat.mod_one]
  | succ n ih =>
    have h0 := h 0 (by omega)
    have hs : s.coreBytes c (pa + 1) n = v / 256 % 256 ^ n := ih fun i hi => by
      have := h (i + 1) (by omega)
      rw [show pa + (i + 1) = pa + 1 + i by omega] at this
      rw [this, Nat.div_div_eq_div_mul, Nat.pow_succ, Nat.mul_comm]
    rw [State.coreBytes, hs, Nat.pow_succ', Nat.mod_mul]
    simpa using h0

/-! ### Copies after an operation -/

/-- Finding in a table whose entries have each been changed, the keys staying. -/
theorem tfind_map {α β : Type} (t : Table α) (f : Nat → α → β) (g : Nat × α → Nat × β) (hg : ∀ e, g e = (e.1, f e.1 e.2)) (i : Nat) :
    tfind (t.map g) i = (tfind t i).map (f i) := by
  induction t with
  | nil => rfl
  | cons e t ih =>
    rw [List.map_cons, hg]
    by_cases h : e.1 = i
    · subst h; simp [tfind]
    · simp [tfind, h, ih]

/-- Two copies of a sector that differ in their order only. -/
def SameCopy (x y : L1Sector) : Prop := y = { x with evict := y.evict, used := y.used }

/-- Touching a line changes of its copies only their order. -/
theorem State.l1Touch_find {s : State} {c sec : Nat} {x : L1Sector} (j : Nat) (h : tfind (s.core c).l1 sec = some x) :
    ∃ y, tfind ((s.l1Touch c j).core c).l1 sec = some y ∧ SameCopy x y := by
  unfold State.l1Touch
  simp only [State.core_setCore_self]
  rw [tfind_map _ (fun i (x : L1Sector) => if i / 4 = j / 4 then { x with evict := s.evictNow, used := s.hearth.touches } else x) _
    (fun e => by split <;> rfl), h]
  refine ⟨_, rfl, ?_⟩
  split <;> rfl

/-- A store into a sector whose copy, if any, has no error leaves a copy with its bytes, dirty, in place. -/
theorem State.l1Store_find {s : State} {c sec lo n v : Nat} (h : CleanAt s c sec) : ∃ (x : L1Sector) (old : BitVec 256),
    tfind ((s.l1Store c sec lo n v).core c).l1 sec = some x ∧ CleanAt (s.l1Store c sec lo n v) c sec ∧
    x.data = (old &&& ~~~dataMask (byteMask lo n)) ||| (BitVec.ofNat 256 (v * 256 ^ lo) &&& dataMask (byteMask lo n)) ∧
    ∀ i < 32, (byteMask lo n).getLsbD i = true → x.dirty.getLsbD i = true := by
  unfold State.l1Store
  dsimp only
  have hs : CleanAt (if (tfind (s.core c).l1 sec).isSome then s else s.l1Evict c sec) c sec := by
    split
    · exact h
    · exact h.l1Evict sec
  generalize (if (tfind (s.core c).l1 sec).isSome then s else s.l1Evict c sec) = t at hs
  have hbad : ((tfind (t.core c).l1 sec).getD { have_ := 0, dirty := 0, data := 0, filled := t.tick.toNat, wrote := 0 }).bad = false := by
    cases hx : tfind (t.core c).l1 sec with
    | none => rfl
    | some y => exact hs.1 y hx
  generalize ((tfind (t.core c).l1 sec).getD { have_ := 0, dirty := 0, data := 0, filled := t.tick.toNat, wrote := 0 }) = x at hbad
  obtain ⟨y, hy, hc⟩ := State.l1Touch_find (c := c) (s := t.setCore c { t.core c with
    l1 := tput (t.core c).l1 sec { x with
      have_ := x.have_ ||| byteMask lo n, dirty := x.dirty ||| byteMask lo n
      data := (x.data &&& ~~~dataMask (byteMask lo n)) ||| (BitVec.ofNat 256 (v * 256 ^ lo) &&& dataMask (byteMask lo n))
      wrote := if x.dirty = 0 then t.tick.toNat else x.wrote, bad := x.bad && byteMask lo n != byteMask 0 32 }
    sig := (t.core c).sig ||| sigBits (32 * sec) }) (sec := sec) sec (by rw [State.core_setCore_self]; exact tfind_tput_self _ _ _)
  refine ⟨y, x.data, hy, ⟨fun z hz => ?_, hs.2⟩, ?_, fun i _ hi => ?_⟩
  · obtain rfl := Option.some.inj (hy.symm.trans hz)
    rw [hc]; simp [hbad]
  · rw [hc]
  · rw [hc]; simp [hi]

/-- A fill leaves a whole copy, which has the dirty bytes of the copy before. -/
theorem State.l1Fill_find {s : State} {c sec : Nat} {x : L1Sector} (h : tfind (s.core c).l1 sec = some x) :
    ∃ y, tfind ((s.l1Fill c sec).core c).l1 sec = some y ∧ y.have_ = byteMask 0 32 ∧ ∀ i < 32, x.dirty.getLsbD i = true → y.byte i = x.byte i := by
  unfold State.l1Fill
  simp only [h]
  split
  · rename_i hw
    obtain ⟨y, hy, hc⟩ := State.l1Touch_find sec h
    exact ⟨y, hy, by rw [hc]; exact hw, fun i _ _ => by rw [hc]; rfl⟩
  · obtain ⟨y, hy, hc⟩ := State.l1Touch_find (c := c) (s := (s.cacheTouch (32 * sec) 32 false).setCore c { (s.cacheTouch (32 * sec) 32 false).core c with
      l1 := tput ((s.cacheTouch (32 * sec) 32 false).core c).l1 sec { x with
        have_ := byteMask 0 32
        data := (x.data &&& dataMask x.dirty) ||| (BitVec.ofNat 256 ((s.cacheTouch (32 * sec) 32 false).rawRead (32 * sec) 32) &&& ~~~dataMask x.dirty)
        filled := (s.cacheTouch (32 * sec) 32 false).tick.toNat } }) (sec := sec) sec (by rw [State.core_setCore_self]; exact tfind_tput_self _ _ _)
    refine ⟨y, hy, by rw [hc], fun i hi hd => L1Sector.byte_congr fun j hj => ?_⟩
    have hm : (dataMask x.dirty).getLsbD (8 * i + j) = true := by
      rw [getLsbD_dataMask _ _ (by omega), show (8 * i + j) / 8 = i by omega]; exact hd
    rw [hc, BitVec.getLsbD_or, BitVec.getLsbD_and, BitVec.getLsbD_and, BitVec.getLsbD_not, hm]; simp

/-! ### Bytes within a sector -/

/-- Bytes within one sector touch that one only. -/
theorem sectorsOf_within {pa n : Nat} (h0 : 0 < n) (h : pa % 32 + n ≤ 32) : sectorsOf pa n = [pa / 32] := by
  have hd : (pa + n - 1) / 32 - pa / 32 + 1 = 1 := by omega
  simp [sectorsOf, Nat.ne_of_gt h0, hd]

/-- The bytes of a sector lie in one frame. -/
theorem State.isFree_congr (s : State) {a b : Nat} (h : a / 32 = b / 32) : s.isFree a = s.isFree b := by
  have h1 : a / 0x200000 = b / 0x200000 := by omega
  have h2 : a < 0x6000000000 ↔ b < 0x6000000000 := by omega
  simp only [State.isFree, h1, h2]

/-- Homed memory is graphics memory or the Mantel partition (R331). -/
theorem State.paRegion_of_homed {s : State} {pa : Nat} (h : s.isHomed pa = true) : s.paRegion pa = some .gmem ∨ s.paRegion pa = some .mantel := by
  unfold State.isHomed at h
  split at h <;> simp_all

theorem State.peerRefused_of_homed {s : State} {pa : Nat} (h : s.isHomed pa = true) : s.peerRefused pa = false := by
  rcases s.paRegion_of_homed h with e | e <;> simp [State.peerRefused, e]

/-- A write at the home slice of bytes that are no registered state word. -/
theorem State.homeWrite_of_homed {s : State} {pa n : Nat} (v : Nat) (k : WKind) (h : s.isHomed pa = true) (hw : s.stateWord pa n = none) :
    s.homeWrite pa n v k = some ((s.rawWrite pa n v).cacheTouch pa n true s.evictNow) := by
  rcases s.paRegion_of_homed h with e | e <;> simp only [State.homeWrite, hw, e]

theorem State.rawWrite_of_used {s : State} {pa : Nat} (n v : Nat) (h : s.isFree pa = false) :
    s.rawWrite pa n v = { s with mem := (s.mem.write pa n v).clearPoison pa n } := by
  simp [State.rawWrite, h]

theorem Memory.read_congr {m m' : Memory} (h : ∀ k, m.byte k = m'.byte k) (a n : Nat) : m.read a n = m'.read a n := by
  induction n generalizing a with
  | zero => rfl
  | succ n ih => simp [Memory.read, h, ih]

/-- What is written at the device point, in a frame in use, reads back there. -/
theorem State.read_rawWrite {s : State} {pa : Nat} (n v : Nat) (h : s.isFree pa = false) : (s.rawWrite pa n v).mem.read pa n = v % 256 ^ n := by
  rw [s.rawWrite_of_used n v h]
  exact (Memory.read_congr (m := (s.mem.write pa n v).clearPoison pa n) (m' := s.mem.write pa n v) (fun _ => rfl) pa n).trans (Memory.read_write _ _ _ _)

/-- Bytes of frames in use read at the device point as memory holds them. -/
theorem State.rawRead_of_used {s : State} {pa n : Nat} (h : ∀ i < n, s.isFree (pa + i) = false) : s.rawRead pa n = s.mem.read pa n := by
  induction n generalizing pa with
  | zero => rfl
  | succ n ih =>
    have h0 : s.isFree pa = false := h 0 (by omega)
    rw [State.rawRead, Memory.read, State.byteAt, h0, ih fun i hi => by rw [Nat.add_assoc, Nat.add_comm 1]; exact h (i + 1) (by omega)]
    simp

/-! ### Stores and loads of a core -/

/-- A core finds no poison in a sector without an error. -/
theorem CleanAt.l1Poison {s : State} {c sec : Nat} (h : CleanAt s c sec) : s.l1Poison c sec = false := by
  have hp : s.mem.poison.contains sec = false := by simpa using h.2
  unfold State.l1Poison
  split
  · rfl
  · split
    · rename_i x hx
      rw [h.1 x hx, hp]; simp
    · exact hp

/-- Through an L1: the store leaves the bytes dirty in a copy, and the load takes them from there. -/
theorem State.coreRead_l1Store {s : State} {c pa n x : Nat} (hn : 0 < n) (hp : pa % 32 + n ≤ 32) (hu : s.l1Used c pa = true)
    (hf : s.isFree pa = false) (hc : CleanAt s c (pa / 32)) :
    ((s.l1Store c (pa / 32) (pa % 32) n x).coreRead c pa n).2 = .ok (x % 256 ^ n) := by
  obtain ⟨y, old, hy, hclean, hdata, hdirty⟩ := State.l1Store_find (lo := pa % 32) (n := n) (v := x) hc
  have ht := s.l1Store_onlyL1 c (pa / 32) (pa % 32) n x
  have hpo : (s.l1Store c (pa / 32) (pa % 32) n x).l1Poison c (pa / 32) = false := hclean.l1Poison
  generalize s.l1Store c (pa / 32) (pa % 32) n x = t at *
  have hcl : ∀ sec ∈ sectorsOf pa n, ¬ t.l1Poison c sec = true := by
    intro sec hsec
    rw [sectorsOf_within hn hp, List.mem_singleton] at hsec
    rw [hsec, hpo]; simp
  have hr : (t.coreRead c pa n).1 = t.l1Fill c (pa / 32) := by
    simp [State.coreRead, ht.l1Used, hu, sectorsOf_within hn hp, hpo]
  rw [State.coreRead_of_clean (by rw [ht.l1Used, hu]) hcl, hr]
  obtain ⟨z, hz, hwhole, hbyte⟩ := State.l1Fill_find hy
  refine congrArg PRes.ok (State.coreBytes_eq fun i hi => ?_)
  have hfree : (t.l1Fill c (pa / 32)).isFree (pa + i) = false := by
    rw [(t.l1Fill_onlyL1 c (pa / 32)).caches.isFree, ht.caches.isFree, s.isFree_congr (b := pa) (by omega)]; exact hf
  have hm : (byteMask (pa % 32) n).getLsbD (pa % 32 + i) = true := by
    rw [getLsbD_byteMask _ _ _ (by omega)]; simp; omega
  rw [State.coreByte, show (pa + i) / 32 = pa / 32 by omega, hz, show (pa + i) % 32 = pa % 32 + i by omega]
  simp only [L1Sector.gives, hwhole, hfree]
  exact (hbyte _ (by omega) (hdirty _ (by omega) hm)).trans (L1Sector.byte_laid hp hi hdata)

/-- A store through the L1 of bytes within a sector is one store into it. -/
theorem State.coreWrite_of_used {s : State} {c pa n : Nat} (x : Nat) (k : WKind) (hn : 0 < n) (hp : pa % 32 + n ≤ 32) (hu : s.l1Used c pa = true)
    (hf : s.isFree pa = false) (hb : s.mem.poisoned pa n = false) (hw : s.stateWord pa n = none) :
    s.coreWrite c pa n x k = some (s.l1Store c (pa / 32) (pa % 32) n x) := by
  have hlo : (if 32 * (pa / 32) ≤ pa then pa - 32 * (pa / 32) else 0) = pa % 32 := by rw [if_pos (by omega)]; omega
  have hskip : 32 * (pa / 32) + pa % 32 - pa = 0 := by omega
  have hmin : min (32 - pa % 32) n = n := by omega
  simp [State.coreWrite, hu, hb, hw, hf, sectorsOf_within hn hp, hlo, hskip, hmin]

/-- Where the L1 is not used, the store writes at the home slice and the load reads there. -/
theorem State.coreRead_homeWrite {s t : State} {c pa n x : Nat} (hn : 0 < n) (hp : pa % 32 + n ≤ 32) (hu : s.l1Used c pa = false)
    (hh : s.isHomed pa = true) (hf : s.isFree pa = false) (hc : CleanAt s c (pa / 32))
    (ht : t = (s.rawWrite pa n x).cacheTouch pa n true s.evictNow) : (t.coreRead c pa n).2 = .ok (x % 256 ^ n) := by
  have ho : OnlyL1 s t c := by
    rw [ht]; exact .of_cores (((OnlyCaches.refl s).rawWrite _ _ _).cacheTouch _ _ _ _) (State.rawWrite_cores _ _ _ _)
  have hm : t.mem = (s.rawWrite pa n x).mem := by rw [ht]; rfl
  have hpo : t.mem.poisoned pa n = false := by
    rw [Memory.poisoned, sectorsOf_within hn hp, hm]
    simpa using State.rawWrite_poison hc.2
  have hr : t.rawRead pa n = x % 256 ^ n := by
    rw [State.rawRead_of_used fun i hi => ?_, hm, State.read_rawWrite n x hf]
    rw [ho.caches.isFree, s.isFree_congr (b := pa) (by omega)]; exact hf
  rw [State.coreRead_of_unused n (by rw [ho.l1Used, hu])]
  simp only [State.homeRead, State.peerRefused_of_homed (show t.isHomed pa = true by rw [ho.caches.isHomed, hh]), hpo, hr]
  rfl

/-- What a core stores within a sector it reads back (R181, R182). -/
theorem State.coreRead_coreWrite {s : State} {c pa n : Nat} (x : Nat) (hn : 0 < n) (hp : pa % 32 + n ≤ 32) (hh : s.isHomed pa = true)
    (hf : s.isFree pa = false) (hb : s.mem.poisoned pa n = false) (hw : s.stateWord pa n = none)
    (hbad : ∀ y, tfind (s.core c).l1 (pa / 32) = some y → y.bad = false) :
    ∃ t, s.coreWrite c pa n x = some t ∧ (t.coreRead c pa n).2 = .ok (x % 256 ^ n) := by
  have hc : CleanAt s c (pa / 32) := by
    refine ⟨hbad, ?_⟩
    rw [Memory.poisoned, sectorsOf_within hn hp] at hb
    simpa using hb
  cases hu : s.l1Used c pa with
  | true => exact ⟨_, State.coreWrite_of_used x {} hn hp hu hf hb hw, State.coreRead_l1Store hn hp hu hf hc⟩
  | false =>
    have ho : OnlyL1 s ((s.l1WriteBackAll c).l1Flush c pa n) c := (s.l1WriteBackAll_onlyL1 c).trans (State.l1Flush_onlyL1 _ _ _ _)
    have hh' : ((s.l1WriteBackAll c).l1Flush c pa n).isHomed pa = true := by rw [ho.caches.isHomed, hh]
    refine ⟨_, ?_, State.coreRead_homeWrite hn hp (by rw [ho.l1Used, hu]) hh' (by rw [ho.caches.isFree, hf]) (hc.l1WriteBackAll.l1Flush pa n) rfl⟩
    simp only [State.coreWrite, hu, Bool.false_and]
    exact State.homeWrite_of_homed x {} hh' (by rw [ho.caches.stateWord, hw])

/-! ### Writes at the device point -/

@[simp] theorem State.logWrite_mem (s : State) (pa n : Nat) : (s.logWrite pa n).mem = s.mem := by rw [State.logWrite]
@[simp] theorem State.logWrite_cores (s : State) (pa n : Nat) : (s.logWrite pa n).cores = s.cores := by rw [State.logWrite]
@[simp] theorem State.logWrite_stoker (s : State) (pa n : Nat) : (s.logWrite pa n).stoker = s.stoker := by rw [State.logWrite]
@[simp] theorem State.cacheTouch_mem (s : State) (pa n : Nat) (wr : Bool) (ev : Nat) : (s.cacheTouch pa n wr ev).mem = s.mem := rfl
@[simp] theorem State.cacheTouch_cores (s : State) (pa n : Nat) (wr : Bool) (ev : Nat) : (s.cacheTouch pa n wr ev).cores = s.cores := rfl
@[simp] theorem State.cacheTouch_stoker (s : State) (pa n : Nat) (wr : Bool) (ev : Nat) : (s.cacheTouch pa n wr ev).stoker = s.stoker := rfl

/-- A write of a unit at the device point: its bytes, and nothing of the cores or the Stoker (R181, R354). -/
theorem State.deviceWrite_of_homed {s : State} {pa n : Nat} (x : Nat) (k : WKind) (hh : s.isHomed pa = true) (hf : s.isFree pa = false)
    (hw : s.stateWord pa n = none) :
    ∃ t, s.deviceWrite pa n x k = some t ∧ t.mem.read pa n = x % 256 ^ n ∧ SameBytesBut s t pa n ∧ t.cores = s.cores ∧ t.stoker = s.stoker := by
  have hd : s.deviceWrite pa n x k = some (((s.rawWrite pa n x).cacheTouch pa n true s.evictNow).logWrite pa n) := by
    rw [State.deviceWrite, State.homeWrite_of_homed x k hh hw]; rfl
  obtain ⟨t, ht, hmem, hcores, hstoker⟩ : ∃ t, s.deviceWrite pa n x k = some t ∧ t.mem = (s.rawWrite pa n x).mem ∧
      t.cores = (s.rawWrite pa n x).cores ∧ t.stoker = (s.rawWrite pa n x).stoker := ⟨_, hd, by simp, by simp, by simp⟩
  refine ⟨t, ht, by rw [hmem, State.read_rawWrite n x hf], fun j hj => by rw [hmem, s.rawWrite_byte_outside pa n x j hj],
    by rw [hcores, State.rawWrite_cores], by rw [hstoker, s.rawWrite_of_used n x hf]⟩

/-- Settles O21: through an L1 the copy keeps the dirty bytes; without one, and for a unit, the home slice holds them. -/
theorem whatIsStoredReadsBack : Obligations.WhatIsStoredReadsBack := by
  unfold Obligations.WhatIsStoredReadsBack
  exact ⟨fun _ _ _ _ x hn hp hh hf hb hw hbad => State.coreRead_coreWrite x hn hp hh hf hb hw hbad,
    fun _ _ _ x k hh hf hw => State.deviceWrite_of_homed x k hh hf hw⟩

end Sys2Proof.Machine
end

section
/-! SUPPORT. The words that enter a Crucible queue: stalls, checks and acceptance (R272, R273; O27). -/

namespace Sys2Proof.Machine

/-! ### Acceptance -/

/-- An accepted command: it counts, it is the last of its queue, and the fragment goes on. -/
theorem View.crucPush_core (v : View) (g : Group) (x : CrucCmd) : ((v.crucPush g x).core v.c).accepts = (v.s.core v.c).accepts + 1 := by
  simp [View.crucPush, View.next]

theorem View.crucPush_group (v : View) (g : Group) (x : CrucCmd) :
    (v.crucPush g x).group? v.c v.slot = some ({ g with cruc := { g.cruc with queue := g.cruc.queue ++ [x] } }.setNode v.onward) :=
  State.group_setGroup_self _ _ _ _

theorem CrucState.full_eq_true {x : CrucState} (h : 16 ≤ x.queue.length) : x.full = true := decide_eq_true h
theorem CrucState.full_eq_false {x : CrucState} (h : x.queue.length < 16) : x.full = false := decide_eq_false (Nat.not_le.2 h)

/-- The Crucible's words are performed in full service (R470). -/
theorem onFrag_crucUniform {s : State} {i : Instr} {v : View} {f : View → State} (h : s.decodes i v) (hs : s.box.stage = 4) :
    onFrag s (fun v => v.crucUniform i f) = .next (f v) := by
  rw [onFrag_of_view h.1]
  have hv : v.s.box.stage = 4 := by rw [State.view_s h.1]; exact hs
  simp [View.crucUniform, View.uniform, h.2, hv]

/-- What a command word leaves: it stalls on a full queue, traps on the first failed check, or takes an entry (R272, R273). -/
theorem exec_crucWord {s : State} {v : View} {i : Instr} {checks : CrucChecks} {mk : CrucCmd → CrucCmd} {out : Out} {f : View → State}
    (hd : s.decodes i v) (hs : s.box.stage = 4) (he : out = onFrag s fun v => v.crucUniform i f) (hf : f v = v.crucWord i checks mk) :
    (16 ≤ v.g.cruc.queue.length → out = .next s) ∧
    (v.g.cruc.queue.length < 16 →
      (∀ cause d, v.g.cruc.reject checks = some (cause, d) → out = .next (v.trapAll cause (BitVec.ofNat 64 d))) ∧
      (v.g.cruc.reject checks = none → ∃ t, out = .next t ∧ (t.core v.c).accepts = (s.core v.c).accepts + 1 ∧
        t.group? v.c v.slot = some ({ v.g with cruc := { v.g.cruc with queue := v.g.cruc.queue ++ [mk (v.crucCmd i)] } }.setNode v.onward))) := by
  rw [he, onFrag_crucUniform hd hs, hf]
  refine ⟨fun h => ?_, fun h => ⟨fun cause d hr => ?_, fun hr => ?_⟩⟩
  · simp only [View.crucWord, CrucState.full_eq_true h, if_true, State.view_s hd.1]
  · simp only [View.crucWord, CrucState.full_eq_false h, hr]
    rfl
  · refine ⟨_, rfl, ?_⟩
    have hp : v.crucWord i checks mk = v.crucPush v.g (mk (v.crucCmd i)) := by
      simp only [View.crucWord, CrucState.full_eq_false h, hr]
      rfl
    rw [hp]
    exact ⟨by rw [View.crucPush_core, State.view_s hd.1], View.crucPush_group _ _ _⟩

/-! ### The checks -/

theorem CrucState.ownsTile_iff (x : CrucState) (t : Nat) : x.ownsTile t = true ↔ x.tiles.getLsbD t = true ∧ x.relTiles.getLsbD t = false := by
  simp [CrucState.ownsTile]

theorem CrucState.ownsMask_iff (x : CrucState) (m : Nat) : x.ownsMask m = true ↔ x.masks.getLsbD m = true ∧ x.relMasks.getLsbD m = false := by
  simp [CrucState.ownsMask]

section
variable {x : CrucState} {k : CrucChecks}

theorem CrucState.find_tile_none (h : ∀ t ∈ k.tiles, x.ownsTile t = true) : (k.tiles.find? fun t => !x.ownsTile t) = none := by simpa using h
theorem CrucState.find_mask_none (h : ∀ m ∈ k.masks, x.ownsMask m = true) : (k.masks.find? fun m => !x.ownsMask m) = none := by simpa using h

/-- The first tile that is not the group's. -/
theorem CrucState.reject_tile {t : Nat} (h : ¬ x.ownsTile t = true) (ht : k.tiles.head? = some t) : x.reject k = some (causeAccess, 0x100000000 + t) := by
  obtain ⟨ts, hts⟩ := List.head?_eq_some_iff.1 ht
  have hf : (k.tiles.find? fun t => !x.ownsTile t) = some t := by simp [hts, h]
  simp only [CrucState.reject, hf]

/-- Then the first mask pair. -/
theorem CrucState.reject_mask {m : Nat} (h : ∀ t ∈ k.tiles, x.ownsTile t = true) (hm : ¬ x.ownsMask m = true) (hh : k.masks.head? = some m) :
    x.reject k = some (causeAccess, 0x200000000 + m) := by
  obtain ⟨ms, hms⟩ := List.head?_eq_some_iff.1 hh
  have hf : (k.masks.find? fun m => !x.ownsMask m) = some m := by simp [hms, hm]
  simp only [CrucState.reject, CrucState.find_tile_none h, hf]

/-- Where every index is the group's, the fields decide in their order. -/
theorem CrucState.reject_fields (h : ∀ t ∈ k.tiles, x.ownsTile t = true) (hm : ∀ m ∈ k.masks, x.ownsMask m = true) :
    x.reject k = (k.fmt.map fun d => (causeCrucFmt, d)).or ((k.access.map fun a => (causeAccess, a)).or (k.bank.map fun a => (causeCrucBank, a))) := by
  simp only [CrucState.reject, CrucState.find_tile_none h, CrucState.find_mask_none hm]
  cases k.fmt <;> cases k.access <;> simp

theorem CrucState.reject_eq_none_iff : x.reject k = none ↔
    (∀ t ∈ k.tiles, x.ownsTile t = true) ∧ (∀ m ∈ k.masks, x.ownsMask m = true) ∧ k.fmt = none ∧ k.access = none ∧ k.bank = none := by
  constructor
  · intro h
    have ht : ∀ t ∈ k.tiles, x.ownsTile t = true := by
      by_contra hn
      cases hf : k.tiles.find? fun t => !x.ownsTile t with
      | none => exact hn (by simpa using hf)
      | some t => simp [CrucState.reject, hf] at h
    have hm : ∀ m ∈ k.masks, x.ownsMask m = true := by
      by_contra hn
      cases hf : k.masks.find? fun m => !x.ownsMask m with
      | none => exact hn (by simpa using hf)
      | some t => simp [CrucState.reject, CrucState.find_tile_none ht, hf] at h
    rw [CrucState.reject_fields ht hm] at h
    exact ⟨ht, hm, by simpa [Option.or_eq_none_iff] using h⟩
  · rintro ⟨ht, hm, hf, ha, hb⟩
    rw [CrucState.reject_fields ht hm, hf, ha, hb]; rfl

end

/-- Settles O27: each command word is crucWord of its checks and of what it captures; the checks by their order. -/
theorem crucibleCommandWords : Obligations.CrucibleCommandWords := by
  unfold Obligations.CrucibleCommandWords
  constructor
  · intro s v w hs h msk mskw kv blank enters command
    have hblank : ∀ i, s.decodes i v → v.crucCmd i = blank i := fun i hd => by rw [View.crucCmd, State.view_s hd.1]
    have cmd : ∀ {i checks} (mk : CrucCmd → CrucCmd) {f : View → State}, exec i s = onFrag s (fun v => v.crucUniform i f) →
        f v = v.crucWord i checks mk → command i checks (mk (blank i)) := fun mk f he hf hd => by
      rw [← hblank _ hd]
      exact exec_crucWord hd hs he hf
    refine ⟨cmd (fun x => { x with ha := h w.a, hb := h w.b }) rfl rfl, cmd (fun x => { x with ha := h w.a, hb := h w.b, kv := kv }) rfl rfl,
      cmd id rfl rfl, cmd id rfl rfl, cmd id rfl rfl, cmd (fun x => { x with kv := [v.g.kreg w.a.toNat, v.g.kreg w.b.toNat] }) rfl rfl,
      cmd (fun x => { x with ha := h w.a }) rfl rfl, cmd (fun x => { x with ha := h w.a }) rfl rfl, fun hh => ?_, fun hh hd => ?_⟩
    · exact cmd (fun x => { x with kv := v.g.kvec w.a.toNat 4 }) rfl (by simp only [hh]; rfl)
    · refine (onFrag_crucUniform hd hs).trans ?_
      simp only [hh]
      rfl
  · intro x k owned ownedM
    have ho : ∀ t, owned t ↔ x.ownsTile t = true := fun t => (x.ownsTile_iff t).symm
    have hm : ∀ m, ownedM m ↔ x.ownsMask m = true := fun m => (x.ownsMask_iff m).symm
    simp only [ho, hm]
    refine ⟨CrucState.reject_eq_none_iff, fun t h ht => CrucState.reject_tile h ht, fun ht => ⟨fun m h hh => CrucState.reject_mask ht h hh, fun hms => ?_⟩⟩
    rw [CrucState.reject_fields ht hms]
    refine ⟨fun d hf => by rw [hf]; rfl, fun hf => ⟨fun a ha => by rw [hf, ha]; rfl, fun ha a hb => by rw [hf, ha, hb]; rfl⟩⟩

end Sys2Proof.Machine
end

section
/-! SUPPORT. Modes, claims, pairing, commits and drains of the Crucible (R264, R265, R278, R279, R294-R296; O28). -/

namespace Sys2Proof.Machine

/-! ### The mode word -/

theorem tsetOf_eq (w : CastWord) : tsetOf w = w.imm.extractLsb' 16 16 := by
  ext i hi
  simp [tsetOf]

theorem msetOf_eq (w : CastWord) : msetOf w = w.imm.extractLsb' 8 8 := by
  ext i hi
  simp [msetOf]

theorem toNat_and_seven (x : Word) : (x &&& 7).toNat = x.toNat % 8 := by
  rw [BitVec.toNat_and]
  exact Nat.and_two_pow_sub_one_eq_mod x.toNat 3

/-- The mode word is well formed (R294). -/
theorem cmodeOk_iff (w : CastWord) : cmodeOk w = true ↔
    w.imm &&& 0xC0 = 0 ∧ (w.imm &&& 7).toNat ≤ 4 ∧ (w.imm.getLsbD 5 = true ∨ w.imm >>> 8 = 0) ∧ (w.imm.getLsbD 4 = true ∨ w.imm &&& 0xF = 0) := by
  simp [cmodeOk]

/-- The Crucible side once SETM has taken effect (R267). -/
def CrucState.mode (w : CastWord) (y : CrucState) : CrucState :=
  if w.imm.getLsbD 4 = true then { y with rm := w.imm.toNat % 8, sat := w.imm.getLsbD 3 } else y

theorem setMode_eq (w : CastWord) (g : Group) : setMode w g = { g with cruc := g.cruc.mode w } := by
  unfold setMode CrucState.mode
  rw [toNat_and_seven]
  split <;> rfl

@[simp] theorem CrucState.mode_queue (w : CastWord) (y : CrucState) : (y.mode w).queue = y.queue := by
  unfold CrucState.mode; split <;> rfl

/-! ### The indices that queued releases are to free -/

/-- A command is a cmode. -/
def CrucCmd.isCmode (q : CrucCmd) : Bool := (cmodeRec q.word.toNat).isSome

theorem CrucCmd.isCmode_iff (q : CrucCmd) : q.isCmode = true ↔ ∃ w, decodeCast q.word = some (.cmode w) := by
  unfold CrucCmd.isCmode cmodeRec
  rw [BitVec.ofNat_toNat, BitVec.setWidth_eq]
  split <;> simp_all

/-- What a queued command adds to the indices that releases are to free. -/
def releaseStep (e : BitVec 16 × BitVec 8) (q : CrucCmd) : BitVec 16 × BitVec 8 :=
  if q.isCmode then (e.1 ||| (q.kv.getD 0 0).setWidth 16, e.2 ||| (q.kv.getD 1 0).setWidth 8) else e

theorem CrucState.releasing_eq (x : CrucState) : x.releasing = x.queue.foldl releaseStep (0, 0) := by
  unfold CrucState.releasing
  congr 1
  funext ⟨t, m⟩ q
  unfold releaseStep
  dsimp only
  split
  · rename_i w h
    rw [if_pos ((q.isCmode_iff).2 ⟨w, h⟩)]
  · rename_i h
    rw [if_neg fun hc => (q.isCmode_iff.1 hc).elim h]

theorem foldl_releaseStep_bits (l : List CrucCmd) (e : BitVec 16 × BitVec 8) :
    (∀ i < 16, (l.foldl releaseStep e).1.getLsbD i = (e.1.getLsbD i || l.any fun q => q.isCmode && (q.kv.getD 0 0).getLsbD i)) ∧
    (∀ i < 8, (l.foldl releaseStep e).2.getLsbD i = (e.2.getLsbD i || l.any fun q => q.isCmode && (q.kv.getD 1 0).getLsbD i)) := by
  induction l generalizing e with
  | nil => simp
  | cons q l ih =>
    obtain ⟨h1, h2⟩ := ih (releaseStep e q)
    simp only [List.foldl_cons, List.any_cons]
    constructor <;> intro i hi
    · rw [h1 i hi]
      cases hq : q.isCmode <;> simp [releaseStep, hq, hi, Bool.or_assoc]
    · rw [h2 i hi]
      cases hq : q.isCmode <;> simp [releaseStep, hq, hi, Bool.or_assoc]

/-- An accepted release is to free a tile that the group owns and that no release before it frees. -/
theorem CrucState.released_tile (x : CrucState) {i : Nat} (hi : i < 16) :
    ((x.tiles &&& ~~~x.releasing.1).setWidth 32).getLsbD i = true ↔
      x.tiles.getLsbD i = true ∧ ∀ q ∈ x.queue, q.isCmode = true → (q.kv.getD 0 0).getLsbD i = false := by
  have hw : i < 32 := by omega
  rw [x.releasing_eq, BitVec.getLsbD_setWidth, BitVec.getLsbD_and, BitVec.getLsbD_not, (foldl_releaseStep_bits x.queue (0, 0)).1 i hi]
  simp [hi, hw]

theorem CrucState.released_mask (x : CrucState) {i : Nat} (hi : i < 8) :
    ((x.masks &&& ~~~x.releasing.2).setWidth 32).getLsbD i = true ↔
      x.masks.getLsbD i = true ∧ ∀ q ∈ x.queue, q.isCmode = true → (q.kv.getD 1 0).getLsbD i = false := by
  have hw : i < 32 := by omega
  rw [x.releasing_eq, BitVec.getLsbD_setWidth, BitVec.getLsbD_and, BitVec.getLsbD_not, (foldl_releaseStep_bits x.queue (0, 0)).2 i hi]
  simp [hi, hw]

/-! ### Requests for indices -/

theorem CrucState.holds_iff (x : CrucState) : x.holds = true ↔ x.tiles &&& ~~~x.relTiles ≠ 0 ∨ x.masks &&& ~~~x.relMasks ≠ 0 := by
  simp [CrucState.holds]

/-- Nothing is dropped of a core where the fragment has no request. -/
theorem State.undoClaim_of_none {s : State} {c slot node : Nat} {f : Option Nat} (h : ∀ q ∈ (s.core c).claims, q.slot = slot → q.node ≠ node) :
    s.undoClaim c slot node f = s := by
  have hf : (s.core c).claims.find? (·.of slot node f) = none := by
    rw [List.find?_eq_none]
    intro q hq ho
    simp only [ClaimReq.of, Bool.and_eq_true, beq_iff_eq] at ho
    exact h q hq ho.1.1 ho.1.2
  simp only [State.undoClaim, hf]

/-- A trap of a word that claims is a trap where the fragment has no request. -/
theorem View.trapClaim_of_none {v : View} (cause : Nat) (d : DWord)
    (h : ∀ k ∈ [v.c, partner v.c], ∀ q ∈ (v.s.core k).claims, q.slot = v.slot → q.node ≠ v.nd.id) : v.trapClaim cause d = v.trapAll cause d := by
  have hl : v.s.letClaims v.c v.slot v.nd.id = v.s := by
    unfold State.letClaims
    rw [State.undoClaim_of_none (h _ (by simp)), State.undoClaim_of_none (h _ (by simp))]
  rw [View.trapClaim, hl]

/-- The indices that a set of bits names. -/
theorem mem_setBits {m n i : Nat} : i ∈ setBits m n ↔ i < n ∧ m.testBit i = true := by
  simp [setBits]

theorem tfind_foldl_tput {α : Type} (l : List Nat) (t : Table α) (x : α) (i : Nat) :
    tfind (l.foldl (fun t i => tput t i x) t) i = if i ∈ l then some x else tfind t i := by
  induction l generalizing t with
  | nil => simp
  | cons a l ih =>
    rw [List.foldl_cons, ih]
    by_cases h : i ∈ l
    · simp [h]
    · by_cases ha : i = a
      · subst ha; simp
      · simp [h, ha]

theorem tfind_foldl_tdel {α : Type} (l : List Nat) (t : Table α) (i : Nat) :
    tfind (l.foldl (fun t i => tdel t i) t) i = if i ∈ l then none else tfind t i := by
  induction l generalizing t with
  | nil => simp
  | cons a l ih =>
    rw [List.foldl_cons, ih]
    by_cases h : i ∈ l
    · simp [h]
    · by_cases ha : i = a
      · subst ha; simp
      · simp [h, ha]

/-- What a granted claim leaves: the owner of its indices, tiles of zeros and masks of ones (R264). -/
structure Granted (s : State) (c owner : Nat) (tiles : BitVec 16) (masks : BitVec 8) : Prop where
  tileOwner : ∀ i < 16, tiles.getLsbD i = true → tfind (s.core c).tileOwner i = some owner
  maskOwner : ∀ i < 8, masks.getLsbD i = true → tfind (s.core c).maskOwner i = some owner
  zeros : ∀ i < 16, tiles.getLsbD i = true → tget [] (s.core c).tiles i = []
  ones : ∀ i < 8, masks.getLsbD i = true → tget 0 (s.core c).masks i = BitVec.allOnes 128

theorem State.giveClaim_granted (s : State) (c owner : Nat) (tiles : BitVec 16) (masks : BitVec 8) :
    Granted (s.giveClaim c owner tiles masks) c owner tiles masks := by
  have ht : ∀ i < 16, tiles.getLsbD i = true → i ∈ setBits tiles.toNat 16 := fun i hi h => mem_setBits.2 ⟨hi, h⟩
  have hm : ∀ i < 8, masks.getLsbD i = true → i ∈ setBits masks.toNat 8 := fun i hi h => mem_setBits.2 ⟨hi, h⟩
  constructor <;> intro i hi h <;> simp only [State.giveClaim, State.core_setCore_self, tget, tfind_foldl_tput, tfind_foldl_tdel]
  · simp [ht i hi h]
  · simp [hm i hi h]
  · simp [ht i hi h]
  · simp [hm i hi h]

/-- A change of a core's other fields leaves what was granted. -/
theorem Granted.of_core {s t : State} {c owner : Nat} {tiles : BitVec 16} {masks : BitVec 8} (h : Granted s c owner tiles masks)
    (h1 : (t.core c).tileOwner = (s.core c).tileOwner) (h2 : (t.core c).maskOwner = (s.core c).maskOwner) (h3 : (t.core c).tiles = (s.core c).tiles)
    (h4 : (t.core c).masks = (s.core c).masks) : Granted t c owner tiles masks :=
  ⟨by rw [h1]; exact h.tileOwner, by rw [h2]; exact h.maskOwner, by rw [h3]; exact h.zeros, by rw [h4]; exact h.ones⟩

theorem State.endClaim_granted {s : State} {c owner slot node : Nat} {f : Option Nat} {tiles : BitVec 16} {masks : BitVec 8}
    (h : Granted s c owner tiles masks) : Granted (s.endClaim c slot node f) c owner tiles masks := by
  refine h.of_core ?_ ?_ ?_ ?_ <;> simp [State.endClaim]

theorem View.crucPush_granted {v : View} {g : Group} {x : CrucCmd} {c owner : Nat} {tiles : BitVec 16} {masks : BitVec 8}
    (h : Granted v.s c owner tiles masks) : Granted (v.crucPush g x) c owner tiles masks := by
  by_cases hc : c = v.c
  · subst hc
    refine h.of_core ?_ ?_ ?_ ?_ <;> simp [View.crucPush, View.next]
  · refine h.of_core ?_ ?_ ?_ ?_ <;> simp [View.crucPush, View.next, hc]

/-- A claim where nobody waits and the indices are free is granted at once. -/
theorem State.claim_granted {s : State} {c slot node : Nat} {f : Option Nat} {tiles : BitVec 16} {masks : BitVec 8}
    (hc : (s.core c).claims = []) (hf : s.claimFree c tiles masks = true) :
    (s.claim c slot node f tiles masks).2 = true ∧
      Granted (s.claim c slot node f tiles masks).1 c (if f.isSome then 1000 + slot else slot) tiles masks := by
  simp only [State.claim, State.claimNew, hc, hf, List.find?_nil, List.all_nil, Bool.and_self, if_true]
  exact ⟨trivial, State.giveClaim_granted _ _ _ _ _⟩

/-- A claim where nobody waits and the indices are taken waits. -/
theorem State.claim_waits {s : State} {c slot node : Nat} {f : Option Nat} {tiles : BitVec 16} {masks : BitVec 8}
    (hc : (s.core c).claims = []) (hf : s.claimFree c tiles masks = false) :
    s.claim c slot node f tiles masks = (s.setCore c { s.core c with
      claims := [{ slot := slot, node := node, tiles := tiles, masks := masks, forCore := f, granted := false, word := s.cur.word }] }, false) := by
  simp only [State.claim, State.claimNew, hc, hf, List.find?_nil, Bool.false_and]
  rfl

theorem partner_ne (c : Nat) : partner c ≠ c := by
  unfold partner; omega

/-! ### What each control word does -/

/-- A command of `i` with cells `kv` is the last of the queue, and `y` is the rest of the group's Crucible side. -/
def View.Queued (v : View) (s : State) (i : Instr) (kv : List Word) (y : CrucState) (t : State) : Prop :=
  ∃ q : CrucCmd, q.word = s.wordOf i ∧ q.pc = v.nd.pc ∧ q.batch = v.g.cruc.open_ ∧ q.kv = kv ∧ q.done = false ∧
    t.group? v.c v.slot = some ({ v.g with cruc := { y with queue := v.g.cruc.queue ++ [q] } }.setNode v.onward)

/-- An accepted command is queued, whatever its word has changed in the state and of the group's Crucible side. -/
theorem View.crucPush_queued {v : View} {s s' : State} {g : Group} {q : CrucCmd} {i : Instr} {kv : List Word} {y : CrucState} (hs : v.s = s)
    (hg : g = { v.g with cruc := y }) (hy : y.queue = v.g.cruc.queue) (hq : q = { v.crucCmd i with kv := kv }) :
    v.Queued s i kv y (View.crucPush { v with s := s' } g q) := by
  subst hs hg hq
  refine ⟨{ v.crucCmd i with kv := kv }, rfl, rfl, rfl, rfl, rfl, ?_⟩
  rw [← hy]
  exact View.crucPush_group { v with s := s' } _ _

section
variable {s : State} {v : View} {w : CastWord} (hd : s.decodes (.cmode w) v) (hs : s.box.stage = 4) (hq : v.g.cruc.queue.length < 16)
include hd hs hq

theorem exec_cmode_of_illegal (hok : ¬ cmodeOk w = true) : exec (.cmode w) s = .next (v.trapAll 0x01 0) := by
  refine (onFrag_crucUniform hd hs).trans (congrArg _ ?_)
  simp only [CrucState.full_eq_false hq, hok]
  rfl

variable (hok : cmodeOk w = true)
include hok

/-- A mode word without SETC only sets the mode (R294). -/
theorem exec_cmode_of_mode (hc : ¬ w.imm.getLsbD 5 = true) :
    ∃ t, exec (.cmode w) s = .next t ∧ v.Queued s (.cmode w) [] (v.g.cruc.mode w) t := by
  refine ⟨_, onFrag_crucUniform hd hs, ?_⟩
  simp only [CrucState.full_eq_false hq, hok, hc]
  exact View.crucPush_queued (State.view_s hd.1) (setMode_eq w v.g) (by simp) rfl

variable (hc : w.imm.getLsbD 5 = true)
include hc

theorem exec_cmode_of_release (h0 : tsetOf w = 0 ∧ msetOf w = 0) (hp : v.g.cruc.paired = false) :
    ∃ t, exec (.cmode w) s = .next t ∧
      v.Queued s (.cmode w) [(v.g.cruc.tiles &&& ~~~v.g.cruc.releasing.1).setWidth 32, (v.g.cruc.masks &&& ~~~v.g.cruc.releasing.2).setWidth 32]
        (CrucState.mode w { v.g.cruc with relTiles := v.g.cruc.tiles, relMasks := v.g.cruc.masks }) t := by
  refine ⟨_, onFrag_crucUniform hd hs, ?_⟩
  simp only [CrucState.full_eq_false hq, hok, hc, if_pos h0, hp]
  exact View.crucPush_queued (State.view_s hd.1) (setMode_eq w _) (by simp) rfl

theorem exec_cmode_of_paired_release (h0 : tsetOf w = 0 ∧ msetOf w = 0) (hp : v.g.cruc.paired = true) :
    exec (.cmode w) s = .next (v.trapAll 0x01 0) := by
  refine (onFrag_crucUniform hd hs).trans (congrArg _ ?_)
  simp only [CrucState.full_eq_false hq, hok, hc, if_pos h0, hp]
  rfl

variable (h0 : ¬ (tsetOf w = 0 ∧ msetOf w = 0))
include h0

theorem exec_cmode_of_held (hh : v.g.cruc.holds = true ∨ v.g.cruc.paired = true) : exec (.cmode w) s = .next (v.trapClaim 0x01 0) := by
  have h : (v.g.cruc.holds || v.g.cruc.paired) = true := by simpa using hh
  refine (onFrag_crucUniform hd hs).trans (congrArg _ ?_)
  simp only [CrucState.full_eq_false hq, hok, hc, if_neg h0, h]
  rfl

variable (hh : v.g.cruc.holds = false) (hp : v.g.cruc.paired = false) (hn : (s.core v.c).claims = [])
include hh hp hn

theorem exec_cmode_of_granted (hf : s.claimFree v.c (tsetOf w) (msetOf w) = true) :
    ∃ t, exec (.cmode w) s = .next t ∧
      v.Queued s (.cmode w) [] (CrucState.mode w { v.g.cruc with tiles := v.g.cruc.tiles ||| tsetOf w, masks := v.g.cruc.masks ||| msetOf w }) t ∧
      Granted t v.c v.slot (tsetOf w) (msetOf w) := by
  obtain rfl := State.view_s hd.1
  obtain ⟨hgot, hgr⟩ := State.claim_granted (slot := v.slot) (node := v.nd.id) (f := none) hn hf
  refine ⟨_, onFrag_crucUniform hd hs, ?_⟩
  simp only [CrucState.full_eq_false hq, hok, hc, if_neg h0, hh, hp, hgot]
  exact ⟨View.crucPush_queued rfl (setMode_eq w _) (by simp) rfl, View.crucPush_granted (State.endClaim_granted hgr)⟩

theorem exec_cmode_of_waiting (hf : s.claimFree v.c (tsetOf w) (msetOf w) = false) :
    ∃ t, exec (.cmode w) s = .next t ∧ t.group? v.c v.slot = some (v.g.setNode { v.nd with st := .claim, fatal := [] }) ∧
      (t.core v.c).claims =
        [{ slot := v.slot, node := v.nd.id, tiles := tsetOf w, masks := msetOf w, forCore := none, granted := false, word := s.cur.word }] := by
  obtain rfl := State.view_s hd.1
  refine ⟨_, onFrag_crucUniform hd hs, ?_⟩
  simp only [CrucState.full_eq_false hq, hok, hc, if_neg h0, hh, hp, State.claim_waits hn hf]
  exact ⟨State.group_setGroup_self _ _ _ _, by simp [View.waitClaim]⟩

end

/-! ### Pairing -/

section
variable {s : State} {v : View} (hs : s.box.stage = 4) (hq : v.g.cruc.queue.length < 16)
include hs hq

theorem exec_cpair_of_granted (hd : s.decodes .cpair v) (hh : v.g.cruc.holds = true) (hp : v.g.cruc.paired = false)
    (hn : (s.core (partner v.c)).claims = []) {s' : State}
    (hs' : s' = if (v.g.cruc.queue.any fun q => decodeCast q.word == some .cunpair) = true then s else s.freePartner v.c v.slot)
    (hf : s'.claimFree (partner v.c) (v.g.cruc.tiles &&& ~~~v.g.cruc.relTiles) (v.g.cruc.masks &&& ~~~v.g.cruc.relMasks) = true) :
    ∃ t, exec .cpair s = .next t ∧ v.Queued s .cpair [] { v.g.cruc with paired := true } t ∧
      Granted t (partner v.c) (1000 + v.slot) (v.g.cruc.tiles &&& ~~~v.g.cruc.relTiles) (v.g.cruc.masks &&& ~~~v.g.cruc.relMasks) := by
  obtain rfl := State.view_s hd.1
  have hn' : (s'.core (partner v.c)).claims = [] := by
    rw [hs']
    split
    · exact hn
    · simpa [State.freePartner] using hn
  obtain ⟨hgot, hgr⟩ := State.claim_granted (slot := v.slot) (node := v.nd.id) (f := some v.c) hn' hf
  refine ⟨_, onFrag_crucUniform hd hs, ?_⟩
  simp only [CrucState.full_eq_false hq, hh, hp, hn, List.any_nil, Bool.false_or, ← hs', hgot]
  exact ⟨View.crucPush_queued rfl rfl rfl rfl, View.crucPush_granted (State.endClaim_granted hgr)⟩

theorem exec_cpair_of_held (hd : s.decodes .cpair v) (hh : v.g.cruc.holds = false ∨ v.g.cruc.paired = true) :
    exec .cpair s = .next (v.trapClaim 0x01 0) := by
  have h : (!v.g.cruc.holds || v.g.cruc.paired) = true := by simpa using hh
  refine (onFrag_crucUniform hd hs).trans (congrArg _ ?_)
  simp only [CrucState.full_eq_false hq, h]
  rfl

theorem exec_cunpair_of_paired (hd : s.decodes .cunpair v) (hp : v.g.cruc.paired = true) :
    ∃ t, exec .cunpair s = .next t ∧ v.Queued s .cunpair [] { v.g.cruc with paired := false } t := by
  refine ⟨_, onFrag_crucUniform hd hs, ?_⟩
  simp only [CrucState.full_eq_false hq, hp]
  exact View.crucPush_queued (State.view_s hd.1) rfl rfl rfl

theorem exec_cunpair_of_unpaired (hd : s.decodes .cunpair v) (hp : v.g.cruc.paired = false) : exec .cunpair s = .next (v.trapAll 0x01 0) := by
  refine (onFrag_crucUniform hd hs).trans (congrArg _ ?_)
  simp only [CrucState.full_eq_false hq, hp]
  rfl

end

/-! ### Commits and drains -/

theorem CrucState.batchFull_eq_true {x : CrucState} (h : 8 ≤ x.closed.length) : x.batchFull = true := decide_eq_true h
theorem CrucState.batchFull_eq_false {x : CrucState} (h : x.closed.length < 8) : x.batchFull = false := decide_eq_false (Nat.not_le.2 h)

/-- ccommit stalls behind eight closed batches. -/
theorem exec_ccommit_of_full {s : State} {v : View} (hd : s.decodes .ccommit v) (hs : s.box.stage = 4) (hq : 8 ≤ v.g.cruc.closed.length) :
    exec .ccommit s = .next s := by
  refine (onFrag_crucUniform hd hs).trans (congrArg _ ?_)
  simp only [CrucState.batchFull_eq_true hq, if_true, State.view_s hd.1]

/-- ccommit closes the open batch. -/
theorem exec_ccommit_of_room {s : State} {v : View} (hd : s.decodes .ccommit v) (hs : s.box.stage = 4) (hq : v.g.cruc.closed.length < 8) :
    exec .ccommit s = .next (v.groupDone { v.g with cruc := v.g.cruc.close }) := by
  refine (onFrag_crucUniform hd hs).trans (congrArg _ ?_)
  simp only [CrucState.batchFull_eq_false hq]
  rfl

/-- cdrain closes the open batch, and the fragment waits for it. -/
theorem exec_cdrain_of_room {s : State} {v : View} {w : CastWord} (hd : s.decodes (.cdrain w) v) (hs : s.box.stage = 4) (hq : v.g.cruc.closed.length < 8) :
    exec (.cdrain w) s = .next (v.s.setGroup v.c v.slot ({ v.g with
      cruc := (if w.modBit 1 = true then v.g.cruc.abort else v.g.cruc).close }.setNode { v.nd with st := .batch .cruc v.g.cruc.open_, fatal := [] })) := by
  refine (onFrag_crucUniform hd hs).trans (congrArg _ ?_)
  simp only [CrucState.batchFull_eq_false hq]
  rfl

/-- Settles O28: each word by the cases of its operands and of what the group holds. -/
theorem crucibleControlWords : Obligations.CrucibleControlWords := by
  unfold Obligations.CrucibleControlWords
  intro s v w hs x ts ms setc mode holds queued waits legal
  have hts : tsetOf w = ts := tsetOf_eq w
  have hms : msetOf w = ms := msetOf_eq w
  have hlegal : cmodeOk w = true ↔ legal := cmodeOk_iff w
  have hholds : x.holds = true ↔ holds := x.holds_iff
  have h0 : (ts ≠ 0 ∨ ms ≠ 0) → ¬ (tsetOf w = 0 ∧ msetOf w = 0) := by rw [hts, hms]; tauto
  refine ⟨fun cause d h hd => ?_, fun hd hq hl => ?_, fun hd hq hl => ⟨fun hc => ?_, fun hc ht hm hp => ?_, fun hc ht hm hp => ?_, fun hc ht hh => ?_,
    fun hc ht hh hp hn hf => ?_, fun hc ht hh hp hn hf => ?_⟩, fun hd hq hh hp hn hf => ?_, fun hd hq hh => ?_, fun hd hq hp => ?_, fun hd hq hp => ?_,
    fun hd => ⟨exec_ccommit_of_full hd hs, exec_ccommit_of_room hd hs⟩, fun hd hq hm => ?_, fun hd hq hm => ?_⟩
  · obtain rfl := State.view_s hd.1
    exact View.trapClaim_of_none cause d h
  · exact exec_cmode_of_illegal hd hs hq (mt hlegal.1 hl)
  · exact exec_cmode_of_mode hd hs hq (hlegal.2 hl) hc
  · obtain ⟨t, he, hqd⟩ := exec_cmode_of_release hd hs hq (hlegal.2 hl) hc ⟨hts.trans ht, hms.trans hm⟩ hp
    exact ⟨t, _, _, he, hqd, fun i hi => x.released_tile hi, fun i hi => x.released_mask hi⟩
  · exact exec_cmode_of_paired_release hd hs hq (hlegal.2 hl) hc ⟨hts.trans ht, hms.trans hm⟩ hp
  · exact exec_cmode_of_held hd hs hq (hlegal.2 hl) hc (h0 ht) (hh.imp_left hholds.2)
  · rw [← hts, ← hms] at hf ⊢
    obtain ⟨t, he, hqd, hg⟩ := exec_cmode_of_granted hd hs hq (hlegal.2 hl) hc (h0 ht) (Bool.eq_false_iff.2 (mt hholds.1 hh)) hp hn hf
    exact ⟨t, he, hqd, fun i hi h => ⟨hg.tileOwner i hi h, hg.zeros i hi h⟩, fun i hi h => ⟨hg.maskOwner i hi h, hg.ones i hi h⟩⟩
  · rw [← hts, ← hms] at hf ⊢
    exact exec_cmode_of_waiting hd hs hq (hlegal.2 hl) hc (h0 ht) (Bool.eq_false_iff.2 (mt hholds.1 hh)) hp hn hf
  · obtain ⟨t, he, hqd, hg⟩ := exec_cpair_of_granted hs hq hd (hholds.2 hh) hp hn rfl hf
    exact ⟨t, he, hqd, hg.tileOwner, hg.maskOwner⟩
  · exact exec_cpair_of_held hs hq hd (hh.imp_left fun h => Bool.eq_false_iff.2 (mt hholds.1 h))
  · exact exec_cunpair_of_paired hs hq hd hp
  · exact exec_cunpair_of_unpaired hs hq hd hp
  · rw [exec_cdrain_of_room hd hs hq, hm]; rfl
  · rw [exec_cdrain_of_room hd hs hq, hm]; rfl

end Sys2Proof.Machine
end

section
/-! SUPPORT. A core's cycle, its windows and power, and the ends of sleeps and waits (R18-R20, R94, R95, R137, R206; O41). -/

namespace Sys2Proof.Machine

/-! ### What a core writes back -/

/-- A write-back of one sector changes no byte that is not dirty, and makes none dirty. -/
theorem State.l1WriteBack_clean {s : State} {c sec j : Nat} (h : ¬ s.dirtyIn c j) :
    (s.l1WriteBack c sec).mem.byte j = s.mem.byte j ∧ ¬ (s.l1WriteBack c sec).dirtyIn c j := by
  unfold State.l1WriteBack
  split
  · exact ⟨rfl, h⟩
  · rename_i x hx
    have hd : ∀ y, tfind (tput (s.core c).l1 sec { x with dirty := 0, wrote := 0 }) (j / 32) = some y → ¬ y.dirty.getLsbD (j % 32) = true := by
      intro y hy
      by_cases e : j / 32 = sec
      · rw [e, tfind_tput_self] at hy
        obtain rfl := Option.some.inj hy
        simp
      · rw [tfind_tput_ne _ _ e] at hy
        exact fun hb => h ⟨y, hy, hb⟩
    have hw : (writeBytes s (32 * sec) x).mem.byte j = s.mem.byte j := by
      refine writeBytes_keeps (P := fun t => t.mem.byte j = s.mem.byte j) rfl (fun t pa n v hr ht => ?_) (fun _ t ht => ?_)
      · rw [State.rawWrite_byte_outside _ _ _ _ _ ?_, ht]
        by_contra hn
        obtain ⟨h1, h2⟩ := hr j (by omega) (by omega)
        have h3 : j - 32 * sec < 32 := BitVec.lt_of_getLsbD h2
        have hs : j / 32 = sec := by omega
        have hm : j % 32 = j - 32 * sec := by omega
        exact h ⟨x, hs ▸ hx, hm ▸ h2⟩
      · unfold State.mark
        split
        · exact ht
        · exact ht
    dsimp only
    split
    · exact ⟨rfl, fun ⟨y, hy, hb⟩ => hd y (by simpa using hy) hb⟩
    · refine ⟨hw, fun ⟨y, hy, hb⟩ => hd y ?_ hb⟩
      have hc : (((writeBytes s (32 * sec) x).cacheTouch (32 * sec) 32 true).stampEpoch (32 * sec) 32 (s.hearth.nextEpoch - 1)).core c = s.core c :=
        congrArg (tget Core.reset · c) (writeBytes_cores s (32 * sec) x)
      rw [hc] at hy
      simpa using hy

/-- Writing back an L1 changes dirty bytes only. -/
theorem State.l1WriteBackAll_byte {s : State} {c j : Nat} (h : ¬ s.dirtyIn c j) : (s.l1WriteBackAll c).mem.byte j = s.mem.byte j :=
  (List.foldlRecOn (motive := fun t : State => t.mem.byte j = s.mem.byte j ∧ ¬ t.dirtyIn c j) _ _ ⟨rfl, h⟩
    fun _ ht _ _ => let ⟨h1, h2⟩ := State.l1WriteBack_clean ht.2; ⟨h1.trans ht.1, h2⟩).1

/-! ### What a cycle leaves unchanged -/

/-- Memory, TICK, the agenda, the Firebox and the count of core `c`'s cycles are as they were. -/
structure CycleKeeps (s t : State) (c : Nat) : Prop where
  mem : t.mem = s.mem
  tick : t.tick = s.tick
  agenda : t.agenda = s.agenda
  box : t.box = s.box
  cyc : (t.core c).cyc = (s.core c).cyc

theorem CycleKeeps.refl (s : State) (c : Nat) : CycleKeeps s s c := ⟨rfl, rfl, rfl, rfl, rfl⟩

theorem CycleKeeps.trans {s t u : State} {c : Nat} (h : CycleKeeps s t c) (k : CycleKeeps t u c) : CycleKeeps s u c :=
  ⟨k.mem.trans h.mem, k.tick.trans h.tick, k.agenda.trans h.agenda, k.box.trans h.box, k.cyc.trans h.cyc⟩

theorem CycleKeeps.setCore {s : State} {c : Nat} {k : Core} (h : k.cyc = (s.core c).cyc) : CycleKeeps s (s.setCore c k) c :=
  ⟨rfl, rfl, rfl, rfl, by simpa using h⟩

theorem CycleKeeps.setFlask (s : State) (c f : Nat) (k : Flask) : CycleKeeps s (s.setFlask f k) c := ⟨rfl, rfl, rfl, rfl, rfl⟩

theorem CycleKeeps.setGroup (s : State) (c d sl : Nat) (g : Group) : CycleKeeps s (s.setGroup d sl g) c := by
  refine ⟨rfl, rfl, rfl, rfl, ?_⟩
  by_cases h : c = d
  · subst h; simp
  · simp [h]

theorem CycleKeeps.foldl {α : Type} {s : State} {c : Nat} {f : State → α → State} (l : List α) (hf : ∀ s a, CycleKeeps s (f s a) c) :
    CycleKeeps s (l.foldl f s) c :=
  List.foldlRecOn (motive := fun u => CycleKeeps s u c) l f (.refl s c) fun b hb a _ => hb.trans (hf b a)

theorem State.parkFetch_keeps (s : State) (c d slot : Nat) (g : Group) (nd : Node) (page : Nat) : CycleKeeps s (s.parkFetch d slot g nd page) c :=
  (CycleKeeps.setGroup _ _ _ _ _).trans (CycleKeeps.setFlask _ _ _ _)

theorem State.nextTurn_keeps (s : State) (c : Nat) : CycleKeeps s (s.nextTurn c) c := by
  unfold State.nextTurn
  dsimp only
  split <;> exact CycleKeeps.setCore rfl

theorem State.settleTurns_keeps (s : State) (c n : Nat) : CycleKeeps s (s.settleTurns c n) c := by
  induction n generalizing s with
  | zero => exact .refl s c
  | succ n ih =>
    unfold State.settleTurns
    split
    · exact (s.nextTurn_keeps c).trans (ih _)
    · exact .refl s c

theorem State.fetchAll_keeps (s : State) (c : Nat) : CycleKeeps s (s.fetchAll c) c := by
  refine CycleKeeps.foldl _ fun t e => ?_
  split
  · exact .refl t c
  · split
    · exact .refl t c
    · split
      · exact .refl t c
      · split
        · exact t.parkFetch_keeps _ _ _ _ _ _
        · exact .refl t c

theorem State.mapHead_keeps (s : State) (c d slot : Nat) (f : CrucCmd → CrucCmd) : CycleKeeps s (s.mapHead d slot f) c := by
  unfold State.mapHead
  split
  · exact .refl s c
  · split
    · exact .refl s c
    · exact .setGroup _ _ _ _ _

theorem State.noteHeld_keeps (s : State) (c : Nat) : CycleKeeps s (s.noteHeld c) c := by
  refine CycleKeeps.foldl _ fun t e => ?_
  split
  · exact t.mapHead_keeps _ _ _ _
  · exact t.mapHead_keeps _ _ _ _

theorem State.charge_keeps (s : State) (c d n : Nat) : CycleKeeps s (s.charge d n) c := .setFlask _ _ _ _

theorem State.issue_keeps (s : State) (c : Nat) (x : Cand) : CycleKeeps s (s.issue c x) c := by
  refine CycleKeeps.trans (CycleKeeps.setCore ?_) (State.charge_keeps _ _ _ _)
  rfl

/-- The choice of an instruction counts and charges, and changes nothing else. -/
theorem State.selectCycle_keeps (s : State) (c : Nat) : CycleKeeps s (s.selectCycle c).1 c := by
  unfold State.selectCycle
  split
  · exact .refl s c
  · have hcount : ∀ xs won won', CycleKeeps s ((s.countEligible c xs won).countGated c xs won') c := fun xs won won' =>
      (CycleKeeps.setCore rfl : CycleKeeps s (s.countEligible c xs won) c).trans (CycleKeeps.setCore rfl)
    dsimp only
    split
    · exact (hcount _ _ _).trans (State.issue_keeps _ _ _)
    · exact hcount _ _ _

/-- The start of a cycle counts CYC. -/
theorem State.openCycle_keeps (s : State) (c : Nat) :
    (s.openCycle c).mem = s.mem ∧ (s.openCycle c).tick = s.tick ∧ (s.openCycle c).agenda = s.agenda ∧ (s.openCycle c).box = s.box ∧
      ((s.openCycle c).core c).cyc = (s.core c).cyc + 1 := by
  have h := ((State.settleTurns_keeps (s.setCore c { s.core c with
    cyc := (s.core c).cyc + 1, stages := advanceStages (s.core c).stages, dWindow := (s.core c).dWindow - 1 }) c 17).trans
    (State.fetchAll_keeps _ c)).trans (State.noteHeld_keeps _ c)
  exact ⟨h.mem, h.tick, h.agenda, h.box, by rw [State.openCycle]; rw [h.cyc]; simp⟩

/-! ### The length of a cycle -/

theorem quanta_le (cls : Nat) : quanta cls ≤ 10 := by
  unfold quanta
  split <;> omega

/-- A cycle takes 4 to 10 ticks (R18), and 10 in reduced service (R470). -/
theorem State.cycleLen_bounds (s : State) (c : Nat) (beat transfer : Bool) : 4 ≤ s.cycleLen c beat transfer ∧ s.cycleLen c beat transfer ≤ 10 := by
  unfold State.cycleLen
  split
  · omega
  · refine List.foldlRecOn (motive := fun n => 4 ≤ n ∧ n ≤ 10) _ _ ?_ fun n hn x _ => ?_
    · split <;> omega
    · have := quanta_le x.cls
      omega

theorem State.cycleLen_of_reduced {s : State} (h : s.box.stage ≠ 4) (c : Nat) (beat transfer : Bool) : s.cycleLen c beat transfer = 10 := by
  simp [State.cycleLen, h]

/-- The turns of a cycle: at most a beat, a transfer and an issue. -/
theorem cycleTurns_spec (c : Nat) (beat transfer : Bool) (won : Option Cand) : (cycleTurns c beat transfer won).length ≤ 3 ∧
    ∀ u ∈ cycleTurns c beat transfer won,
      u = .event .crucibleBeat (.at c 0 0) ∨ u = .event .ladleTransfer (.at c 0 0) ∨ ∃ sl n, u = .issue c sl n := by
  cases won <;> cases beat <;> cases transfer <;> simp [cycleTurns]

@[simp] theorem State.soon_core (s : State) (ts : List Turn) (c : Nat) : (s.soon ts).core c = s.core c := rfl

/-- A whole cycle (R18). -/
theorem State.runCycle_spec (s : State) (c : Nat) : ∃ ts : List Turn,
    ((s.runCycle c).core c).cyc = (s.core c).cyc + 1 ∧ (s.runCycle c).mem = s.mem ∧ (s.runCycle c).tick = s.tick ∧ (s.runCycle c).agenda = ts ++ s.agenda ∧
    ts.length ≤ 3 ∧ (∀ u ∈ ts, u = .event .crucibleBeat (.at c 0 0) ∨ u = .event .ladleTransfer (.at c 0 0) ∨ ∃ sl n, u = .issue c sl n) ∧
    s.tick.toNat + 4 ≤ ((s.runCycle c).core c).nextCycle ∧ ((s.runCycle c).core c).nextCycle ≤ s.tick.toNat + 10 ∧
    (s.box.stage ≠ 4 → ((s.runCycle c).core c).nextCycle = s.tick.toNat + 10) := by
  obtain ⟨hmem, htick, hag, hbox, hcyc⟩ := s.openCycle_keeps c
  have hk := (s.openCycle c).selectCycle_keeps c
  unfold State.runCycle
  dsimp only
  generalize (s.openCycle c).selectCycle c = r at hk
  generalize ((s.openCycle c).crucPick c).isSome = beat
  generalize ((s.openCycle c).nextTransfer c).isSome = transfer
  obtain ⟨hlen, hmemb⟩ := cycleTurns_spec c beat transfer r.2
  obtain ⟨h4, h10⟩ := r.1.cycleLen_bounds c beat transfer
  have hr : s.box.stage ≠ 4 → r.1.cycleLen c beat transfer = 10 := fun h => State.cycleLen_of_reduced (by rw [hk.box, hbox]; exact h) c beat transfer
  have ht : r.1.tick = s.tick := hk.tick.trans htick
  refine ⟨cycleTurns c beat transfer r.2, ?_, hk.mem.trans hmem, ht, ?_, hlen, hmemb, ?_⟩
  · simp [hk.cyc, hcyc]
  · simp [State.soon, hk.agenda, hag]
  · simp only [State.soon_core, State.core_setCore_self, ht]
    exact ⟨by omega, by omega, fun h => by rw [hr h]⟩

/-! ### Fragments that go on -/

/-- An entry of a group is found where it is put back. -/
theorem Group.anyNode_setNode {g : Group} {n x : Node} (h : g.anyNode? x.id = some n) : (g.setNode x).anyNode? x.id = some x := by
  have hp : ((fun m : Node => m.id == x.id) ∘ fun m : Node => if m.id = x.id then x else m) = fun m : Node => m.id == x.id := by
    funext m
    by_cases hm : m.id = x.id <;> simp [hm]
  have hn : n.id = x.id := by simpa using List.find?_some h
  unfold Group.anyNode? at h ⊢
  rw [Group.setNode, ← List.map_append, List.find?_map, hp, h]
  simp [hn]

/-- The values of a wait reach the threads of a group, whose entries stay. -/
theorem Group.foldl_threads_nodes (w : CastWord) (n : Nat) (vals : Table DWord) (g : Group) :
    (vals.foldl (fun (g : Group) e => { g with threads := tput g.threads e.1 ((g.thread e.1).setCells w.d.toNat (cellsOf w.lc) (extend w.ty n e.2.toNat)) }) g).nodes
      = g.nodes ∧
    (vals.foldl (fun (g : Group) e => { g with threads := tput g.threads e.1 ((g.thread e.1).setCells w.d.toNat (cellsOf w.lc) (extend w.ty n e.2.toNat)) }) g).stack
      = g.stack :=
  List.foldlRecOn (motive := fun h : Group => h.nodes = g.nodes ∧ h.stack = g.stack) _ _ ⟨rfl, rfl⟩ fun _ h _ _ => h

/-- A round of reads that satisfies every lane ends the wait (R206). -/
theorem View.waitStep_done {v : View} {w : CastWord} {m : CmpOp} {word : BitVec 128} {pending : List Nat} {vals got : Table DWord} {s' : State}
    {n : Node} (hn : v.g.anyNode? v.nd.id = some n) (h : v.waitRound w m v.s.settleReds pending = (s', got, [], [])) :
    ((v.waitStep w m word pending vals).group? v.c v.slot).bind (·.anyNode? v.nd.id) = some v.onward := by
  unfold View.waitStep
  simp only [h, List.isEmpty_nil, if_true]
  obtain ⟨h1, h2⟩ := Group.foldl_threads_nodes w (8 * accBytes w) (got.foldl (fun t e => tput t e.1 e.2) vals) v.g
  simp only [View.waitPages, List.flatMap_nil, State.group_setGroup_self, Option.bind_some]
  exact Group.anyNode_setNode (x := v.onward) (by rw [Group.anyNode?, h1, h2]; exact hn)

/-! ### The events at their operands -/

section
variable {s : State} {c slot id : Nat}

theorem exec_coreCycle_at {x y : Nat} (ha : s.cur.arg = .at c x y) : exec .coreCycle s =
    .next (if s.coreOn c = true ∧ (s.core c).gated = false ∧ (s.core c).nextCycle ≤ s.tick.toNat then s.runCycle c else s) := by
  show execCoreCycle s = _
  simp only [execCoreCycle, ha]
  refine congrArg _ (if_congr ?_ rfl rfl)
  simp [and_assoc]

theorem exec_dWindowOpen_at {x y : Nat} (ha : s.cur.arg = .at c x y) : exec .dWindowOpen s =
    .next (if 64 ≤ (s.core c).gatedFor ∧ (s.core c).dWindow = 0 then s.setCore c { s.core c with dWindow := 17, gatedFor := 0 } else s) := by
  show execDWindowOpen s = _
  simp only [execDWindowOpen, ha]

theorem exec_dWindowClose_at {x y : Nat} (ha : s.cur.arg = .at c x y) : exec .dWindowClose s =
    .next (if (s.core c).dWindow = 1 then s.setCore c { s.core c with dWindow := 0 } else s) := by
  show execDWindowClose s = _
  simp only [execDWindowClose, ha]

/-- A core as a gate leaves it: its L1 is written back and emptied (R20). -/
def State.gate (s : State) (c : Nat) : State :=
  (s.l1WriteBackAll c).setCore c { (s.l1WriteBackAll c).core c with gated := true, l1 := [], utlb := [], konst := [] }

theorem exec_corePowerGate_at {x y : Nat} (ha : s.cur.arg = .at c x y) : exec .corePowerGate s =
    .next (if (s.core c).groups = [] ∧ (s.core c).gated = false then s.gate c else s) := by
  show execCorePowerGate s = _
  simp only [execCorePowerGate, ha]
  by_cases h : (s.core c).groups = [] ∧ (s.core c).gated = false
  · rw [if_pos h, if_pos (by simp [h])]; rfl
  · rw [if_neg h, if_neg (by simpa using h)]

theorem exec_corePowerUngate_at {x y : Nat} (ha : s.cur.arg = .at c x y) : exec .corePowerUngate s =
    .next (if (s.core c).gated = true then s.setCore c { s.core c with gated := false, nextCycle := s.tick.toNat } else s) := by
  show execCorePowerUngate s = _
  simp only [execCorePowerUngate, ha]

theorem exec_owedGroup_at {g : Group} {y : Nat} (ha : s.cur.arg = .at c slot y) (hg : s.group? c slot = some g) : exec .owedGroup s =
    .next (if 960 ≤ g.eligibleFor then s.setGroup c slot { g with owed := true } else s) := by
  show execOwedGroup s = _
  simp only [execOwedGroup, ha, hg]

variable {g : Group} {nd : Node} (ha : s.cur.arg = .at c slot id) (hg : s.group? c slot = some g) (hn : g.anyNode? id = some nd)
include ha hg hn

theorem exec_sleepExpiry_at {until_ : Nat} (ht : nd.st = .asleep until_) : exec .sleepExpiry s =
    .next (if until_ ≤ s.tick.toNat then s.setGroup c slot (g.setNode { nd with st := .ready, pc := nd.pc + 16 }) else s) := by
  show execSleepExpiry s = _
  simp only [execSleepExpiry, ha, hg, hn, ht]

theorem exec_waitvReread_at {word : BitVec 128} {pending : Mask} {vals : Table DWord} {m : CmpOp} {w : CastWord} {l : Launch}
    (hst : nd.st = .waitv word pending vals) (hd : decodeCast word = some (.waitv m w)) (hl : s.launch? g.launch = some l) : exec .waitvReread s =
    .next (View.waitStep { s := s, c := c, slot := slot, g := g, nd := nd, l := l } w m word (g.lanes pending) vals) := by
  show execWaitvReread s = _
  simp only [execWaitvReread, ha, hg, hn, hl, hst, hd]

end

/-- Gating a core changes no byte that was not dirty in its L1, and no other core. -/
theorem State.gate_spec (s : State) (c : Nat) : ((s.gate c).core c).gated = true ∧ ((s.gate c).core c).l1 = [] ∧ ((s.gate c).core c).cyc = (s.core c).cyc ∧
    (∀ j, ¬ s.dirtyIn c j → (s.gate c).mem.byte j = s.mem.byte j) ∧ ∀ j, j ≠ c → (s.gate c).core j = s.core j := by
  have ho := s.l1WriteBackAll_onlyL1 c
  have hc : (s.gate c).core c = { (s.l1WriteBackAll c).core c with gated := true, l1 := [], utlb := [], konst := [] } := State.core_setCore_self _ _ _
  have hcyc : ((s.l1WriteBackAll c).core c).cyc = (s.core c).cyc := by rw [ho.own]
  refine ⟨by rw [hc], by rw [hc], by rw [hc]; exact hcyc, fun j hj => State.l1WriteBackAll_byte hj, fun j hj => ?_⟩
  rw [State.gate, State.core_setCore_ne _ _ hj, ho.others j hj]

/-- Settles O41: the cycle by its parts, the windows and power by their conditions, the fragments that wait by their entries. -/
theorem coreEvents : Obligations.CoreEvents := by
  unfold Obligations.CoreEvents
  intro s c slot id k due
  refine ⟨fun ha => ⟨fun hd => ?_, fun hd => ?_, exec_dWindowOpen_at ha, exec_dWindowClose_at ha, fun hg => ?_, fun hg hgt => ?_,
    exec_corePowerUngate_at ha⟩, fun g ha hg => exec_owedGroup_at ha hg,
    fun g nd ha hg hn => ⟨fun t ht => exec_sleepExpiry_at ha hg hn ht, fun word pending vals m w l hst hdec hl => ?_⟩⟩
  · rw [exec_coreCycle_at ha, if_neg hd]
  · obtain ⟨ts, h⟩ := s.runCycle_spec c
    exact ⟨_, ts, by rw [exec_coreCycle_at ha, if_pos hd], h⟩
  · rw [exec_corePowerGate_at ha, if_neg]
    rintro ⟨h1, h2⟩
    rcases hg with h | h
    · exact h h1
    · exact Bool.false_ne_true (h2.symm.trans h)
  · exact ⟨_, by rw [exec_corePowerGate_at ha, if_pos ⟨hg, hgt⟩], s.gate_spec c⟩
  · have he := exec_waitvReread_at ha hg hn hst hdec hl
    have hid : nd.id = id := by simpa using List.find?_some hn
    exact ⟨he, fun s' got hr => ⟨_, he, View.waitStep_done (v := { s := s, c := c, slot := slot, g := g, nd := nd, l := l }) (by rw [hid]; exact hn) hr⟩⟩

end Sys2Proof.Machine
end

section
/-! SUPPORT. The Crucible's claims, turns, beats and batch completions (R31, R264, R269, R275, R278, R280, R281; O47). -/

namespace Sys2Proof.Machine

/-! ### What the work of a beat leaves unchanged -/

/-- The flasks and every group's Crucible queue are as they were. -/
structure QueuesKept (s t : State) : Prop where
  flasks : t.flasks = s.flasks
  queue : ∀ c sl, (t.group? c sl).map (·.cruc.queue) = (s.group? c sl).map (·.cruc.queue)

theorem QueuesKept.refl (s : State) : QueuesKept s s := ⟨rfl, fun _ _ => rfl⟩

theorem QueuesKept.trans {s t u : State} (h : QueuesKept s t) (k : QueuesKept t u) : QueuesKept s u :=
  ⟨k.flasks.trans h.flasks, fun c sl => (k.queue c sl).trans (h.queue c sl)⟩

/-- A change of a core's fields other than its groups. -/
theorem State.group_setCore {s : State} {c : Nat} {k : Core} (h : k.groups = (s.core c).groups) (d sl : Nat) :
    (s.setCore c k).group? d sl = s.group? d sl := by
  unfold State.group?
  by_cases hd : d = c
  · subst hd; rw [State.core_setCore_self, h]
  · rw [State.core_setCore_ne _ _ hd]

theorem QueuesKept.setCore {s : State} {c : Nat} {k : Core} (h : k.groups = (s.core c).groups) : QueuesKept s (s.setCore c k) :=
  ⟨rfl, fun d sl => by rw [State.group_setCore h]⟩

theorem QueuesKept.setGroup {s : State} {c sl : Nat} {g g' : Group} (h : s.group? c sl = some g) (hq : g'.cruc.queue = g.cruc.queue) :
    QueuesKept s (s.setGroup c sl g') := by
  refine ⟨rfl, fun d m => ?_⟩
  by_cases hd : d = c
  · subst hd
    by_cases hm : m = sl
    · subst hm; simp [h, hq]
    · simp [hm]
  · simp [hd]

theorem QueuesKept.foldl {α : Type} {s : State} {f : State → α → State} (l : List α) (hf : ∀ t a, QueuesKept t (f t a)) : QueuesKept s (l.foldl f s) :=
  List.foldlRecOn (motive := fun t => QueuesKept s t) l f (.refl s) fun b hb a _ => hb.trans (hf b a)

theorem QueuesKept.setTile (s : State) (c t : Nat) (x : Table Word) : QueuesKept s (s.setTile c t x) := .setCore rfl

section
variable {s t : State} {a : CrucAt} {li b idx : Nat} {x : CrucCmd} {w : CastWord}

theorem State.mmaBeat_kept {ms : List Nat} {wk : Walk} (h : s.mmaBeat a li b x w ms wk idx = .ok t) : QueuesKept s t := by
  unfold State.mmaBeat at h
  dsimp only at h
  split at h
  · cases h
  · split at h
    · cases h
    · cases h
      exact .setTile _ _ _ _

theorem State.tileBeat_kept {d : Nat} {ms reads : List Nat} {f : Nat → Nat → Word} (h : s.tileBeat a d ms reads idx f = .ok t) : QueuesKept s t := by
  unfold State.tileBeat at h
  dsimp only at h
  split at h
  · cases h
  · split at h
    · cases h
      exact (QueuesKept.setTile _ _ _ _).trans (.setCore rfl)
    · cases h
      exact .setTile _ _ _ _

theorem State.aldBeat_kept (h : s.aldBeat a li b x w idx = .ok t) : QueuesKept s t := by
  unfold State.aldBeat at h
  dsimp only at h
  split at h
  · cases h
  · cases h
    exact .setTile _ _ _ _

theorem State.astBeat_kept (h : s.astBeat a li b x w idx = .ok t) : QueuesKept s t := by
  unfold State.astBeat at h
  dsimp only at h
  split at h
  · cases h
  · cases h
    exact .foldl _ fun _ _ => .setCore rfl

theorem State.freeOwn_kept (s : State) (a : CrucAt) (tiles : BitVec 16) (masks : BitVec 8) : QueuesKept s (s.freeOwn a tiles masks) := by
  unfold State.freeOwn
  dsimp only
  split
  · exact .setCore rfl
  · rename_i g hg
    refine .trans ?_ (.setGroup hg rfl)
    exact .setCore rfl

/-- The work of a beat leaves the allowance and the queues to `crucBeat` (R269). -/
theorem State.beatWork_kept (h : s.beatWork a li b x idx = .ok t) : QueuesKept s t := by
  unfold State.beatWork at h
  dsimp only at h
  split at h
  case h_1 => exact State.mmaBeat_kept h
  case h_2 => exact State.mmaBeat_kept h
  case h_3 => exact State.tileBeat_kept h
  case h_4 => exact State.tileBeat_kept h
  case h_5 => exact State.tileBeat_kept h
  case h_6 => exact State.tileBeat_kept h
  case h_7 => exact State.aldBeat_kept h
  case h_8 => exact State.astBeat_kept h
  case h_9 =>
    have hput : ∀ (u : State) c ms, QueuesKept u (u.setCore c { u.core c with masks := ms }) := fun _ _ _ => .setCore rfl
    cases h
    split
    · exact (hput _ _ _).trans (hput _ _ _)
    · exact hput _ _ _
  case h_10 =>
    cases h
    split
    · exact .refl s
    · exact State.freeOwn_kept _ _ _ _
  case h_11 =>
    cases h
    exact .setCore rfl
  case h_12 =>
    cases h
    exact .refl s

end

/-! ### A beat -/

/-- The head of a group's Crucible queue. -/
def State.crucHead (s : State) (c slot : Nat) : Option CrucCmd := (s.group? c slot).bind fun g => g.cruc.queue.head?

theorem QueuesKept.crucHead {s t : State} (h : QueuesKept s t) (c slot : Nat) : t.crucHead c slot = s.crucHead c slot := by
  have hm : ∀ u : State, u.crucHead c slot = ((u.group? c slot).map (·.cruc.queue)).bind List.head? := by
    intro u
    unfold State.crucHead
    cases u.group? c slot <;> rfl
  rw [hm, hm, h.queue]

theorem State.crucHead_mapHead {s : State} {c slot : Nat} {x : CrucCmd} (h : s.crucHead c slot = some x) (f : CrucCmd → CrucCmd) :
    (s.mapHead c slot f).crucHead c slot = some (f x) := by
  unfold State.crucHead at h
  unfold State.mapHead
  split
  · rename_i hg
    simp [hg] at h
  · rename_i g hg
    rw [hg, Option.bind_some] at h
    split
    · rename_i hq
      simp [hq] at h
    · rename_i y ys hq
      rw [hq, List.head?_cons] at h
      obtain rfl := Option.some.inj h
      simp [State.crucHead]

theorem State.mapHead_flasks (s : State) (c slot : Nat) (f : CrucCmd → CrucCmd) : (s.mapHead c slot f).flasks = s.flasks := by
  unfold State.mapHead
  split
  · rfl
  · split <;> rfl

/-- After a beat the command has begun, and it is the same word. -/
theorem CrucCmd.afterBeat_begun (x : CrucCmd) (half : Nat) : (x.afterBeat half).begun = true ∧ (x.afterBeat half).word = x.word := by
  unfold CrucCmd.afterBeat
  dsimp only
  generalize (if half = 0 then x.beat + 1 else x.beat) = m
  generalize (if half = 1 then x.beatB + 1 else x.beatB) = n
  split
  · split <;> exact ⟨rfl, rfl⟩
  · exact ⟨rfl, rfl⟩

/-- A beat costs 80 of the allowance and its command has begun (R96, R269). -/
theorem State.crucBeat_spec {s : State} {a : CrucAt} {x : CrucCmd} (h : s.crucHead a.core a.slot = some x) :
    ((s.crucBeat a).flask (flaskOf a.tileCore)).allow = max (-2147483648) ((s.flask (flaskOf a.tileCore)).allow - 80) ∧
      ∃ y, (s.crucBeat a).crucHead a.core a.slot = some y ∧ y.begun = true ∧ y.word = x.word := by
  have hc : ((s.charge a.tileCore 80).flask (flaskOf a.tileCore)).allow = max (-2147483648) ((s.flask (flaskOf a.tileCore)).allow - 80) := by
    simp [State.charge]
  have hf : ∀ t : State, t.flasks = (s.charge a.tileCore 80).flasks →
      (t.flask (flaskOf a.tileCore)).allow = max (-2147483648) ((s.flask (flaskOf a.tileCore)).allow - 80) := by
    intro t ht
    rw [← hc, State.flask, State.flask, ht]
  have hx : (s.charge a.tileCore 80).crucHead a.core a.slot = some x := h
  unfold State.crucHead at h
  unfold State.crucBeat
  split
  · rename_i hg
    simp [hg] at h
  · rename_i g hg
    rw [hg, Option.bind_some] at h
    split
    · rename_i hq
      simp [hq] at h
    · rename_i y ys hq
      dsimp only
      split
      · rename_i t ht
        have hk := State.beatWork_kept ht
        refine ⟨hf _ ((State.mapHead_flasks _ _ _ _).trans hk.flasks), _, State.crucHead_mapHead ((hk.crucHead _ _).trans hx) _, ?_⟩
        exact x.afterBeat_begun a.half
      · refine ⟨hf _ (State.mapHead_flasks _ _ _ _), { x with begun := true, done := true }, ?_, rfl, rfl⟩
        exact State.crucHead_mapHead hx fun x => { x with begun := true, done := true }

/-! ### Turns -/

theorem State.slotsOn_iff (s : State) (c : Nat) : s.slotsOn c = true ↔ ∃ i < 16, slotValid (s.slotEntryOf c i) = true := by
  simp [State.slotsOn]

/-- A turn passes to a valid entry, or to none where no entry is valid (R281). -/
theorem State.nextTurn_spec (s : State) (c : Nat) : ((s.nextTurn c).core c).slotBeats = 0 ∧
    (((s.nextTurn c).core c).slotNow = none ↔ s.slotsOn c = false) ∧ ∀ e, ((s.nextTurn c).core c).slotNow = some e → slotValid e = true := by
  unfold State.nextTurn
  dsimp only
  generalize (if (s.core c).slotNow.isSome then (s.core c).slotEntry + 1 else 0) = n
  split
  · rename_i h
    have hoff : s.slotsOn c = false := by
      rw [← Bool.not_eq_true, State.slotsOn_iff]
      rintro ⟨i, hi, hv⟩
      rw [List.find?_eq_none] at h
      refine h i (List.mem_map.2 ⟨(i + 16 - n % 16) % 16, List.mem_range.2 (by omega), by omega⟩) hv
    simp [hoff]
  · rename_i i h
    have hv : slotValid (s.slotEntryOf c i) = true := by simpa using List.find?_some h
    have hi : i < 16 := by
      obtain ⟨j, -, rfl⟩ := List.mem_map.1 (List.mem_of_find?_eq_some h)
      exact Nat.mod_lt _ (by omega)
    have hon : s.slotsOn c = true := (s.slotsOn_iff c).2 ⟨i, hi, hv⟩
    simp [hon, hv]

/-! ### Grants -/

/-- A granted claim's core: its request granted, and its fragment of the group at `home` ready (R264, R278). -/
structure ClaimGranted (s t : State) (q : ClaimReq) (owner at_ home : Nat) : Prop where
  granted : Granted t at_ owner q.tiles q.masks
  request : { q with granted := true } ∈ (t.core at_).claims
  fragment : ∀ g, s.group? home q.slot = some g → ∃ g', t.group? home q.slot = some g' ∧ ∀ n ∈ g.nodes,
    (n.id = q.node → n.st.claiming = true → { n with st := .ready } ∈ g'.nodes) ∧ (n.id ≠ q.node → n ∈ g'.nodes)

/-- A claiming fragment goes on. -/
def Node.unclaim (node : Nat) (n : Node) : Node := if n.id == node && n.st.claiming then { n with st := .ready } else n

/-- The core and its group once the oldest claim is granted. -/
def State.grantClaim (s : State) (c : Nat) (q : ClaimReq) : State :=
  (s.setCore c { s.core c with claims := (s.core c).claims.map fun r => if r == q then { q with granted := true } else r }).giveClaim c q.owner q.tiles q.masks

theorem State.grantHead_eq {s : State} {c : Nat} {ok : ClaimReq → Bool} {q : ClaimReq} {qs : List ClaimReq} (hw : (s.core c).waiting = q :: qs)
    (hok : ok q = true) (hf : s.claimFree c q.tiles q.masks = true) : s.grantHead c ok =
      match (s.grantClaim c q).group? (q.forCore.getD c) q.slot with
      | none => s.grantClaim c q
      | some g => (s.grantClaim c q).setGroup (q.forCore.getD c) q.slot { g with nodes := g.nodes.map (Node.unclaim q.node), stack := g.stack.map (Node.unclaim q.node) } := by
  unfold State.grantHead
  simp only [hw, hok, hf, Bool.and_self, if_true]
  rfl

theorem State.grantClaim_group (s : State) (c : Nat) (q : ClaimReq) (d sl : Nat) : (s.grantClaim c q).group? d sl = s.group? d sl := by
  rw [State.grantClaim, State.giveClaim]
  refine (State.group_setCore ?_ d sl).trans (State.group_setCore ?_ d sl) <;> rfl

theorem State.grantClaim_request {s : State} {c : Nat} {q : ClaimReq} (h : q ∈ (s.core c).claims) :
    { q with granted := true } ∈ ((s.grantClaim c q).core c).claims := by
  rw [State.grantClaim, State.giveClaim]
  simp only [State.core_setCore_self]
  exact List.mem_map.2 ⟨q, h, by simp⟩

/-- The oldest claim is granted where it may be and its indices are free. -/
theorem State.grantHead_granted {s : State} {c : Nat} {ok : ClaimReq → Bool} {q : ClaimReq} {qs : List ClaimReq} (hw : (s.core c).waiting = q :: qs)
    (hok : ok q = true) (hf : s.claimFree c q.tiles q.masks = true) : ClaimGranted s (s.grantHead c ok) q q.owner c (q.forCore.getD c) := by
  have hq : q ∈ (s.core c).claims := by
    have : q ∈ (s.core c).waiting := hw ▸ List.mem_cons_self
    exact List.mem_of_mem_filter this
  have hgr : Granted (s.grantClaim c q) c q.owner q.tiles q.masks := State.giveClaim_granted _ _ _ _ _
  have hre := State.grantClaim_request hq
  rw [State.grantHead_eq hw hok hf]
  simp only [State.grantClaim_group]
  cases hg : s.group? (q.forCore.getD c) q.slot with
  | none => exact ⟨hgr, hre, fun g h => by cases h.symm.trans hg⟩
  | some g =>
    generalize q.forCore.getD c = home at hg ⊢
    have hcore : ∀ {α : Type} (f : Core → α), (∀ (k : Core) x, f { k with groups := x } = f k) → ∀ g',
        f (((s.grantClaim c q).setGroup home q.slot g').core c) = f ((s.grantClaim c q).core c) := by
      intro α f hf g'
      by_cases h : c = home
      · subst h; simp [hf]
      · simp [h]
    refine ⟨hgr.of_core (hcore _ (fun _ _ => rfl) _) (hcore _ (fun _ _ => rfl) _) (hcore _ (fun _ _ => rfl) _) (hcore _ (fun _ _ => rfl) _),
      by rw [hcore (·.claims) (fun _ _ => rfl)]; exact hre, fun g1 h1 => ⟨_, State.group_setGroup_self _ _ _ _, fun n hn => ?_⟩⟩
    obtain rfl : g = g1 := Option.some.inj (hg.symm.trans h1)
    constructor
    · intro hid hst
      exact List.mem_map.2 ⟨n, hn, by simp [Node.unclaim, hid, hst]⟩
    · intro hid
      exact List.mem_map.2 ⟨n, hn, by simp [Node.unclaim, hid]⟩

/-- Nothing is granted where the oldest claim may not be, or where its indices are taken. -/
theorem State.grantHead_none {s : State} {c : Nat} {ok : ClaimReq → Bool}
    (h : ∀ q qs, (s.core c).waiting = q :: qs → ok q = false ∨ s.claimFree c q.tiles q.masks = false) : s.grantHead c ok = s := by
  unfold State.grantHead
  split
  · rfl
  · rename_i q qs hw
    rcases h q qs hw with hk | hk <;> simp [hk]

end Sys2Proof.Machine
end

section
/-! SUPPORT. The end of the Crucible's batches and the events of its queues (R31, R269, R275, R280, R281; O47). -/

namespace Sys2Proof.Machine

/-! ### The end of a batch -/

theorem mem_of_tfind {α : Type} {t : Table α} {i : Nat} {x : α} (h : tfind t i = some x) : (i, x) ∈ t := by
  induction t with
  | nil => simp [tfind] at h
  | cons e t ih =>
    obtain ⟨j, y⟩ := e
    by_cases hj : j = i
    · subst hj
      simp only [tfind, if_true, Option.some.injEq] at h
      simp [h]
    · simp only [tfind, hj, if_false] at h
      exact List.mem_cons_of_mem _ (ih h)

/-- A group that a core holds is listed among the cores. -/
theorem State.mem_cores_of_group {s : State} {c slot : Nat} {g : Group} (h : s.group? c slot = some g) :
    (c, s.core c) ∈ s.cores ∧ (slot, g) ∈ (s.core c).groups := by
  have hg : (slot, g) ∈ (s.core c).groups := mem_of_tfind h
  refine ⟨?_, hg⟩
  unfold State.core tget at hg ⊢
  cases hc : tfind s.cores c with
  | none =>
    rw [hc] at hg
    exact absurd hg List.not_mem_nil
  | some k => exact mem_of_tfind hc

/-- No group has a command of batch `n` that re-slicing passed on, as core `c` sees it (R286). -/
def State.NoneInherits (s : State) (c : Nat) (e : EngineSel) (n : BitVec 16) : Prop :=
  ∀ y ∈ s.cores, ∀ x ∈ y.2.groups, x.2.inherits e n (y.1 == c) = false

theorem State.NoneInherits.setGroup {s : State} {c d sl : Nat} {e : EngineSel} {n : BitVec 16} {g g' : Group} (h : s.NoneInherits c e n)
    (hg : s.group? d sl = some g) (hi : ∀ b, g'.inherits e n b = g.inherits e n b) : (s.setGroup d sl g').NoneInherits c e n := by
  obtain ⟨hd, hsl⟩ := State.mem_cores_of_group hg
  intro y hy x hx
  rcases mem_tput hy with rfl | hy
  · rcases mem_tput hx with rfl | hx
    · exact (hi _).trans (h _ hd _ hsl)
    · exact h _ hd _ hx
  · exact h _ hy _ hx

/-- Nothing of batch `n` of an engine is left in a group. -/
structure Group.Over (g : Group) (e : EngineSel) (n : BitVec 16) : Prop where
  closed : (g.closed e).contains n = false
  queued : g.queued e n = false

theorem State.batchDone_of_over {s : State} {c : Nat} {g : Group} {e : EngineSel} {n : BitVec 16} (h : g.Over e n) (hi : s.NoneInherits c e n) :
    s.batchDone c g e n = true := by
  have hany : (s.cores.any fun k => k.2.groups.any fun x => x.2.launch == g.launch && x.2.block == g.block && x.2.inherits e n (k.1 == c)) = false := by
    rw [List.any_eq_false]
    intro y hy
    rw [Bool.not_eq_true, List.any_eq_false]
    intro x hx
    simp [hi y hy x hx]
  simp only [State.batchDone, h.closed, h.queued, hany, Bool.not_false, Bool.and_self, Bool.or_true]

/-- A fragment whose batch wait is over. -/
def Node.endWait (e : EngineSel) (done : BitVec 16 → Bool) (n : Node) : Node :=
  match n.st with
  | .batch e' k => if e' == e && done k then { n with st := .ready, pc := n.pc + 16 } else n
  | _ => n

/-- A fragment that waited for a batch and goes on. -/
def Node.resumed (n : Node) : Node := { n with st := .ready, pc := n.pc + 16 }

theorem Node.endWait_resumed (e : EngineSel) (done : BitVec 16 → Bool) (n : Node) : n.resumed.endWait e done = n.resumed := rfl

theorem Node.endWait_over {e : EngineSel} {done : BitVec 16 → Bool} {n : Node} {k : BitVec 16} (h : n.st = .batch e k) (ho : done k = true) :
    n.endWait e done = n.resumed := by
  simp [Node.endWait, Node.resumed, h, ho]

theorem Node.endWait_cases (e : EngineSel) (done : BitVec 16 → Bool) (n : Node) : n.endWait e done = n ∨ n.endWait e done = n.resumed := by
  unfold Node.endWait
  split
  · split
    · exact .inr rfl
    · exact .inl rfl
  · exact .inl rfl

theorem State.wakeBatch_eq (s : State) (c slot : Nat) (e : EngineSel) : s.wakeBatch c slot e =
    match s.group? c slot with
    | none => s
    | some g => s.setGroup c slot { g with
        nodes := g.nodes.map (Node.endWait e (s.batchDone c g e)), stack := g.stack.map (Node.endWait e (s.batchDone c g e)) } := rfl

/-- What each wake of a batch's completion keeps of the group in `slot`, whose entries were `ns` (R31). -/
structure Waking (t : State) (c slot : Nat) (e : EngineSel) (n : BitVec 16) (cl : List (BitVec 16)) (ns : List Node) (g : Group) : Prop where
  group : t.group? c slot = some g
  closed : g.closed e = cl
  remnant : g.remnant = false
  ended : n ∉ cl → g.Over e n
  nodes : ∀ nd ∈ ns, nd.st = .batch e n → nd ∈ g.nodes ∨ nd.resumed ∈ g.nodes

section
variable {t : State} {c slot : Nat} {e : EngineSel} {n : BitVec 16} {cl : List (BitVec 16)} {ns : List Node} {g : Group}

/-- A wake of any group keeps it. -/
theorem Waking.wakeBatch (h : Waking t c slot e n cl ns g) (d sl : Nat) : ∃ g', Waking (t.wakeBatch d sl e) c slot e n cl ns g' ∧
    ∀ nd : Node, nd.resumed ∈ g.nodes → nd.resumed ∈ g'.nodes := by
  rw [State.wakeBatch_eq]
  split
  · exact ⟨g, h, fun _ hm => hm⟩
  · rename_i x hx
    by_cases hs : d = c ∧ sl = slot
    · obtain ⟨rfl, rfl⟩ := hs
      obtain rfl : g = x := Option.some.inj (h.group.symm.trans hx)
      refine ⟨_, ⟨State.group_setGroup_self _ _ _ _, ?_, h.remnant, fun hn => ?_, fun nd hnd hst => ?_⟩, fun nd hm => ?_⟩
      · cases e <;> exact h.closed
      · obtain ⟨h1, h2⟩ := h.ended hn
        cases e <;> exact ⟨h1, h2⟩
      · rcases h.nodes nd hnd hst with hm | hm
        · rcases nd.endWait_cases e (t.batchDone d g e) with he | he
          · exact .inl (List.mem_map.2 ⟨nd, hm, he⟩)
          · exact .inr (List.mem_map.2 ⟨nd, hm, he⟩)
        · exact .inr (List.mem_map.2 ⟨nd.resumed, hm, nd.endWait_resumed _ _⟩)
      · exact List.mem_map.2 ⟨nd.resumed, hm, nd.endWait_resumed _ _⟩
    · refine ⟨g, ⟨?_, h.closed, h.remnant, h.ended, h.nodes⟩, fun _ hm => hm⟩
      by_cases hd : c = d
      · subst hd
        rw [State.group_setGroup_ne_slot _ _ fun hsl => hs ⟨rfl, hsl.symm⟩]
        exact h.group
      · rw [State.group_setGroup_ne_core _ _ hd]
        exact h.group

/-- The wake of the group itself sets its waiting fragments on their way. -/
theorem Waking.wakeBatch_self (h : Waking t c slot e n cl ns g) (hn : n ∉ cl) (hi : t.NoneInherits c e n) {g' : Group}
    (hg : (t.wakeBatch c slot e).group? c slot = some g') {nd : Node} (hnd : nd ∈ ns) (hst : nd.st = .batch e n) : nd.resumed ∈ g'.nodes := by
  rw [State.wakeBatch_eq, h.group] at hg
  simp only [State.group_setGroup_self, Option.some.injEq] at hg
  subst hg
  have ho : t.batchDone c g e n = true := State.batchDone_of_over (h.ended hn) hi
  rcases h.nodes nd hnd hst with hm | hm
  · exact List.mem_map.2 ⟨nd, hm, Node.endWait_over hst ho⟩
  · exact List.mem_map.2 ⟨nd.resumed, hm, nd.endWait_resumed _ _⟩

theorem State.NoneInherits.wakeBatch (h : t.NoneInherits c e n) (d sl : Nat) : (t.wakeBatch d sl e).NoneInherits c e n := by
  rw [State.wakeBatch_eq]
  split
  · exact h
  · rename_i hx
    refine h.setGroup hx fun b => ?_
    cases e <;> rfl

/-- The wakes of every group of a block. -/
theorem Waking.wakeAll (h : Waking t c slot e n cl ns g) (l : List (Nat × Nat × Group)) :
    ∃ g', Waking (l.foldl (fun t x => t.wakeBatch x.1 x.2.1 e) t) c slot e n cl ns g' ∧
      (∀ nd : Node, nd.resumed ∈ g.nodes → nd.resumed ∈ g'.nodes) ∧
      (t.NoneInherits c e n → n ∉ cl → (∃ x ∈ l, x.1 = c ∧ x.2.1 = slot) → ∀ nd ∈ ns, nd.st = .batch e n → nd.resumed ∈ g'.nodes) := by
  induction l generalizing t g with
  | nil => exact ⟨g, h, fun _ hm => hm, fun _ _ ⟨_, hx, _⟩ => absurd hx List.not_mem_nil⟩
  | cons y l ih =>
    obtain ⟨g1, h1, hk⟩ := h.wakeBatch y.1 y.2.1
    obtain ⟨g2, h2, hk2, hw⟩ := ih h1
    refine ⟨g2, h2, fun nd hm => hk2 nd (hk nd hm), fun hi hn ⟨x, hx, hc, hs⟩ nd hnd hst => ?_⟩
    rcases List.mem_cons.1 hx with rfl | hx
    · subst hc hs
      exact hk2 nd (h.wakeBatch_self hn hi h1.group hnd hst)
    · exact hw (hi.wakeBatch _ _) hn ⟨x, hx, hc, hs⟩ nd hnd hst

end

/-- A group of a block is among the block's groups. -/
theorem State.mem_groupsOf {s : State} {c slot : Nat} {g : Group} (h : s.group? c slot = some g) (hr : g.remnant = false) :
    (c, slot, g) ∈ s.groupsOf g.launch g.block := by
  obtain ⟨hc, hg⟩ := State.mem_cores_of_group h
  refine List.mem_flatMap.2 ⟨_, hc, List.mem_map.2 ⟨(slot, g), List.mem_filter.2 ⟨hg, ?_⟩, rfl⟩⟩
  simp [hr]

/-- The oldest closed batch is dropped. -/
def Group.dropBatch (g : Group) : EngineSel → Group
  | .cruc => { g with cruc := { g.cruc with closed := g.cruc.closed.drop 1 } }
  | .ladle => { g with ladle := { g.ladle with closed := g.ladle.closed.drop 1 } }

theorem Group.dropBatch_same (g : Group) (e : EngineSel) : (g.dropBatch e).launch = g.launch ∧ (g.dropBatch e).block = g.block ∧
    (g.dropBatch e).remnant = g.remnant ∧ (g.dropBatch e).nodes = g.nodes ∧ (g.dropBatch e).closed e = (g.closed e).drop 1 ∧
    (∀ n, (g.dropBatch e).queued e n = g.queued e n) ∧ ∀ n b, (g.dropBatch e).inherits e n b = g.inherits e n b := by
  cases e <;> exact ⟨rfl, rfl, rfl, rfl, rfl, fun _ => rfl, fun _ _ => rfl⟩

/-- A batch that is ready has no command left in the queue. -/
theorem State.batchReady_queued {s : State} {g : Group} {e : EngineSel} {n : BitVec 16} (h : s.batchReady g e = some n) : g.queued e n = false := by
  unfold State.batchReady at h
  split at h
  · cases h
  · dsimp only at h
    rw [Option.ite_none_left_eq_some, Option.some.injEq] at h
    obtain ⟨hq, rfl⟩ := h
    simp only [Bool.or_eq_true, not_or, Bool.not_eq_true] at hq
    obtain ⟨⟨hq, -⟩, -⟩ := hq
    cases e <;> (simp only [List.any_eq_false] at hq; simp only [Group.queued, List.any_eq_false]; intro q hm; simp [hq q hm])

theorem exec_batchComplete_none {s : State} {e : EngineSel} {c slot : Nat} {g : Group} (ha : s.cur.arg = .engine e c slot) (hg : s.group? c slot = some g)
    (hb : s.batchReady g e = none) : exec .batchComplete s = .next s := by
  show execBatchComplete s = _
  simp only [execBatchComplete, ha, hg, hb]

theorem exec_batchComplete_some {s : State} {e : EngineSel} {c slot : Nat} {g : Group} {n : BitVec 16} (ha : s.cur.arg = .engine e c slot)
    (hg : s.group? c slot = some g) (hb : s.batchReady g e = some n) (hr : g.remnant = false) : exec .batchComplete s =
      .next ((((s.setGroup c slot (g.dropBatch e)).groupsOf (g.dropBatch e).launch (g.dropBatch e).block).foldl (fun t x => t.wakeBatch x.1 x.2.1 e))
        (s.setGroup c slot (g.dropBatch e))) := by
  show execBatchComplete s = _
  simp only [execBatchComplete, ha, hg, hb]
  cases e <;> exact congrArg Host.Outcome.next (if_neg (by simp [hr]))

/-- The oldest batch, once ready, completes, and the fragments that waited for it go on (R31). -/
theorem exec_batchComplete_wakes {s : State} {e : EngineSel} {c slot : Nat} {g : Group} {n : BitVec 16} (ha : s.cur.arg = .engine e c slot)
    (hg : s.group? c slot = some g) (hb : s.batchReady g e = some n) (hr : g.remnant = false) :
    ∃ (t : State) (g' : Group), exec .batchComplete s = .next t ∧ t.group? c slot = some g' ∧ g'.closed e = (g.closed e).drop 1 ∧
      (s.NoneInherits c e n → n ∉ (g.closed e).drop 1 → ∀ nd ∈ g.nodes, nd.st = .batch e n → nd.resumed ∈ g'.nodes) := by
  obtain ⟨hl, hbl, hrm, hns, hcl, hqu, hin⟩ := g.dropBatch_same e
  have h0 : Waking (s.setGroup c slot (g.dropBatch e)) c slot e n ((g.closed e).drop 1) g.nodes (g.dropBatch e) :=
    ⟨State.group_setGroup_self _ _ _ _, hcl, hrm.trans hr, fun hn => ⟨by simpa [hcl] using hn, (hqu n).trans (State.batchReady_queued hb)⟩,
      fun nd hnd _ => .inl (hns ▸ hnd)⟩
  obtain ⟨g', h', -, hw⟩ := h0.wakeAll ((s.setGroup c slot (g.dropBatch e)).groupsOf (g.dropBatch e).launch (g.dropBatch e).block)
  refine ⟨_, g', exec_batchComplete_some ha hg hb hr, h'.group, h'.closed, fun hi hn => ?_⟩
  exact hw (hi.setGroup hg (hin n)) hn ⟨_, State.mem_groupsOf h0.group h0.remnant, rfl, rfl⟩

/-! ### Time-slot entries -/

/-- A malformed time-slot entry (R280). -/
def badSlot (x : Nat) : Prop := bits x 24 8 ≠ 0 ∨ bits x 6 1 ≠ 0 ∨ bits x 8 16 = 0 ∧ bits x 7 1 = 1

theorem State.writeTimeslot_bad {s : State} {c i : Nat} {v : Word} (h : badSlot v.toNat) : s.writeTimeslot c i v = s := by
  unfold State.writeTimeslot
  rw [if_pos]
  rcases h with h | h | ⟨h1, h2⟩
  · exact .inl h
  · exact .inr (.inl h)
  · refine .inr (.inr ⟨h1, ?_⟩)
    rw [BitVec.getLsbD, Nat.testBit_eq_decide_div_mod_eq]
    simpa [bits] using h2

theorem State.writeTimeslot_good {s : State} {c i : Nat} {v : Word} (h : ¬ badSlot v.toNat) :
    s.writeTimeslot c i v = { s with sup := { s.sup with timeslot := tset 0#32 s.sup.timeslot (16 * c + i) v } } := by
  unfold State.writeTimeslot
  refine if_neg fun hb => h ?_
  rcases hb with hb | hb | ⟨h1, h2⟩
  · exact .inl hb
  · exact .inr (.inl hb)
  · refine .inr (.inr ⟨h1, ?_⟩)
    rw [BitVec.getLsbD, Nat.testBit_eq_decide_div_mod_eq] at h2
    simpa [bits] using h2

/-! ### The events at their operands -/

section
variable {s : State} {c slot cmd : Nat}

theorem exec_crucibleBeat_none {x y : Nat} (ha : s.cur.arg = .at c x y) (hp : s.crucPick c = none) : exec .crucibleBeat s = .next s := by
  show execCrucibleBeat s = _
  simp only [execCrucibleBeat, ha, hp]

/-- The round robin and the turn count a beat of core `c`. -/
def State.beatCounted (s : State) (c key : Nat) : State :=
  s.setCore c { s.core c with rrCruc := tput (s.core c).rrCruc (s.core c).turnCtx key, slotBeats := (s.core c).slotBeats + 1 }

theorem exec_crucibleBeat_some {x y key : Nat} {a : CrucAt} (ha : s.cur.arg = .at c x y) (hp : s.crucPick c = some (key, a)) :
    exec .crucibleBeat s = .next ((s.beatCounted c key).crucBeat a) := by
  show execCrucibleBeat s = _
  simp only [execCrucibleBeat, ha, hp]
  rfl

theorem State.beatCounted_crucHead (s : State) (c key d sl : Nat) : (s.beatCounted c key).crucHead d sl = s.crucHead d sl := by
  refine QueuesKept.crucHead ?_ d sl
  exact .setCore rfl

theorem exec_timeslotTurnEnd_at {x y : Nat} (ha : s.cur.arg = .at c x y) :
    exec .timeslotTurnEnd s = .next (if s.turnOver c = true then s.nextTurn c else s) := by
  show execTimeslotTurnEnd s = _
  simp only [execTimeslotTurnEnd, ha]

theorem exec_claimGrant_at {x y : Nat} (ha : s.cur.arg = .at c x y) : exec .claimGrant s = .next (s.grantHead c fun q => q.forCore.isNone) := by
  show execClaimGrant s = _
  simp only [execClaimGrant, ha]

theorem exec_pairGrant_at {y : Nat} (ha : s.cur.arg = .at c slot y) :
    exec .pairGrant s = .next (s.grantHead (partner c) fun q => q.forCore == some c && q.slot == slot) := by
  show execPairGrant s = _
  simp only [execPairGrant, ha]

variable {g : Group} (ha : s.cur.arg = .at c slot cmd) (hg : s.group? c slot = some g)
include ha hg

theorem exec_crucGateBypass_at : exec .crucGateBypass s = .next (s.setGroup c slot { g with cruc := { g.cruc with queue := g.cruc.queue.map fun x =>
    if x.seq = cmd ∧ (∃ h ∈ x.held, h + 2 ^ 16 ≤ s.tick.toNat) then { x with bypass := true } else x } }) := by
  show execCrucGateBypass s = _
  have hq : ∀ x : CrucCmd, ((x.held.any fun t => decide (t + 2 ^ 16 ≤ s.tick.toNat)) = true) = ∃ h ∈ x.held, h + 2 ^ 16 ≤ s.tick.toNat := by
    intro x
    cases x.held <;> simp
  simp only [execCrucGateBypass, ha, hg, hq]

theorem exec_crucCommandComplete_at {x : CrucCmd} {xs : List CrucCmd} (hx : g.cruc.queue = x :: xs) : exec .crucCommandComplete s =
    .next (if x.done = true ∧ x.seq = cmd then s.setGroup c slot { g with cruc := { g.cruc with queue := xs } } else s) := by
  show execCrucCommandComplete s = _
  simp only [execCrucCommandComplete, ha, hg, hx]
  by_cases h : x.done = true ∧ x.seq = cmd
  · rw [if_pos h, if_pos (by simp [h])]
  · rw [if_neg h, if_neg (by simpa using h)]

end

theorem exec_timeslotWrite_at {s : State} {c i : Nat} {v : BitVec 256} (ha : s.cur.arg = .value c i v) :
    exec .timeslotWrite s = .next (s.writeTimeslot c i (v.setWidth 32)) := by
  show execTimeslotWrite s = _
  simp only [execTimeslotWrite, ha]

/-- Settles O47: each event at its operand, by the lemma on what it does. -/
theorem crucibleEvents : Obligations.CrucibleEvents := by
  unfold Obligations.CrucibleEvents
  intro s c slot cmd k granted
  have grant : ∀ {q : ClaimReq} {owner at_ home : Nat} {i : Instr} {t : State}, exec i s = .next t → ClaimGranted s t q owner at_ home →
      granted q owner at_ home i := fun he h => ⟨_, he, h.granted.tileOwner, h.granted.maskOwner, ⟨_, h.request, rfl⟩, h.fragment⟩
  refine ⟨fun ha => ⟨exec_crucibleBeat_none ha, fun key a g x xs hp hg hq => ?_, fun ht => ?_, fun ht => ?_, fun hw => ?_, fun q qs hw hn => ?_,
      fun q qs hw hc hf => ?_⟩, fun q qs ha hw hc hs hf => ?_, fun g ha hg => ⟨exec_crucGateBypass_at ha hg, fun x xs hq hd hs => ?_, fun x xs hq hn => ?_⟩,
    fun e g ha hg => ⟨exec_batchComplete_none ha hg, fun n hb hr => exec_batchComplete_wakes ha hg hb hr⟩,
    fun i v ha => ⟨fun hb => ?_, fun hb => ?_⟩⟩
  · refine ⟨_, exec_crucibleBeat_some ha hp, State.crucBeat_spec (s := s.beatCounted c key) ?_⟩
    rw [State.beatCounted_crucHead, State.crucHead, hg, Option.bind_some, hq, List.head?_cons]
  · rw [exec_timeslotTurnEnd_at ha, ht]; rfl
  · exact ⟨_, by rw [exec_timeslotTurnEnd_at ha, if_pos ht], s.nextTurn_spec c⟩
  · rw [exec_claimGrant_at ha, State.grantHead_none fun q qs h => by cases hw.symm.trans h]
  · rw [exec_claimGrant_at ha, State.grantHead_none fun q' qs' h => ?_]
    obtain ⟨rfl, -⟩ := List.cons.inj (hw.symm.trans h)
    exact hn.imp_left fun h => by simpa [Option.isSome_iff_ne_none] using h
  · have h := State.grantHead_granted (ok := fun q => q.forCore.isNone) hw (by simp [hc]) hf
    rw [ClaimReq.owner, hc] at h
    exact grant (exec_claimGrant_at ha) h
  · have h := State.grantHead_granted (ok := fun q => q.forCore == some c && q.slot == slot) hw (by simp [hc, hs]) hf
    rw [ClaimReq.owner, hc, hs] at h
    exact grant (exec_pairGrant_at ha) h
  · rw [exec_crucCommandComplete_at ha hg hq, if_pos ⟨hd, hs⟩]
  · rw [exec_crucCommandComplete_at ha hg hq, if_neg]
    rintro ⟨h1, h2⟩
    rcases hn with h | h
    · exact Bool.false_ne_true (h.symm.trans h1)
    · exact h h2
  · rw [exec_timeslotWrite_at ha, State.writeTimeslot_bad (by rw [BitVec.toNat_setWidth]; exact hb)]
  · refine ⟨_, exec_timeslotWrite_at ha, ?_⟩
    rw [State.writeTimeslot_good (by rw [BitVec.toNat_setWidth]; exact hb)]
    refine ⟨rfl, ?_, fun d j hj => ?_⟩
    · rw [State.slotEntryOf, tget_tset_self, BitVec.toNat_setWidth]
    · rw [State.slotEntryOf, tget_tset_ne _ _ hj, State.slotEntryOf]

end Sys2Proof.Machine
end

section
/-! SUPPORT. A head that is enabled while a core's L1 holds an unwritten byte (R38, R449; O50). -/

namespace Sys2Proof.Machine

/-- A sector of an L1 with one byte that has not been written back. -/
def unwrittenSector : L1Sector := { have_ := 1, dirty := 1, data := 5, filled := 0, wrote := 0 }

/-- A physical head that is off, whose set and mailbox are in the Mantel. -/
def headToEnable : Head :=
  { Head.reset with geom := 0x10000F0000, period := 0x400000, set := 0x10000000000 + 512 + 12, pose := 0x10000010000 }

/-- The L1 of core 0 holds an unwritten byte of address 0, and a write to DHCFG of head 0 sets ENABLE. -/
def enablesOverDirtyL1 : State :=
  { State.reset with
    cur := { State.reset.cur with arg := .value 0 0 0x1010081 }
    cores := [(0, { Core.reset with l1 := [(0, unwrittenSector)] })], damper := { heads := [(0, headToEnable)], retire := [] } }

theorem enablesOverDirtyL1_enableOk : enablesOverDirtyL1.enableOk 0 { enablesOverDirtyL1.head 0 with cfg := 0x1010081 } = true := by
  decide +kernel

theorem exec_headEnable_enablesOverDirtyL1 : exec .headEnable enablesOverDirtyL1 = .next (enablesOverDirtyL1.enableHead 0 0x1010081) := rfl

/-- No head had registered the set, so its registration writes the L1 back (R38), which leaves the sector without dirty bytes. -/
theorem enableHead_enablesOverDirtyL1_core :
    ((enablesOverDirtyL1.enableHead 0 0x1010081).core 0).l1 = [(0, { unwrittenSector with dirty := 0 })] := by
  decide +kernel

/-- Refutes O50: HEAD_ENABLE of a set that is not registered yet writes the cores' L1s back, so a core whose L1 holds an unwritten byte does
not stay as it was. -/
theorem not_flueAndDamperEvents : ¬ Obligations.FlueAndDamperEvents := by
  unfold Obligations.FlueAndDamperEvents
  intro h
  obtain ⟨-, -, -, hhead, -⟩ := h enablesOverDirtyL1 0 0 0 0
  obtain ⟨-, -, henable, -⟩ := hhead 0x1010081 rfl
  obtain ⟨t, ht, -, -, hcores, -⟩ := henable (by decide) (by decide) (by decide) enablesOverDirtyL1_enableOk
  obtain rfl : enablesOverDirtyL1.enableHead 0 0x1010081 = t := Host.Outcome.next.inj (exec_headEnable_enablesOverDirtyL1.symm.trans ht)
  have hl1 := enableHead_enablesOverDirtyL1_core
  rw [State.core, hcores] at hl1
  exact absurd hl1 (by decide)

end Sys2Proof.Machine
end

section
/-! SUPPORT. What casting words decode and encode as (O54). -/

namespace Sys2Proof

/-- A casting word is its fields, packed. -/
theorem castPack_castFields (w : BitVec 128) : castPack (w.extractLsb' 120 8) (w.extractLsb' 116 4) (castFields w) = w := by
  simp only [castPack, castFields]
  iterate 14 rw [BitVec.extractLsb'_append_extractLsb'_eq_extractLsb']
  · exact BitVec.extractLsb'_eq_self
  all_goals rfl

theorem castOf_castCode {i : Instr} {c : BitVec 8 × BitVec 4 × CastWord} (h : castCode i = some c) :
    castOf c.1.toNat c.2.1.toNat c.2.2 = some i := by
  cases i
  case shfl m w | vote m w | gred m w | gscan m w | plop m w | icmp m w | fcmp m w | atom m w | red m w | waitv m w | waitb m w | ccop m w =>
    cases m <;> cases h <;> rfl
  all_goals cases h <;> rfl

theorem decodeCast_of_encodeCast {i : Instr} {w : BitVec 128} (h : encodeCast i = some w) : decodeCast w = some i := by
  obtain ⟨c, hc, rfl⟩ := Option.map_eq_some_iff.1 h
  simp only [decodeCast, castPack_op, castPack_sub, castFields_castPack]
  exact castOf_castCode hc

/-- The casting instructions whose words carry nothing but TC (log 26). -/
def Instr.bare : List Instr := [.yield, .ifence, .ccommit, .cpair, .cunpair, .lcommit, .lcancel]

/-- The code of `i` is `op` and `sub` with the fields `f`, but for TC where the word carries nothing else. -/
def CodedAs (i : Instr) (op sub : Nat) (f : CastWord) : Prop :=
  ∃ o u g, castCode i = some (o, u, g) ∧ o.toNat = op ∧ u.toNat = sub ∧ (i ∉ Instr.bare → g = f) ∧ g = { f with tc := g.tc }

theorem CodedAs.of_fields {i : Instr} {o : BitVec 8} {u : BitVec 4} {op sub : Nat} {f : CastWord} (h : castCode i = some (o, u, f))
    (ho : o.toNat = op) (hu : u.toNat = sub) : CodedAs i op sub f :=
  ⟨o, u, f, h, ho, hu, fun _ => rfl, rfl⟩

theorem CodedAs.of_bare {i : Instr} {o : BitVec 8} {u : BitVec 4} {op sub : Nat} {f : CastWord} {tc : BitVec 2} (hf : f = plainFields f.tc)
    (h : castCode i = some (o, u, plainFields tc)) (ho : o.toNat = op) (hu : u.toNat = sub) (hi : i ∈ Instr.bare) : CodedAs i op sub f :=
  ⟨o, u, _, h, ho, hu, fun hn => absurd hi hn, by rw [hf]; rfl⟩

/-! The opcode maps are long matches on literals. Each alternative is taken off by an elimination rule, which is a lot cheaper than
splitting the match at once. -/

theorem dite_eq_some_elim {α : Type} {c : Prop} {inst : Decidable c} {A : c → Option α} {B : Option α} {x : α} {P : Prop}
    (hA : ∀ hc, A hc = some x → P) (hB : B = some x → P) : dite c A (fun _ => B) = some x → P := by
  split
  · exact hA _
  · exact hB

set_option smartUnfolding false in
theorem codedAs_of_castOf {op sub : Nat} {f : CastWord} {i : Instr} : castOf op sub f = some i → CodedAs i op sub f := by
  repeat' (first | refine dite_eq_some_elim ?_ ?_ | rintro rfl)
  all_goals first
    | rintro ⟨⟩; exact .of_fields rfl rfl rfl
    | rintro hf ⟨⟩; exact .of_bare hf rfl rfl rfl (by simp [Instr.bare])
    | rintro ⟨⟩

theorem encodeCast_of_decodeCast {i : Instr} {w : BitVec 128} (h : decodeCast w = some i) :
    ∃ x, encodeCast i = some x ∧ (i ∉ Instr.bare → x = w) ∧ castFields x = { castFields w with tc := (castFields x).tc } := by
  obtain ⟨o, u, g, hc, ho, hu, hg, htc⟩ := codedAs_of_castOf h
  obtain rfl := BitVec.eq_of_toNat_eq ho
  obtain rfl := BitVec.eq_of_toNat_eq hu
  refine ⟨_, congrArg (Option.map _) hc, fun hi => ?_, ?_⟩
  · exact hg hi ▸ castPack_castFields w
  · simp only [castFields_castPack]
    exact htc

end Sys2Proof
end

section
/-! SUPPORT. What slot ops decode and encode as (O54). -/

namespace Sys2Proof

/-! ### Fields -/

/-- A slot op is its fields, packed. -/
theorem slotPack_fields (w : BitVec 32) : slotPack (w.extractLsb' 24 8) (slotD w) (slotA w) (slotB w) (slotC w) = w := by
  unfold slotPack slotD slotA slotB slotC
  iterate 4 rw [BitVec.extractLsb'_append_extractLsb'_eq_extractLsb']
  · exact BitVec.extractLsb'_eq_self
  all_goals rfl

theorem slotPack_eq {w : BitVec 32} {op : BitVec 8} {d a b c : BitVec 6} (ho : (w.extractLsb' 24 8).toNat = op.toNat) (hd : slotD w = d)
    (ha : slotA w = a) (hb : slotB w = b) (hc : slotC w = c) : slotPack op d a b c = w := by
  rw [← hd, ← ha, ← hb, ← hc, ← BitVec.eq_of_toNat_eq ho, slotPack_fields]

section
variable (op : BitVec 8) (d a b c : BitVec 6)

@[simp] theorem slotPack_op : (slotPack op d a b c).extractLsb' 24 8 = op := by
  ext i hi; simp only [slotPack, BitVec.getElem_extractLsb', BitVec.getLsbD_append]; grind
@[simp] theorem slotD_slotPack : slotD (slotPack op d a b c) = d := by
  ext i hi; simp only [slotPack, slotD, BitVec.getElem_extractLsb', BitVec.getLsbD_append]; grind
@[simp] theorem slotA_slotPack : slotA (slotPack op d a b c) = a := by
  ext i hi; simp only [slotPack, slotA, BitVec.getElem_extractLsb', BitVec.getLsbD_append]; grind
@[simp] theorem slotB_slotPack : slotB (slotPack op d a b c) = b := by
  ext i hi; simp only [slotPack, slotB, BitVec.getElem_extractLsb', BitVec.getLsbD_append]; grind
@[simp] theorem slotC_slotPack : slotC (slotPack op d a b c) = c := by
  ext i hi; simp only [slotPack, slotC, BitVec.getElem_extractLsb', BitVec.getLsbD_append]; grind

/-! An immediate or an offset over two or three of the fields. -/

@[simp] theorem extract_append3_high : (a ++ b ++ c).extractLsb' 12 6 = a := by
  ext i hi; simp only [BitVec.getElem_extractLsb', BitVec.getLsbD_append]; grind
@[simp] theorem extract_append3_mid : (a ++ b ++ c).extractLsb' 6 6 = b := by
  ext i hi; simp only [BitVec.getElem_extractLsb', BitVec.getLsbD_append]; grind
@[simp] theorem extract_append3_low : (a ++ b ++ c).extractLsb' 0 6 = c := by
  ext i hi; simp only [BitVec.getElem_extractLsb', BitVec.getLsbD_append]; grind
@[simp] theorem extract_append2_high : (b ++ c).extractLsb' 6 6 = b := by
  ext i hi; simp only [BitVec.getElem_extractLsb', BitVec.getLsbD_append]; grind
@[simp] theorem extract_append2_low : (b ++ c).extractLsb' 0 6 = c := by
  ext i hi; simp only [BitVec.getElem_extractLsb', BitVec.getLsbD_append]; grind

theorem append3_extract (v : BitVec 18) : v.extractLsb' 12 6 ++ v.extractLsb' 6 6 ++ v.extractLsb' 0 6 = v := by
  iterate 2 rw [BitVec.extractLsb'_append_extractLsb'_eq_extractLsb' (by rfl)]
  exact BitVec.extractLsb'_eq_self
theorem append2_extract (v : BitVec 12) : v.extractLsb' 6 6 ++ v.extractLsb' 0 6 = v := by
  rw [BitVec.extractLsb'_append_extractLsb'_eq_extractLsb' (by rfl)]
  exact BitVec.extractLsb'_eq_self
end

/-! ### Register fields -/

theorem sField_eq_some {f : BitVec 6} {r : BitVec 5} : sField f = some r ↔ f = ofS r := by
  revert f r; decide
theorem wField_eq_some {f : BitVec 6} {r : BitVec 3} : wField f = some r ↔ f = ofW r := by
  revert f r; decide
theorem zField_eq_some {f : BitVec 6} {u : Unit} : zField f = some u ↔ f = 0 := by
  simp [zField]

theorem sField_bind {α : Type} (r : BitVec 5) (k : BitVec 5 → Option α) : (sField (ofS r)).bind k = k r := by
  rw [sField_eq_some.2 rfl, Option.bind_some]
theorem wField_bind {α : Type} (r : BitVec 3) (k : BitVec 3 → Option α) : (wField (ofW r)).bind k = k r := by
  rw [wField_eq_some.2 rfl, Option.bind_some]
theorem zField_bind {α : Type} (k : Unit → Option α) : (zField 0).bind k = k () := rfl

section
variable {i : Instr} {P : Prop}

theorem sField_elim {f : BitVec 6} {k : BitVec 5 → Option Instr} (h : ∀ r, f = ofS r → k r = some i → P) : (sField f).bind k = some i → P := by
  rw [Option.bind_eq_some_iff]
  rintro ⟨r, hr, hk⟩
  exact h r (sField_eq_some.1 hr) hk
theorem wField_elim {f : BitVec 6} {k : BitVec 3 → Option Instr} (h : ∀ r, f = ofW r → k r = some i → P) : (wField f).bind k = some i → P := by
  rw [Option.bind_eq_some_iff]
  rintro ⟨r, hr, hk⟩
  exact h r (wField_eq_some.1 hr) hk
theorem zField_elim {f : BitVec 6} {k : Unit → Option Instr} (h : f = 0 → k () = some i → P) : (zField f).bind k = some i → P := by
  rw [Option.bind_eq_some_iff]
  rintro ⟨r, hr, hk⟩
  exact h (zField_eq_some.1 hr) hk

/-- An alternative of a match on a number: its literal, or one of the others. -/
theorem literal_elim {n k : Nat} {inst : Decidable (n = k)} {a b : Option Instr} (ha : n = k → a = some i → P) (hb : b = some i → P) :
    dite (n = k) (Eq.ndrec_symm (motive := fun _ => Option Instr) a) (fun _ => b) = some i → P := by
  by_cases h : n = k
  · subst h
    simpa using ha rfl
  · simpa [h] using hb
end

/-! ### Both ways -/

theorem flueFields_of_encodeFlue {i : Instr} {w : BitVec 32} (h : encodeFlue i = some w) : flueFields w = some i := by
  cases i
  all_goals cases h
  all_goals unfold flueFields
  all_goals rw [slotPack_op, slotD_slotPack, slotA_slotPack, slotB_slotPack, slotC_slotPack]
  all_goals repeat (first | refine (sField_bind _ _).trans ?_ | refine (wField_bind _ _).trans ?_ | refine (zField_bind _).trans ?_)
  case sldl d v => exact congrArg (fun x => some (Instr.sldl d x)) (append3_extract v)
  case sldh d v => exact congrArg (fun x => some (Instr.sldh d x)) (append3_extract v)
  case flueBr v => exact congrArg (fun x => some (Instr.flueBr x)) (append3_extract v)
  case bz a v => exact congrArg (fun x => some (Instr.bz a x)) (append2_extract v)
  case bnz a v => exact congrArg (fun x => some (Instr.bnz a x)) (append2_extract v)
  all_goals rfl

set_option smartUnfolding false in
theorem encodeFlue_of_flueFields {i : Instr} {w : BitVec 32} : flueFields w = some i → encodeFlue i = some w := by
  refine literal_elim (fun _ => ?_) ?_
  all_goals repeat' with_reducible refine literal_elim (fun _ => ?_) ?_
  all_goals repeat' with_reducible first
    | refine sField_elim fun _ _ => ?_
    | refine wField_elim fun _ _ => ?_
    | refine zField_elim fun _ => ?_
  all_goals rintro ⟨⟩
  all_goals refine congrArg some (slotPack_eq ‹_› ?_ ?_ ?_ ?_) <;> simp [*]

theorem encodeCast_of_encodeFlue {i : Instr} {w : BitVec 32} (h : encodeFlue i = some w) : encodeCast i = none := by
  cases i
  all_goals first | rfl | cases h

theorem wf_of_encodeCast_none {i : Instr} (h : encodeCast i = none) : i.wf = wfFlue i := by
  simp [Instr.wf, h, wfStoker]

theorem decodeFlue_eq_some {w : BitVec 32} {i : Instr} : decodeFlue w = some i ↔ encodeFlue i = some w ∧ wfFlue i = true := by
  rw [decodeFlue, Option.filter_eq_some_iff]
  exact and_congr_left' ⟨encodeFlue_of_flueFields, flueFields_of_encodeFlue⟩

end Sys2Proof
end

section
/-! SUPPORT. What Stoker command words decode and encode as (O54). -/

namespace Sys2Proof

/-! ### Fields -/

section
variable (op : BitVec 8) (nw fl : BitVec 4) (p : BitVec 48)

@[simp] theorem stOp_stPack : stOp (stPack op nw fl p) = op := by
  ext i hi; simp only [stPack, stOp, BitVec.getElem_extractLsb', BitVec.getLsbD_append]; grind
@[simp] theorem stNw_stPack : stNw (stPack op nw fl p) = nw := by
  ext i hi; simp only [stPack, stNw, BitVec.getElem_extractLsb', BitVec.getLsbD_append]; grind
@[simp] theorem stFl_stPack : stFl (stPack op nw fl p) = fl := by
  ext i hi; simp only [stPack, stFl, BitVec.getElem_extractLsb', BitVec.getLsbD_append]; grind
@[simp] theorem stP_stPack : stP (stPack op nw fl p) = p := by
  ext i hi; simp only [stPack, stP, BitVec.getElem_extractLsb', BitVec.getLsbD_append]; grind
end

/-- A command word is its fields, packed. -/
theorem stPack_fields (w : DWord) : stPack (stOp w) (stNw w) (stFl w) (stP w) = w := by
  unfold stPack stOp stNw stFl stP
  iterate 3 rw [BitVec.extractLsb'_append_extractLsb'_eq_extractLsb']
  · exact BitVec.extractLsb'_eq_self
  all_goals rfl

/-- A word with the fields `op`, `n`, `fl` and `p`, and as many extra words as `n` says. -/
theorem stWords_eq {w e0 e1 e2 : DWord} {op : BitVec 8} {n fl : BitVec 4} {p m : BitVec 48} (ho : (stOp w).toNat = op.toNat) (hn : stNw w = n)
    (hf : fl = stFl w) (hp : stP w &&& m = stP w) (hm : stP w &&& m = p) :
    stPack op n fl p :: [e0, e1, e2].take n.toNat = w :: [e0, e1, e2].take (stExtra w) := by
  rw [hf, ← hm, hp, stExtra, ← hn, ← BitVec.eq_of_toNat_eq ho, stPack_fields]

/-! ### The masks of P -/

theorem and_not_eq_zero_iff {n : Nat} {p m : BitVec n} : p &&& ~~~m = 0 ↔ p &&& m = p := by
  constructor <;> intro h <;> ext i hi <;> have hb := congrArg (fun v => v.getLsbD i) h <;>
    simp [hi, ← BitVec.getLsbD_eq_getElem] at hb ⊢ <;> grind

theorem stBits_iff {nw fl : BitVec 4} {p : BitVec 48} {n fm : BitVec 4} {pm : BitVec 48} :
    stBits nw fl p n fm pm = true ↔ nw = n ∧ fl &&& fm = fl ∧ p &&& pm = p := by
  simp only [stBits, Bool.and_eq_true, beq_iff_eq, and_assoc, ← and_not_eq_zero_iff, BitVec.ofNat_eq_ofNat]

/-- The high part and the low part of a mask each keep their own places. -/
theorem extract_and_append {k m n s : Nat} (p : BitVec k) (a : BitVec m) (b : BitVec n) :
    p.extractLsb' s (m + n) &&& (a ++ b) = (p.extractLsb' (s + n) m &&& a) ++ (p.extractLsb' s n &&& b) := by
  ext i hi
  rw [BitVec.getElem_and, BitVec.getElem_append, BitVec.getElem_append]
  split <;> simp
  grind

theorem masked_of_append {m n : Nat} {p : BitVec (m + n)} (a : BitVec m) (b : BitVec n) {q : BitVec (m + n)}
    (h : (p.extractLsb' n m &&& a) ++ (p.extractLsb' 0 n &&& b) = q) : p &&& (a ++ b) = q := by
  have hs := extract_and_append (s := 0) p a b
  rw [BitVec.extractLsb'_eq_self, Nat.zero_add] at hs
  exact hs.trans h

/-! What each mask of R364 leaves of P. -/

section
variable (p : BitVec 48)
open BitVec (allOnes and_allOnes and_zero)

theorem masked_none : p &&& 0 = 0 := and_zero
theorem masked_all : p &&& 0xFFFFFFFFFFFF = pX3 p ++ p.extractLsb' 0 44 :=
  masked_of_append (allOnes 4) (allOnes 44) (by simp only [and_allOnes, pX3])
theorem masked_x : p &&& 0xF00000000000 = pX3 p ++ 0#44 :=
  masked_of_append (allOnes 4) 0#44 (by simp only [and_allOnes, and_zero, pX3])
theorem masked_xxx : p &&& 0xFFF000000000 = pX3 p ++ pX2 p ++ pX1 p ++ 0#36 :=
  masked_of_append (allOnes 4 ++ allOnes 4 ++ allOnes 4) 0#36 (by simp only [extract_and_append, and_allOnes, and_zero, pX3, pX2, pX1])
theorem masked_xx_word : p &&& 0xFF00FFFFFFFF = pX3 p ++ pX2 p ++ 0#8 ++ p.extractLsb' 0 32 :=
  masked_of_append (allOnes 4 ++ allOnes 4 ++ 0#8) (allOnes 32) (by simp only [extract_and_append, and_allOnes, and_zero, pX3, pX2])
theorem masked_xx_off : p &&& 0x0FF0FFFFFFFF = 0#4 ++ pX2 p ++ pX1 p ++ 0#4 ++ p.extractLsb' 0 32 :=
  masked_of_append (0#4 ++ allOnes 4 ++ allOnes 4 ++ 0#4) (allOnes 32) (by simp only [extract_and_append, and_allOnes, and_zero, pX2, pX1])
theorem masked_low6 : p &&& 0x3F = 0#42 ++ p.extractLsb' 0 6 :=
  masked_of_append 0#42 (allOnes 6) (by simp only [and_allOnes, and_zero])
theorem masked_low10 : p &&& 0x3FF = 0#4 ++ 0#34 ++ p.extractLsb' 0 10 :=
  masked_of_append (0#4 ++ 0#34) (allOnes 10) (by simp only [extract_and_append, and_allOnes, and_zero])
theorem masked_low11 : p &&& 0x7FF = 0#37 ++ p.extractLsb' 0 11 :=
  masked_of_append 0#37 (allOnes 11) (by simp only [and_allOnes, and_zero])
theorem masked_low13 : p &&& 0x1FFF = 0#35 ++ p.extractLsb' 0 13 :=
  masked_of_append 0#35 (allOnes 13) (by simp only [and_allOnes, and_zero])
theorem masked_low32 : p &&& 0xFFFFFFFF = 0#16 ++ p.extractLsb' 0 32 :=
  masked_of_append 0#16 (allOnes 32) (by simp only [and_allOnes, and_zero])
theorem masked_x_low10 : p &&& 0xF000000003FF = pX3 p ++ 0#34 ++ p.extractLsb' 0 10 :=
  masked_of_append (allOnes 4 ++ 0#34) (allOnes 10) (by simp only [extract_and_append, and_allOnes, and_zero, pX3])
theorem masked_x_low16 : p &&& 0xF0000000FFFF = pX3 p ++ 0#28 ++ p.extractLsb' 0 16 :=
  masked_of_append (allOnes 4 ++ 0#28) (allOnes 16) (by simp only [extract_and_append, and_allOnes, and_zero, pX3])
theorem masked_unbind : p &&& 0xFFFFFFF00000 = p.extractLsb' 42 6 ++ p.extractLsb' 32 10 ++ p.extractLsb' 20 12 ++ 0#20 :=
  masked_of_append (allOnes 6 ++ allOnes 10 ++ allOnes 12) 0#20 (by simp only [extract_and_append, and_allOnes, and_zero])
theorem masked_bind : p &&& 0xFFFFFFF00FFF =
    p.extractLsb' 42 6 ++ p.extractLsb' 32 10 ++ p.extractLsb' 20 12 ++ 0#8 ++ p.extractLsb' 0 12 :=
  masked_of_append (allOnes 6 ++ allOnes 10 ++ allOnes 12 ++ 0#8) (allOnes 12) (by simp only [extract_and_append, and_allOnes, and_zero])
end

/-! ### The flags -/

@[simp] theorem memFlagsOf_memFlagsCode (f : MemFlags) : memFlagsOf (memFlagsCode f) = f := by
  obtain ⟨a, b, c⟩ := f
  revert a b c; decide
@[simp] theorem memFlagsCode_masked (f : MemFlags) : memFlagsCode f &&& 7 = memFlagsCode f := by
  obtain ⟨a, b, c⟩ := f
  revert a b c; decide

theorem waitCondOf_waitCondCode (c : WaitCond) : waitCondOf (waitCondCode c) = some c := by
  cases c <;> rfl
theorem signalOpOf_signalOpCode (m : SignalOp) : signalOpOf (signalOpCode m) = some m := by
  cases m <;> rfl

section
variable {x : BitVec 2}

theorem waitCondCode_of_waitCondOf {c : WaitCond} (h : waitCondOf x = some c) : waitCondCode c = x := by
  cases c <;> revert h x <;> decide
theorem signalOpCode_of_signalOpOf {m : SignalOp} (h : signalOpOf x = some m) : signalOpCode m = x := by
  cases m <;> revert h x <;> decide
theorem cacheOpCode_of_cacheOpOf {m : CacheOp} (h : cacheOpOf x = some m) : cacheOpCode m = x := by
  cases m <;> revert h x <;> decide
end

section
variable {fl : BitVec 4}

theorem brCondCode_of_brCondOf {c : BrCond} (h : brCondOf fl = some c) : brCondCode c = fl := by
  cases c <;> revert h fl <;> decide
theorem flags_none (h : fl &&& 0 = fl) : 0 = fl := BitVec.and_zero.symm.trans h
theorem flags_bit0 : fl &&& 1 = fl → fl.getLsbD 0 = true → 1 = fl := by
  revert fl; decide
theorem flags_mem : fl &&& 7 = fl → memFlagsCode (memFlagsOf fl) = fl := by
  revert fl; decide
theorem flags_cache : fl &&& 3 = fl → 0#2 ++ fl.extractLsb' 0 2 = fl := by
  revert fl; decide
theorem flags_spreempt : fl &&& 1 = fl → 0#3 ++ BitVec.ofBool (fl.getLsbD 0) = fl := by
  revert fl; decide
theorem flags_sqctl : fl &&& 3 = fl → fl ≠ 0 → fl ≠ 1 → fl ≠ 2 → 3 = fl := by
  revert fl; decide
theorem flags_low2 : fl &&& 3 = fl → 0#2 ++ BitVec.ofBool (fl.getLsbD 1) ++ BitVec.ofBool (fl.getLsbD 0) = fl := by
  revert fl; decide
theorem flags_wait : fl &&& 7 = fl → 0#1 ++ BitVec.ofBool (fl.getLsbD 2) ++ fl.extractLsb' 0 2 = fl := by
  revert fl; decide
theorem flags_signal : fl &&& 15 = fl → BitVec.ofBool (fl.getLsbD 3) ++ BitVec.ofBool (fl.getLsbD 2) ++ fl.extractLsb' 0 2 = fl := by
  revert fl; decide
end

section
variable (x : BitVec 1) (c : BitVec 2) (b : Bool)

theorem waitFlags : (0#1 ++ x ++ c).getLsbD 2 = (x == 1) ∧ (0#1 ++ x ++ c).extractLsb' 0 2 = c ∧ (0#1 ++ x ++ c) &&& 7 = 0#1 ++ x ++ c := by
  revert x c; decide
theorem waittFlags : (0#2 ++ x ++ BitVec.ofBool b).getLsbD 1 = (x == 1) ∧ (0#2 ++ x ++ BitVec.ofBool b).getLsbD 0 = b ∧
    (0#2 ++ x ++ BitVec.ofBool b) &&& 3 = 0#2 ++ x ++ BitVec.ofBool b := by
  revert x b; decide
theorem signalFlags : (x ++ BitVec.ofBool b ++ c).getLsbD 3 = (x == 1) ∧ (x ++ BitVec.ofBool b ++ c).extractLsb' 0 2 = c ∧
    (x ++ BitVec.ofBool b ++ c).getLsbD 2 = b ∧ (x ++ BitVec.ofBool b ++ c) &&& 15 = x ++ BitVec.ofBool b ++ c := by
  revert x b c; decide
end

/-! ### The XV operand -/

section
variable {w e0 e1 e2 : DWord} {xv : Bool} {p : BitVec 48}

theorem xvalBit_xvalOf : xvalBit (xvalOf xv p e0) = BitVec.ofBool xv := by
  cases xv <;> rfl
theorem masked_xval : p &&& (if xv = true then 0xF00000000000 else 0) = xvalX (xvalOf xv p e0) ++ 0#44 := by
  cases xv
  · exact (masked_none _).trans (by decide : (0 : BitVec 48) = 0#4 ++ 0#44)
  · exact masked_x _
theorem masked_xval_low10 :
    p &&& (if xv = true then 0xF000000003FF else 0x3FF) = xvalX (xvalOf xv p e0) ++ 0#34 ++ p.extractLsb' 0 10 := by
  cases xv
  · exact masked_low10 _
  · exact masked_x_low10 _
theorem stXvalWords_eq {op : BitVec 8} {fl : BitVec 4} {q m : BitVec 48} (ho : (stOp w).toNat = op.toNat)
    (hn : stNw w = if xv = true then 0 else 1) (hf : fl = stFl w) (hp : stP w &&& m = stP w) (hm : stP w &&& m = q) :
    stPack op (xvalNw (xvalOf xv p e0)) fl q :: xvalWords (xvalOf xv p e0) = w :: [e0, e1, e2].take (stExtra w) := by
  cases xv
  · exact stWords_eq ho hn hf hp hm
  · exact stWords_eq ho hn hf hp hm
end

section
variable (v : XVal) (sem : BitVec 10)

theorem stExtra_xval (op : BitVec 8) (fl : BitVec 4) (p : BitVec 48) : stExtra (stPack op (xvalNw v) fl p) = (xvalWords v).length := by
  rw [stExtra, stNw_stPack]
  cases v <;> rfl
theorem xvalNw_eq : xvalNw v = if (xvalBit v == 1) = true then 0 else 1 := by
  cases v <;> rfl
theorem pX3_append (x : BitVec 4) (p : BitVec 44) : pX3 (x ++ p) = x :=
  BitVec.extractLsb'_append_eq_left
theorem pX3_append_low10 (x : BitVec 4) : pX3 (x ++ 0#34 ++ sem) = x :=
  (BitVec.extractLsb'_append_eq_of_le (xhi := x ++ 0#34) (by decide)).trans BitVec.extractLsb'_append_eq_left

theorem xvalOf_append : xvalOf (xvalBit v == 1) (xvalX v ++ 0#44) ((xvalWords v).getD 0 0) = v := by
  cases v with
  | reg x => exact congrArg XVal.reg (pX3_append x _)
  | word e => rfl
theorem xvalOf_append_low10 : xvalOf (xvalBit v == 1) (xvalX v ++ 0#34 ++ sem) ((xvalWords v).getD 0 0) = v := by
  cases v with
  | reg x => exact congrArg XVal.reg (pX3_append_low10 sem x)
  | word e => rfl
theorem xval_append_masked :
    (xvalX v ++ 0#44) &&& (if (xvalBit v == 1) = true then 0xF00000000000 else 0) = xvalX v ++ 0#44 := by
  rw [masked_xval, xvalOf_append]
theorem xval_append_low10_masked :
    (xvalX v ++ 0#34 ++ sem) &&& (if (xvalBit v == 1) = true then 0xF000000003FF else 0x3FF) = xvalX v ++ 0#34 ++ sem := by
  rw [masked_xval_low10, xvalOf_append_low10, BitVec.extractLsb'_append_eq_right]
end

/-! ### From an instruction to its words and back -/

theorem decode_stoker_cons {i : Instr} {w : DWord} {es : List DWord} (hn : stExtra w = es.length)
    (h : decodeStoker w (es.getD 0 0) (es.getD 1 0) (es.getD 2 0) = some i) : decode (.stoker (w :: es)) = some i :=
  (if_pos hn).trans h

theorem decode_wait (c : WaitCond) (sem : BitVec 10) (v : XVal) :
    decode (.stoker (stPack 0x50 (xvalNw v) (0#1 ++ xvalBit v ++ waitCondCode c) (xvalX v ++ 0#34 ++ sem) :: xvalWords v)) = some (.wait c sem v) := by
  have ⟨hxv, hc, hfl⟩ := waitFlags (xvalBit v) (waitCondCode c)
  refine decode_stoker_cons (stExtra_xval ..) ?_
  unfold decodeStoker
  rw [stOp_stPack, stNw_stPack, stFl_stPack, stP_stPack]
  refine (if_pos (stBits_iff.2 ⟨?_, hfl, ?_⟩)).trans ?_ <;> rw [hxv]
  · exact xvalNw_eq v
  · exact xval_append_low10_masked v sem
  · rw [hc, waitCondOf_waitCondCode, xvalOf_append_low10, BitVec.extractLsb'_append_eq_right]
    rfl

theorem decode_waitt (rel : Bool) (v : XVal) :
    decode (.stoker (stPack 0x51 (xvalNw v) (0#2 ++ xvalBit v ++ BitVec.ofBool rel) (xvalX v ++ 0#44) :: xvalWords v)) = some (.waitt rel v) := by
  have ⟨hxv, hrel, hfl⟩ := waittFlags (xvalBit v) rel
  refine decode_stoker_cons (stExtra_xval ..) ?_
  unfold decodeStoker
  rw [stOp_stPack, stNw_stPack, stFl_stPack, stP_stPack]
  refine (if_pos (stBits_iff.2 ⟨?_, hfl, ?_⟩)).trans ?_ <;> rw [hxv]
  · exact xvalNw_eq v
  · exact xval_append_masked v
  · rw [hrel, xvalOf_append]

theorem decode_signal (m : SignalOp) (sys : Bool) (sem : BitVec 10) (v : XVal) :
    decode (.stoker (stPack 0x60 (xvalNw v) (xvalBit v ++ BitVec.ofBool sys ++ signalOpCode m) (xvalX v ++ 0#34 ++ sem) :: xvalWords v)) =
      some (.signal m sys sem v) := by
  have ⟨hxv, hm, hsys, hfl⟩ := signalFlags (xvalBit v) (signalOpCode m) sys
  refine decode_stoker_cons (stExtra_xval ..) ?_
  unfold decodeStoker
  rw [stOp_stPack, stNw_stPack, stFl_stPack, stP_stPack]
  refine (if_pos (stBits_iff.2 ⟨?_, hfl, ?_⟩)).trans ?_ <;> rw [hxv]
  · exact xvalNw_eq v
  · exact xval_append_low10_masked v sem
  · rw [hm, hsys, signalOpOf_signalOpCode, xvalOf_append_low10, BitVec.extractLsb'_append_eq_right]
    rfl

/-- The words of an instruction decode as it. Once the operands that say which flags or extra words there are have been split, the word's fields
are literals or packed fields, and each field is read back from where it was packed. -/
theorem decode_of_encodeStoker {i : Instr} {ws : List DWord} (h : encodeStoker i = some ws) : decode (.stoker ws) = some i := by
  cases i
  case wait c sem v => cases h; exact decode_wait c sem v
  case waitt rel v => cases h; exact decode_waitt rel v
  case signal m sys sem v => cases h; exact decode_signal m sys sem v
  case' launch v | ldi v | sinval v | stokerAdd v | stokerSub v | stokerAnd v | stokerOr v | stokerXor v | stokerShl v | stokerShr v => cases v
  case' stokerBr c _ _ _ | cache c _ _ | spreempt c _ => cases c
  case' stokerFence launches sys => cases launches <;> cases sys
  all_goals cases h
  all_goals
    refine decode_stoker_cons (congrArg BitVec.toNat (stNw_stPack ..)) ?_
    unfold decodeStoker
    rw [stOp_stPack, stNw_stPack, stFl_stPack, stP_stPack]
  case launch.none | launch.some => rfl
  all_goals refine (if_pos (stBits_iff.2 ⟨rfl, ?_, ?_⟩)).trans ?_
  all_goals
    try simp only [masked_none, masked_all, masked_x, masked_xxx, masked_xx_word, masked_xx_off, masked_low6, masked_low11, masked_low13,
      masked_low32, masked_x_low16, masked_bind, masked_unbind, memFlagsCode_masked, memFlagsOf_memFlagsCode, pX3, pX2, pX1]
  all_goals repeat first | rw [BitVec.extractLsb'_append_eq_right] | rw [BitVec.extractLsb'_append_eq_of_le (by decide)] | rw [BitVec.extractLsb'_eq_self]
  all_goals rfl

/-! ### From a word to its instruction and back -/

section
variable {i : Instr} {P : Prop}

theorem stBits_elim {nw fl : BitVec 4} {p : BitVec 48} {n fm : BitVec 4} {pm : BitVec 48} {o : Option Instr}
    (h : nw = n → fl &&& fm = fl → p &&& pm = p → o = some i → P) : (if stBits nw fl p n fm pm then o else none) = some i → P := by
  intro hi
  obtain ⟨hb, ho⟩ := Option.ite_none_right_eq_some.1 hi
  obtain ⟨hn, hf, hp⟩ := stBits_iff.1 hb
  exact h hn hf hp ho
theorem ite_elim {c : Prop} {inst : Decidable c} {a b : Option Instr} (ha : c → a = some i → P) (hb : ¬c → b = some i → P) :
    (if c then a else b) = some i → P := by
  split
  · exact ha ‹_›
  · exact hb ‹_›
theorem map_elim {α : Type} {o : Option α} {f : α → Instr} (h : ∀ x, o = some x → f x = i → P) : o.map f = some i → P := by
  rw [Option.map_eq_some_iff]
  rintro ⟨x, hx, hf⟩
  exact h x hx hf
end

theorem eq_ofNat_of_toNat {n k : Nat} {x : BitVec n} (h : x.toNat = k) : x = BitVec.ofNat n k := by
  rw [← h, BitVec.ofNat_toNat, BitVec.setWidth_eq]

theorem encodeStoker_of_scalarOf {i : Instr} {op : BitVec 8} {xd xa : BitVec 4} {b : XOperand} (h : scalarOf op.toNat xd xa b = some i) :
    encodeStoker i = some (scalarWord op xd xa b) := by
  unfold scalarOf at h
  split at h
  case h_8 => cases h
  all_goals
    rename_i ho
    obtain rfl := eq_ofNat_of_toNat ho
    cases h
    rfl

set_option smartUnfolding false in
theorem encodeStoker_of_decodeStoker {i : Instr} {w e0 e1 e2 : DWord} :
    decodeStoker w e0 e1 e2 = some i → encodeStoker i = some (w :: [e0, e1, e2].take (stExtra w)) := by
  refine literal_elim (fun ho => stBits_elim fun hn hf hp => ?_) ?_
  · rintro ⟨⟩
    exact congrArg some (stWords_eq ho hn (flags_none hf) hp (masked_none _))
  refine literal_elim (fun ho => ite_elim (fun _ => stBits_elim fun hn hf hp => ?_) fun _ => stBits_elim fun hn hf hp => ?_) ?_
  · rintro ⟨⟩
    exact congrArg some (stWords_eq ho hn (flags_none hf) hp (masked_x _))
  · rintro ⟨⟩
    exact congrArg some (stWords_eq ho hn (flags_none hf) hp (masked_all _))
  refine literal_elim (fun ho => stBits_elim fun hn hf hp => map_elim fun c hc => ?_) ?_
  · rintro rfl
    exact congrArg some (stWords_eq ho hn (brCondCode_of_brCondOf hc) hp (masked_xx_off _))
  refine literal_elim (fun ho => stBits_elim fun hn hf hp => ?_) ?_
  · rintro ⟨⟩
    exact congrArg some (stWords_eq ho hn (flags_none hf) hp (masked_none _))
  refine literal_elim (fun ho => stBits_elim fun hn hf hp => ?_) ?_
  · rintro ⟨⟩
    exact congrArg some (stWords_eq ho hn (flags_none hf) hp (masked_none _))
  refine literal_elim (fun ho => stBits_elim fun hn hf hp => ?_) ?_
  · rintro ⟨⟩
    exact congrArg some (stWords_eq ho hn (flags_none hf) hp (masked_none _))
  refine literal_elim (fun ho => stBits_elim fun hn hf hp => ?_) ?_
  · rintro ⟨⟩
    exact congrArg some (stWords_eq ho hn (flags_mem hf) hp (masked_none _))
  refine literal_elim (fun ho => stBits_elim fun hn hf hp => ?_) ?_
  · rintro ⟨⟩
    exact congrArg some (stWords_eq ho hn (flags_mem hf) hp (masked_x _))
  refine literal_elim (fun ho => stBits_elim fun hn hf hp => ?_) ?_
  · rintro ⟨⟩
    exact congrArg some (stWords_eq ho hn (flags_mem hf) hp (masked_x _))
  refine literal_elim (fun ho => stBits_elim fun hn hf hp => ?_) ?_
  · rintro ⟨⟩
    exact congrArg some (stWords_eq ho hn (flags_none hf) hp (masked_none _))
  refine literal_elim (fun ho => stBits_elim fun hn hf hp => ?_) ?_
  · rintro ⟨⟩
    exact congrArg some (stWords_eq ho hn (flags_none hf) hp (masked_low32 _))
  refine literal_elim (fun ho => stBits_elim fun hn hf hp => ?_) ?_
  · rintro ⟨⟩
    exact congrArg some (stWords_eq ho hn (flags_none hf) hp (masked_low11 _))
  refine literal_elim (fun ho => ite_elim (fun hb => stBits_elim fun hn hf hp => ?_) fun _ => stBits_elim fun hn hf hp => ?_) ?_
  · rintro ⟨⟩
    exact congrArg some (stWords_eq ho hn (flags_bit0 hf hb) hp (masked_none _))
  · rintro ⟨⟩
    exact congrArg some (stWords_eq ho hn (flags_none hf) hp (masked_none _))
  refine literal_elim (fun ho => stBits_elim fun hn hf hp => ?_) ?_
  · rintro ⟨⟩
    exact congrArg some (stWords_eq ho hn (flags_low2 hf) hp (masked_none _))
  refine literal_elim (fun ho => stBits_elim fun hn hf hp => map_elim fun m hm => ?_) ?_
  · rintro rfl
    exact congrArg some (stWords_eq ho hn ((congrArg _ (cacheOpCode_of_cacheOpOf hm)).trans (flags_cache hf)) hp (masked_none _))
  refine literal_elim (fun ho => stBits_elim fun hn hf hp => map_elim fun m hm => ?_) ?_
  · rintro rfl
    refine congrArg some (stXvalWords_eq ho hn ?_ hp masked_xval_low10)
    rw [xvalBit_xvalOf, waitCondCode_of_waitCondOf hm, flags_wait hf]
  refine literal_elim (fun ho => stBits_elim fun hn hf hp => ?_) ?_
  · rintro ⟨⟩
    refine congrArg some (stXvalWords_eq ho hn ?_ hp masked_xval)
    rw [xvalBit_xvalOf, flags_low2 hf]
  refine literal_elim (fun ho => stBits_elim fun hn hf hp => map_elim fun m hm => ?_) ?_
  · rintro rfl
    refine congrArg some (stXvalWords_eq ho hn ?_ hp masked_xval_low10)
    rw [xvalBit_xvalOf, signalOpCode_of_signalOpOf hm, flags_signal hf]
  refine literal_elim (fun ho => stBits_elim fun hn hf hp => ?_) ?_
  · rintro ⟨⟩
    split
    case isTrue h => exact congrArg some (stWords_eq ho hn h.symm hp (masked_low13 _))
    split
    case isTrue h => exact congrArg some (stWords_eq ho hn h.symm hp (masked_low13 _))
    split
    case isTrue h => exact congrArg some (stWords_eq ho hn h.symm hp (masked_low13 _))
    exact congrArg some (stWords_eq ho hn (flags_sqctl hf ‹_› ‹_› ‹_›) hp (masked_low13 _))
  refine literal_elim (fun ho => stBits_elim fun hn hf hp => ?_) ?_
  · rintro ⟨⟩
    exact congrArg some (stWords_eq ho hn (flags_spreempt hf) hp (masked_low6 _))
  refine literal_elim (fun ho => stBits_elim fun hn hf hp => ?_) ?_
  · rintro ⟨⟩
    exact congrArg some (stWords_eq ho hn (flags_none hf) hp (masked_low6 _))
  refine literal_elim (fun ho => stBits_elim fun hn hf hp => ?_) ?_
  · rintro ⟨⟩
    exact congrArg some (stWords_eq ho hn (flags_none hf) hp (masked_x_low16 _))
  refine literal_elim (fun ho => stBits_elim fun hn hf hp => ?_) ?_
  · rintro ⟨⟩
    exact congrArg some (stWords_eq ho hn (flags_none hf) hp (masked_x_low16 _))
  refine literal_elim (fun ho => ite_elim (fun hb => stBits_elim fun hn hf hp => ?_) fun _ => stBits_elim fun hn hf hp => ?_) ?_
  · rintro ⟨⟩
    exact congrArg some (stWords_eq ho hn (flags_bit0 hf hb) hp (masked_low6 _))
  · rintro ⟨⟩
    exact congrArg some (stWords_eq ho hn (flags_none hf) hp (masked_low6 _))
  refine literal_elim (fun ho => ite_elim (fun hb => stBits_elim fun hn hf hp => ?_) fun _ => stBits_elim fun hn hf hp => ?_) ?_
  · rintro ⟨⟩
    exact congrArg some (stWords_eq ho hn (flags_bit0 hf hb) hp (masked_bind _))
  · rintro ⟨⟩
    exact congrArg some (stWords_eq ho hn (flags_none hf) hp (masked_unbind _))
  refine ite_elim (fun hb => stBits_elim fun hn hf hp h => ?_) fun _ => stBits_elim fun hn hf hp h => ?_
  · exact (encodeStoker_of_scalarOf h).trans (congrArg some (stWords_eq rfl hn (flags_bit0 hf hb) hp (masked_xx_word _)))
  · exact (encodeStoker_of_scalarOf h).trans (congrArg some (stWords_eq rfl hn (flags_none hf) hp (masked_xxx _)))

end Sys2Proof
end

section
/-! SUPPORT. Decoding and encoding, over the three encodings (O54). -/

namespace Sys2Proof

theorem decode_of_encode {i : Instr} {c : Code} (hw : i.wf = true) (h : encode i = some c) : decode c = some i := by
  unfold encode at h
  split at h
  case h_1 w hc => cases h; exact decodeCast_of_encodeCast hc
  case h_2 hc =>
    split at h
    case h_1 w hf => cases h; exact decodeFlue_eq_some.2 ⟨hf, wf_of_encodeCast_none hc ▸ hw⟩
    case h_2 =>
      obtain ⟨ws, hs, rfl⟩ := Option.map_eq_some_iff.1 h
      exact decode_of_encodeStoker hs

end Sys2Proof

namespace Sys2Proof.Machine

/-- Settles O54, by the two directions of each of the three encodings. -/
theorem encodingsRoundTrip : Obligations.EncodingsRoundTrip := by
  unfold Obligations.EncodingsRoundTrip
  refine ⟨fun i c hw h => decode_of_encode hw h, fun w i h => encodeCast_of_decodeCast h, fun w i h => ?_, fun w e0 e1 e2 i h => encodeStoker_of_decodeStoker h⟩
  obtain ⟨he, hw⟩ := decodeFlue_eq_some.1 h
  exact ⟨he, (wf_of_encodeCast_none (encodeCast_of_encodeFlue he)).trans hw⟩

end Sys2Proof.Machine
end

section
namespace Sys2Proof.Machine

/-- Settles O55: each word is a literal, which the decoder is run on. -/
theorem specWordsDecode : Obligations.SpecWordsDecode := by
  unfold Obligations.SpecWordsDecode
  refine ⟨?_, ?_, ?_, ?_, ?_, ?_, ?_, ?_, ?_, ?_, ?_, ?_⟩
  all_goals decide +kernel

end Sys2Proof.Machine
end

section
/-! SUPPORT. Words that trap before they have an effect (O17). -/

namespace Sys2Proof.Machine

/-! ### A word whose checks fail -/

theorem View.uniform_of_check {v : View} {i : Instr} {cause : Nat} (h : v.check i = some cause) (f : View → State) :
    v.uniform i f = v.trapAll cause 0 := by
  simp [View.uniform, h]

theorem View.settled_of_check {v : View} {i : Instr} {cause : Nat} (h : v.check i = some cause) : v.settled i = v := by
  simp [View.settled, h]

theorem View.ld_of_check {v : View} {i : Instr} {cause : Nat} (h : v.check i = some cause) (w : CastWord) : v.ld i w = v.trapAll cause 0 := by
  unfold View.ld
  exact View.memory_of_check h ..

theorem View.st_of_check {v : View} {i : Instr} {cause : Nat} (h : v.check i = some cause) (w : CastWord) : v.st i w = v.trapAll cause 0 := by
  unfold View.st
  exact View.memory_of_check h ..

theorem View.atomic_of_check {v : View} {i : Instr} {cause : Nat} (h : v.check i = some cause) (w : CastWord) (cas hostOk : Bool)
    (new : Thread → Nat → Option Nat) : v.atomic i w cas hostOk new = v.trapAll cause 0 := by
  unfold View.atomic
  exact View.memory_of_check h ..

/-- A casting word whose checks give a cause takes its whole fragment to the trap, whatever shape it has. -/
theorem exec_of_check {s : State} {v : View} {i : Instr} {cause : Nat} (hv : s.view = some v)
    (hi : (opSpec i).isSome = true ∨ (plainClass i).isSome = true) (h : v.check i = some cause) : exec i s = .next (v.trapAll cause 0) := by
  cases i
  all_goals first
    | refine (onFrag_of_view hv _).trans (congrArg _ ?_)
    | exact absurd hi (by rintro (⟨⟨⟩⟩ | ⟨⟨⟩⟩))
  case wrsys w =>
    simp only [h, reduceCtorEq, and_false, if_false]
    exact View.lane_of_check h _ _
  case dbrk w =>
    simp only [h, reduceCtorEq, false_and, if_false]
    exact View.lane_of_check h _ _
  case ld w =>
    rw [View.settled_of_check h]
    split
    · exact View.memory_of_check h ..
    · exact View.ld_of_check h w
  case st w =>
    rw [View.settled_of_check h]
    split
    · exact View.memory_of_check h ..
    · exact View.st_of_check h w
  case atom | cas => exact View.atomic_of_check h ..
  case waitv | ccop => simp only [h]
  case smp | smpres =>
    rw [View.settled_of_check h]
    exact View.memory_of_check h _ _ _ _ _ _
  case fill | ldd | qpeek | qpop | qpush | red | spill | std => exact View.memory_of_check h _ _ _ _ _ _
  case aadd | acopy | ald | arrive | ascl | ast | azero | bar | bra | brx | call | callx | ccommit | cdrain | cmode | cpair | crest | csave |
      cunpair | exit | fence | hmk | ifence | join | kset | lcancel | lcommit | lcont | lcopy | ldk | lfill | lgat | lredArr | lredOrd | lrest |
      lsave | mark | mma | mmaw | mset | nop | pref | qfence | ret | setw | sleep | tret | waitb | yield =>
    exact View.uniform_of_check h _
  all_goals exact View.lane_of_check h _ _

/-! ### A word whose lanes all trap -/

/-- A group after lanes' results depends on the threads that they leave alone. -/
theorem Group.apply_thread (g : Group) (ls : List Nat) (r : Nat → LaneRes) :
    g.apply (ls.map fun l => (l, r l)) = g.apply (ls.map fun l => (l, .ok (r l).thread)) := by
  unfold Group.apply
  congr 1
  apply List.map_congr_left
  intro e _
  rw [tfind_map_lane ls r, tfind_map_lane ls fun l => LaneRes.ok (r l).thread]
  split_ifs <;> rfl

theorem trapsOf_trap (ls : List Nat) (f : Nat → Thread) (x : Nat → Nat × DWord) :
    trapsOf (ls.map fun l => (l, LaneRes.trap (f l) (x l).1 (x l).2)) = ls.map fun l => (l, x l) := by
  simp [trapsOf, LaneRes.trap?, List.filterMap_map]

/-- When every lane traps and keeps its thread, the word has no effect but the trap. -/
theorem View.finish_trap (v : View) (w : CastWord) (x : Nat → Nat × DWord) (ha : v.active w ≠ []) :
    v.finish v.s ((v.active w).map fun l => (l, LaneRes.trap (v.g.thread l) (x l).1 (x l).2)) =
      v.s.takeTrap v.c v.slot (v.doneGroup w fun _ t => t) v.nd ((v.active w).map fun l => (l, x l)) := by
  unfold View.finish View.doneGroup View.laneGroup View.onward
  rw [trapsOf_trap (v.active w) v.g.thread, Group.apply_thread, Group.apply_ok]
  split
  case h_1 he => exact absurd (List.map_eq_nil_iff.1 he) ha
  case h_2 => rfl

/-- A register word that traps in every active lane, by a bad cell or by itself. -/
theorem View.lane_trap {v : View} {i : Instr} {w : CastWord} {F : Nat → Thread → LaneRes} {x : Nat → Nat × DWord} (hc : v.check i = none)
    (ha : v.active w ≠ [])
    (hF : ∀ l ∈ v.active w, (if (v.g.thread l).readsBad i = true then .trap (v.g.thread l) causePoison 0 else F l (v.g.thread l)) =
      .trap (v.g.thread l) (x l).1 (x l).2) :
    v.lane i w F = v.s.takeTrap v.c v.slot (v.doneGroup w fun _ t => t) v.nd ((v.active w).map fun l => (l, x l)) := by
  rw [← View.finish_trap v w x ha]
  unfold View.lane
  simp only [hc]
  congr 1
  exact List.map_congr_left fun l hl => congrArg (l, ·) (hF l hl)

/-- The effective precision, and whether it is exhausted, of a result of either kind (R231). -/
theorem effPrec_eq (ty : BitVec 4) (pr : Word) (c : Nat) :
    (if isV ty = true then effPrec pr c else (c, false)) =
      (if isV ty = true ∧ prP pr ≠ 0 ∧ prP pr ≤ c then prP pr else c, decide (isV ty = true ∧ c < prP pr)) := by
  unfold effPrec
  by_cases hv : isV ty = true
  · by_cases h0 : prP pr = 0
    · simp [hv, h0]
    · by_cases hc : prP pr ≤ c
      · simp [hv, h0, hc]
      · simp [hv, h0, hc, Nat.lt_of_not_le hc]
  · simp [hv]

section
variable {w : CastWord} {v : View} {f : Fmt} {words : Thread → List Nat} {op : Thread → Target → Rounded} {t : Thread}

/-- A lane that rounds: PREC_EXH where its precision is exhausted, and else the result at the target of its PR (R231, R234). -/
theorem roundLane_eq : roundLane w v f (isV w.ty) words op t =
    if (decide (isV w.ty = true ∧ f.prec < prP t.pr) && !prXa t.pr) = true then .trap t causePrecExh (exhDetail (prP t.pr) f.prec)
    else
      let r := op t (v.roundsTo w f words t)
      fpeThen w t r.flags fun t' => (t'.setCells w.d.toNat (cellsOf w.lc) (f.encode r.v)).exhausted (decide (isV w.ty = true ∧ f.prec < prP t.pr)) r.inexact := by
  unfold roundLane View.roundsTo
  rw [effPrec_eq]
  simp only [beq_iff_eq]

/-- A lane of a .v word whose PR asks for more bits than the class holds traps PREC_EXH, unless PR.XA says otherwise (R231). -/
theorem roundLane_exhausted (he : Thread.exhausts w f t) (hx : prXa t.pr = false) :
    roundLane w v f (isV w.ty) words op t = .trap t causePrecExh (exhDetail (prP t.pr) f.prec) := by
  rw [roundLane_eq, if_pos]
  simpa [hx, Thread.exhausts] using he

/-- A lane that rounds and raises a flag that the word asks a trap for traps FPE (R233). -/
theorem roundLane_fpe (hx : Thread.exhausts w f t → prXa t.pr = true) (hb : w.modBit 4 = true)
    (hf : (op t (v.roundsTo w f words t)).flags &&& 28 ≠ 0) :
    roundLane w v f (isV w.ty) words op t = .trap t causeFpe (BitVec.ofNat 64 (op t (v.roundsTo w f words t)).flags) := by
  rw [roundLane_eq, if_neg]
  · exact if_pos (by simpa [hb, flagNV, flagDZ, flagOF] using hf)
  · simpa [Thread.exhausts] using hx
end

/-- A word of two sources of its own type. -/
theorem fltWord_two (i : Instr) (w : CastWord) (op : Target → List FV → Rounded) (s : State) :
    fltWord i w 2 op s = onFrag s fun v => v.lane i w fun _ t =>
      roundLane w v (fmtOf w.ty w.lc) (isV w.ty) (fun t => wordsA i v.g w t ++ wordsB i v.g w t)
        (fun t tg => op tg [(fmtOf w.ty w.lc).decode (fltA i v.g w t), (fmtOf w.ty w.lc).decode (fltB i v.g w t)]) t := by
  simp [fltWord]

/-- Settles O17: the shapes of the words give the refused ones, and each lane's result gives the others. -/
theorem trapsComeBeforeEffects : Obligations.TrapsComeBeforeEffects := by
  unfold Obligations.TrapsComeBeforeEffects
  refine ⟨fun s v i w cause hv hi => ⟨fun h => ?_, fun h ha hbad => ?_⟩, ?_⟩
  · exact exec_of_check hv hi h
  · refine (onFrag_of_view hv _).trans (congrArg _ (View.lane_trap (x := fun _ => (0x0D, 0)) h.2 ha fun l hl => ?_))
    exact if_pos (hbad l hl)
  intro s v w i f on r h ha
  refine ⟨fun hexh => ?_, fun hfpe => ?_⟩
  all_goals
    refine (fltWord_two ..).trans ((onFrag_of_view h.1.1 _).trans (congrArg _ (View.lane_trap h.1.2 ha fun l hl => ?_)))
    refine (if_neg (Bool.eq_false_iff.1 (h.2 l hl))).trans ?_
  · exact roundLane_exhausted (hexh l hl).1 (hexh l hl).2
  · obtain ⟨hx, hb, hf⟩ := hfpe l hl
    exact roundLane_fpe hx hb hf

end Sys2Proof.Machine
end

section
/-! SUPPORT. Every turn, and so every step, answers a next state (O57). -/

namespace Sys2Proof.Machine

/-! ### An instruction at a place that is there -/

theorem next_goesOn (t : State) : ∃ u, (Host.Outcome.next t : Out) = .next u := ⟨t, rfl⟩

/-- A casting word goes on where the cursor names a fragment. -/
theorem exec_goesOn_of_cast {i : Instr} {s : State} (hi : (castCode i).isSome = true) (hv : s.view.isSome = true) : ∃ t, exec i s = .next t := by
  obtain ⟨v, hv⟩ := Option.isSome_iff_exists.1 hv
  cases i
  all_goals try exact absurd hi Bool.false_ne_true
  all_goals exact ⟨_, onFrag_of_view hv _⟩

/-- A command word goes on where the cursor names a lane that firmware or a queue runs on. -/
theorem exec_goesOn_of_stoker {i : Instr} {s : State} (hi : (encodeStoker i).isSome = true) (hl : s.laneLive s.cur.lane = true) :
    ∃ t, exec i s = .next t := by
  have hlane : s.cur.lane < 32 ∧ (firmware s.cur.lane || (s.lane s.cur.lane).queue.isSome) = true := by simpa [State.laneLive] using hl
  cases i
  all_goals try exact absurd hi Bool.false_ne_true
  all_goals exact ⟨_, if_pos hlane⟩

/-- A slot op goes on where the cursor names a line core. -/
theorem exec_goesOn_of_flue {i : Instr} {s : State} (hi : (encodeFlue i).isSome = true) (hn : s.cur.line < 64) : ∃ t, exec i s = .next t := by
  cases i
  all_goals try exact absurd hi Bool.false_ne_true
  all_goals exact ⟨_, if_pos hn⟩

/-- An event goes on in every state. Those whose outcome takes no case are next states as they stand; of the others, each branch is one. -/
theorem exec_goesOn_of_event {i : Instr} {s : State} (hi : isEvent i = true) : ∃ t, exec i s = .next t := by
  cases i
  case' ldi v | launch v | sinval v | stokerAdd v | stokerSub v | stokerAnd v | stokerOr v | stokerXor v | stokerShl v | stokerShr v => cases v
  case' shfl m _ | vote m _ | gred m _ | gscan m _ | plop m _ | icmp m _ | fcmp m _ | atom m _ | red m _ | waitv m _ | waitb m _ | ccop m _ =>
    cases m
  all_goals try exact absurd hi Bool.false_ne_true
  all_goals try exact ⟨_, rfl⟩
  all_goals delta exec
  all_goals dsimp only
  all_goals delta execCoreCycle execBatchComplete execSlotRetire execBlockDispatch execBlockWaitExpiry execBlockResume execOwedGroup execDWindowOpen
                  execDWindowClose execBlockSwap execWatchdogExpiry execPreemptSave execLaunchEnd execSleepExpiry execWaitvReread execMissAdmission
                  execWalkComplete execFaultBufferWrite execFbresolveRetry execFbresolveFatal execL1Writeback execL1LineExpire execRouterCombineFlush
                  execP3Promotion execL2LockWrite execRefreshAdjust execFreeDeclare execFreeReclaim execFreecmdComplete execL2WayGate execL2WayUngate
                  execHearthWayGate execHearthWayUngate execWayGateDone execCorrectedError execUncorrectableError execLinebufRowSpare execCrucibleBeat
                  execCrucCommandComplete execTimeslotTurnEnd execCrucGateBypass execClaimGrant execPairGrant execTimeslotWrite execLadleStart
                  execLadleTransfer execLadleGateBypass execLadleCommandComplete execWindowArrival execWindowApply execLcontPerform execStokerStep
                  execQuantumExpiry execBorrowReclaim execQueueUnmap execWaittTimer execWaitTimeout execWake execWakeFatal execSemdoorSet execSemdoorAdd
                  execSemdoorMax execWArrival execFlueWalkComplete execFcodeWrite execHeadEnable execHeadDisable execLineStart execBandLatch execBandDeadline
                  execFrameWordStore execDresvWrite execFunctionReset execContextWindowRead execContextWindowWrite execImageLoaded execImageVerified
                  execHandover execAttestGo execAttestDone execFlitCrcError execPortDown execPeerRequest execPeererrRead execThermalLimit execDebugHalt
                  execDebugResume execDbgdataRead execDbgdataWrite execRegisterWrite execMemoryRequestPerform execPortUp execRefillUpdate execCorePowerGate
                  execCorePowerUngate
  all_goals repeat' first | with_reducible exact next_goesOn _ | split | dsimp only | exact ⟨_, rfl⟩

/-! ### A fragment's turn -/

/-- Whether the cursor names a fragment depends on its core's groups and on the launches alone. -/
theorem State.view_isSome_of_same {s t : State} (hv : s.view.isSome = true) (hc : t.cur.core = s.cur.core) (hs : t.cur.slot = s.cur.slot)
    (hn : t.cur.node = s.cur.node) (hg : t.group? s.cur.core s.cur.slot = s.group? s.cur.core s.cur.slot) (hl : t.launches = s.launches) :
    t.view.isSome = true := by
  have hx : ∀ j, t.launch? j = s.launch? j := fun j => by rw [State.launch?, hl]; rfl
  unfold State.view at *
  rw [hc, hs, hn, hg]
  cases hq : s.group? s.cur.core s.cur.slot with
  | none => simp [hq] at hv
  | some g =>
    simp only [hq, hx] at hv ⊢
    split at hv
    · rfl
    · cases hv

/-- A core but for its requests and for who holds its tiles and masks has the same groups. -/
theorem State.group?_setCore {s : State} {c : Nat} {k : Core} (h : k.groups = (s.core c).groups) (c' sl : Nat) :
    (s.setCore c k).group? c' sl = s.group? c' sl := by
  unfold State.group?
  by_cases hc : c' = c
  · rw [hc, State.core_setCore_self, h]
  · rw [State.core_setCore_ne s k hc]

theorem State.endClaim_group? (s : State) (c slot node : Nat) (f : Option Nat) (c' sl : Nat) :
    (s.endClaim c slot node f).group? c' sl = s.group? c' sl := by
  unfold State.endClaim
  exact State.group?_setCore (by rfl) c' sl

theorem State.undoClaim_group? (s : State) (c slot node : Nat) (f : Option Nat) (c' sl : Nat) :
    (s.undoClaim c slot node f).group? c' sl = s.group? c' sl := by
  unfold State.undoClaim
  dsimp only
  split
  · rfl
  · refine (State.endClaim_group? _ _ _ _ _ c' sl).trans (State.group?_setCore ?_ c' sl)
    split <;> rfl

theorem State.keepClaims_group? (s : State) (c slot node : Nat) (word : Option (BitVec 128)) (c' sl : Nat) :
    (s.keepClaims c slot node word).group? c' sl = s.group? c' sl := by
  unfold State.keepClaims
  dsimp only
  split
  · exact (State.undoClaim_group? _ _ _ _ _ c' sl).trans (State.undoClaim_group? _ _ _ _ _ c' sl)
  · rfl

theorem State.keepClaims_launches (s : State) (c slot node : Nat) (word : Option (BitVec 128)) :
    (s.keepClaims c slot node word).launches = s.launches := by
  have h := congrArg State.launches (State.keepClaims_onlyCores s c slot node word)
  exact h

theorem castCode_of_decodeCast {w : BitVec 128} {i : Instr} (h : decodeCast w = some i) : (castCode i).isSome = true := by
  obtain ⟨o, u, g, hc, -⟩ := codedAs_of_castOf h
  rw [hc]
  rfl

theorem State.issueTurn_goesOn (s : State) (c sl n : Nat) : ∃ t, State.issueTurn exec s c sl n = .next t := by
  unfold State.issueTurn
  generalize hs : ({ s with cur := { s.cur with core := c, slot := sl, node := n, tc := 0, word := 0 } } : State) = s0
  dsimp only
  split
  case h_1 => exact next_goesOn _
  case h_2 v hv =>
    split
    case isTrue => exact next_goesOn _
    split
    case isTrue => exact next_goesOn _
    split
    case h_1 | h_2 => exact next_goesOn _
    case h_3 w _ =>
      split
      case h_2 => exact next_goesOn _
      case h_1 i hd =>
        refine exec_goesOn_of_cast (castCode_of_decodeCast hd) ?_
        obtain ⟨l2, hl, m, hq⟩ := State.fetchTouch_eq (s0.keepClaims c sl n (some w)) c v.g.ctx v.nd.pc
        rw [hq]
        refine State.view_isSome_of_same (s := s0) (by rw [hv]; rfl) rfl rfl rfl ?_ ?_
        · exact State.keepClaims_group? s0 c sl n (some w) _ _
        · exact State.keepClaims_launches s0 c sl n (some w)

/-! ### A lane's turn -/

theorem OnlyCaches.touchParts {s t : State} (h : OnlyCaches s t) (ps : List (Nat × Nat)) : OnlyCaches s (t.touchParts ps) :=
  h.foldl ps fun s _ => (OnlyCaches.refl s).cacheTouch _ _ _ _

theorem OnlyCaches.touchTables {s t : State} (h : OnlyCaches s t) (va level table : Nat) : OnlyCaches s (t.touchTables va level table) := by
  induction level generalizing t table with
  | zero => exact h.cacheTouch _ _ _ _
  | succ l ih =>
    rw [State.touchTables]
    split
    · exact h.cacheTouch _ _ _ _
    · exact ih (h.cacheTouch _ _ _ _) _

theorem OnlyCaches.walkPages {s t : State} (h : OnlyCaches s t) (ctx : Nat) (need : Need) (ps : List (Nat × Nat)) :
    OnlyCaches s (t.walkPages ctx need ps) := by
  have hw : ∀ (u : State) (va : Nat), OnlyCaches s u → OnlyCaches s (u.touchWalk ctx va) := fun u va hu => by
    unfold State.touchWalk
    dsimp only
    split
    · exact hu
    · exact hu.touchTables _ _ _
  induction ps generalizing t with
  | nil => exact h
  | cons p ps ih =>
    rw [State.walkPages]
    split
    · exact ih (hw t p.1 h)
    · exact hw t p.1 h

theorem OnlyCaches.laneTouch {s t : State} (h : OnlyCaches s t) (l : Nat) (need : Need) (va n : Nat) : OnlyCaches s (t.laneTouch l need va n) := by
  have hw : OnlyCaches s (t.laneWalk l need va n) := by
    unfold State.laneWalk
    split
    · exact h
    · exact h.walkPages _ _ _
  unfold State.laneTouch
  split
  · exact hw.touchParts _
  · exact hw

theorem State.fetchLane_onlyCaches (s : State) (l n : Nat) : OnlyCaches s (s.fetchLane l n) := by
  unfold State.fetchLane
  split
  · exact .refl s
  · dsimp only
    refine OnlyCaches.foldl ?_ _ fun u _ => (OnlyCaches.refl u).laneTouch _ _ _ _
    split
    · exact (OnlyCaches.refl s).cacheTouch _ _ _ _
    · exact .refl s

theorem encodeStoker_isSome {w e0 e1 e2 : DWord} {i : Instr} (h : decodeStoker w e0 e1 e2 = some i) : (encodeStoker i).isSome = true := by
  rw [encodeStoker_of_decodeStoker h]
  rfl

theorem State.laneLive_of_same {s t : State} {l : Nat} (h : s.laneLive l = true) (hq : (t.lane l).queue = (s.lane l).queue) : t.laneLive l = true := by
  unfold State.laneLive at *
  rwa [hq]

/-- A lane whose turn gives an instruction performs it in a state in which it is live. -/
theorem State.laneTurn_live {s t : State} {l : Nat} {i : Instr} (hs : s.laneLive l = true) (h : s.laneTurn l = (t, some i)) :
    (encodeStoker i).isSome = true ∧ t.cur.lane = l ∧ t.laneLive l = true := by
  unfold State.laneTurn at h
  generalize hu : ({ s with cur := { s.cur with lane := l, word := 0, arg := .none } } : State) = u at h
  have hul : u.laneLive l = true ∧ u.cur.lane = l := by subst hu; exact ⟨hs, rfl⟩
  dsimp only at h
  generalize hw : (if (s.lane l).late = true then u.setLane l { u.lane l with late := false } else u) = w at h
  have hwl : w.laneLive l = true ∧ w.cur.lane = l := by
    subst hw
    split
    · exact ⟨State.laneLive_of_same hul.1 (by simp), hul.2⟩
    · exact hul
  split at h
  case isTrue => cases h
  split at h
  case h_5 =>
    split at h
    case isTrue => cases h
    split at h
    case h_3 hd _ =>
      split at h
      case isTrue => cases h
      cases h
      refine ⟨encodeStoker_isSome hd, ?_, State.laneLive_of_same hwl.1 (by simp)⟩
      exact (congrArg (·.cur.lane) (State.fetchLane_onlyCaches w l _)).trans hwl.2
    all_goals cases h
  all_goals cases h

/-! ### A line core's turn -/

theorem encodeFlue_isSome {w : BitVec 32} {i : Instr} (h : decodeFlue w = some i) : (encodeFlue i).isSome = true := by
  rw [(decodeFlue_eq_some.1 h).1]
  rfl

theorem forall_of_mapM_eq_some {α β : Type} {f : α → Option β} {P : β → Prop} (hf : ∀ a b, f a = some b → P b) {as : List α} {bs : List β}
    (h : as.mapM f = some bs) : ∀ b ∈ bs, P b := by
  induction as generalizing bs with
  | nil => cases h; simp
  | cons a as ih =>
    simp only [List.mapM_cons, Option.bind_eq_bind, Option.bind_eq_some_iff, Option.pure_def, Option.some.injEq] at h
    obtain ⟨b, hb, cs, hcs, rfl⟩ := h
    exact List.forall_mem_cons.2 ⟨hf a b hb, ih hcs⟩

theorem encodeFlue_of_bundleOps {b : BitVec 256} {d : Bool} {ops : List (Nat × Instr)} (h : bundleOps b d = some ops) :
    ∀ e ∈ ops, (encodeFlue e.2).isSome = true := by
  unfold bundleOps at h
  refine forall_of_mapM_eq_some (fun i e he => ?_) h
  dsimp only at he
  split at he
  case h_1 op hd =>
    obtain ⟨-, ho⟩ := Option.ite_none_right_eq_some.1 he
    cases ho
    exact encodeFlue_isSome hd
  case h_2 => cases he

theorem runOps_goesOn {n : Nat} (hn : n < 64) {ops : List (Nat × Instr)} (h : ∀ e ∈ ops, (encodeFlue e.2).isSome = true) (s : State) :
    ∃ t, runOps exec n ops s = .next t := by
  induction ops generalizing s with
  | nil => exact next_goesOn s
  | cons e ops ih =>
    obtain ⟨t, ht⟩ := exec_goesOn_of_flue (s := { s with cur := { s.cur with line := n, fslot := e.1 } }) (h e (List.mem_cons_self ..)) hn
    rw [State.runOps_cons ht]
    exact ih (fun e he => h e (List.mem_cons_of_mem _ he)) t

theorem State.bundleTurn_goesOn (s : State) {n : Nat} (hn : n < 64) : ∃ t, State.bundleTurn exec s n = .next t := by
  unfold State.bundleTurn
  dsimp only
  split
  case isTrue => exact next_goesOn _
  split
  case isTrue => exact next_goesOn _
  split
  case isTrue => exact next_goesOn _
  split
  case h_1 => exact next_goesOn _
  case h_2 ops hops =>
    have hop := encodeFlue_of_bundleOps hops
    split
    case h_1 e he => exact exec_goesOn_of_flue (hop e (List.mem_of_find?_eq_some he)) hn
    case h_2 =>
      obtain ⟨t, ht⟩ := runOps_goesOn hn hop s
      rw [ht]
      exact next_goesOn _

/-! ### The step -/

theorem State.turn_goesOn (s : State) (u : Turn) : ∃ t, State.turn exec s u = .next t := by
  cases u with
  | issue c sl n => exact State.issueTurn_goesOn s c sl n
  | lane l =>
    rw [State.turn]
    split
    case isTrue h =>
      split
      case h_1 t i ht =>
        obtain ⟨hi, hc, hl⟩ := State.laneTurn_live h ht
        exact exec_goesOn_of_stoker hi (hc ▸ hl)
      case h_2 => exact next_goesOn _
    case isFalse => exact next_goesOn _
  | bundle n =>
    rw [State.turn]
    split
    case isTrue h => exact State.bundleTurn_goesOn _ h
    case isFalse => exact next_goesOn _
  | heads => exact next_goesOn _
  | event i a =>
    rw [State.turn]
    split
    case isTrue h => exact exec_goesOn_of_event h
    case isFalse => exact next_goesOn _

/-- Settles O57: a turn performs an instruction only where the place that it names is there, and there every instruction answers a next state. -/
theorem everyStepGoesOn : Obligations.EveryStepGoesOn := by
  unfold Obligations.EveryStepGoesOn
  intro s
  unfold State.goesOn
  cases ha : s.agenda with
  | nil => exact ⟨_, step_of_nothing ha⟩
  | cons u rest =>
    rw [step_of_agenda ha]
    exact State.turn_goesOn _ u

end Sys2Proof.Machine
end

section
/-! SUPPORT. The special operands of the Kiln's functions (O9). -/

namespace Sys2Proof.Machine

/-! ### Sums and products -/

/-- Infinities of both signs raise NV, whatever stands beside them (R129, R241; log 152). -/
theorem roundSum_of_both_infs (t : Target) {xs : List FV} (h1 : .inf true ∈ xs) (h0 : .inf false ∈ xs) : roundSum t xs = ⟨.nan false, flagNV⟩ := by
  have hneg : xs.any (fun v => v.isInf && v.neg) = true := List.any_eq_true.2 ⟨_, h1, rfl⟩
  have hpos : xs.any (fun v => v.isInf && !v.neg) = true := List.any_eq_true.2 ⟨_, h0, rfl⟩
  simp [roundSum, hneg, hpos, invalid]

/-- A NaN operand of a sum of two gives a NaN, with NV when it is signalling (R239). -/
theorem roundSum_two_of_nan (t : Target) {a b : FV} (h : (a.isNan || b.isNan) = true) :
    roundSum t [a, b] = ⟨.nan false, if (a.isSig || b.isSig) = true then flagNV else 0⟩ := by
  cases a <;> cases b <;> simp_all [roundSum, quietNan, FV.isNan, FV.isInf, FV.isSig]

theorem roundMul_of_nan (t : Target) {a b : FV} (h : (a.isNan || b.isNan) = true) :
    roundMul t a b = ⟨.nan false, if (a.isSig || b.isSig) = true then flagNV else 0⟩ := by
  simp only [roundMul, h, if_true, quietNan]

theorem zeroInf_zero_inf (n k : Bool) (e : Int) : zeroInf (.fin n 0 e) (.inf k) = true ∧ zeroInf (.inf k) (.fin n 0 e) = true := ⟨rfl, rfl⟩

theorem roundFma_of_zeroInf (t : Target) {a b : FV} (c : FV) (h : zeroInf a b = true) : roundFma t a b c = ⟨.nan false, flagNV⟩ := by
  simp [roundFma, h, invalid]

/-- An infinite product and an addend that is neither a NaN nor the opposite infinity (R240). -/
theorem roundFma_of_inf (t : Target) {n : Bool} {c : FV} (hc : ¬ c.isNan = true) (hi : c ≠ .inf !n) :
    roundFma t (.inf n) (.inf false) c = ⟨.inf n, 0⟩ := by
  cases c with
  | nan g => exact absurd rfl hc
  | inf k =>
    have hk : k = n := by simpa using fun h : k = !n => hi (congrArg FV.inf h)
    subst hk
    cases k <;> rfl
  | fin k m e => cases n <;> rfl

/-! ### Powers -/

/-- A zero is not 1. -/
theorem isOneFV_zero (n : Bool) (e : Int) : isOneFV (.fin n 0 e) = false := by
  cases n
  · simp [isOneFV, cmpFV, sumFin, oneFV, FV.negate]
  · rfl

/-- The first row of fpow's table (R248). -/
theorem powFV_zero (t : Target) (a : FV) (n : Bool) (e : Int) : powFV t a (.fin n 0 e) = ⟨.fin false 1 0, if a.isSig = true then flagNV else 0⟩ := rfl

theorem isOddFV_of_odd {m : Nat} (h : Odd m) : isOddFV m 0 = true := by
  simp [isOddFV, isIntFV, shiftBy, Nat.odd_iff.1 h]

/-- A zero to the power of an odd integer keeps its sign (R248). -/
theorem powFV_zero_odd (t : Target) (n : Bool) (e : Int) {m : Nat} (h : Odd m) :
    powFV t (.fin n 0 e) (.fin true m 0) = ⟨.inf n, flagDZ⟩ ∧ powFV t (.fin n 0 e) (.fin false m 0) = ⟨.fin n 0 0, 0⟩ := by
  obtain ⟨k, rfl⟩ : ∃ k, m = k + 1 := ⟨m - 1, by have := h.pos; omega⟩
  have hodd := isOddFV_of_odd h
  constructor <;> simp [powFV, isOneFV_zero, hodd, FV.isZero, FV.isNan, FV.isInf, FV.neg, divZero, exactly]

/-- Settles O9: the rules of sums and products by which operands are NaNs and infinities, the others by the branch that each operand takes. -/
theorem kilnSpecialOperands : Obligations.KilnSpecialOperands := by
  unfold Obligations.KilnSpecialOperands
  intro t a b c
  refine ⟨fun n => ?_, fun xs h1 h0 => roundSum_of_both_infs t h1 h0, fun h => ⟨roundSum_two_of_nan t h, roundMul_of_nan t h⟩,
    fun n k e => ⟨rfl, rfl⟩, fun n k e => ⟨roundFma_of_zeroInf t c rfl, roundFma_of_zeroInf t c rfl⟩,
    fun n hc hi => ⟨roundFma_of_inf t hc hi, ?_⟩, fun n m e k j hm => ?_, fun n e => ⟨rfl, rfl, rfl, rfl, rfl, rfl, rfl, rfl, rfl, rfl, rfl, rfl, rfl, rfl⟩,
    fun m e hm => ?_, rfl, rfl, rfl, rfl, rfl, rfl, rfl, rfl, powFV_zero t a, fun n k m e h => ?_⟩
  · exact roundSum_of_both_infs t (by cases n <;> simp) (by cases n <;> simp)
  · cases n <;> rfl
  · obtain ⟨i, rfl⟩ := Nat.exists_eq_succ_of_ne_zero hm
    exact ⟨rfl, rfl, rfl, rfl⟩
  · obtain ⟨i, rfl⟩ := Nat.exists_eq_succ_of_ne_zero hm
    exact ⟨rfl, rfl, rfl, rfl⟩
  · obtain ⟨hneg, hpos⟩ := powFV_zero_odd t n e h
    exact ⟨hneg, hpos, by cases k <;> rfl⟩

end Sys2Proof.Machine
end

section
/-! SUPPORT. Words across the lanes of a segment (O10). -/

namespace Sys2Proof.Machine

/-- A word that completes with one effect completes with an equal one. -/
theorem Completes.congr {s : State} {v : View} {i : Instr} {w : CastWord} {f f' : Nat → Thread → Thread} (h : Completes s v i w f)
    (hf : ∀ l t, f l t = f' l t) : Completes s v i w f' := by
  rwa [← funext fun l => funext (hf l)]

/-- The active lanes of a lane's segment, as a condition on lanes (R126). -/
theorem segOf_eq (act : List Nat) (sz l : Nat) : segOf act sz l = act.filter fun j => decide (j / sz = l / sz) := rfl

/-- The lane that a member of shfl names, read back where it is active, and else the lane itself (R127). -/
def View.shflSource (v : View) (m : ShflOp) (w : CastWord) (l : Nat) (t : Thread) : Nat :=
  match shflLane m (segSize v.g w) l (srcB (.shfl m w) v.g w t 1 % 2 ^ 32) with
  | some x => if (v.active w).contains x then x else l
  | none => l

theorem View.shflSource_mem {v : View} {m : ShflOp} {w : CastWord} {l : Nat} {t : Thread} (hl : l ∈ v.active w) :
    v.shflSource m w l t ∈ v.active w := by
  unfold View.shflSource
  split
  · split
    · exact List.contains_iff_mem.1 ‹_›
    · exact hl
  · exact hl

/-- shfl completes where no active lane holds a bad cell. -/
theorem shfl_completes {s : State} {v : View} {w : CastWord} (m : ShflOp) (hbad : ∀ l ∈ v.active w, (v.g.thread l).badCells = []) :
    Completes s v (.shfl m w) w fun l t =>
      t.setCells w.d.toNat (cellsOf w.lc) (srcA (.shfl m w) v.g w (v.g.thread (v.shflSource m w l t)) (cellsOf w.lc)) := by
  intro h
  refine onFrag_lane_done h fun l hl => ?_
  have hsrc : (v.g.thread (v.shflSource m w l (v.g.thread l))).badCells = [] := hbad _ (View.shflSource_mem hl)
  refine if_neg (c := (!kselA (.shfl m w) w && (List.range (cellsOf w.lc)).any fun j =>
    (v.g.thread (v.shflSource m w l (v.g.thread l))).badCells.contains (w.a.toNat + j)) = true) ?_
  simp [hsrc]

/-- What a vote leaves in a lane, `seg` being the active lanes of its segment and `p` their predicates (R128). -/
def Thread.voted (t : Thread) (m : VoteOp) (w : CastWord) (seg : List Nat) (p : Nat → Bool) : Thread :=
  match m with
  | .all => t.setP w.d.toNat (seg.all p)
  | .any => t.setP w.d.toNat (seg.any p)
  | .uni => t.setP w.d.toNat (seg.all p || seg.all fun j => !p j)
  | .ballot => t.setCells w.d.toNat 4 (maskOf (seg.filter p)).toNat

theorem vote_completes (s : State) (v : View) (w : CastWord) (m : VoteOp) : Completes s v (.vote m w) w fun l t =>
    t.voted m w (segOf (v.active w) (segSize v.g w) l) fun j => (v.g.thread j).p w.a.toNat := by
  intro h
  refine onFrag_lane_done h fun l _ => ?_
  cases m <;> rfl

theorem elect_completes (s : State) (v : View) (w : CastWord) : Completes s v (.elect w) w fun l t =>
    t.setP w.d.toNat ((segOf (v.active w) (segSize v.g w) l).head? == some l) :=
  fun h => onFrag_lane_done h fun _ _ => rfl

/-- Every value is the same exactly when all hold or none does. -/
theorem all_or_all_not (ls : List Nat) (p : Nat → Bool) :
    (ls.all p || ls.all fun j => !p j) = decide (∀ j ∈ ls, ∀ k ∈ ls, p j = p k) := by
  rw [Bool.eq_iff_iff]
  simp only [Bool.or_eq_true, List.all_eq_true, Bool.not_eq_true', decide_eq_true_eq]
  constructor
  · rintro (h | h) j hj k hk
    · rw [h j hj, h k hk]
    · rw [h j hj, h k hk]
  · intro h
    by_cases hall : ∀ x ∈ ls, p x = true
    · exact .inl hall
    · push Not at hall
      obtain ⟨j, hj, hpj⟩ := hall
      exact .inr fun k hk => (h k hk j hj).trans (Bool.eq_false_iff.2 hpj)

/-- Settles O10: each word by what its own lanes leave; a vote's member as a condition on the lanes of the segment. -/
theorem crossLaneWords : Obligations.CrossLaneWords := by
  unfold Obligations.CrossLaneWords
  intro s v w act size base mates p from_ source
  have hmates : ∀ l, segOf act (segSize v.g w) l = mates l := fun l => segOf_eq ..
  refine ⟨fun m hbad => ?_, ?_, ?_, ?_, vote_completes s v w .ballot, ?_⟩
  · have hsrc : v.shflSource m w = source m := by
      funext l t
      unfold View.shflSource
      simp only [List.contains_iff_mem]
      cases m <;> rfl
    rw [← hsrc]
    exact shfl_completes m hbad
  · refine (vote_completes s v w .all).congr fun l t => congrArg (t.setP w.d.toNat) ?_
    rw [hmates, Bool.eq_iff_iff]; simp [p]
  · refine (vote_completes s v w .any).congr fun l t => congrArg (t.setP w.d.toNat) ?_
    rw [hmates, Bool.eq_iff_iff]; simp [p]
  · refine (vote_completes s v w .uni).congr fun l t => congrArg (t.setP w.d.toNat) ?_
    rw [hmates]; exact all_or_all_not (mates l) p
  · refine (elect_completes s v w).congr fun l t => congrArg (t.setP w.d.toNat) ?_
    rw [hmates, Bool.eq_iff_iff]; simp

end Sys2Proof.Machine
end

section
/-! SUPPORT. System registers, k registers and handler masks (O12). -/

namespace Sys2Proof.Machine

/-- A register word whose checks pass completes where each active lane's result is a thread. -/
theorem View.lane_done_of_check {v : View} {i : Instr} {w : CastWord} {F : Nat → Thread → LaneRes} {f : Nat → Thread → Thread}
    (hc : v.check i = none)
    (hF : ∀ l ∈ v.active w, (if (v.g.thread l).readsBad i = true then .trap (v.g.thread l) causePoison 0 else F l (v.g.thread l)) =
      .ok (f l (v.g.thread l))) : v.lane i w F = v.done w f := by
  rw [← View.finish_ok]
  simp only [View.lane, hc]
  exact congrArg _ (List.map_congr_left fun l hl => congrArg (l, ·) (hF l hl))

/-! ### System registers -/

theorem View.sysVal_levelId (v : View) (l : Nat) (t : Thread) {i : Nat} (h : i < 8) : v.sysVal l t (8 + i) = levelId v.l.rec_ t.g i := by
  have h8 : 0x08 ≤ 8 + i ∧ 8 + i ≤ 0x0F := by omega
  have h0 : ¬ 8 + i = 0x00 ∧ ¬ 8 + i = 0x01 ∧ ¬ 8 + i = 0x02 ∧ ¬ 8 + i = 0x03 ∧ ¬ 8 + i = 0x04 := by omega
  obtain ⟨h0, h1, h2, h3, h4⟩ := h0
  rw [View.sysVal, if_neg h0, if_neg h1, if_neg h2, if_neg h3, if_neg h4, if_pos h8, Nat.add_sub_cancel_left]

/-- A value of PR that R115 allows. -/
theorem prWrite_of_legal {x : Nat} (hp : bits x 0 8 ≠ 1) (hp' : bits x 0 8 < 242) (hm : bits x 8 3 < 6) :
    prWrite x = some (BitVec.ofNat 32 x &&& 0x30FFF) := by
  simp [prWrite, hp, hp', hm]

/-- What wrsys does in a lane whose A is `x` (R115, R116). -/
def wrsysLane (d : BitVec 11) (t : Thread) (x : Nat) : LaneRes :=
  if d = 0x00 then match prWrite x with
    | some p => .ok { t with pr := p }
    | none => .trap t causeIllop 0
  else if d = 0x12 then (if x % 4 = 3 then .trap t causeIllop 0 else .ok t)
  else if d = 0x14 then (if x % 16 ≠ 0 ∨ 2 ^ 57 ≤ x then .trap t causeIllop 0 else .ok { t with trappc := BitVec.ofNat 64 x })
  else .ok { t with fpflags := BitVec.ofNat 32 (x % 32) }

/-- The A of a lane of wrsys. -/
def View.wrsysVal (v : View) (w : CastWord) (t : Thread) : Nat := srcA (.wrsys w) v.g w t (cellsOf w.lc)

/-- The view of the group with another CLASSPOL. -/
def View.withClasspol (v : View) (x : BitVec 2) : View := { v with g := { v.g with classpol := x } }

@[simp] theorem View.withClasspol_check (v : View) (x : BitVec 2) (i : Instr) : (v.withClasspol x).check i = v.check i := rfl
@[simp] theorem View.withClasspol_active (v : View) (x : BitVec 2) (w : CastWord) : (v.withClasspol x).active w = v.active w := rfl
@[simp] theorem View.withClasspol_thread (v : View) (x : BitVec 2) (l : Nat) : (v.withClasspol x).g.thread l = v.g.thread l := rfl

/-- The group's CLASSPOL as wrsys leaves it: that of the lowest lane whose value is legal, where the word names it. -/
def View.wrsysGroup (v : View) (w : CastWord) : Group :=
  if w.d = 0x12 ∧ v.check (.wrsys w) = none then
    match ((v.active w).filter fun l => !(v.g.thread l).readsBad (.wrsys w) && v.wrsysVal w (v.g.thread l) % 4 != 3).head? with
    | some l => { v.g with classpol := BitVec.ofNat 2 (v.wrsysVal w (v.g.thread l)) }
    | none => v.g
  else v.g

theorem exec_wrsys {s : State} {v : View} {w : CastWord} (hv : s.view = some v) :
    exec (.wrsys w) s = .next (View.lane { v with g := v.wrsysGroup w } (.wrsys w) w fun _ t => wrsysLane w.d t (v.wrsysVal w t)) :=
  (onFrag_of_view hv _).trans rfl

/-- wrsys of a register of the lanes completes where every active lane's value is legal. -/
theorem wrsys_completes {s : State} {v : View} {w : CastWord} {f : Nat → Thread → Thread} (hd : w.d ≠ 0x12)
    (hf : ∀ l ∈ v.active w, wrsysLane w.d (v.g.thread l) (v.wrsysVal w (v.g.thread l)) = .ok (f l (v.g.thread l))) :
    Completes s v (.wrsys w) w f := by
  intro h
  have hg : v.wrsysGroup w = v.g := if_neg fun hw => hd hw.1
  rw [exec_wrsys h.1.1, hg, lane_done h hf]

/-- wrsys of CLASSPOL takes the value of the lowest active lane. -/
theorem exec_wrsys_classpol {s : State} {v : View} {w : CastWord} {l : Nat} (hd : w.d = 0x12) (h : s.issues (.wrsys w) w v)
    (hl : (v.active w).head? = some l) (hgood : ∀ j ∈ v.active w, v.wrsysVal w (v.g.thread j) % 4 ≠ 3) :
    exec (.wrsys w) s = .next (v.groupDone { v.laneGroup w (fun _ t => t) with classpol := BitVec.ofNat 2 (v.wrsysVal w (v.g.thread l)) }) := by
  obtain ⟨⟨hv, hc⟩, hb⟩ := h
  have hfilter : ((v.active w).filter fun l => !(v.g.thread l).readsBad (.wrsys w) && v.wrsysVal w (v.g.thread l) % 4 != 3) = v.active w :=
    List.filter_eq_self.2 fun j hj => by simp [hb j hj, hgood j hj]
  have hg : v.wrsysGroup w = { v.g with classpol := BitVec.ofNat 2 (v.wrsysVal w (v.g.thread l)) } := by
    simp [View.wrsysGroup, hd, hc, hfilter, hl]
  have hlane : (v.withClasspol (BitVec.ofNat 2 (v.wrsysVal w (v.g.thread l)))).lane (.wrsys w) w (fun _ t => wrsysLane w.d t (v.wrsysVal w t)) =
      (v.withClasspol (BitVec.ofNat 2 (v.wrsysVal w (v.g.thread l)))).done w fun _ t => t := by
    refine View.lane_done_of_check (by simpa using hc) fun j hj => ?_
    rw [View.withClasspol_active] at hj
    simp only [View.withClasspol_thread, hb j hj, Bool.false_eq_true, if_false, wrsysLane, hd]
    exact if_neg (hgood j hj)
  rw [exec_wrsys hv, hg]
  exact congrArg _ hlane

/-! ### k registers -/

theorem Group.kreg_setK_self (g : Group) (i : Nat) (x : Word) : (g.setK i x).kreg i = if i = 0 then 0 else x := by
  unfold Group.setK Group.kreg
  split
  · rfl
  · simp

theorem Group.kreg_setK_ne (g : Group) {i j : Nat} (x : Word) (h : j ≠ i) : (g.setK i x).kreg j = g.kreg j := by
  by_cases hi : i = 0
  · simp [Group.setK, hi]
  · simp [Group.setK, Group.kreg, hi, h]

/-- kset writes the A of the lane that it names. -/
theorem exec_kset {s : State} {v : View} {w : CastWord} {l : Nat} (h : s.decodes (.kset w) v)
    (hl : if w.modBit 1 = true then v.lanes.head? = some l else l = w.imm.toNat ∧ l ∈ v.lanes) (hb : (v.g.thread l).readsBad (.kset w) = false) :
    exec (.kset w) s = .next (v.groupDone (v.g.setK w.d.toNat (BitVec.ofNat 32 (srcA (.kset w) v.g w (v.g.thread l) 1)))) := by
  have hlane : (if w.modBit 1 then v.lanes.head? else if v.lanes.contains w.imm.toNat then some w.imm.toNat else none) = some l := by
    cases hm : w.modBit 1 with
    | true => simpa [hm] using hl
    | false =>
      obtain ⟨rfl, hmem⟩ : l = w.imm.toNat ∧ l ∈ v.lanes := by simpa [hm] using hl
      simp [hmem]
  refine (onFrag_uniform h).trans (congrArg _ ?_)
  rw [hlane]
  exact if_neg (Bool.eq_false_iff.1 hb)

/-- Settles O12: each register by its own branch. -/
theorem systemRegisterWords : Obligations.SystemRegisterWords := by
  unfold Obligations.SystemRegisterWords
  intro s v w val
  refine ⟨fun h => onFrag_lane_done h fun _ _ => rfl,
    fun l t => ⟨rfl, rfl, rfl, rfl, rfl, rfl, rfl, rfl, rfl, rfl, rfl, fun i hi => v.sysVal_levelId l t hi⟩,
    fun hd hx => wrsys_completes (by rw [hd]; decide) fun l hl => ?_, fun hd hx => wrsys_completes (by rw [hd]; decide) fun l hl => ?_,
    fun hd => wrsys_completes (by rw [hd]; decide) fun l _ => ?_, fun hd h l hl hgood => exec_wrsys_classpol hd h hl hgood,
    fun h l hl hb => exec_kset h hl hb, fun g i x => ⟨g.kreg_setK_self i x, fun j hj => g.kreg_setK_ne x hj⟩,
    fun h => onFrag_lane_done h fun _ _ => rfl, fun h => onFrag_uniform h⟩
  · obtain ⟨hp, hp', hm⟩ := hx l hl
    have hpr : prWrite (v.wrsysVal w (v.g.thread l)) = some (BitVec.ofNat 32 (val (v.g.thread l)) &&& 0x30FFF) := prWrite_of_legal hp hp' hm
    simp only [wrsysLane, hd, if_true, hpr]
  · obtain ⟨h16, h57⟩ := hx l hl
    simp only [wrsysLane, hd]
    exact if_neg (not_or.2 ⟨not_not.2 h16, Nat.not_le.2 h57⟩)
  · simp only [wrsysLane, hd]
    rfl

end Sys2Proof.Machine
end

section
/-! SUPPORT. A breakpoint that halts a core whose group owes a WATCHDOG trap (O16). -/

namespace Sys2Proof.Machine

/-- A breakpoint where the context's breakpoints halt: the owed traps, then the halt, and its cause for management (R135, R485). -/
theorem exec_dbrk_of_halt {s : State} {v : View} {w : CastWord} (h : s.decodes (.dbrk w) v) (hb : s.haltBreak v.g.ctx = true)
    (ha : v.active w ≠ []) : exec (.dbrk w) s = .next (((v.next v.g).haltCore v.c).mgmt 5) := by
  have hs : v.s.haltBreak v.g.ctx = true := by rw [State.view_s h.1, hb]
  refine (onFrag_of_view h.1 _).trans (congrArg _ ?_)
  exact (if_pos ⟨h.2, hs⟩).trans (if_neg (by simpa using ha))

/-- Two fragments of one thread each; the second owes the WATCHDOG trap, which its thread routes to the handler. -/
def owingGroup : Group :=
  { tinyGroup with
    threads := [(0, { Thread.none with alive := true }), (1, { Thread.none with tid := 1, g := 1, alive := true, hmask := 0x1FFFE })]
    nodes := [{ leafNode 1 0 none none false with id := 0 }, { leafNode 2 0 none none false with id := 1, owes := true }], nextNode := 2 }

/-- The launch of the two threads has a handler. -/
def handledLaunch : Launch := { tinyLaunch with rec_ := { tinyRec with trapentry := 0x1000, size := [2] } }

/-- Core 0 performs a word for the first fragment, in a context whose breakpoints halt. -/
def breaksBesideOwed : State :=
  { State.reset with
    cores := [(0, { Core.reset with groups := [(0, owingGroup)] })], launches := [(0, handledLaunch)], sup := { Sup.reset with ctxctl := [(0, 4)] } }

/-- A dbrk with guard 15 and nothing else set. -/
def dbrkWord : CastWord := { tc := 3, pg := 15, pn := 0, d := 0, a := 0, b := 0, c := 0, reuse := 0, lc := 0, ty := 0, mod := 0, ext := 0, imm := 0 }

/-- The fragment that performs the word. -/
def breaker : View := { s := breaksBesideOwed, c := 0, slot := 0, g := owingGroup, nd := { leafNode 1 0 none none false with id := 0 }, l := handledLaunch }

theorem breaksBesideOwed_decodes : breaksBesideOwed.decodes (.dbrk dbrkWord) breaker := by
  unfold State.decodes
  decide +kernel

/-- The halt takes the second fragment to its owed trap first (R105), where it waits for the page of its detail. -/
theorem group_of_halt_beside_owed :
    ((((breaker.next breaker.g).haltCore 0).mgmt 5).group? 0 0).map (fun g => g.nodes.map (·.owes)) = some [false, false] := by
  decide +kernel

/-- Refutes O16: a breakpoint that halts the core first takes the WATCHDOG traps that its fragments owe (R105), so the group is not just as it
was with its fragment at the next word: another fragment of it that owes a trap takes it. -/
theorem not_trapReturnAndYieldWords : ¬ Obligations.TrapReturnAndYieldWords := by
  unfold Obligations.TrapReturnAndYieldWords
  intro h
  obtain ⟨-, -, hhalt, -⟩ := h breaksBesideOwed breaker dbrkWord
  obtain ⟨t, ht, -, hgroup, -⟩ := hhalt breaksBesideOwed_decodes (by decide) (by decide)
  obtain rfl := Host.Outcome.next.inj ((exec_dbrk_of_halt breaksBesideOwed_decodes (by decide) (by decide)).symm.trans ht)
  have hnodes := group_of_halt_beside_owed
  rw [show (((breaker.next breaker.g).haltCore 0).mgmt 5).group? 0 0 = _ from hgroup] at hnodes
  exact absurd hnodes (by decide)

end Sys2Proof.Machine
end

section
/-! SUPPORT. A thread that ends on a trap while its barrier completes, in a state that lists a core twice (O18). -/

namespace Sys2Proof.Machine

/-- A thread that waits at barrier 0 of the block of `tinyGroup`. -/
def waitingGroup : Group :=
  { tinyGroup with
    threads := [(0, { Thread.none with tid := 1, g := 1, alive := true })], nodes := [{ leafNode 1 0 none none false with id := 0, st := .bar 0 0 }] }

/-- A block of two threads, of which thread 1 has arrived at barrier 0. -/
def meetingBlock : Block :=
  { place := .placed, cores := [0], grant := 8, since := 0, bars := [(0, { phase := 0, arrived := [1], later := [] })], setwArrived := [], setwReq := 0,
    ended := [], pinned := [], swapped := false }

/-- The launch of the block, without a handler. -/
def meetingLaunch : Launch := { tinyLaunch with rec_ := { tinyRec with size := [2] }, blocks := [(0, meetingBlock)] }

/-- Core 0 is listed twice: the first entry, with the fragment that traps, hides the second, with the thread that waits. -/
def listsCoreTwice : State :=
  { State.reset with
    cores := [(0, { Core.reset with groups := [(0, tinyGroup)] }), (0, { Core.reset with groups := [(0, waitingGroup)] })]
    launches := [(0, meetingLaunch)] }

/-- The fragment that traps. -/
def trapper : View := { s := listsCoreTwice, c := 0, slot := 0, g := tinyGroup, nd := { leafNode 1 0 none none false with id := 0 }, l := meetingLaunch }

theorem listsCoreTwice_view : listsCoreTwice.view = some trapper := by decide +kernel

/-- The thread that traps ends, which completes the barrier, and the group of the hidden entry takes the slot with its thread alive. -/
theorem group_of_trap_with_hidden_core :
    ((trapper.s.takeTrap 0 0 tinyGroup trapper.nd [(0, 0x10, 0)]).group? 0 0).map (fun g => (g.thread 0).alive) = some true := by
  decide +kernel

/-- Refutes O18: the statement does not ask that the keys of the cores rise. Where a core is listed twice, the end of a trapping thread can
complete a barrier at which a group of the hidden entry waits, and that group goes on in the slot of the trapping one, its thread alive. -/
theorem not_takingATrap : ¬ Obligations.TakingATrap := by
  unfold Obligations.TakingATrap
  intro h
  obtain ⟨-, hends⟩ := h listsCoreTwice trapper [(0, 0x10, 0)] listsCoreTwice_view (by simp) (by simp) (by decide)
  obtain ⟨-, hblock⟩ := hends (by decide)
  obtain ⟨-, hgone⟩ := hblock meetingBlock (by decide +kernel)
  obtain ⟨g, hg, halive⟩ := Option.map_eq_some_iff.1 group_of_trap_with_hidden_core
  obtain ⟨hdead, -⟩ := hgone rfl g hg
  exact absurd (halive.symm.trans (hdead (0, 0x10, 0) (List.mem_singleton_self _))) (by decide)

end Sys2Proof.Machine
end

section
/-! SUPPORT. Exact magnitudes round as their rule says (R226-R229, R232). -/

namespace Sys2Proof.Machine

/-! ### Magnitudes as rational numbers -/

theorem log_blen {m : Nat} (h : 0 < m) : blen m = Nat.log2 m + 1 := if_neg h.ne'

/-- The binade of a positive magnitude. -/
theorem log_magnitude {m : Nat} (h : 0 < m) (e : ℤ) : Int.log 2 ((m : ℚ) * 2 ^ e) = e + blen m - 1 := by
  have hlo : 2 ^ Nat.log2 m ≤ m := Nat.log2_self_le h.ne'
  have hhi : m < 2 ^ (Nat.log2 m + 1) := Nat.lt_log2_self
  have h2e : (0 : ℚ) < 2 ^ e := by positivity
  have hpos : (0 : ℚ) < (m : ℚ) * 2 ^ e := by positivity
  rw [log_blen h]
  push_cast
  refine le_antisymm (Int.lt_add_one_iff.1 ((Int.lt_zpow_iff_log_lt one_lt_two hpos).1 ?_)) ((Int.zpow_le_iff_le_log one_lt_two hpos).1 ?_)
  · rw [Nat.cast_two, show e + ((Nat.log2 m : ℤ) + 1) - 1 + 1 = ((Nat.log2 m + 1 : ℕ) : ℤ) + e by push_cast; ring, zpow_add₀ two_ne_zero, zpow_natCast]
    gcongr
    exact_mod_cast hhi
  · rw [Nat.cast_two, show e + ((Nat.log2 m : ℤ) + 1) - 1 = (Nat.log2 m : ℤ) + e by ring, zpow_add₀ two_ne_zero, zpow_natCast]
    gcongr
    exact_mod_cast hlo

/-- A power of two with a natural exponent that is given as an integer. -/
theorem two_zpow_toNat {k : ℤ} (h : 0 ≤ k) : ((2 ^ k.toNat : ℕ) : ℚ) = 2 ^ k := by
  rw [Nat.cast_pow, Nat.cast_two, ← zpow_natCast, Int.toNat_of_nonneg h]

/-- The comparison of magnitudes is that of their numbers. -/
theorem magLt_iff (m : Nat) (e : ℤ) (n : Nat) (k : ℤ) : magLt m e n k = true ↔ (m : ℚ) * 2 ^ e < n * 2 ^ k := by
  unfold magLt
  split
  case isTrue h =>
    have hk : (n : ℚ) * 2 ^ k = ((n * 2 ^ (k - e).toNat : ℕ) : ℚ) * 2 ^ e := by
      rw [Nat.cast_mul, two_zpow_toNat (by omega), mul_assoc, ← zpow_add₀ two_ne_zero, sub_add_cancel]
    rw [decide_eq_true_iff, hk, mul_lt_mul_iff_left₀ (by positivity), Nat.cast_lt]
  case isFalse h =>
    have he : (m : ℚ) * 2 ^ e = ((m * 2 ^ (e - k).toNat : ℕ) : ℚ) * 2 ^ k := by
      rw [Nat.cast_mul, two_zpow_toNat (by omega), mul_assoc, ← zpow_add₀ two_ne_zero, sub_add_cancel]
    rw [decide_eq_true_iff, he, mul_lt_mul_iff_left₀ (by positivity), Nat.cast_lt]

/-! ### The multiple that a mode chooses -/

/-- An integer is its own choice. -/
theorem chosen_natCast (mode : RMode) (neg : Bool) (rnd n : Nat) : chosen mode neg rnd (n : ℚ) = n := by
  simp [chosen]

/-- The quotient of naturals between two integers: the mode's choice goes up as `goesUp` says (R227, R229). -/
theorem chosen_div (mode : RMode) (neg : Bool) (rnd : Nat) {m span : Nat} (hs : 0 < span) (hr : m % span ≠ 0) :
    chosen mode neg rnd ((m : ℚ) / span) = (if goesUp mode neg rnd (m / span) (m % span) span false = true then m / span + 1 else m / span : ℕ) := by
  have hfloor : ⌊(m : ℚ) / span⌋ = ((m / span : ℕ) : ℤ) := by rw [Rat.floor_natCast_div_natCast]; rfl
  have hs' : (0 : ℚ) < span := by exact_mod_cast hs
  have hsplit : (m : ℚ) = span * (m / span : ℕ) + (m % span : ℕ) := by exact_mod_cast (Nat.div_add_mod m span).symm
  have hfract : (m : ℚ) / span - (m / span : ℕ) = (m % span : ℕ) / span := by
    rw [eq_div_iff hs'.ne', sub_mul, div_mul_cancel₀ _ hs'.ne', mul_comm ((m / span : ℕ) : ℚ)]
    linarith
  have hne : ¬ (m : ℚ) / span = (m / span : ℕ) := by
    intro h
    rw [← sub_eq_zero, hfract, div_eq_zero_iff] at h
    rcases h with h | h
    · exact hr (by exact_mod_cast h)
    · exact hs'.ne' h
  have hlt : (m : ℚ) / span - (m / span : ℕ) < 1 / 2 ↔ 2 * (m % span) < span := by
    rw [hfract, div_lt_div_iff₀ hs' two_pos, one_mul, mul_comm]
    exact_mod_cast Iff.rfl
  have heq : (m : ℚ) / span - (m / span : ℕ) = 1 / 2 ↔ 2 * (m % span) = span := by
    rw [hfract, div_eq_div_iff hs'.ne' two_ne_zero, one_mul, mul_comm]
    exact_mod_cast Iff.rfl
  unfold chosen
  simp only [hfloor, Int.cast_natCast, if_neg hne]
  cases mode with
  | rtz => simp [goesUp]
  | rup => cases neg <;> simp [goesUp]
  | rdn => cases neg <;> simp [goesUp]
  | rna =>
    simp only [goesUp, hlt, decide_eq_true_eq, ge_iff_le]
    split_ifs <;> omega
  | rne =>
    simp only [goesUp, hlt, heq, Bool.or_eq_true, Bool.and_eq_true, decide_eq_true_eq, beq_iff_eq, Bool.false_or]
    split_ifs <;> omega
  | sst =>
    have hdraw : ⌊((m : ℚ) / span - (m / span : ℕ)) * 2 ^ 64⌋ = ((m % span * 2 ^ 64 / span : ℕ) : ℤ) := by
      rw [hfract, div_mul_eq_mul_div, show ((m % span : ℕ) : ℚ) * 2 ^ 64 = ((m % span * 2 ^ 64 : ℕ) : ℚ) by push_cast; ring,
        Rat.floor_natCast_div_natCast]
      rfl
    simp only [goesUp, hdraw, decide_eq_true_eq, Nat.cast_lt]
    split_ifs <;> rfl

/-- The multiple of 2^q that an exact magnitude rounds to is the one chosen, and it is inexact unless it is the number (R227, R232). -/
theorem roundAt_exact (mode : RMode) (neg : Bool) (rnd m : Nat) (e q : ℤ) :
    ((roundAt mode neg rnd ⟨m, e, false⟩ q).1 : ℤ) = chosen mode neg rnd ((m : ℚ) * 2 ^ e / 2 ^ q) ∧
    ((roundAt mode neg rnd ⟨m, e, false⟩ q).2 = false ↔ ((roundAt mode neg rnd ⟨m, e, false⟩ q).1 : ℚ) * 2 ^ q = m * 2 ^ e) := by
  have hq : (2 : ℚ) ^ q ≠ 0 := by positivity
  unfold roundAt
  dsimp only
  by_cases hd : q - e ≤ 0
  · have hy : (m : ℚ) * 2 ^ e / 2 ^ q = ((m * 2 ^ (-(q - e)).toNat : ℕ) : ℚ) := by
      rw [Nat.cast_mul, two_zpow_toNat (by omega), mul_div_assoc, ← zpow_sub₀ two_ne_zero, neg_sub]
    rw [if_pos hd, hy, chosen_natCast]
    exact ⟨rfl, iff_of_true rfl (by rw [← hy, div_mul_cancel₀ _ hq])⟩
  · have hs : 0 < 2 ^ (q - e).toNat := by positivity
    have hspan : (2 : ℚ) ^ q = ((2 ^ (q - e).toNat : ℕ) : ℚ) * 2 ^ e := by
      rw [two_zpow_toNat (by omega), ← zpow_add₀ two_ne_zero, sub_add_cancel]
    have hy : (m : ℚ) * 2 ^ e / 2 ^ q = (m : ℚ) / (2 ^ (q - e).toNat : ℕ) := by
      rw [hspan, mul_div_mul_right _ _ (by positivity)]
    rw [if_neg hd, hy, hspan]
    generalize 2 ^ (q - e).toNat = span at hs
    have he : (2 : ℚ) ^ e ≠ 0 := by positivity
    have hval : ∀ r : Nat, (r : ℚ) * ((span : ℚ) * 2 ^ e) = m * 2 ^ e ↔ r * span = m := by
      intro r
      rw [← mul_assoc, mul_left_inj' he]
      exact_mod_cast Iff.rfl
    by_cases hr : m % span = 0
    · have hm : m / span * span = m := Nat.div_mul_cancel (Nat.dvd_of_mod_eq_zero hr)
      rw [if_pos ⟨hr, rfl⟩]
      have hq' : (m : ℚ) / span = ((m / span : ℕ) : ℚ) := by
        rw [Nat.cast_div (Nat.dvd_of_mod_eq_zero hr) (by exact_mod_cast hs.ne')]
      rw [hq', chosen_natCast, hval]
      exact ⟨rfl, iff_of_true rfl hm⟩
    · rw [if_neg fun h => hr h.1, chosen_div mode neg rnd hs hr, hval]
      refine ⟨rfl, iff_of_false (by simp) fun h => hr ?_⟩
      rw [← h, Nat.mul_mod_left]

/-! ### Overflow and the whole rule -/

/-- The draw of sst beyond the largest finite value (R229), in units that divide both numbers. -/
theorem sst_draw_iff {t : Target} (hp : 2 ≤ t.p) (he : t.e4m3 = true → t.p = 4) {m : Nat} {e : ℤ}
    (hb : (t.maxSig : ℚ) * 2 ^ (t.emax - t.p + 1) < m * 2 ^ e) :
    let top := t.emax - t.p + 1
    let k := min e top
    let lo := t.maxSig * 2 ^ (top - k).toNat
    ((m * 2 ^ (e - k).toNat - lo) * 2 ^ 64 / (2 ^ (t.emax + 1 - k).toNat - lo) : ℕ) =
      ⌊((m : ℚ) * 2 ^ e - t.maxSig * 2 ^ top) / (2 ^ (t.emax + 1) - t.maxSig * 2 ^ top) * 2 ^ 64⌋ := by
  intro top k lo
  have hk : 0 ≤ e - k ∧ 0 ≤ top - k ∧ 0 ≤ t.emax + 1 - k := by omega
  have h2k : (0 : ℚ) < 2 ^ k := by positivity
  have hbig : (m : ℚ) * 2 ^ e = ((m * 2 ^ (e - k).toNat : ℕ) : ℚ) * 2 ^ k := by
    rw [Nat.cast_mul, two_zpow_toNat hk.1, mul_assoc, ← zpow_add₀ two_ne_zero, sub_add_cancel]
  have hlo : (t.maxSig : ℚ) * 2 ^ top = (lo : ℚ) * 2 ^ k := by
    rw [Nat.cast_mul, two_zpow_toNat hk.2.1, mul_assoc, ← zpow_add₀ two_ne_zero, sub_add_cancel]
  have htop : (2 : ℚ) ^ (t.emax + 1) = ((2 ^ (t.emax + 1 - k).toNat : ℕ) : ℚ) * 2 ^ k := by
    rw [two_zpow_toNat hk.2.2, ← zpow_add₀ two_ne_zero, sub_add_cancel]
  have hle : lo ≤ m * 2 ^ (e - k).toNat := by
    have : (lo : ℚ) * 2 ^ k < ((m * 2 ^ (e - k).toNat : ℕ) : ℚ) * 2 ^ k := hlo ▸ hbig ▸ hb
    exact_mod_cast (lt_of_mul_lt_mul_right this h2k.le).le
  have hmax : t.maxSig < 2 ^ t.p := by
    unfold Target.maxSig
    split
    case isTrue h => rw [he h]; norm_num
    case isFalse => exact Nat.sub_lt (by positivity) one_pos
  have hlt : lo < 2 ^ (t.emax + 1 - k).toNat := by
    rw [show (t.emax + 1 - k).toNat = t.p + (top - k).toNat by omega, pow_add]
    exact Nat.mul_lt_mul_of_pos_right hmax (by positivity)
  rw [hbig, hlo, htop, ← sub_mul, ← sub_mul, mul_div_mul_right _ _ h2k.ne', ← Nat.cast_sub hle, ← Nat.cast_sub hlt.le, div_mul_eq_mul_div,
    show (((m * 2 ^ (e - k).toNat - lo : ℕ) : ℚ) * 2 ^ 64) = (((m * 2 ^ (e - k).toNat - lo) * 2 ^ 64 : ℕ) : ℚ) by push_cast; ring,
    Rat.floor_natCast_div_natCast]
  rfl

/-- At the precision below its own binade a magnitude never rounds to zero. -/
theorem roundAt_ne_zero (mode : RMode) (neg : Bool) (rnd : Nat) {m : Nat} (h : 0 < m) (e : ℤ) {q : ℤ} (hq : q ≤ e + blen m - 1) :
    (roundAt mode neg rnd ⟨m, e, false⟩ q).1 ≠ 0 := by
  unfold roundAt
  dsimp only
  split
  · positivity
  · have hle : 2 ^ (q - e).toNat ≤ m := by
      rw [log_blen h] at hq
      exact (Nat.pow_le_pow_right two_pos (by omega)).trans (Nat.log2_self_le h.ne')
    have hdiv : 0 < m / 2 ^ (q - e).toNat := Nat.div_pos hle (by positivity)
    split
    · exact hdiv.ne'
    · dsimp only
      split <;> omega

/-- What an overflow gives (R228, R232). -/
def overflowed (t : Target) (neg : Bool) : Rounded :=
  ⟨if t.mode = .rtz ∨ (t.mode = .rup ∧ neg = true) ∨ (t.mode = .rdn ∧ neg = false) then .fin neg t.maxSig (t.emax - t.p + 1) else .inf neg,
    flagOF + flagNX⟩

/-- The two parts of rounding an exact positive number: sst beyond the largest finite value, and every other. -/
theorem roundFin_eq (t : Target) (neg : Bool) {m : Nat} (hm : 0 < m) (e : ℤ) :
    let q := e + blen m - 1
    let qe := max q t.emin - t.p + 1
    let top := t.emax - t.p + 1
    let r := roundAt t.mode neg t.rnd ⟨m, e, false⟩ qe
    let u := (roundAt t.mode neg t.rnd ⟨m, e, false⟩ (q - t.p + 1)).1
    let k := min e top
    roundFin t neg m e =
      if t.mode = .sst ∧ magLt t.maxSig top m e = true then
        if magLt m e (t.maxSig + 1) top = false ∨
            t.rnd < (m * 2 ^ (e - k).toNat - t.maxSig * 2 ^ (top - k).toNat) * 2 ^ 64 /
              (2 ^ (t.emax + 1 - k).toNat - t.maxSig * 2 ^ (top - k).toNat) then overflowed t neg
        else ⟨.fin neg t.maxSig top, flagNX⟩
      else if magLt t.maxSig top r.1 qe = true then overflowed t neg
      else ⟨.fin neg r.1 qe, (if r.2 = true then flagNX else 0) + if r.2 = true ∧ magLt u (q - t.p + 1) 1 t.emin = true ∧ u ≠ 0 then flagUF else 0⟩ := by
  intro q qe top r u k
  have hzero : ¬ (m = 0 ∧ (!false) = true) := by omega
  unfold roundFin roundMag overflowed
  rw [if_neg hzero]
  by_cases hs : t.mode = .sst ∧ magLt t.maxSig top m e = true
  · rw [if_pos hs]
    simp [hs, top, k]
  · have hb : (t.mode == .sst && (magLt t.maxSig top m e || false && !magLt m e t.maxSig top)) = false := by simpa using hs
    rw [if_neg hs]
    simp only [q, qe, top, r, u] at *
    simp only [hb, Bool.false_eq_true, if_false]
    by_cases ho : magLt t.maxSig (t.emax - t.p + 1) (roundAt t.mode neg t.rnd ⟨m, e, false⟩ (max (e + blen m - 1) t.emin - t.p + 1)).1
        (max (e + blen m - 1) t.emin - t.p + 1) = true
    · rw [if_pos ho, if_pos ho]
      cases t.mode <;> cases neg <;> rfl
    · rw [if_neg ho, if_neg ho]
      simp [Bool.and_eq_true]

/-- Every mode rounds an exact positive number as its rule says, overflow, underflow and flags included. -/
theorem roundFin_roundsTo {t : Target} (hp : 2 ≤ t.p) (he : t.e4m3 = true → t.p = 4) (neg : Bool) {m : Nat} (hm : 0 < m) (e : ℤ) :
    RoundsTo t neg ((m : ℚ) * 2 ^ e) (roundFin t neg m e) := by
  have hbeyond := magLt_iff t.maxSig (t.emax - t.p + 1) m e
  obtain ⟨hr, hx⟩ := roundAt_exact t.mode neg t.rnd m e (max (e + blen m - 1) t.emin - t.p + 1)
  obtain ⟨hu, -⟩ := roundAt_exact t.mode neg t.rnd m e (e + blen m - 1 - t.p + 1)
  have hu0 := roundAt_ne_zero t.mode neg t.rnd hm e (q := e + blen m - 1 - t.p + 1) (by omega)
  have hmodel := roundFin_eq t neg hm e
  unfold RoundsTo
  rw [log_magnitude hm e]
  dsimp only at hmodel ⊢
  rw [← hr, ← hu, hmodel]
  by_cases hs : t.mode = .sst ∧ (t.maxSig : ℚ) * 2 ^ (t.emax - t.p + 1) < m * 2 ^ e
  · have hdraw := sst_draw_iff hp he hs.2
    have hhuge := magLt_iff m e (t.maxSig + 1) (t.emax - t.p + 1)
    dsimp only at hdraw
    rw [if_pos hs, if_pos ⟨hs.1, hbeyond.2 hs.2⟩, ← hdraw]
    refine if_congr (or_congr ?_ Nat.cast_lt.symm) rfl rfl
    rw [← Bool.not_eq_true, hhuge, not_lt]
    push_cast
    rfl
  · have hover := magLt_iff t.maxSig (t.emax - t.p + 1)
      (roundAt t.mode neg t.rnd ⟨m, e, false⟩ (max (e + blen m - 1) t.emin - t.p + 1)).1 (max (e + blen m - 1) t.emin - t.p + 1)
    have htiny := magLt_iff (roundAt t.mode neg t.rnd ⟨m, e, false⟩ (e + blen m - 1 - t.p + 1)).1 (e + blen m - 1 - t.p + 1) 1 t.emin
    rw [if_neg hs, if_neg (c := t.mode = .sst ∧ magLt t.maxSig (t.emax - t.p + 1) m e = true) fun h => hs ⟨h.1, hbeyond.1 h.2⟩]
    simp only [Int.cast_natCast, Int.toNat_natCast]
    by_cases ho : magLt t.maxSig (t.emax - t.p + 1) (roundAt t.mode neg t.rnd ⟨m, e, false⟩ (max (e + blen m - 1) t.emin - t.p + 1)).1
        (max (e + blen m - 1) t.emin - t.p + 1) = true
    · rw [if_pos (hover.1 ho), if_pos ho, overflowed]
    · rw [if_neg fun h => ho (hover.2 h), if_neg ho]
      congr 1
      rw [Nat.cast_one, one_mul] at htiny
      by_cases hex : (roundAt t.mode neg t.rnd ⟨m, e, false⟩ (max (e + blen m - 1) t.emin - t.p + 1)).2 = false
      · rw [if_pos (hx.1 hex)]
        simp [hex]
      · rw [if_neg fun h => hex (hx.2 h), if_pos (Bool.not_eq_false _ ▸ hex)]
        simp only [htiny, hu0, ne_eq, not_false_eq_true, and_true, Bool.not_eq_false _ ▸ hex, true_and]

end Sys2Proof.Machine
end

section
/-! SUPPORT. Exact sums and the order of data (R129, R242). -/

namespace Sys2Proof.Machine

/-! ### Minima of a list -/

section
variable {α : Type} [LinearOrder α]

theorem foldl_min_le_mem (xs : List α) (a : α) : xs.foldl min a ≤ a ∧ ∀ x ∈ xs, xs.foldl min a ≤ x := by
  induction xs generalizing a with
  | nil => simp
  | cons x xs ih =>
    obtain ⟨hacc, hmem⟩ := ih (min a x)
    refine ⟨hacc.trans (min_le_left a x), fun y hy => ?_⟩
    rcases List.mem_cons.1 hy with rfl | hy
    · exact hacc.trans (min_le_right a y)
    · exact hmem y hy

theorem le_foldl_min {c : α} {xs : List α} {a : α} (ha : c ≤ a) (h : ∀ x ∈ xs, c ≤ x) : c ≤ xs.foldl min a := by
  induction xs generalizing a with
  | nil => exact ha
  | cons x xs ih => exact ih (le_min ha (h x List.mem_cons_self)) fun y hy => h y (List.mem_cons_of_mem x hy)

/-- The minimum over a start that bounds the values is the least value. -/
theorem foldl_min_eq {xs : List α} {a x : α} (hx : x ∈ xs) (hle : ∀ y ∈ xs, x ≤ y) (ha : x ≤ a) : xs.foldl min a = x :=
  ((foldl_min_le_mem xs a).2 x hx).antisymm (le_foldl_min ha hle)

/-- The maximum over a start that bounds the values is the greatest value. -/
theorem foldl_max_eq {xs : List α} {a x : α} (hx : x ∈ xs) (hle : ∀ y ∈ xs, y ≤ x) (ha : a ≤ x) : xs.foldl max a = x :=
  foldl_min_eq (α := αᵒᵈ) hx hle ha
end

/-! ### Exact sums -/

/-- A count of positive units is negative with its number. -/
theorem intCast_mul_neg_iff {c : ℚ} (h : 0 < c) (z : ℤ) : (z : ℚ) * c < 0 ↔ z < 0 := by
  rw [← zero_mul c, mul_lt_mul_iff_left₀ h, Int.cast_lt_zero]

/-- What one addend adds to an exact sum in units of 2^k. -/
def FV.unitsOf (k : ℤ) : FV → ℤ
  | .fin s m e => if m = 0 then 0 else (if s then -1 else 1) * ((m * 2 ^ (e - k).toNat : Nat) : Int)
  | _ => 0

/-- The exponents of the addends that count in a sum. -/
def sumExps (xs : List FV) : List ℤ := xs.filterMap fun v => match v with | .fin _ m e => if m = 0 then none else some e | _ => none

theorem sumFin_snd_le {xs : List FV} {s : Bool} {m : Nat} {e : ℤ} (h : FV.fin s m e ∈ xs) (hm : m ≠ 0) : (sumFin xs).2 ≤ e :=
  (foldl_min_le_mem (sumExps xs) _).2 e (List.mem_filterMap.2 ⟨_, h, if_neg hm⟩)

theorem sumFin_fst (xs : List FV) : (sumFin xs).1 = (xs.map (FV.unitsOf (sumFin xs).2)).sum := by
  have hstep : ∀ (k a : ℤ) (ys : List FV), (ys.foldl (fun a v => match v with
      | .fin s m e => if m = 0 then a else a + (if s then -1 else 1) * ((m * 2 ^ (e - k).toNat : Nat) : Int)
      | _ => a) a) = a + (ys.map (FV.unitsOf k)).sum := by
    intro k a ys
    induction ys generalizing a with
    | nil => simp
    | cons y ys ih =>
      rw [List.foldl_cons, ih, List.map_cons, List.sum_cons, ← add_assoc]
      congr 1
      cases y with
      | fin s m e => by_cases hm : m = 0 <;> simp [FV.unitsOf, hm]
      | nan => simp [FV.unitsOf]
      | inf => simp [FV.unitsOf]
  refine (hstep _ 0 xs).trans (zero_add _)

/-- An addend in units is its number. -/
theorem unitsOf_mul {v : FV} {k : ℤ} (h : ∀ s m e, v = .fin s m e → m ≠ 0 → k ≤ e) : (v.unitsOf k : ℚ) * 2 ^ k = v.rat := by
  cases v with
  | nan => simp [FV.unitsOf, FV.rat]
  | inf => simp [FV.unitsOf, FV.rat]
  | fin s m e =>
    by_cases hm : m = 0
    · simp [FV.unitsOf, FV.rat, hm]
    · have hk := h s m e rfl hm
      simp only [FV.unitsOf, FV.rat, if_neg hm]
      rw [Int.cast_mul, Int.cast_natCast, Nat.cast_mul, two_zpow_toNat (by omega), mul_assoc, mul_assoc, ← zpow_add₀ two_ne_zero,
        sub_add_cancel]
      split <;> norm_num

/-- The exact sum in its units is the sum of the numbers. -/
theorem sumFin_rat (xs : List FV) : ((sumFin xs).1 : ℚ) * 2 ^ (sumFin xs).2 = (xs.map FV.rat).sum := by
  have hall : ∀ v ∈ xs, ((v.unitsOf (sumFin xs).2 : ℤ) : ℚ) * 2 ^ (sumFin xs).2 = v.rat := by
    intro v hv
    refine unitsOf_mul fun s m e hve hm => sumFin_snd_le (s := s) (hve ▸ hv) hm
  rw [sumFin_fst, Int.cast_list_sum, ← List.sum_map_mul_right, List.map_map]
  exact congrArg List.sum (List.map_congr_left hall)

/-- An exact sum that is not zero is rounded once (R129). -/
theorem roundSum_roundsTo {t : Target} (hp : 2 ≤ t.p) (he : t.e4m3 = true → t.p = 4) {xs : List FV}
    (hfin : ∀ v ∈ xs, v.isNan = false ∧ v.isInf = false) (hsum : (xs.map FV.rat).sum ≠ 0) :
    RoundsTo t (decide ((xs.map FV.rat).sum < 0)) |(xs.map FV.rat).sum| (roundSum t xs) := by
  have hnan : xs.any FV.isNan = false := List.any_eq_false.2 fun v hv => by simp [(hfin v hv).1]
  have hinf : xs.any (fun v => v.isInf && v.neg) = false := List.any_eq_false.2 fun v hv => by simp [(hfin v hv).2]
  have hfind : xs.find? FV.isInf = none := List.find?_eq_none.2 fun v hv => by simp [(hfin v hv).2]
  have h2 : (0 : ℚ) < 2 ^ (sumFin xs).2 := by positivity
  rw [← sumFin_rat] at hsum ⊢
  have hs : (sumFin xs).1 ≠ 0 := fun h => hsum (by rw [h, Int.cast_zero, zero_mul])
  have hmag : |((sumFin xs).1 : ℚ) * 2 ^ (sumFin xs).2| = ((sumFin xs).1.natAbs : ℚ) * 2 ^ (sumFin xs).2 := by
    rw [abs_mul, abs_of_pos h2, Nat.cast_natAbs, Int.cast_abs]
  have hneg : decide (((sumFin xs).1 : ℚ) * 2 ^ (sumFin xs).2 < 0) = decide ((sumFin xs).1 < 0) := 
    decide_eq_decide.2 (intCast_mul_neg_iff h2 _)
  have hround : roundSum t xs = roundFin t (decide ((sumFin xs).1 < 0)) (sumFin xs).1.natAbs (sumFin xs).2 := by
    unfold roundSum
    rw [hinf, hnan, hfind]
    exact if_neg hs
  rw [hround, hmag, hneg]
  exact roundFin_roundsTo hp he _ (Int.natAbs_pos.2 hs) _

/-- A NaN among addends without an infinity gives the quiet NaN (R129). -/
theorem roundSum_nan (t : Target) {xs : List FV} (hnan : xs.any FV.isNan = true) (hinf : ∀ v ∈ xs, v.isInf = false) :
    roundSum t xs = quietNan (xs.any FV.isSig) := by
  have hinf' : xs.any (fun v => v.isInf && v.neg) = false := List.any_eq_false.2 fun v hv => by simp [hinf v hv]
  unfold roundSum
  rw [hinf', hnan]
  rfl

/-! ### The order of data -/

/-- The place of a datum that is no NaN in the order of fmin and fmax: by its number, and −0 below +0. -/
def FV.key (v : FV) : WithBot (WithTop ℚ) ×ₗ Bool := toLex (v.place, !v.neg)

theorem FV.place_fin (s : Bool) (m : Nat) (e : ℤ) : (FV.fin s m e).place = (((FV.fin s m e).rat : WithTop ℚ) : WithBot (WithTop ℚ)) := rfl

/-- Comparison of finite data is that of their numbers. -/
theorem cmpFV_fin_lt (s : Bool) (m : Nat) (e : ℤ) (u : Bool) (n : Nat) (k : ℤ) :
    cmpFV (.fin s m e) (.fin u n k) = .lt ↔ (FV.fin s m e).rat < (FV.fin u n k).rat := by
  have hsum := sumFin_rat [.fin s m e, (FV.fin u n k).negate]
  have hneg : (FV.fin u n k).negate.rat = -(FV.fin u n k).rat := by cases u <;> simp [FV.negate, FV.rat]
  have h2 : (0 : ℚ) < 2 ^ (sumFin [.fin s m e, (FV.fin u n k).negate]).2 := by positivity
  simp only [List.map_cons, List.map_nil, List.sum_cons, List.sum_nil, add_zero, hneg, ← sub_eq_add_neg] at hsum
  rw [← sub_neg, ← hsum, intCast_mul_neg_iff h2]
  unfold cmpFV
  dsimp only
  split_ifs <;> simp_all

/-- A number that is not zero tells its sign. -/
theorem FV.neg_iff_rat {s : Bool} {m : Nat} (hm : m ≠ 0) (e : ℤ) : s = true ↔ (FV.fin s m e).rat < 0 := by
  have : (0 : ℚ) < (m : ℚ) * 2 ^ e := mul_pos (by exact_mod_cast Nat.pos_of_ne_zero hm) (by positivity)
  cases s <;> simp [FV.rat, this, this.le]

/-- A finite datum is zero exactly when its number is. -/
theorem FV.rat_eq_zero (s : Bool) (m : Nat) (e : ℤ) : (FV.fin s m e).rat = 0 ↔ m = 0 := by
  have : (2 : ℚ) ^ e ≠ 0 := by positivity
  cases s <;> simp [FV.rat, this]

/-- fmin's order is that of the keys. -/
theorem ltFV_iff {a b : FV} (ha : a.isNan = false) (hb : b.isNan = false) : ltFV a b = true ↔ a.key < b.key := by
  rw [FV.key, FV.key, Prod.Lex.toLex_lt_toLex]
  cases a with
  | nan => simp [FV.isNan] at ha
  | inf s =>
    cases b with
    | nan => simp [FV.isNan] at hb
    | inf u => cases s <;> cases u <;> simp [ltFV, FV.isZero, cmpFV, FV.place, FV.neg]
    | fin u n k => cases s <;> simp [ltFV, FV.isZero, cmpFV, FV.place, WithBot.bot_lt_coe]
  | fin s m e =>
    cases b with
    | nan => simp [FV.isNan] at hb
    | inf u =>
      cases u
      · simp only [ltFV, cmpFV, FV.place, FV.isZero, Bool.and_false, Bool.false_eq_true, if_false, beq_self_eq_true, true_iff]
        exact .inl (WithBot.coe_lt_coe.2 (WithTop.coe_lt_top _))
      · simp [ltFV, cmpFV, FV.place, FV.isZero]
    | fin u n k =>
      simp only [FV.place_fin, WithBot.coe_lt_coe, WithTop.coe_lt_coe, WithBot.coe_inj, WithTop.coe_inj]
      by_cases hz : m = 0 ∧ n = 0
      · obtain ⟨rfl, rfl⟩ := hz
        cases s <;> cases u <;> simp [ltFV, FV.isZero, FV.neg, FV.rat]
      · have hlt : ltFV (.fin s m e) (.fin u n k) = (cmpFV (.fin s m e) (.fin u n k) == .lt) := by
          refine if_neg ?_
          rcases m with _ | m <;> rcases n with _ | n <;> simp_all [FV.isZero]
        rw [hlt, beq_iff_eq, cmpFV_fin_lt]
        refine (or_iff_left ?_).symm
        rintro ⟨heq, hsign⟩
        have hm : m ≠ 0 := fun h => hz ⟨h, (FV.rat_eq_zero u n k).1 (heq ▸ (FV.rat_eq_zero s m e).2 h)⟩
        have hn : n ≠ 0 := fun h => hz ⟨(FV.rat_eq_zero s m e).1 (heq ▸ (FV.rat_eq_zero u n k).2 h), h⟩
        have hsu : s = u := Bool.eq_iff_iff.2 ((FV.neg_iff_rat hm e).trans (heq ▸ (FV.neg_iff_rat hn k).symm))
        exact absurd (congrArg Bool.not hsu) hsign.ne

end Sys2Proof.Machine
end

section
/-! SUPPORT. The folds of gred and gscan (R129, R130, R255). -/

namespace Sys2Proof.Machine

/-! ### Integer folds -/

/-- The value of an integer type lies between its least and greatest (R140). -/
theorem valOf_bounds (ty : BitVec 4) {n : Nat} (hn : 0 < n) (x : Nat) : minOf ty n ≤ valOf ty n x ∧ valOf ty n x ≤ maxOf ty n := by
  unfold minOf maxOf valOf
  split
  · obtain ⟨k, rfl⟩ : ∃ k, n = k + 1 := ⟨n - 1, by omega⟩
    have hlo := BitVec.le_toInt (BitVec.ofNat (k + 1) x)
    have hhi := BitVec.toInt_lt (x := BitVec.ofNat (k + 1) x)
    simp only [Nat.add_sub_cancel] at hlo hhi ⊢
    exact ⟨hlo, Int.le_sub_one_of_lt hhi⟩
  · have hlt : ((x % 2 ^ n : ℕ) : ℤ) < 2 ^ n := by exact_mod_cast Nat.mod_lt x (by positivity)
    exact ⟨by positivity, Int.le_sub_one_of_lt hlt⟩

theorem foldInt_add (ty : BitVec 4) (n : Nat) (xs : List Nat) : foldInt .add ty n xs = wrap n (xs.map (valOf ty n)).sum := by
  unfold foldInt
  rw [List.sum_eq_foldl]

theorem foldInt_seq (ty : BitVec 4) (n : Nat) (xs : List Nat) : foldInt .seq ty n xs = foldInt .add ty n xs := rfl

theorem foldInt_min (ty : BitVec 4) (n : Nat) (xs : List Nat) :
    foldInt .min ty n xs = wrap n ((xs.map (valOf ty n)).foldl min (maxOf ty n)) := by
  have hmin : (fun a b : ℤ => if b < a then b else a) = min := by
    funext a b
    rw [min_def]
    split_ifs <;> omega
  simp only [foldInt, hmin]

theorem foldInt_max (ty : BitVec 4) (n : Nat) (xs : List Nat) :
    foldInt .max ty n xs = wrap n ((xs.map (valOf ty n)).foldl max (minOf ty n)) := by
  have hmax : (fun a b : ℤ => if b > a then b else a) = max := by
    funext a b
    rw [max_def]
    split_ifs <;> omega
  simp only [foldInt, hmax]

/-- An integer fold does not depend on the order of its operands. -/
theorem foldInt_perm (m : Fold) (ty : BitVec 4) (n : Nat) {xs ys : List Nat} (h : xs.Perm ys) : foldInt m ty n xs = foldInt m ty n ys := by
  have hvals := h.map (valOf ty n)
  have hsum : foldInt .add ty n xs = foldInt .add ty n ys := by rw [foldInt_add, foldInt_add, hvals.sum_eq]
  cases m with
  | add => exact hsum
  | seq => rw [foldInt_seq, foldInt_seq, hsum]
  | min => rw [foldInt_min, foldInt_min, hvals.foldl_eq' fun _ _ _ _ _ => min_right_comm ..]
  | max => rw [foldInt_max, foldInt_max, hvals.foldl_eq' fun _ _ _ _ _ => max_right_comm ..]
  | and => exact h.foldl_eq' (fun x _ y _ a => by rw [Nat.land_assoc, Nat.land_comm x, ← Nat.land_assoc]) _
  | or => exact h.foldl_eq' (fun x _ y _ a => by rw [Nat.lor_assoc, Nat.lor_comm x, ← Nat.lor_assoc]) _
  | xor => exact h.foldl_eq' (fun _ _ _ _ _ => Nat.xor_right_comm ..) _

theorem testBit_foldl_and (xs : List Nat) (a i : Nat) : (xs.foldl (· &&& ·) a).testBit i = (a.testBit i && xs.all (·.testBit i)) := by
  induction xs generalizing a with
  | nil => simp
  | cons x xs ih => rw [List.foldl_cons, ih, Nat.testBit_and, List.all_cons, Bool.and_assoc]

theorem testBit_foldl_or (xs : List Nat) (a i : Nat) : (xs.foldl (· ||| ·) a).testBit i = (a.testBit i || xs.any (·.testBit i)) := by
  induction xs generalizing a with
  | nil => simp
  | cons x xs ih => rw [List.foldl_cons, ih, Nat.testBit_or, List.any_cons, Bool.or_assoc]

theorem testBit_foldl_xor (xs : List Nat) (a i : Nat) :
    (xs.foldl (· ^^^ ·) a).testBit i = (a.testBit i ^^ decide (xs.countP (·.testBit i) % 2 = 1)) := by
  induction xs generalizing a with
  | nil => simp
  | cons x xs ih =>
    rw [List.foldl_cons, ih, Nat.testBit_xor, Bool.xor_assoc]
    congr 1
    cases hx : x.testBit i
    · rw [List.countP_cons_of_neg (by simpa using hx), Bool.false_xor]
    · rw [List.countP_cons_of_pos (by simpa using hx), Bool.true_xor, ← decide_not]
      exact decide_eq_decide.2 (by omega)

/-! ### Minima and maxima of encodings -/

/-- A fold that keeps one of its two operands each time, the one that `R` puts first, ends at the first of all. -/
theorem foldl_pick {α : Type} {g : α → α → α} {P : α → Prop} {R : α → α → Prop} (hrefl : ∀ a, R a a) (htrans : ∀ a b c, R a b → R b c → R a c)
    (hg : ∀ a b, P a → P b → (g a b = a ∨ g a b = b) ∧ R (g a b) a ∧ R (g a b) b) (x : α) (xs : List α) (hP : ∀ y ∈ x :: xs, P y) :
    xs.foldl g x ∈ x :: xs ∧ ∀ y ∈ x :: xs, R (xs.foldl g x) y := by
  induction xs generalizing x with
  | nil => simpa using hrefl x
  | cons y ys ih =>
    obtain ⟨hor, hx, hy⟩ := hg x y (hP x (by simp)) (hP y (by simp))
    have hmem : g x y ∈ x :: y :: ys := by rcases hor with h | h <;> simp [h]
    obtain ⟨hin, hall⟩ := ih (g x y) fun z hz => hP z ((List.mem_cons.1 hz).elim (fun h => h ▸ hmem) fun h => by simp [h])
    refine ⟨(List.mem_cons.1 hin).elim (fun h => (List.foldl_cons .. : _ = _) ▸ h ▸ hmem) fun h => by simp [h], fun z hz => ?_⟩
    have hfirst := hall (g x y) List.mem_cons_self
    simp only [List.mem_cons] at hz
    rcases hz with rfl | rfl | hz
    · exact htrans _ _ _ hfirst hx
    · exact htrans _ _ _ hfirst hy
    · exact hall z (List.mem_cons_of_mem _ hz)

/-- Encoding `a` comes before `b` in fmin's order, and after it in fmax's. -/
def Fmt.before (f : Fmt) (max : Bool) (a b : Nat) : Prop :=
  if max then (f.decode b).key ≤ (f.decode a).key else (f.decode a).key ≤ (f.decode b).key

theorem Fmt.before_refl (f : Fmt) (max : Bool) (a : Nat) : f.before max a a := by cases max <;> exact le_refl (f.decode a).key

theorem Fmt.before_trans (f : Fmt) (max : Bool) (a b c : Nat) (h : f.before max a b) (h' : f.before max b c) : f.before max a c := by
  cases max with
  | true => exact le_trans h' h
  | false => exact le_trans h h'

/-- fmin and fmax deliver one of two numbers, the one that comes first in their order. -/
theorem minMaxBits_pick {f : Fmt} {max : Bool} {a b : Nat} (ha : (f.decode a).isNan = false) (hb : (f.decode b).isNan = false) :
    (minMaxBits f max a b = a ∨ minMaxBits f max a b = b) ∧ f.before max (minMaxBits f max a b) a ∧ f.before max (minMaxBits f max a b) b := by
  have hlt := ltFV_iff ha hb
  unfold minMaxBits Fmt.before
  simp only [ha, hb, Bool.and_false, Bool.false_eq_true, if_false]
  by_cases h : ltFV (f.decode a) (f.decode b) = true
  · have hle := (hlt.1 h).le
    cases max <;> simp [h, hle]
  · have hle := not_lt.1 (hlt.not.1 h)
    cases max <;> simp [h, hle]

/-- The numbers among encodings. -/
def Fmt.numbers (f : Fmt) (xs : List Nat) : List Nat := xs.filter fun x => !(f.decode x).isNan

theorem Fmt.mem_numbers {f : Fmt} {xs : List Nat} {x : Nat} : x ∈ f.numbers xs ↔ x ∈ xs ∧ (f.decode x).isNan = false := by
  simp [Fmt.numbers]

/-- The bits of NV where a signalling NaN stands among encodings. -/
def Fmt.sigFlag (f : Fmt) (xs : List Nat) : Nat := if xs.any (fun x => (f.decode x).isSig) = true then 16 else 0

theorem foldMinMax_eq (f : Fmt) (max : Bool) (xs : List Nat) : foldMinMax f max xs =
    ((match f.numbers xs with
      | [] => if xs.isEmpty then f.encode (.inf max) else f.canonNan
      | x :: rest => rest.foldl (minMaxBits f max) x), f.sigFlag xs) := rfl

/-- Where every operand is a NaN the minimum and maximum are the canonical NaN. -/
theorem foldMinMax_nans {f : Fmt} {max : Bool} {xs : List Nat} (hne : xs ≠ []) (h : ∀ x ∈ xs, (f.decode x).isNan = true) :
    foldMinMax f max xs = (f.canonNan, f.sigFlag xs) := by
  have hnil : f.numbers xs = [] := List.filter_eq_nil_iff.2 fun x hx => by simp [h x hx]
  rw [foldMinMax_eq, hnil]
  simp [hne]

/-- Where a number stands among the operands the minimum and maximum are numbers among them, and first in their order. -/
theorem foldMinMax_first {f : Fmt} {max : Bool} {xs : List Nat} (h : ∃ x ∈ xs, (f.decode x).isNan = false) :
    (foldMinMax f max xs).1 ∈ f.numbers xs ∧ ∀ y ∈ f.numbers xs, f.before max (foldMinMax f max xs).1 y := by
  rw [foldMinMax_eq]
  cases hn : f.numbers xs with
  | nil =>
    obtain ⟨x, hx⟩ := h
    exact absurd (Fmt.mem_numbers.2 hx) (by simp [hn])
  | cons x rest =>
    refine foldl_pick (P := fun a => (f.decode a).isNan = false) (f.before_refl max) (f.before_trans max)
      (fun a b => minMaxBits_pick) x rest fun y hy => ?_
    exact (Fmt.mem_numbers.1 (hn ▸ hy)).2

/-! ### Ordered sums -/

/-- One operand alone: a NaN becomes the canonical one (log 44). -/
theorem foldSeq_singleton (f : Fmt) (tg : Nat → Nat → Target) (x : Nat) : foldSeq f tg [x] =
    (if (f.decode x).isNan = true then f.canonNan else x, if (f.decode x).isSig = true then 16 else 0) := by
  cases h : f.decode x with
  | nan sig => cases sig <;> simp [foldSeq, h, FV.isNan, FV.isSig, flagNV]
  | inf | fin => simp [foldSeq, h, FV.isNan, FV.isSig]

/-- One step of an ordered sum, `sig` being the flag of its first operand. -/
def seqStep (f : Fmt) (tg : Nat → Nat → Target) (sig : Nat) (a : Nat × Nat) (y : Nat) : Nat × Nat :=
  let r := roundSum (tg a.1 y) [f.decode a.1, f.decode y]
  (f.encode r.v, a.2 ||| r.flags ||| sig)

/-- An ordered sum of at least two operands starts with no flag: each step sets that of the first operand. -/
theorem foldSeq_cons₂ (f : Fmt) (tg : Nat → Nat → Target) (x y : Nat) (ys : List Nat) : foldSeq f tg (x :: y :: ys) =
    (y :: ys).foldl (seqStep f tg (if (f.decode x).isSig = true then 16 else 0)) (if (f.decode x).isNan = true then f.canonNan else x, 0) := by
  refine congrArg ((y :: ys).foldl (seqStep f tg (if (f.decode x).isSig = true then 16 else 0))) (?_ :
    (if (f.decode x).isNan = true then (f.canonNan, if ((f.decode x).isSig && (y :: ys).isEmpty) = true then flagNV else 0) else (x, 0)) = _)
  rw [List.isEmpty_cons, Bool.and_false]
  split <;> rfl

/-- A step whose flag is set already sets none of its own. -/
theorem seqStep_of_flag {f : Fmt} {tg : Nat → Nat → Target} {sig : Nat} {a : Nat × Nat} (h : a.2 ||| sig = a.2) (y : Nat) :
    seqStep f tg sig a y = seqStep f tg 0 a y := by
  unfold seqStep
  dsimp only
  rw [Nat.lor_assoc, Nat.lor_comm _ sig, ← Nat.lor_assoc, h, Nat.or_zero]

/-- Every step leaves the flag of the first operand set. -/
theorem foldl_seqStep_flag {f : Fmt} {tg : Nat → Nat → Target} {sig : Nat} (a : Nat × Nat) {ys : List Nat} (h : ys ≠ []) :
    (ys.foldl (seqStep f tg sig) a).2 ||| sig = (ys.foldl (seqStep f tg sig) a).2 := by
  obtain ⟨zs, z, rfl⟩ := List.eq_nil_or_concat ys |>.resolve_left h
  simp [seqStep, Nat.lor_assoc]

/-- An ordered sum rounds at each step. -/
theorem foldSeq_concat (f : Fmt) (tg : Nat → Nat → Target) {xs : List Nat} (hne : xs ≠ []) (y : Nat) :
    foldSeq f tg (xs ++ [y]) = seqStep f tg 0 (foldSeq f tg xs) y := by
  match xs, hne with
  | [x], _ =>
    rw [foldSeq_singleton, List.singleton_append, foldSeq_cons₂]
    simp [seqStep, Nat.lor_comm]
  | x :: z :: zs, _ =>
    rw [List.cons_append, List.cons_append, foldSeq_cons₂, foldSeq_cons₂, ← List.cons_append, List.foldl_append]
    exact seqStep_of_flag (foldl_seqStep_flag _ (List.cons_ne_nil z zs)) y

end Sys2Proof.Machine
end

section
/-! SUPPORT. gred and gscan (O11). -/

namespace Sys2Proof.Machine

/-! ### What a fold gives -/

/-- The target of a floating-point fold that draws with the words given (R229, R255). -/
def foldTarget (f : Fmt) (k127 : Word) (g p : Nat) (mode : RMode) (ws : List Nat) : Target :=
  { f.target mode (if mode = .sst then draw k127 g ws else 0) with p := p }

theorem foldFlt_eq (m : Fold) (f : Fmt) (n : Nat) (k127 : Word) (g p : Nat) (mode : RMode) (xs : List Nat) :
    foldFlt m f n k127 g p mode xs = match m with
      | .min => foldMinMax f false xs
      | .max => foldMinMax f true xs
      | .seq => foldSeq f (fun a b => foldTarget f k127 g p mode (wordsOf f.width n a ++ wordsOf f.width n b)) xs
      | _ => if xs.isEmpty then (0, 0)
        else let r := roundSum (foldTarget f k127 g p mode (xs.flatMap (wordsOf f.width n))) (xs.map f.decode); (f.encode r.v, r.flags) := by
  cases m <;> simp [foldFlt, foldTarget]

theorem isInf_isNan_of_fin {v : FV} (h : ∃ i m e, v = .fin i m e) : v.isNan = false ∧ v.isInf = false := by
  obtain ⟨i, m, e, rfl⟩ := h
  exact ⟨rfl, rfl⟩

/-- A sum of encodings whose data are finite is rounded once. -/
theorem foldFlt_add {f : Fmt} {n : Nat} {k127 : Word} {g p : Nat} {mode : RMode} {xs : List Nat} (hp : 2 ≤ p) (he : f.e4m3 = true → p = 4)
    (hfin : ∀ x ∈ xs, ∃ i m e, f.decode x = .fin i m e) (hsum : (xs.map fun x => (f.decode x).rat).sum ≠ 0) :
    ∃ a, RoundsTo (foldTarget f k127 g p mode (xs.flatMap (wordsOf f.width n))) (decide ((xs.map fun x => (f.decode x).rat).sum < 0))
      |(xs.map fun x => (f.decode x).rat).sum| a ∧ foldFlt .add f n k127 g p mode xs = (f.encode a.v, a.flags) := by
  have hmap : (xs.map fun x => (f.decode x).rat) = (xs.map f.decode).map FV.rat := by rw [List.map_map]; rfl
  have hne : xs.isEmpty = false := by cases xs <;> simp_all
  rw [hmap] at hsum ⊢
  refine ⟨_, roundSum_roundsTo hp he ?_ hsum, ?_⟩
  · intro v hv
    obtain ⟨x, hx, rfl⟩ := List.mem_map.1 hv
    exact isInf_isNan_of_fin (hfin x hx)
  · rw [foldFlt_eq, hne]
    rfl

/-- A NaN among the encodings of a sum without an infinity gives the canonical one. -/
theorem foldFlt_add_nan {f : Fmt} {n : Nat} {k127 : Word} {g p : Nat} {mode : RMode} {xs : List Nat}
    (hnan : (xs.any fun x => (f.decode x).isNan) = true) (hinf : ∀ x ∈ xs, (f.decode x).isInf = false) :
    foldFlt .add f n k127 g p mode xs = (f.canonNan, f.sigFlag xs) := by
  have hne : xs.isEmpty = false := by cases xs <;> simp_all
  have hround : ∀ t, roundSum t (xs.map f.decode) = quietNan (xs.any fun x => (f.decode x).isSig) := by
    intro t
    rw [roundSum_nan t (by rwa [List.any_map]) (by simpa using hinf), List.any_map]
    rfl
  rw [foldFlt_eq, hne]
  simp only [hround]
  rfl

/-- The minimum and maximum where a number stands among the operands: a number among them, below or above which none lies. -/
theorem foldMinMax_number {f : Fmt} {max : Bool} {xs : List Nat} (h : ∃ x ∈ xs, (f.decode x).isNan = false) :
    (foldMinMax f max xs).1 ∈ xs ∧ (f.decode (foldMinMax f max xs).1).isNan = false :=
  Fmt.mem_numbers.1 (foldMinMax_first h).1

theorem foldMinMax_least {f : Fmt} {xs : List Nat} {y : Nat} (hy : y ∈ xs) (hnum : (f.decode y).isNan = false) :
    ltFV (f.decode y) (f.decode (foldMinMax f false xs).1) = false := by
  have hex : ∃ x ∈ xs, (f.decode x).isNan = false := ⟨y, hy, hnum⟩
  have hle : (f.decode (foldMinMax f false xs).1).key ≤ (f.decode y).key := (foldMinMax_first (max := false) hex).2 y (Fmt.mem_numbers.2 ⟨hy, hnum⟩)
  exact Bool.eq_false_iff.2 ((ltFV_iff hnum (foldMinMax_number hex).2).not.2 hle.not_gt)

theorem foldMinMax_greatest {f : Fmt} {xs : List Nat} {y : Nat} (hy : y ∈ xs) (hnum : (f.decode y).isNan = false) :
    ltFV (f.decode (foldMinMax f true xs).1) (f.decode y) = false := by
  have hex : ∃ x ∈ xs, (f.decode x).isNan = false := ⟨y, hy, hnum⟩
  have hle : (f.decode y).key ≤ (f.decode (foldMinMax f true xs).1).key := (foldMinMax_first (max := true) hex).2 y (Fmt.mem_numbers.2 ⟨hy, hnum⟩)
  exact Bool.eq_false_iff.2 ((ltFV_iff (foldMinMax_number hex).2 hnum).not.2 hle.not_gt)

/-! ### A lane of gred and gscan -/

/-- Whether a fold rounds, so that it takes its leader's precision. -/
abbrev Fold.rounds (m : Fold) (w : CastWord) : Prop := isV w.ty = true ∧ m ≠ .min ∧ m ≠ .max

theorem Fold.rounds_iff (m : Fold) (w : CastWord) : (isV w.ty && !(m == .min || m == .max)) = true ↔ m.rounds w := by
  simp [Fold.rounds]

/-- The effective precision of a fold that rounds and of one that does not, and whether it is exhausted (R231, R255). -/
theorem effPrec_of_rounds (b : Bool) (pr : Word) (c : Nat) :
    (if b = true then effPrec pr c else (c, false)) =
      (if b = true ∧ prP pr ≠ 0 ∧ prP pr ≤ c then prP pr else c, decide (b = true ∧ c < prP pr)) := by
  cases b
  · exact effPrec_eq 0 pr c
  · exact effPrec_eq 0xC pr c

theorem Thread.setCells_pr (t : Thread) (i n x : Nat) : (t.setCells i n x).pr = t.pr := by
  induction n generalizing t i x with
  | zero => rfl
  | succ n ih => rw [Thread.setCells, ih]

theorem Thread.setCells_fpflags (t : Thread) (i n x : Nat) : (t.setCells i n x).fpflags = t.fpflags := by
  induction n generalizing t i x with
  | zero => rfl
  | succ n ih => rw [Thread.setCells, ih]

/-- The precision that a fold takes from its leader. -/
def Fold.prec (m : Fold) (w : CastWord) (f : Fmt) (lead : Thread) : Nat :=
  if m.rounds w ∧ prP lead.pr ≠ 0 ∧ prP lead.pr ≤ f.prec then prP lead.pr else f.prec

/-- What a floating-point fold leaves in a lane, `r` being its bits and flags. -/
def Thread.folded (t : Thread) (m : Fold) (w : CastWord) (lead : Thread) (r : Nat × Nat) : Thread :=
  { t.setCells w.d.toNat (cellsOf w.lc) r.1 with
    fpflags := t.fpflags ||| BitVec.ofNat 32 r.2
    pr := if m.rounds w ∧ (fmtOf w.ty w.lc).prec < prP lead.pr then t.pr ||| 0x10000 ||| (if r.2 % 2 = 1 then 0x20000 else 0) else t.pr }

/-- The model's writes of a floating-point fold are those of `Thread.folded`. -/
theorem exhausted_folded (t : Thread) (m : Fold) (w : CastWord) (lead : Thread) (r : Nat × Nat) {exh : Bool}
    (h : exh = true ↔ m.rounds w ∧ (fmtOf w.ty w.lc).prec < prP lead.pr) :
    ((t.setCells w.d.toNat (cellsOf w.lc) r.1).flags r.2).exhausted exh (r.2 % 2 == 1) = t.folded m w lead r := by
  unfold Thread.folded
  cases exh with
  | false =>
    rw [if_neg (fun hr => Bool.false_ne_true (h.2 hr))]
    simp only [Thread.exhausted, Thread.flags, Bool.false_eq_true, if_false, Thread.setCells_fpflags]
    rw [← Thread.setCells_pr t w.d.toNat (cellsOf w.lc) r.1]
  | true =>
    rw [if_pos (h.1 rfl)]
    simp only [Thread.exhausted, Thread.flags, if_true, Thread.setCells_fpflags, Thread.setCells_pr, beq_iff_eq, BitVec.or_assoc]
    rfl

section
variable {i : Instr} {m : Fold} {w : CastWord} {v : View} {seg set : List Nat}

/-- The A value of a lane. -/
def View.foldVal (v : View) (i : Instr) (w : CastWord) (l : Nat) : Nat := srcA i v.g w (v.g.thread l) (cellsOf w.lc)

/-- Lanes without a cell in error do not stop a fold. -/
theorem no_readsBad (h : ∀ l ∈ set, (v.g.thread l).badCells = []) : (set.any fun l => (v.g.thread l).readsBad i) = false :=
  List.any_eq_false.2 fun l hl => by simp [Thread.readsBad, h l hl]

theorem foldLane_int (hbad : ∀ l ∈ set, (v.g.thread l).badCells = []) (hint : w.ty.toNat < 8 ∨ isB w.ty = true) (t : Thread) :
    foldLane i m w v seg set t =
      .ok (t.setInt w (foldInt m w.ty (widthOf w.ty w.lc) (set.map fun j => v.foldVal i w j % 2 ^ widthOf w.ty w.lc))) := by
  unfold foldLane
  dsimp only
  rw [no_readsBad hbad, if_neg Bool.false_ne_true, if_pos hint]
  rfl

theorem foldLane_flt (hbad : ∀ l ∈ set, (v.g.thread l).badCells = []) (hflt : ¬ (w.ty.toNat < 8 ∨ isB w.ty = true))
    (hexh : m.rounds w ∧ (fmtOf w.ty w.lc).prec < prP (v.g.thread (seg.headD 0)).pr → prXa (v.g.thread (seg.headD 0)).pr = true) (t : Thread) :
    foldLane i m w v seg set t = .ok (t.folded m w (v.g.thread (seg.headD 0))
      (foldFlt m (fmtOf w.ty w.lc) (cellsOf w.lc) (v.g.kreg 127) (v.g.thread (seg.headD 0)).g (m.prec w (fmtOf w.ty w.lc) (v.g.thread (seg.headD 0)))
        (rmodeOf (prRm (v.g.thread (seg.headD 0)).pr)) (set.map fun j => fltBits (fmtOf w.ty w.lc) (v.foldVal i w j)))) := by
  unfold foldLane
  dsimp only
  rw [no_readsBad hbad, if_neg Bool.false_ne_true, if_neg hflt, effPrec_of_rounds]
  simp only [Fold.rounds_iff]
  rw [if_neg, exhausted_folded t m w (v.g.thread (seg.headD 0)) _ decide_eq_true_iff]
  · rfl
  · rintro h
    simp only [Bool.and_eq_true, decide_eq_true_eq, Bool.not_eq_true'] at h
    exact Bool.false_ne_true (h.2.symm.trans (hexh h.1))
end

/-- Settles O11: integer folds through the values of their operands; floating-point ones through the exact sum and the order of the
data; a lane through the leader of its segment. -/
theorem reductionWords : Obligations.ReductionWords := by
  unfold Obligations.ReductionWords
  refine ⟨fun m ty n xs ys h => foldInt_perm m ty n h, ?_, ?_, ?_⟩
  · intro ty n xs vals
    have hbounds : 0 < n → ∀ x ∈ vals, minOf ty n ≤ x ∧ x ≤ maxOf ty n := by
      intro hn x hx
      obtain ⟨a, -, rfl⟩ := List.mem_map.1 hx
      exact valOf_bounds ty hn a
    refine ⟨foldInt_add ty n xs, fun hn x hx hle => ?_, fun hn x hx hle => ?_, rfl, rfl, fun i => ?_, fun i => ?_, fun i => ?_⟩
    · rw [foldInt_min, foldl_min_eq hx hle (hbounds hn x hx).2]
    · rw [foldInt_max, foldl_max_eq hx hle (hbounds hn x hx).1]
    · refine (testBit_foldl_and xs _ i).trans ?_
      rw [Nat.testBit_two_pow_sub_one, Bool.eq_iff_iff]
      simp
    · refine (testBit_foldl_or xs 0 i).trans ?_
      rw [Bool.eq_iff_iff]
      simp
    · refine (testBit_foldl_xor xs 0 i).trans ?_
      simp
  · intro f n k127 g p mode xs to_ r nan nv sum
    refine ⟨fun hp he hfin hsum => foldFlt_add hp he hfin hsum, fun hnan hinf => foldFlt_add_nan hnan hinf, ?_, rfl, rfl, ?_, ?_, ?_, ?_, ?_⟩
    · intro m hm
      fin_cases hm <;> rfl
    · intro hne hall m hm
      fin_cases hm
      · exact foldMinMax_nans hne hall
      · exact foldMinMax_nans hne hall
    · intro hex m hm
      fin_cases hm
      · exact ⟨(foldMinMax_number hex).1, (foldMinMax_number hex).2, rfl⟩
      · exact ⟨(foldMinMax_number hex).1, (foldMinMax_number hex).2, rfl⟩
    · exact fun y hy hnum => ⟨foldMinMax_least hy hnum, foldMinMax_greatest hy hnum⟩
    · intro x
      simp only [r, foldFlt_eq]
      exact foldSeq_singleton f _ x
    · intro y hne
      simp only [r, foldFlt_eq]
      refine (foldSeq_concat f _ hne y).trans ?_
      simp only [seqStep, Nat.or_zero]
      rfl
  · intro s v w f n seg pre lead rounds exh prec hbad goes
    have hseg : ∀ l, ∀ j ∈ seg l, (v.g.thread j).badCells = [] := fun l j hj => hbad j (List.mem_filter.1 hj).1
    have hpre : ∀ l, ∀ j ∈ pre l, (v.g.thread j).badCells = [] := fun l j hj => hseg l j (List.mem_filter.1 hj).1
    have hgoes : ∀ (i : Instr) (m : Fold) (set : View → Nat → List Nat), (∀ l, ∀ j ∈ set v l, (v.g.thread j).badCells = []) →
        (exec i = fun s => onFrag s fun u => u.lane i w fun l t => foldLane i m w u (segOf (u.active w) (segSize u.g w) l) (set u l) t) →
        goes i m (set v) := by
      intro i m set hset hexec
      refine ⟨fun hint h => ?_, fun hflt hexh h => ?_⟩
      · rw [hexec]
        exact onFrag_lane_done h fun l _ => foldLane_int (hset l) hint _
      · rw [hexec]
        refine onFrag_lane_done h fun l hl => (foldLane_flt (hset l) hflt (hexh l hl) _).trans ?_
        rfl
    exact ⟨fun m => hgoes _ _ (fun u l => segOf (u.active w) (segSize u.g w) l) hseg rfl, fun m => hgoes _ _ (fun u l => (segOf (u.active w) (segSize u.g w) l).filter
      fun j => if w.modBit 1 then decide (j < l) else decide (j ≤ l)) hpre rfl⟩

end Sys2Proof.Machine
end

section
/-! SUPPORT. Memory operations leave groups, launches and translations as they are (R174-R183). -/

namespace Sys2Proof.Machine

/-! ### States that differ in memory and caches -/

/-- Every core differs at most in its L1, its write signature and its epoch, and the launches and flasks stay. -/
structure SameRun (s t : State) : Prop where
  core : ∀ k, t.core k = { s.core k with l1 := (t.core k).l1, sig := (t.core k).sig, epoch := (t.core k).epoch }
  sorted : tsorted s.cores = true → tsorted t.cores = true
  launches : t.launches = s.launches
  flasks : t.flasks = s.flasks

theorem SameRun.refl (s : State) : SameRun s s := ⟨fun _ => rfl, id, rfl, rfl⟩

theorem SameRun.trans {s t u : State} (h : SameRun s t) (k : SameRun t u) : SameRun s u :=
  ⟨fun c => by rw [k.core, h.core], fun hs => k.sorted (h.sorted hs), k.launches.trans h.launches, k.flasks.trans h.flasks⟩

theorem SameRun.of_eq {s t : State} (hc : t.cores = s.cores) (hl : t.launches = s.launches) (hf : t.flasks = s.flasks) : SameRun s t :=
  ⟨fun k => by simp [State.core, hc], fun h => hc ▸ h, hl, hf⟩

theorem SameRun.setCore (s : State) (c : Nat) (l1 : Table L1Sector) (sig : BitVec 1024) (epoch : Nat) :
    SameRun s (s.setCore c { s.core c with l1 := l1, sig := sig, epoch := epoch }) := by
  refine ⟨fun k => ?_, tsorted_tput _ _, rfl, rfl⟩
  by_cases hk : k = c
  · subst hk; simp
  · simp [hk]

theorem SameRun.foldl {α : Type} {s t : State} (h : SameRun s t) {f : State → α → State} (l : List α) (hf : ∀ s a, SameRun s (f s a)) :
    SameRun s (l.foldl f t) :=
  List.foldlRecOn (motive := fun u => SameRun s u) l f h fun _ hb a _ => hb.trans (hf _ a)

section
variable {s t : State} (h : SameRun s t)
include h

theorem SameRun.groups (c : Nat) : (t.core c).groups = (s.core c).groups := by rw [h.core]
theorem SameRun.group? (c sl : Nat) : t.group? c sl = s.group? c sl := by rw [State.group?, State.group?, h.groups]
theorem SameRun.launch? (i : Nat) : t.launch? i = s.launch? i := by rw [State.launch?, State.launch?, h.launches]
theorem SameRun.block? (i b : Nat) : t.block? i b = s.block? i b := by rw [State.block?, State.block?, h.launch?]

theorem SameRun.translate (c ctx : Nat) (fatal : List Nat) (need : Need) (va : Nat) :
    t.translate c ctx fatal need va = s.translate c ctx fatal need va := by
  have hu : (t.core c).utlb = (s.core c).utlb := by rw [h.core]
  rw [State.translate, State.translate, State.flask, State.flask, hu, h.flasks]

end

/-! ### The operations -/

theorem State.rawWrite_sameRun (s : State) (pa n v : Nat) : SameRun s (s.rawWrite pa n v) := by
  rcases s.rawWrite_eq pa n v with e | e <;> rw [e]
  · exact .refl s
  · exact .of_eq rfl rfl rfl

theorem State.mark_sameRun (s : State) (sec : Nat) : SameRun s (s.mark sec) := by
  unfold State.mark
  split
  · exact .refl s
  · exact .of_eq rfl rfl rfl

theorem State.cacheTouch_sameRun (s : State) (pa n : Nat) (wr : Bool) (ev : Nat) : SameRun s (s.cacheTouch pa n wr ev) := .of_eq rfl rfl rfl

theorem writeBytes_sameRun (s : State) (base : Nat) (x : L1Sector) : SameRun s (writeBytes s base x) :=
  writeBytes_keeps (.refl s) (fun _ _ _ _ _ h => h.trans (State.rawWrite_sameRun _ _ _ _)) fun _ _ h => h.trans (State.mark_sameRun _ _)

theorem State.l1WriteBack_sameRun (s : State) (c sec : Nat) : SameRun s (s.l1WriteBack c sec) := by
  unfold State.l1WriteBack
  split
  · exact .refl s
  · refine SameRun.trans ?_ (SameRun.setCore _ c _ _ _)
    split
    · exact .refl s
    · exact (writeBytes_sameRun _ _ _).trans (.of_eq rfl rfl rfl)

theorem State.l1WriteBackAll_sameRun (s : State) (c : Nat) : SameRun s (s.l1WriteBackAll c) :=
  (SameRun.refl s).foldl _ fun t sec => t.l1WriteBack_sameRun c sec

theorem State.l1Drop_sameRun (s : State) (c sec : Nat) : SameRun s (s.l1Drop c sec) := .setCore s c _ _ _

theorem State.l1Flush_sameRun (s : State) (c pa n : Nat) : SameRun s (s.l1Flush c pa n) := by
  unfold State.l1Flush
  refine SameRun.foldl ?_ _ fun t sec => t.l1Drop_sameRun c sec
  split
  · exact s.l1WriteBackAll_sameRun c
  · exact .refl s

theorem State.l1Evict_sameRun (s : State) (c sec : Nat) : SameRun s (s.l1Evict c sec) := by
  unfold State.l1Evict
  dsimp only
  split
  · exact .refl s
  · split
    · exact .refl s
    · refine SameRun.foldl ?_ _ fun t e => t.l1Drop_sameRun c e.1
      split
      · exact s.l1WriteBackAll_sameRun c
      · exact .refl s

theorem State.l1Touch_sameRun (s : State) (c sec : Nat) : SameRun s (s.l1Touch c sec) :=
  SameRun.trans (t := { s with hearth := { s.hearth with touches := s.hearth.touches + 1 } }) (.of_eq rfl rfl rfl) (.setCore _ c _ _ _)

theorem State.l1Store_sameRun (s : State) (c sec lo n v : Nat) : SameRun s (s.l1Store c sec lo n v) := by
  unfold State.l1Store
  dsimp only
  refine SameRun.trans (SameRun.trans ?_ (SameRun.setCore _ c _ _ _)) (State.l1Touch_sameRun _ _ _)
  split
  · exact .refl s
  · exact s.l1Evict_sameRun c sec

theorem State.l1Clean_sameRun (s : State) (c sec : Nat) : SameRun s (s.l1Clean c sec) := by
  unfold State.l1Clean
  split
  · exact .refl s
  · split
    · exact s.l1Drop_sameRun c sec
    · exact .setCore s c _ _ _

theorem State.homeWrite_sameRun {s t : State} {pa n v : Nat} {k : WKind} {ev : Nat} (h : s.homeWrite pa n v k ev = some t) : SameRun s t := by
  unfold State.homeWrite at h
  split at h
  · dsimp only at h
    split at h
    · obtain rfl := Option.some.inj h
      exact ((s.rawWrite_sameRun _ _ _).trans (State.rawWrite_sameRun _ _ _ _)).trans (State.cacheTouch_sameRun _ _ _ _ _)
    · cases h
  · split at h
    · split at h
      · obtain rfl := Option.some.inj h
        exact .of_eq rfl rfl rfl
      · obtain rfl := Option.some.inj h
        exact s.rawWrite_sameRun _ _ _
    · obtain rfl := Option.some.inj h
      exact (s.rawWrite_sameRun _ _ _).trans (State.cacheTouch_sameRun _ _ _ _ _)
    · obtain rfl := Option.some.inj h
      exact .refl s

theorem State.coreWrite_sameRun {s t : State} {c pa n v : Nat} {k : WKind} (h : s.coreWrite c pa n v k = some t) : SameRun s t := by
  unfold State.coreWrite at h
  split at h
  · split at h
    · obtain rfl := Option.some.inj h
      exact .refl s
    · obtain rfl := Option.some.inj h
      exact (SameRun.refl s).foldl _ fun t sec => t.l1Store_sameRun c sec _ _ _
  · exact ((s.l1WriteBackAll_sameRun c).trans (State.l1Flush_sameRun _ _ _ _)).trans (State.homeWrite_sameRun h)

/-! ### Releases and acquires -/

theorem State.applyRed_sameRun (s : State) (r : RedReq) (x : DWord) (srcs : List RedSrc) : SameRun s (s.applyRed r x srcs) := by
  unfold State.applyRed
  split
  · split
    · rename_i h
      exact (State.homeWrite_sameRun h).trans (.of_eq rfl rfl rfl)
    · exact .of_eq rfl rfl rfl
  · exact .of_eq rfl rfl rfl
  · exact .refl s

theorem State.performRed_sameRun (s : State) (r : RedReq) : SameRun s (s.performRed r) := by
  have hclean := (SameRun.refl s).foldl (f := fun s c => (sectorsOf r.pa r.n).foldl (fun s sec => s.l1Clean c sec) s) (r.srcs.map (·.core))
    fun t c => (SameRun.refl t).foldl _ fun u sec => u.l1Clean_sameRun c sec
  unfold State.performRed
  dsimp only
  split
  · exact hclean.foldl _ fun t x => t.applyRed_sameRun r _ _
  · exact hclean.trans (State.applyRed_sameRun _ _ _ _)

theorem State.settleReds_sameRun (s : State) : SameRun s s.settleReds := by
  unfold State.settleReds
  split
  · exact .refl s
  · refine SameRun.trans (t := { s with hearth := { s.hearth with requests := [], routers := [] } }) (.of_eq rfl rfl rfl) ?_
    exact (SameRun.refl _).foldl _ State.performRed_sameRun

theorem State.release_sameRun (s : State) (c : Nat) : SameRun s (s.release c).1 := by
  unfold State.release
  dsimp only
  have hlog : ∀ (t : State) (h : Hearth) (g : BitVec 1024), SameRun t ({ t with hearth := h }.setCore c { t.core c with sig := g }) :=
    fun t h g => SameRun.trans (t := { t with hearth := h }) (.of_eq rfl rfl rfl) (.setCore _ c _ _ _)
  exact (s.l1WriteBackAll_sameRun c).trans (hlog _ _ _)

theorem State.releaseIf_sameRun (s : State) (c : Nat) (wide : Bool) : SameRun s (s.releaseIf c wide) := by
  cases wide with
  | true => exact s.settleReds_sameRun.trans (State.release_sameRun _ c)
  | false => exact s.settleReds_sameRun

theorem State.acquireIf_sameRun (s : State) (c : Nat) (wide : Bool) : SameRun s (s.acquireIf c wide) := by
  cases wide with
  | true => exact .setCore s c _ _ _
  | false => exact .refl s

end Sys2Proof.Machine
end

section
/-! SUPPORT. Masks of lanes and the parts of a transfer (R85, R119). -/

namespace Sys2Proof.Machine

/-! ### Masks of lanes -/

theorem getLsbD_one_shiftLeft {l i : Nat} (hi : i < 128) : (1#128 <<< l).getLsbD i = decide (i = l) := by
  simp only [BitVec.getLsbD_shiftLeft, BitVec.getLsbD_one, hi, decide_true, Bool.true_and]
  rw [Bool.eq_iff_iff]
  simp
  omega

theorem foldl_mask_getLsbD (ls : List Nat) (m : Mask) {i : Nat} (hi : i < 128) :
    (ls.foldl (fun m l => m ||| (1#128 <<< l)) m).getLsbD i = (m.getLsbD i || decide (i ∈ ls)) := by
  induction ls generalizing m with
  | nil => simp
  | cons l ls ih =>
    rw [List.foldl_cons, ih, BitVec.getLsbD_or, getLsbD_one_shiftLeft hi, Bool.or_assoc]
    simp [← Bool.decide_or]

/-- The mask of some lanes holds those lanes. -/
theorem maskOf_getLsbD (ls : List Nat) (i : Nat) : (maskOf ls).getLsbD i = decide (i < 128 ∧ i ∈ ls) := by
  by_cases hi : i < 128
  · rw [maskOf, foldl_mask_getLsbD ls 0 hi]
    simp [hi]
  · rw [BitVec.getLsbD_of_ge (maskOf ls) i (by omega)]
    simp [hi]

@[simp] theorem maskOf_nil : maskOf [] = 0 := rfl

/-- A lane of a mask is below 128. -/
theorem lt_of_mask {m : Mask} {l : Nat} (h : m.getLsbD l = true) : l < 128 := BitVec.lt_of_getLsbD h

theorem Group.mask_of_mem_lanes {g : Group} {m : Mask} {l : Nat} (h : l ∈ g.lanes m) : m.getLsbD l = true := by
  obtain ⟨e, he, rfl⟩ := List.mem_map.1 h
  have := (List.mem_filter.1 he).2
  simp only [Bool.and_eq_true] at this
  exact this.2

/-- An active lane is a lane of the fragment. -/
theorem View.active_subset {v : View} {w : CastWord} {l : Nat} (h : l ∈ v.active w) : l ∈ v.lanes := by
  obtain ⟨e, he, rfl⟩ := List.mem_map.1 h
  obtain ⟨hmem, hcond⟩ := List.mem_filter.1 he
  simp only [Bool.and_eq_true] at hcond
  exact List.mem_map.2 ⟨e, List.mem_filter.2 ⟨hmem, by simp [hcond.1]⟩, rfl⟩

/-- The lowest lane of a mask that holds one. -/
theorem lowLane_spec {m : Mask} {l : Nat} (h : m.getLsbD l = true) : lowLane m < 128 ∧ m.getLsbD (lowLane m) = true := by
  unfold lowLane
  cases hf : (List.range 128).find? fun i => m.getLsbD i with
  | none => exact absurd h (by simpa using List.find?_eq_none.1 hf l (List.mem_range.2 (lt_of_mask h)))
  | some i => exact ⟨List.mem_range.1 (List.mem_of_find?_eq_some hf), by simpa using List.find?_some hf⟩

/-! ### Parts by target -/

/-- One more lane with its target. -/
def addPart (ps : List (Mask × DWord)) (e : Nat × DWord) : List (Mask × DWord) :=
  if ps.any fun p => p.2 = e.2 then ps.map fun p => if p.2 = e.2 then (p.1 ||| (1#128 <<< e.1), p.2) else p
  else ps ++ [(1#128 <<< e.1, e.2)]

theorem partsOf_eq (ts : List (Nat × DWord)) : partsOf ts = ts.foldl addPart [] := rfl

/-- Parts with one entry per target, whose masks hold the lanes that take it. -/
structure PartsFor (ps : List (Mask × DWord)) (ts : List (Nat × DWord)) : Prop where
  lanes : ∀ p ∈ ps, ∀ l < 128, p.1.getLsbD l = true ↔ (l, p.2) ∈ ts
  nodup : (ps.map (·.2)).Nodup
  targets : ∀ t, t ∈ ps.map (·.2) ↔ t ∈ ts.map (·.2)

theorem PartsFor.add {ps : List (Mask × DWord)} {ts : List (Nat × DWord)} (h : PartsFor ps ts) (e : Nat × DWord) :
    PartsFor (addPart ps e) (ts ++ [e]) := by
  obtain ⟨lane, target⟩ := e
  unfold addPart
  dsimp only
  split
  case isTrue hany =>
    obtain ⟨p, hp, hpt⟩ := List.any_eq_true.1 hany
    have hin : target ∈ ts.map (·.2) := (h.targets target).1 (List.mem_map.2 ⟨p, hp, of_decide_eq_true hpt⟩)
    have hsnd : (ps.map fun p => if p.2 = target then (p.1 ||| (1#128 <<< lane), p.2) else p).map (·.2) = ps.map (·.2) := by
      rw [List.map_map]
      exact List.map_congr_left fun q _ => by dsimp only [Function.comp]; split <;> rfl
    refine ⟨fun q hq l hl => ?_, hsnd ▸ h.nodup, fun t => ?_⟩
    · obtain ⟨r, hr, rfl⟩ := List.mem_map.1 hq
      have hlane := h.lanes r hr l hl
      by_cases hrt : r.2 = target
      · rw [hrt] at hlane
        simp [hrt, getLsbD_one_shiftLeft hl, hlane]
      · simp [hrt, hlane]
    · rw [hsnd, h.targets t]
      simp only [List.map_append, List.mem_append, List.map_cons, List.map_nil, List.mem_singleton]
      exact ⟨.inl, fun ht => ht.elim id fun ht => ht ▸ hin⟩
  case isFalse hany =>
    have hnew : target ∉ ps.map (·.2) := by
      rintro hmem
      obtain ⟨p, hp, hpt⟩ := List.mem_map.1 hmem
      exact hany (List.any_eq_true.2 ⟨p, hp, decide_eq_true hpt⟩)
    refine ⟨fun q hq l hl => ?_, ?_, fun t => by simp [h.targets]⟩
    · rcases List.mem_append.1 hq with hq | hq
      · have hqt : q.2 ≠ target := fun heq => hnew (List.mem_map.2 ⟨q, hq, heq⟩)
        simp [h.lanes q hq l hl, hqt]
      · obtain rfl := List.mem_singleton.1 hq
        have hts : (l, target) ∉ ts := fun hmem => hnew ((h.targets target).2 (List.mem_map.2 ⟨_, hmem, rfl⟩))
        simp [getLsbD_one_shiftLeft hl, hts]
    · rw [List.map_append, List.nodup_append]
      exact ⟨h.nodup, by simp, fun a ha b hb heq => hnew (by simpa [heq.trans (List.mem_singleton.1 hb)] using ha)⟩

theorem PartsFor.addAll {ps : List (Mask × DWord)} {us : List (Nat × DWord)} (h : PartsFor ps us) (ts : List (Nat × DWord)) :
    PartsFor (ts.foldl addPart ps) (us ++ ts) := by
  induction ts generalizing ps us with
  | nil => simpa using h
  | cons t ts ih => simpa using ih (h.add t)

/-- The parts of lanes with their targets. -/
theorem partsOf_partsFor (ts : List (Nat × DWord)) : PartsFor (partsOf ts) ts :=
  PartsFor.addAll (ps := []) (us := []) ⟨by simp, by simp, by simp⟩ ts

/-- Lanes that all take one target are one part. -/
theorem partsOf_const {ts : List (Nat × DWord)} (hne : ts ≠ []) {t : DWord} (h : ∀ e ∈ ts, e.2 = t) : ∃ m, partsOf ts = [(m, t)] := by
  obtain ⟨-, hnodup, htargets⟩ := partsOf_partsFor ts
  have hall : ∀ x ∈ (partsOf ts).map (·.2), x = t := by
    intro x hx
    obtain ⟨e, he, rfl⟩ := List.mem_map.1 ((htargets x).1 hx)
    exact h e he
  have hsome : (partsOf ts).map (·.2) ≠ [] := by
    obtain ⟨e, he⟩ := List.exists_mem_of_ne_nil ts hne
    exact List.ne_nil_of_mem ((htargets e.2).2 (List.mem_map.2 ⟨e, he, rfl⟩))
  match hps : partsOf ts with
  | [] => exact absurd (by simp [hps]) hsome
  | [(m, x)] => exact ⟨m, by rw [hall x (by simp [hps])]⟩
  | p :: q :: rest =>
    rw [hps] at hnodup hall
    have hp := hall p.2 (by simp)
    have hq := hall q.2 (by simp)
    simp [hp, hq] at hnodup

/-! ### Parts in order -/

/-- One part's lowest lane is at most another's. -/
abbrev lowLe (p q : Mask × DWord) : Prop := lowLane p.1 ≤ lowLane q.1

theorem insertPart_eq (p : Mask × DWord) (l : List (Mask × DWord)) : insertPart p l = l.orderedInsert lowLe p := by
  induction l with
  | nil => rfl
  | cons q t ih =>
    rw [insertPart, List.orderedInsert_cons, ih]
    by_cases h : lowLane q.1 < lowLane p.1
    · rw [if_pos h, if_neg (not_le.2 h)]
    · rw [if_neg h, if_pos (not_lt.1 h)]

theorem transferParts_eq (taken : List (Nat × DWord)) (rest : Mask) (next : DWord) :
    transferParts taken rest next = (partsOf taken ++ if rest = 0 then [] else [(rest, next)]).reverse.insertionSort lowLe := by
  unfold transferParts
  simp only [insertPart_eq]
  exact List.foldl_eq_foldr_reverse ..

theorem transferParts_perm (taken : List (Nat × DWord)) (rest : Mask) (next : DWord) :
    (transferParts taken rest next).Perm (partsOf taken ++ if rest = 0 then [] else [(rest, next)]) := by
  rw [transferParts_eq]
  exact (List.perm_insertionSort _ _).trans (List.reverse_perm _)

theorem transferParts_pairwise (taken : List (Nat × DWord)) (rest : Mask) (next : DWord) : (transferParts taken rest next).Pairwise lowLe := by
  have htotal : Std.Total lowLe := ⟨fun p q => le_total (lowLane p.1) (lowLane q.1)⟩
  have htrans : IsTrans _ lowLe := ⟨fun p q r => le_trans (a := lowLane p.1)⟩
  rw [transferParts_eq]
  exact List.pairwise_insertionSort _ _

/-- Parts of lanes with one target each rise by their lowest lane. -/
theorem PartsFor.lowLane_ne {ps : List (Mask × DWord)} {ts : List (Nat × DWord)} (h : PartsFor ps ts) (hts : (ts.map (·.1)).Nodup)
    (hlt : ∀ e ∈ ts, e.1 < 128) {p q : Mask × DWord} (hp : p ∈ ps) (hq : q ∈ ps) (hpq : p.2 ≠ q.2) : lowLane p.1 ≠ lowLane q.1 := by
  have hlow : ∀ r ∈ ps, lowLane r.1 < 128 ∧ (lowLane r.1, r.2) ∈ ts := by
    intro r hr
    obtain ⟨e, he, her⟩ := List.mem_map.1 ((h.targets r.2).1 (List.mem_map.2 ⟨r, hr, rfl⟩))
    have hbit : r.1.getLsbD e.1 = true := (h.lanes r hr e.1 (hlt e he)).2 (by rw [← her]; exact he)
    exact ⟨(lowLane_spec hbit).1, (h.lanes r hr _ (lowLane_spec hbit).1).1 (lowLane_spec hbit).2⟩
  intro heq
  have h1 := (hlow p hp).2
  rw [heq] at h1
  exact hpq (Prod.mk.inj (List.inj_on_of_nodup_map hts h1 (hlow q hq).2 rfl)).2

/-- What the parts of a transfer are where every lane takes a target. -/
theorem transferParts_spec {taken : List (Nat × DWord)} (next : DWord) (hnodup : (taken.map (·.1)).Nodup) (hlt : ∀ e ∈ taken, e.1 < 128) :
    PartsFor (transferParts taken 0 next) taken ∧ (transferParts taken 0 next).Pairwise fun p q => lowLane p.1 < lowLane q.1 := by
  have hperm : (transferParts taken 0 next).Perm (partsOf taken) := by simpa using transferParts_perm taken 0 next
  have hof := partsOf_partsFor taken
  have hparts : PartsFor (transferParts taken 0 next) taken :=
    ⟨fun p hp => hof.lanes p (hperm.mem_iff.1 hp), (hperm.map _).nodup_iff.2 hof.nodup, fun t => (hperm.map _).mem_iff.trans (hof.targets t)⟩
  refine ⟨hparts, ?_⟩
  have hdiff : (transferParts taken 0 next).Pairwise fun p q => p.2 ≠ q.2 := List.pairwise_map.1 hparts.nodup
  refine ((transferParts_pairwise taken 0 next).and hdiff).imp_of_mem fun hp hq hpq => ?_
  exact lt_of_le_of_ne hpq.1 (hparts.lowLane_ne hnodup hlt hp hq hpq.2)

end Sys2Proof.Machine
end

section
/-! SUPPORT. Overflow stacks on their way to memory, and the transfer of a fragment without traps (R85, R88, R119). -/

namespace Sys2Proof.Machine

/-! ### One group -/

theorem OnlyGroup.refl (s : State) (c sl : Nat) : OnlyGroup s s c sl := ⟨⟨.refl s, fun _ _ => rfl⟩, rfl, fun _ _ => rfl⟩

theorem OnlyGroup.setGroup {s t : State} {c sl : Nat} (h : OnlyGroup s t c sl) (g : Group) : OnlyGroup s (t.setGroup c sl g) c sl := by
  obtain ⟨⟨hcores, hothers⟩, hcore, hslots⟩ := h
  refine ⟨⟨hcores.setCore c _, fun k hk => ?_⟩, ?_, fun k hk => ?_⟩
  · rw [State.core_setGroup_ne _ _ _ hk, hothers k hk]
  · rw [State.core_setGroup_self, hcore]
  · rw [State.group_setGroup_ne_slot _ _ hk, hslots k hk]

theorem setGroup_onlyGroup (s : State) (c sl : Nat) (g : Group) : OnlyGroup s (s.setGroup c sl g) c sl := (OnlyGroup.refl s c sl).setGroup g

/-- A view's fragment is the entry of its table that its id names. -/
theorem State.view_spec {s : State} {v : View} (h : s.view = some v) :
    v.s.group? v.c v.slot = some v.g ∧ v.g.node? v.nd.id = some v.nd ∧ v.s.launch? v.g.launch = some v.l := by
  unfold State.view at h
  split at h
  · simp at h
  · rename_i g hg
    split at h
    · rename_i nd l hnd hl
      obtain rfl := Option.some.inj h
      have hid : nd.id = s.cur.node := by simpa using List.find?_some hnd
      exact ⟨hg, hid.symm ▸ hnd, hl⟩
    · simp at h

theorem Group.anyNode_of_node {g : Group} {n : Node} {i : Nat} (h : g.node? i = some n) : g.anyNode? i = some n := by
  unfold Group.anyNode?
  rw [List.find?_append, show g.nodes.find? (fun n => n.id == i) = some n from h]
  rfl

theorem Group.mem_of_node {g : Group} {n : Node} {i : Nat} (h : g.node? i = some n) : n ∈ g.nodes ∧ n.id = i :=
  ⟨List.mem_of_find?_eq_some h, by simpa using List.find?_some h⟩

/-- An entry of the table is found where it is put back. -/
theorem Group.node_setNode {g : Group} {n x : Node} (h : g.node? x.id = some n) : (g.setNode x).node? x.id = some x := by
  have hp : ((fun m : Node => m.id == x.id) ∘ fun m : Node => if m.id = x.id then x else m) = fun m : Node => m.id == x.id := by
    funext m
    by_cases hm : m.id = x.id <;> simp [hm]
  have hn : n.id = x.id := by simpa using List.find?_some h
  unfold Group.node? at h ⊢
  rw [Group.setNode, List.find?_map, hp, h]
  simp [hn]

/-! ### What an overflow stack's growth writes -/

theorem State.translate_setGroup (s : State) (k sl : Nat) (g : Group) (c ctx : Nat) (fatal : List Nat) (need : Need) (va : Nat) :
    (s.setGroup k sl g).translate c ctx fatal need va = s.translate c ctx fatal need va := by
  have hu : ((s.setGroup k sl g).core c).utlb = (s.core c).utlb := by
    by_cases hc : c = k
    · subst hc; rw [State.core_setGroup_self]
    · rw [State.core_setGroup_ne _ _ _ hc]
  rw [State.translate, State.translate, hu]
  rfl

/-- A translation that finds no fatal page is one without fatal pages. -/
theorem State.translate_fatal {s : State} {c ctx : Nat} {fatal : List Nat} {need : Need} {va : Nat}
    (h : s.translate c ctx fatal need va ≠ .fatal) : s.translate c ctx [] need va = s.translate c ctx fatal need va := by
  unfold State.translate trWith at h ⊢
  by_cases hf : fatal.contains (pageOf va) = true
  · exact absurd (if_pos hf) h
  · rw [if_neg hf]
    rfl

theorem State.stackPart_sameRun (s : State) (c ctx va n : Nat) : SameRun s (s.stackPart c ctx va n) := by
  unfold State.stackPart
  split
  · rename_i pa _
    dsimp only
    generalize (List.range n).foldl _ 0 = val
    cases hw : s.coreWrite c pa n val with
    | none => exact .of_eq rfl rfl rfl
    | some t => exact (State.coreWrite_sameRun hw).trans (.of_eq rfl rfl rfl)
  · exact .refl s

/-- Where no part of an entry misses its page, the entry reaches memory. -/
theorem State.stackEntry_sameRun {s : State} {c sl : Nat} {r : LaunchRec} {i : Nat} {g : Group} (hg : s.group? c sl = some g)
    (hits : ∀ p ∈ g.entryParts r i, s.translate c g.ctx [] .w p.1 ≠ .miss) : SameRun s (s.stackEntry c sl r i) := by
  have hnone : (g.entryParts r i).filter (fun p => s.translate c g.ctx [] .w p.1 == .miss) = [] :=
    List.filter_eq_nil_iff.2 fun p hp => by simpa using hits p hp
  unfold State.stackEntry
  rw [hg]
  dsimp only
  rw [hnone]
  exact (SameRun.refl s).foldl _ fun t p => t.stackPart_sameRun c g.ctx _ _

/-- A push of entries that all translate leaves the group in its slot. -/
theorem State.pushGroup_group {s : State} {c sl : Nat} {g : Group} {r : LaunchRec} {old : Nat}
    (hits : ∀ p ∈ g.pushed r old, s.translate c g.ctx [] .w p.1 ≠ .miss) : (s.pushGroup c sl g r old).group? c sl = some (g.grown old) := by
  have hgrown : (g.grown old).ctx = g.ctx ∧ ∀ i, (g.grown old).entryParts r i = g.entryParts r i := by
    unfold Group.grown
    split
    · exact ⟨rfl, fun _ => rfl⟩
    · exact ⟨rfl, fun _ => rfl⟩
  obtain ⟨hctx, hparts⟩ := hgrown
  have hset : (s.setGroup c sl (g.grown old)).group? c sl = some (g.grown old) := State.group_setGroup_self ..
  have hrun : SameRun (s.setGroup c sl (g.grown old)) (s.pushGroup c sl g r old) := by
    refine List.foldlRecOn (motive := fun u => SameRun (s.setGroup c sl (g.grown old)) u) _ _ (.refl _) fun u hu i hi => ?_
    refine hu.trans (State.stackEntry_sameRun ((hu.group? c sl).trans hset) fun p hp => ?_)
    rw [hctx, hu.translate, State.translate_setGroup]
    rw [hparts] at hp
    exact hits p (List.mem_flatMap.2 ⟨i, hi, hp⟩)
  rw [hrun.group?, hset]

/-- A group whose overflow stack has not grown is put into its slot. -/
theorem State.pushGroup_short {s : State} {c sl : Nat} {g : Group} {r : LaunchRec} {old : Nat} (h : g.stack.length ≤ old) :
    s.pushGroup c sl g r old = s.setGroup c sl g := by
  rw [State.pushGroup, Nat.sub_eq_zero_of_le h, Group.grown, if_neg h.not_gt]
  rfl

theorem Group.grown_short {g : Group} {old : Nat} (h : g.stack.length ≤ old) : g.grown old = g := if_neg h.not_gt

theorem State.pushNeeds_short {s : State} {c : Nat} {g : Group} {r : LaunchRec} {old : Nat} {fatal : List Nat} (h : g.stack.length ≤ old) :
    s.pushNeeds c g r old fatal = .ready := by
  rw [State.pushNeeds, Group.pushed, Nat.sub_eq_zero_of_le h]
  rfl

/-- Pushes that are ready translate. -/
theorem State.hits_of_ready {s : State} {c : Nat} {g : Group} {r : LaunchRec} {old : Nat} {fatal : List Nat}
    (h : s.pushNeeds c g r old fatal = .ready) : ∀ p ∈ g.pushed r old, s.translate c g.ctx [] .w p.1 ≠ .miss := by
  intro p hp
  unfold State.pushNeeds at h
  dsimp only at h
  split at h
  · rename_i hmiss
    split at h
    · cases h
    · rename_i hbad
      have hm := List.filter_eq_nil_iff.1 hmiss (p.1, s.translate c g.ctx fatal .w p.1) (List.mem_map.2 ⟨p, hp, rfl⟩)
      have hb := List.find?_eq_none.1 hbad (p.1, s.translate c g.ctx fatal .w p.1) (List.mem_map.2 ⟨p, hp, rfl⟩)
      simp only [Bool.or_eq_true, beq_iff_eq, not_or] at hm hb
      rw [State.translate_fatal hb.2]
      exact hm
  · cases h

/-! ### The transfer of a fragment whose lanes neither trap nor exit -/

/-- The lanes of a fragment that do not take a target. -/
theorem rest_eq_stay (ls act : List Nat) (h : ∀ l ∈ ls, l < 128) :
    (ls.filter fun l => !(maskOf act).getLsbD l) = ls.filter fun l => decide (l ∉ act) := by
  refine List.filter_congr fun l hl => ?_
  rw [maskOf_getLsbD]
  simp [h l hl]

theorem View.lanes_lt {v : View} : ∀ l ∈ v.lanes, l < 128 := fun _ hl => lt_of_mask (Group.mask_of_mem_lanes hl)

/-- The group of a transfer in which each lane of `act` takes its target and the others go on. -/
def View.splitTo (v : View) (act : List Nat) (to_ : Nat → DWord) (rj : Nat) : Group :=
  v.g.gotoParts v.nd (transferParts (act.map fun l => (l, to_ l)) (maskOf (v.lanes.filter fun l => decide (l ∉ act))) (v.nd.pc + 16)) rj

/-- A transfer without traps or exits. -/
theorem View.transfer_taken {v : View} {s : State} (hv : s.view = some v) (hl : v.lanes ≠ []) (act : List Nat) (to_ : Nat → DWord) (rj : Nat) :
    v.transfer v.s v.g [] [] (act.map fun l => (l, to_ l)) rj =
      v.guardPush (v.splitTo act to_ rj) ((v.s.setGroup v.c v.slot v.g).pushGroup v.c v.slot (v.splitTo act to_ rj) v.l.rec_ v.g.stack.length) := by
  obtain ⟨-, hnd, -⟩ := State.view_spec hv
  have hmoved : (act.map fun l => (l, to_ l)).map (·.1) = act := by simp [Function.comp_def]
  have hmask : v.nd.mask &&& ~~~maskOf (v.lanes.filter fun l => (tfind ([] : Table (Nat × DWord)) l).isSome || ([] : List Nat).contains l) = v.nd.mask := by
    have hnone : (v.lanes.filter fun l => (tfind ([] : Table (Nat × DWord)) l).isSome || ([] : List Nat).contains l) = [] := by simp [tfind]
    rw [hnone]
    exact BitVec.and_allOnes
  have hend : (v.s.setGroup v.c v.slot v.g).endLanes v.c v.slot [] = v.s.setGroup v.c v.slot v.g := by
    rw [State.endLanes, State.group_setGroup_self]
    rfl
  have hall : (v.lanes.all fun l => (tfind ([] : Table (Nat × DWord)) l).isSome || ([] : List Nat).contains l) = false := by
    obtain ⟨l, hmem⟩ := List.exists_mem_of_ne_nil _ hl
    exact List.all_eq_false.2 ⟨l, hmem, by simp [tfind]⟩
  have hstay := rest_eq_stay v.lanes act View.lanes_lt
  unfold View.transfer View.splitTo
  dsimp only
  rw [hmask, hmoved, if_pos List.isEmpty_nil, hend, hall, State.group_setGroup_self]
  dsimp only
  rw [Group.anyNode_of_node hnd]
  have hstay' : (v.lanes.filter fun l => !((tfind ([] : Table (Nat × DWord)) l).isSome || ([] : List Nat).contains l) && !(maskOf act).getLsbD l) =
      v.lanes.filter fun l => decide (l ∉ act) := by
    rw [← hstay]
    simp [tfind]
  rw [hstay', if_neg Bool.false_ne_true]
  dsimp only
  rw [show v.g.lanes v.nd.mask = v.lanes from rfl, hstay]
  rfl

end Sys2Proof.Machine
end

section
/-! SUPPORT. The split table: new leaves, and tables at rest (R85, R86, R88). -/

namespace Sys2Proof.Machine

/-! ### New leaves -/

theorem Group.sinkJoin_of_room {g : Group} (h : g.hasRoom = true) : g.sinkJoin = g := by
  unfold Group.sinkJoin
  split
  · rw [if_pos (by rw [h, Bool.true_or])]
  · rfl

theorem Group.sinkJoin_of_leaf {g : Group} (h : g.nodes.any Node.isLeaf = true) : g.sinkJoin = g := by
  unfold Group.sinkJoin
  split
  · rw [if_pos (by rw [h, Bool.or_true])]
  · rfl

/-- A join entry that sinks lengthens the stack by one. -/
theorem Group.sinkJoin_stack (g : Group) : g.sinkJoin.stack.length ≤ g.stack.length + 1 := by
  unfold Group.sinkJoin
  split
  · split
    · omega
    · simp
  · omega

/-- Leaves for which the table has room go into it. -/
theorem Group.addLeaves_of_room {g : Group} {ns : List Node} (hleaf : ∀ n ∈ ns, n.isLeaf = true)
    (hroom : (g.nodes.filter Node.isLeaf).length + ns.length ≤ 16 ∧ g.nodes.length + ns.length ≤ 32) :
    g.addLeaves ns = { g with nodes := g.nodes ++ ns } := by
  induction ns generalizing g with
  | nil => rw [List.append_nil]; rfl
  | cons n ns ih =>
    simp only [List.length_cons] at hroom
    have hr : g.hasRoom = true := decide_eq_true ⟨by omega, by omega⟩
    have hn : [n].filter Node.isLeaf = [n] := by simp [hleaf n]
    rw [Group.addLeaves, Group.sinkJoin_of_room hr, if_pos hr, ih fun m hm => hleaf m (List.mem_cons_of_mem n hm)]
    · simp
    · simp only [List.filter_append, hn, List.length_append, List.length_singleton]
      omega

/-- Leaves for which a table with a leaf has no room go on the stack. -/
theorem Group.addLeaves_of_full {g : Group} (hr : g.hasRoom = false) (hl : g.nodes.any Node.isLeaf = true) (ns : List Node) :
    g.addLeaves ns = { g with stack := ns ++ g.stack } := by
  cases ns with
  | nil => rfl
  | cons n ns => rw [Group.addLeaves, Group.sinkJoin_of_leaf hl, hr, if_neg Bool.false_ne_true]

/-- The leaf that a part becomes, numbered from the counter of its group. -/
def partLeaf (g : Group) (hmode : Bool) (rpc : Option DWord) (parent : Option Nat) (i : Nat) (p : Mask × DWord) : Node :=
  { id := g.nextNode + i, mask := p.1, pc := p.2, rpc := rpc, parent := parent, hmode := hmode, st := .ready, fatal := [], turn := g.issues }

theorem Group.addLeaves_parts {g h : Group} (hn : h.nextNode = g.nextNode) (hi : h.issues = g.issues) (hmode : Bool) (rpc : Option DWord) (parent : Option Nat)
    {ps : List (Mask × DWord)} (hroom : (h.nodes.filter Node.isLeaf).length + ps.length ≤ 16 ∧ h.nodes.length + ps.length ≤ 32) :
    (h.number (ps.map fun p => leafNode p.1 p.2 rpc parent hmode)).1.addLeaves (h.number (ps.map fun p => leafNode p.1 p.2 rpc parent hmode)).2 =
      { h with nextNode := g.nextNode + ps.length, nodes := h.nodes ++ ps.mapIdx (partLeaf g hmode rpc parent) } := by
  have hnodes : (h.number (ps.map fun p => leafNode p.1 p.2 rpc parent hmode)).2 = ps.mapIdx (partLeaf g hmode rpc parent) := by
    refine List.ext_getElem? fun i => ?_
    simp only [Group.number, List.getElem?_mapIdx, List.getElem?_map, Option.map_map, hn, hi]
    rfl
  rw [hnodes, Group.addLeaves_of_room]
  · simp [Group.number, hn]
  · intro n hmem
    obtain ⟨i, _, rfl⟩ := List.mem_mapIdx.1 hmem
    rfl
  · simpa [Group.number] using hroom

/-! ### A table at rest -/

/-- Whether entry `n` of a table without overflow stays when the table comes to rest: a leaf with lanes, or a join with a child. -/
def Group.settled (g : Group) (n : Node) : Prop := if n.isLeaf = true then n.mask ≠ 0 else ∃ k ∈ g.nodes, k.parent = some n.id

theorem Group.normStep_of_settled {g : Group} (hs : g.stack = []) (h : ∀ n ∈ g.nodes, g.settled n) : g.normStep = g := by
  have hkeep : g.nodes.filter (fun n => !n.isLeaf || n.mask != 0) = g.nodes := List.filter_eq_self.2 fun n hn => by
    have := h n hn
    unfold Group.settled at this
    by_cases hl : n.isLeaf = true <;> simp_all
  have hmap : g.nodes.filterMap (fun n => if n.isLeaf || (g.nodes.any fun k => k.parent == some n.id) then some n
      else if n.mask = 0 then none else some { n with st := .ready, turn := g.issues }) = g.nodes := by
    refine (List.filterMap_congr fun n hn => if_pos ?_).trans List.filterMap_some
    have := h n hn
    unfold Group.settled at this
    by_cases hl : n.isLeaf = true
    · simp [hl]
    · simpa [hl] using this
  unfold Group.normStep
  simp only [hkeep, hs, List.filter_nil, List.any_nil, Bool.or_false, hmap]
  cases g
  simp_all

theorem Group.restore_of_empty {g : Group} (hs : g.stack = []) (fuel : Nat) : g.restore fuel = g := by
  cases fuel with
  | zero => rfl
  | succ fuel => rw [Group.restore, hs]

/-- Completion passes stay at a fixed point. -/
theorem foldl_normStep_fixed {g : Group} (h : g.normStep = g) (xs : List Nat) : xs.foldl (fun g _ => g.normStep) g = g := by
  induction xs with
  | nil => rfl
  | cons x xs ih => rw [List.foldl_cons, h, ih]

/-- A table that one completion pass brings to rest. -/
theorem Group.norm_of_step {g h : Group} (hs : g.stack = []) (hstep : g.normStep = h) (hrest : h.stack = []) (hfix : h.normStep = h) : g.norm = h := by
  rw [Group.norm, hs, if_pos List.isEmpty_nil, Group.normPass, List.range_succ_eq_map, List.foldl_cons, hstep, foldl_normStep_fixed hfix,
    Group.restore_of_empty hrest]

theorem Group.norm_of_settled {g : Group} (hs : g.stack = []) (h : ∀ n ∈ g.nodes, g.settled n) : g.norm = g :=
  Group.norm_of_step hs (Group.normStep_of_settled hs h) hs (Group.normStep_of_settled hs h)

/-! ### A table at rest has no longer stack -/

theorem Group.normStep_stack (g : Group) : g.normStep.stack.length ≤ g.stack.length := List.length_filter_le ..

theorem Group.restore_stack (g : Group) (fuel : Nat) : (g.restore fuel).stack.length ≤ g.stack.length := by
  induction fuel generalizing g with
  | zero => exact le_refl _
  | succ fuel ih =>
    rw [Group.restore]
    split
    · exact le_refl _
    · rename_i n ns hns
      dsimp only
      split
      · refine (ih _).trans ((Group.sinkJoin_stack _).trans ?_)
        simp [hns]
      · exact le_refl _

theorem Group.normPass_stack (g : Group) : g.normPass.stack.length ≤ g.stack.length := by
  have hsteps : ((List.range (g.nodes.length + 1)).foldl (fun g _ => g.normStep) g).stack.length ≤ g.stack.length :=
    List.foldlRecOn (motive := fun h : Group => h.stack.length ≤ g.stack.length) _ _ (le_refl _) fun h hh _ _ => (Group.normStep_stack h).trans hh
  exact (Group.restore_stack _ _).trans hsteps

theorem Group.norm_stack (g : Group) : g.norm.stack.length ≤ g.stack.length := by
  unfold Group.norm
  split
  · exact g.normPass_stack
  · exact (Group.normPass_stack _).trans g.normPass_stack

/-! ### The join of the last child -/

section
variable {g : Group} {p c : Node}

/-- The table once the last child of `p` has left it: `p` is a leaf again, at the end of the order of turns. -/
def Group.rejoined (g : Group) (c p : Node) : Group :=
  { g with nodes := (g.nodes.filter fun n => n.id != c.id).map fun n => if n.id = p.id then { p with st := .ready, turn := g.issues } else n }

theorem Group.norm_rejoined (hs : g.stack = []) (hids : (g.nodes.map (·.id)).Nodup) (hp : p ∈ g.nodes) (hjoin : p.st = .join)
    (hpm : p.mask ≠ 0) (hlast : ∀ n ∈ g.nodes, n.id ≠ c.id → n.parent ≠ some p.id)
    (hrest : ∀ n ∈ g.nodes, n.id ≠ p.id → if n.isLeaf = true then n.mask ≠ 0 else ∃ k ∈ g.nodes, k.id ≠ c.id ∧ k.parent = some n.id) :
    ({ g with nodes := g.nodes.filter fun n => n.id != c.id }).norm = g.rejoined c p := by
  have hpleaf : p.isLeaf = false := by rw [Node.isLeaf, hjoin]
  have hsame : ∀ n ∈ g.nodes, n.id = p.id → n = p := fun n hn h => List.inj_on_of_nodup_map hids hn hp h
  have hin : ∀ n, n ∈ g.nodes.filter (fun n => n.id != c.id) ↔ n ∈ g.nodes ∧ n.id ≠ c.id := fun n => by simp
  generalize hns : g.nodes.filter (fun n => n.id != c.id) = ns at hin
  have hparent : ∀ n ∈ ns, (if n.id = p.id then { p with st := .ready, turn := g.issues } else n).parent = n.parent := by
    intro n hn
    split
    · rename_i h
      rw [hsame n ((hin n).1 hn).1 h]
    · rfl
  refine Group.norm_of_step hs ?_ hs (Group.normStep_of_settled hs ?_)
  · have hkeep : ns.filter (fun n => !n.isLeaf || n.mask != 0) = ns := List.filter_eq_self.2 fun n hn => by
      by_cases hl : n.isLeaf = true
      · by_cases hnp : n.id = p.id
        · rw [hsame n ((hin n).1 hn).1 hnp, hpleaf] at hl
          cases hl
        · have := hrest n ((hin n).1 hn).1 hnp
          simp_all
      · simp [hl]
    have hmap : ns.filterMap (fun n => if n.isLeaf || (ns.any fun k => k.parent == some n.id) then some n
        else if n.mask = 0 then none else some { n with st := .ready, turn := g.issues }) =
        ns.map fun n => if n.id = p.id then { p with st := .ready, turn := g.issues } else n := by
      rw [← List.filterMap_eq_map]
      refine List.filterMap_congr fun n hn => ?_
      obtain ⟨hmem, -⟩ := (hin n).1 hn
      by_cases hnp : n.id = p.id
      · obtain rfl := hsame n hmem hnp
        have hno : (ns.any fun k => k.parent == some n.id) = false := List.any_eq_false.2 fun k hk => by
          simpa using hlast k ((hin k).1 hk).1 ((hin k).1 hk).2
        simpa [hpleaf, hno] using hpm
      · have hset := hrest n hmem hnp
        rw [if_pos]
        · simp [hnp]
        · by_cases hl : n.isLeaf = true
          · simp [hl]
          · rw [if_neg hl] at hset
            obtain ⟨k, hk, hkc, hkp⟩ := hset
            have hany : (ns.any fun k => k.parent == some n.id) = true := List.any_eq_true.2 ⟨k, (hin k).2 ⟨hk, hkc⟩, by simp [hkp]⟩
            rw [hany, Bool.or_true]
    unfold Group.normStep Group.rejoined
    simp only [hns, hkeep, hs, List.filter_nil, List.any_nil, Bool.or_false, hmap]
  · intro n hn
    unfold Group.rejoined at hn
    simp only [hns, List.mem_map] at hn
    obtain ⟨m, hm, rfl⟩ := hn
    obtain ⟨hmem, -⟩ := (hin m).1 hm
    unfold Group.settled
    by_cases hmp : m.id = p.id
    · simpa [hmp, Node.isLeaf] using hpm
    · have hset := hrest m hmem hmp
      simp only [hmp, if_false] at hset ⊢
      by_cases hl : m.isLeaf = true
      · simpa [hl] using hset
      · rw [if_neg hl] at hset ⊢
        obtain ⟨k, hk, hkc, hkp⟩ := hset
        refine ⟨_, List.mem_map.2 ⟨k, hns ▸ (hin k).2 ⟨hk, hkc⟩, rfl⟩, ?_⟩
        exact (hparent k ((hin k).2 ⟨hk, hkc⟩)).trans hkp

end

end Sys2Proof.Machine
end

section
/-! SUPPORT. Control transfers and joins (O13). -/

namespace Sys2Proof.Machine

section
variable {s : State} {v : View} {w : CastWord}

/-! ### Groups that a word moves -/

/-- The state after a word that moved its fragment: its group has left, and where its stack has not grown nothing else differs. -/
def View.moved (v : View) (s : State) (g : Group) (t : State) : Prop :=
  t.group? v.c v.slot = some (g.grown v.g.stack.length) ∧ (g.stack.length ≤ v.g.stack.length → OnlyGroup s t v.c v.slot)

theorem View.moved_of_short {g : Group} (h : g.stack.length ≤ v.g.stack.length) {t : State}
    (hs : OnlyGroup s t v.c v.slot) : v.moved s g ((t.pushGroup v.c v.slot g v.l.rec_ v.g.stack.length)) := by
  rw [State.pushGroup_short h]
  exact ⟨by rw [State.group_setGroup_self, Group.grown_short h], fun _ => hs.setGroup g⟩

/-- A transfer for whose pushes there is room. -/
theorem View.transfer_moved (hv : s.view = some v) (hl : v.lanes ≠ []) (act : List Nat) (to_ : Nat → DWord) (rj : Nat)
    (hroom : v.s.pushNeeds v.c (v.splitTo act to_ rj) v.l.rec_ v.g.stack.length v.nd.fatal = .ready) :
    v.moved s (v.splitTo act to_ rj) (v.transfer v.s v.g [] [] (act.map fun l => (l, to_ l)) rj) := by
  rw [View.transfer_taken hv hl, View.guardPush, hroom]
  refine ⟨State.pushGroup_group fun p hp => ?_, fun h => ?_⟩
  · rw [State.translate_setGroup]
    exact State.hits_of_ready hroom p hp
  · rw [State.pushGroup_short h, State.view_s hv]
    exact (setGroup_onlyGroup s _ _ _).setGroup _

/-- A word that waits for pages parks its fragment. -/
theorem View.park_group (v : View) (need : Need) (ps : List Nat) :
    (v.park [] need ps).group? v.c v.slot = some (v.g.setNode { v.nd with st := .parked (sunion [] ps) }) := by
  have hask : ∀ (t : State) (need : Need) (ps : List Nat),
      (if ps.isEmpty = true then t else t.requestPages (flaskOf v.c) v.g.ctx 0 need (.frag v.c v.slot v.nd.id) ps).group? v.c v.slot = t.group? v.c v.slot := by
    intro t need ps
    split <;> rfl
  unfold View.park
  dsimp only
  rw [hask, hask, if_pos List.isEmpty_nil, State.group_setGroup_self]
  rfl

/-- A transfer whose pushes miss pages waits for them. -/
theorem View.transfer_parks (hv : s.view = some v) (hl : v.lanes ≠ []) (act : List Nat) (to_ : Nat → DWord) (rj : Nat) {ps : List Nat}
    (hmiss : v.s.pushNeeds v.c (v.splitTo act to_ rj) v.l.rec_ v.g.stack.length v.nd.fatal = .miss ps) :
    ∃ g, (v.transfer v.s v.g [] [] (act.map fun l => (l, to_ l)) rj).group? v.c v.slot = some g ∧
      g.node? v.nd.id = some { v.nd with st := .parked (sunion [] ps) } := by
  obtain ⟨-, hnd, -⟩ := State.view_spec hv
  rw [View.transfer_taken hv hl, View.guardPush, hmiss]
  exact ⟨_, View.park_group v .w ps, Group.node_setNode hnd⟩

/-- Where every lane takes one target the fragment moves as a whole. -/
theorem View.splitTo_all (hl : v.lanes ≠ []) (hact : v.active w = v.lanes) (t : DWord) (rj : Nat) :
    v.splitTo (v.active w) (fun _ => t) rj = v.g.setNode { v.nd with pc := t, st := .ready, fatal := [] } := by
  obtain ⟨m, hm⟩ := partsOf_const (ts := v.lanes.map fun l => (l, t)) (by simpa using hl) (t := t) (by simp)
  have hparts : transferParts (v.lanes.map fun l => (l, t)) 0 (v.nd.pc + 16) = [(m, t)] := by
    rw [transferParts, hm]
    rfl
  have hstay : maskOf (v.lanes.filter fun l => decide (l ∉ v.lanes)) = 0 := by
    rw [List.filter_eq_nil_iff.2 (by simp)]
    rfl
  rw [View.splitTo, hact, hstay, hparts]
  rfl

/-! ### The words -/

theorem exec_bra (h : s.decodes (.bra w) v) :
    exec (.bra w) s = .next (v.transfer v.s v.g [] [] ((v.active w).map fun l => (l, v.target w)) w.rj) := onFrag_uniform h

/-- brx whose targets are all words of the address space. -/
theorem exec_brx (h : s.issues (.brx w) w v) (hx : ∀ l ∈ v.active w, srcA (.brx w) v.g w (v.g.thread l) 2 % 16 = 0 ∧ srcA (.brx w) v.g w (v.g.thread l) 2 < 2 ^ 57) :
    exec (.brx w) s =
      .next (v.transfer v.s v.g [] [] ((v.active w).map fun l => (l, BitVec.ofNat 64 (srcA (.brx w) v.g w (v.g.thread l) 2))) w.rj) := by
  have hgood : ∀ l ∈ v.active w, (if (v.g.thread l).readsBad (.brx w) = true then some (causePoison, (0 : DWord))
      else targetTrap (srcA (.brx w) v.g w (v.g.thread l) 2)) = none := by
    intro l hl
    obtain ⟨h16, h57⟩ := hx l hl
    rw [if_neg (by simp [h.2 l hl]), targetTrap, if_neg (by simp [h16]), if_neg h57.not_ge]
  have hacts : ((v.active w).map fun l => (l, srcA (.brx w) v.g w (v.g.thread l) 2, if (v.g.thread l).readsBad (.brx w) = true
      then some (causePoison, (0 : DWord)) else targetTrap (srcA (.brx w) v.g w (v.g.thread l) 2))) =
      (v.active w).map fun l => (l, srcA (.brx w) v.g w (v.g.thread l) 2, none) :=
    List.map_congr_left fun l hl => by rw [hgood l hl]
  refine (onFrag_uniform h.1).trans (congrArg Host.Outcome.next ?_)
  dsimp only
  rw [hacts, List.filterMap_map, List.filter_map, List.map_map]
  congr 1
  · exact List.filterMap_eq_nil_iff.2 fun _ _ => rfl
  · exact congrArg _ (List.filter_eq_self.2 fun _ _ => rfl)

/-- join at its merge point, with every guard true. -/
theorem exec_join (h : s.decodes (.join w) v) (hall : (v.active w).length = v.lanes.length) (hpc : v.nd.rpc = some v.nd.pc) :
    exec (.join w) s = .next (v.s.putGroup v ({ v.g with nodes := v.g.nodes.filter fun n => n.id != v.nd.id }.norm)) := by
  refine (onFrag_uniform h).trans (congrArg Host.Outcome.next (if_pos ?_))
  simp [hall, hpc]

theorem exec_join_elsewhere (h : s.decodes (.join w) v) (hpc : v.nd.rpc ≠ some v.nd.pc) : exec (.join w) s = .next (v.groupDone v.g) := by
  refine (onFrag_uniform h).trans (congrArg Host.Outcome.next (if_neg ?_))
  simp [hpc]

theorem join_moved (h : s.decodes (.join w) v) (hall : (v.active w).length = v.lanes.length) (hpc : v.nd.rpc = some v.nd.pc) :
    ∃ t, exec (.join w) s = .next t ∧ v.moved s ({ v.g with nodes := v.g.nodes.filter fun n => n.id != v.nd.id }.norm) t := by
  refine ⟨_, exec_join h hall hpc, ?_⟩
  rw [State.putGroup, State.view_s h.1]
  exact View.moved_of_short (Group.norm_stack { v.g with nodes := v.g.nodes.filter fun n => n.id != v.nd.id }) (.refl s _ _)

/-- The last child's join makes its parent a leaf again, at the end of the order of turns. -/
theorem join_last {p : Node} (hp : p ∈ v.g.nodes) (h : s.decodes (.join w) v) (hall : (v.active w).length = v.lanes.length)
    (hpc : v.nd.rpc = some v.nd.pc) (hs : v.g.stack = []) (hids : (v.g.nodes.map (·.id)).Nodup) (hjoin : p.st = .join) (hpm : p.mask ≠ 0)
    (hleaf : v.nd.isLeaf = true) (hlast : ∀ n ∈ v.g.nodes, n.id ≠ v.nd.id → n.parent ≠ some p.id)
    (hrest : ∀ n ∈ v.g.nodes, n.id ≠ p.id → if n.isLeaf = true then n.mask ≠ 0 else ∃ k ∈ v.g.nodes, k.id ≠ v.nd.id ∧ k.parent = some n.id) :
    ∃ t g, exec (.join w) s = .next t ∧ t.group? v.c v.slot = some g ∧ g.node? p.id = some { p with st := .ready, turn := v.g.issues } ∧
      g.node? v.nd.id = none := by
  obtain ⟨t, ht, hgroup, -⟩ := join_moved h hall hpc
  rw [Group.norm_rejoined hs hids hp hjoin hpm hlast hrest] at hgroup
  have hmem : v.nd ∈ v.g.nodes := (Group.mem_of_node (State.view_spec h.1).2.1).1
  have hne : p.id ≠ v.nd.id := by
    intro heq
    have := List.inj_on_of_nodup_map hids hp hmem heq
    rw [← this, Node.isLeaf, hjoin] at hleaf
    cases hleaf
  have hgrown : (v.g.rejoined v.nd p).grown v.g.stack.length = v.g.rejoined v.nd p := Group.grown_short (by simp [Group.rejoined])
  have hid : ∀ n : Node, (if n.id = p.id then { p with st := .ready, turn := v.g.issues } else n).id = n.id := by
    intro n
    split
    · rename_i hn
      exact hn.symm
    · rfl
  refine ⟨t, v.g.rejoined v.nd p, ht, by rw [hgroup, hgrown], ?_, ?_⟩
  · unfold Group.node? Group.rejoined
    dsimp only
    rw [List.find?_map]
    have hfind : (v.g.nodes.filter fun n => n.id != v.nd.id).find?
        ((fun n => n.id == p.id) ∘ fun n => if n.id = p.id then { p with st := .ready, turn := v.g.issues } else n) = some p := by
      have hpred : ((fun n : Node => n.id == p.id) ∘ fun n => if n.id = p.id then { p with st := .ready, turn := v.g.issues } else n) =
          fun n => n.id == p.id := funext fun n => by simp only [Function.comp, hid]
      rw [hpred]
      cases hf : (v.g.nodes.filter fun n => n.id != v.nd.id).find? fun n => n.id == p.id with
      | none => exact absurd (List.find?_eq_none.1 hf p (List.mem_filter.2 ⟨hp, by simpa using hne⟩)) (by simp)
      | some q =>
        have hq := List.find?_some hf
        have hqm := (List.mem_filter.1 (List.mem_of_find?_eq_some hf)).1
        rw [List.inj_on_of_nodup_map hids hqm hp (by simpa using hq)]
    rw [hfind]
    simp
  · refine List.find?_eq_none.2 fun n hn => ?_
    simp only [Group.rejoined, List.mem_map] at hn
    obtain ⟨m, hm, rfl⟩ := hn
    rw [hid]
    simpa using (List.mem_filter.1 hm).2

end

/-! ### Splits -/

/-- A split with a merge point and room: the fragment waits for its parts (R85). -/
theorem Group.split_joined {g : Group} {f : Node} {ps : List (Mask × DWord)} {rj : Nat} (hrj : rj ≠ 0) (hchain : (g.chain f).length < 31)
    (hroom : ((g.setNode { f with st := .join, pc := f.pc + BitVec.ofNat 64 (16 * rj), fatal := [] }).nodes.filter Node.isLeaf).length + ps.length ≤ 16 ∧
      (g.setNode { f with st := .join, pc := f.pc + BitVec.ofNat 64 (16 * rj), fatal := [] }).nodes.length + ps.length ≤ 32) :
    g.split f ps rj = { g.setNode { f with st := .join, pc := f.pc + BitVec.ofNat 64 (16 * rj), fatal := [] } with
      nextNode := g.nextNode + ps.length
      nodes := (g.setNode { f with st := .join, pc := f.pc + BitVec.ofNat 64 (16 * rj), fatal := [] }).nodes ++
        ps.mapIdx (partLeaf g f.hmode (some (f.pc + BitVec.ofNat 64 (16 * rj))) (some f.id)) } := by
  unfold Group.split
  rw [if_pos ⟨hrj, hchain⟩]
  exact Group.addLeaves_parts rfl rfl f.hmode _ _ hroom

/-- A split without a merge point, or in a chain of 31: the parts take the fragment's place (R85). -/
theorem Group.split_flat {g : Group} {f : Node} {ps : List (Mask × DWord)} {rj : Nat} (h : rj = 0 ∨ 31 ≤ (g.chain f).length)
    (hroom : (({ g with nodes := g.nodes.filter fun n => n.id != f.id } : Group).nodes.filter Node.isLeaf).length + ps.length ≤ 16 ∧
      ({ g with nodes := g.nodes.filter fun n => n.id != f.id } : Group).nodes.length + ps.length ≤ 32) :
    g.split f ps rj = { g with
      nextNode := g.nextNode + ps.length
      nodes := (g.nodes.filter fun n => n.id != f.id) ++ ps.mapIdx (partLeaf g f.hmode f.rpc f.parent) } := by
  unfold Group.split
  rw [if_neg fun hc => h.elim hc.1 fun h31 => by omega]
  exact Group.addLeaves_parts rfl rfl f.hmode _ _ hroom

theorem Group.gotoParts_of_two {g : Group} {f : Node} {ps : List (Mask × DWord)} (rj : Nat) (h : 2 ≤ ps.length) :
    g.gotoParts f ps rj = (g.split f ps rj).norm := by
  match ps, h with
  | _ :: _ :: _, _ => rfl

/-- Settles O13: transfers through their parts and the room of the overflow stack; joins through the table's coming to rest. -/
theorem controlTransferWords : Obligations.ControlTransferWords := by
  unfold Obligations.ControlTransferWords
  refine ⟨?_, ?_, ?_, fun g ns hr hl => Group.addLeaves_of_full hr hl ns⟩
  · intro s v w there x stay moved
    refine ⟨onFrag_uniform, onFrag_uniform, ?_⟩
    intro room split
    refine ⟨fun h hl hroom => ?_, fun h hl ps hmiss => ?_, fun h hl hact _ => ?_, fun h hl hx hroom => ?_, join_moved, ?_, exec_join_elsewhere, onFrag_uniform⟩
    · exact ⟨_, exec_bra h, View.transfer_moved h.1 hl (v.active w) (fun _ => v.target w) w.rj hroom⟩
    · obtain ⟨g, hg, hnode⟩ := View.transfer_parks h.1 hl (v.active w) (fun _ => v.target w) w.rj hmiss
      exact ⟨_, g, exec_bra h, hg, hnode⟩
    · have hsplit := View.splitTo_all hl hact (v.target w) w.rj
      have hlen : (v.splitTo (v.active w) (fun _ => v.target w) w.rj).stack.length ≤ v.g.stack.length := by
        rw [hsplit]
        simp [Group.setNode]
      obtain ⟨hgroup, honly⟩ := View.transfer_moved h.1 hl (v.active w) (fun _ => v.target w) w.rj (State.pushNeeds_short hlen)
      rw [Group.grown_short hlen, hsplit] at hgroup
      exact ⟨_, exec_bra h, hgroup, State.view_s h.1 ▸ honly hlen⟩
    · exact ⟨_, exec_brx h hx, View.transfer_moved h.1.1 hl (v.active w) (fun l => BitVec.ofNat 64 (x l)) w.rj hroom⟩
    · exact fun p hp h hall hpc hs hids _ hjoin hpm hleaf hlast hrest => join_last hp h hall hpc hs hids hjoin hpm hleaf hlast hrest
  · intro taken next hnodup hlt ps
    obtain ⟨⟨hlanes, htargets, hall⟩, hpair⟩ := transferParts_spec next hnodup hlt
    exact ⟨hlanes, htargets, fun e he => (hall e.2).2 (List.mem_map.2 ⟨e, he, rfl⟩), hpair⟩
  · intro g f ps rj _ leaf held meet joined without
    exact ⟨Group.split_joined, Group.split_flat, Group.gotoParts_of_two rj, Group.norm_of_settled⟩

end Sys2Proof.Machine
end

section
/-! SUPPORT. Register windows: writing cells, and moving the window base (R89, R120, R121). -/

namespace Sys2Proof.Machine

/-! ### Tables under another numbering -/

section
variable {α : Type} {p : Nat → Bool} {f : Nat → Nat} {i : Nat}

/-- Entries kept and renumbered: number `i` is found where its old number `k` was. -/
theorem tfind_renumber (t : Table α) {k : Nat} (hk : p k = true) (h : ∀ e, p e = true → (f e = i ↔ e = k)) :
    tfind ((t.filter fun e => p e.1).map fun e => (f e.1, e.2)) i = tfind t k := by
  induction t with
  | nil => rfl
  | cons e t ih =>
    by_cases hp : p e.1 = true
    · rw [List.filter_cons_of_pos (by simpa using hp), List.map_cons]
      by_cases he : e.1 = k
      · simp [tfind, he, (h k hk).2 rfl]
      · simpa [tfind, he, (h e.1 hp).not.2 he] using ih
    · have he : e.1 ≠ k := fun heq => hp (heq ▸ hk)
      rw [List.filter_cons_of_neg (by simpa using hp), ih]
      simp [tfind, he]

/-- A number that no kept entry takes is not found. -/
theorem tfind_renumber_none (t : Table α) (h : ∀ e, p e = true → f e ≠ i) :
    tfind ((t.filter fun e => p e.1).map fun e => (f e.1, e.2)) i = none := by
  induction t with
  | nil => rfl
  | cons e t ih =>
    by_cases hp : p e.1 = true
    · rw [List.filter_cons_of_pos (by simpa using hp), List.map_cons]
      simpa [tfind, h e.1 hp] using ih
    · rw [List.filter_cons_of_neg (by simpa using hp), ih]
end

/-! ### Cells -/

/-- A cell after a write of `n` cells from `i` on. -/
theorem Thread.cell_setCells (t : Thread) (i n x j : Nat) :
    (t.setCells i n x).cell j = if i ≤ j ∧ j < i + n then BitVec.ofNat 32 (x / 2 ^ (32 * (j - i))) else t.cell j := by
  induction n generalizing t i x with
  | zero => rw [Thread.setCells, if_neg (by omega)]
  | succ n ih =>
    rw [Thread.setCells, ih]
    by_cases hj : j = i
    · subst hj
      simp [Thread.cell]
    · rw [show Thread.cell { t with v := tset 0#32 t.v i (BitVec.ofNat 32 x), badCells := t.badCells.filter (· ≠ i) } j = t.cell j by
        simp [Thread.cell, hj]]
      by_cases hr : i + 1 ≤ j ∧ j < i + 1 + n
      · rw [if_pos hr, if_pos (by omega), Nat.div_div_eq_div_mul, ← pow_add, show 32 + 32 * (j - (i + 1)) = 32 * (j - i) by omega]
      · rw [if_neg hr, if_neg (by omega)]

/-- The cells with an error after a write. -/
theorem Thread.mem_badCells_setCells (t : Thread) (i n x j : Nat) :
    j ∈ (t.setCells i n x).badCells ↔ j ∈ t.badCells ∧ ¬ (i ≤ j ∧ j < i + n) := by
  induction n generalizing t i x with
  | zero => simp [Thread.setCells]
  | succ n ih =>
    rw [Thread.setCells, ih]
    simp only [ne_eq, decide_not, List.mem_filter, Bool.not_eq_true', decide_eq_false_iff_not]
    have hrange : (¬ j = i ∧ ¬ (i + 1 ≤ j ∧ j < i + 1 + n)) ↔ ¬ (i ≤ j ∧ j < i + (n + 1)) := by omega
    rw [and_assoc, hrange]

/-! ### The window base -/

/-- Raising the window base moves cell i + d to cell i (R120). -/
theorem Thread.cell_raise (t : Thread) (d i : Nat) : (t.raise d).cell i = t.cell (i + d) := by
  have hfind := tfind_renumber (p := fun e => decide (d ≤ e)) (f := (· - d)) (i := i) t.v (k := i + d) (by simp) fun e he => by
    have : d ≤ e := of_decide_eq_true he
    omega
  exact congrArg (·.getD 0#32) hfind

/-- Lowering the window base lets the restored cells enter below, and moves the others up (R121). -/
theorem Thread.cell_lower (t : Thread) (win m cells i : Nat) : (t.lower win m cells).cell i =
    if i < m then BitVec.ofNat 32 (cells / 2 ^ (32 * i)) else if i < win then t.cell (i - m) else 0 := by
  rw [Thread.lower, Thread.cell_setCells]
  by_cases hm : i < m
  · simp [hm]
  · rw [if_neg (by omega), if_neg hm]
    by_cases hw : i < win
    · have hfind := tfind_renumber (p := fun e => decide (e + m < win)) (f := (· + m)) (i := i) t.v (k := i - m)
        (decide_eq_true (by omega)) fun e _ => by omega
      rw [if_pos hw]
      exact congrArg (·.getD 0#32) hfind
    · have hfind := tfind_renumber_none (p := fun e => decide (e + m < win)) (f := (· + m)) (i := i) t.v fun e he heq => by
        have : e + m < win := of_decide_eq_true he
        omega
      rw [if_neg hw]
      exact congrArg (·.getD 0#32) hfind

theorem Thread.mem_badCells_lower (t : Thread) (win m cells i : Nat) :
    i ∈ (t.lower win m cells).badCells ↔ m ≤ i ∧ i < win ∧ i - m ∈ t.badCells := by
  rw [Thread.lower, Thread.mem_badCells_setCells]
  simp only [List.mem_map, List.mem_filter, decide_eq_true_eq]
  constructor
  · rintro ⟨⟨a, ⟨ha, hw⟩, rfl⟩, hn⟩
    exact ⟨by omega, hw, by simpa using ha⟩
  · rintro ⟨hm, hw, hb⟩
    exact ⟨⟨i - m, ⟨hb, by omega⟩, by omega⟩, by omega⟩

end Sys2Proof.Machine
end

section
/-! SUPPORT. Spill records read back as what they saved (R91, R121). -/

namespace Sys2Proof.Machine

/-! ### Bits and bytes -/

/-- Bits of the low part of a number. -/
theorem bits_low {x n lo w : Nat} (y : Nat) (h : lo + w ≤ n) : bits (x + y * 2 ^ n) lo w = bits x lo w := by
  obtain ⟨k, rfl⟩ : ∃ k, n = lo + w + k := ⟨n - (lo + w), by omega⟩
  rw [bits, bits, show x + y * 2 ^ (lo + w + k) = x + 2 ^ lo * (2 ^ w * (y * 2 ^ k)) by ring, Nat.add_mul_div_left _ _ (by positivity),
    Nat.add_mul_mod_self_left]

/-- Bits of the high part of a number. -/
theorem bits_high {x n : Nat} (y : Nat) (hx : x < 2 ^ n) (lo w : Nat) : bits (x + y * 2 ^ n) (n + lo) w = bits y lo w := by
  rw [bits, bits, pow_add, ← Nat.div_div_eq_div_mul, Nat.add_mul_div_right _ _ (by positivity), Nat.div_eq_of_lt hx, Nat.zero_add]

theorem bits_zero_of_lt {x w : Nat} (h : x < 2 ^ w) : bits x 0 w = x := by
  rw [bits, pow_zero, Nat.div_one, Nat.mod_eq_of_lt h]

theorem pow_bytes (n : Nat) : 256 ^ n = 2 ^ (8 * n) := by
  rw [pow_mul]
  norm_num

theorem packLE_lt (n : Nat) (xs : List Nat) : packLE n xs < 256 ^ (n * xs.length) := by
  induction xs with
  | nil => simp [packLE]
  | cons x xs ih =>
    have hx : x % 256 ^ n < 256 ^ n := Nat.mod_lt _ (by positivity)
    rw [packLE, List.length_cons, Nat.mul_succ, Nat.add_comm (n * xs.length), pow_add]
    calc x % 256 ^ n + 256 ^ n * packLE n xs < 256 ^ n + 256 ^ n * packLE n xs := Nat.add_lt_add_right hx _
      _ = 256 ^ n * (packLE n xs + 1) := by ring
      _ ≤ 256 ^ n * 256 ^ (n * xs.length) := Nat.mul_le_mul_left _ ih

/-- Value `i` of packed values. -/
theorem bits_packLE (n : Nat) (xs : List Nat) (i : Nat) : bits (packLE n xs) (8 * n * i) (8 * n) = xs.getD i 0 % 256 ^ n := by
  induction xs generalizing i with
  | nil => simp [packLE, bits]
  | cons x xs ih =>
    rw [packLE, Nat.mul_comm (256 ^ n), pow_bytes n]
    have hx : x % 2 ^ (8 * n) < 2 ^ (8 * n) := Nat.mod_lt _ (by positivity)
    cases i with
    | zero =>
      rw [Nat.mul_zero, bits_low _ (by omega), bits_zero_of_lt hx]
      rfl
    | succ i =>
      rw [show 8 * n * (i + 1) = 8 * n + 8 * n * i by ring, bits_high _ hx, ih, pow_bytes]
      rfl

/-! ### One chunk -/

/-- A word whose value fits in `n` bits is read back from them. -/
theorem sext_low {n : Nat} (hn : 0 < n) (h32 : n ≤ 32) {d : Word} (hlo : -(2 ^ (n - 1) : ℤ) ≤ d.toInt) (hhi : d.toInt < 2 ^ (n - 1)) :
    sext n (d.toNat % 2 ^ n) = d.toInt := by
  have hpow : (2 : ℤ) ^ n = 2 * 2 ^ (n - 1) := by rw [← pow_succ', Nat.sub_add_cancel hn]
  have hdvd : 2 ^ n ∣ 2 ^ 32 := pow_dvd_pow 2 h32
  calc sext n (d.toNat % 2 ^ n) = (d.toNat : ℤ).bmod (2 ^ n) := by
        rw [sext, BitVec.toInt_ofNat', Int.natCast_mod, Int.emod_bmod]
    _ = d.toInt.bmod (2 ^ n) := by rw [BitVec.toInt_eq_toNat_bmod, Int.bmod_bmod_of_dvd hdvd]
    _ = d.toInt := by
        refine Int.bmod_eq_of_le ?_ ?_ <;> push_cast <;> omega

theorem wrap_ofInt (x : ℤ) : wrap 32 x = (BitVec.ofInt 32 x).toNat := by
  rw [wrap, BitVec.toNat_ofInt]
  rfl

/-- A cell is read back from the first cell and the difference. -/
theorem wrap_diff (c c0 : Word) : wrap 32 ((c0.toNat : ℤ) + (c - c0).toInt) = c.toNat := by
  rw [wrap_ofInt, BitVec.ofInt_add, BitVec.ofInt_toInt, BitVec.ofInt_natCast, BitVec.ofNat_toNat, BitVec.setWidth_eq, BitVec.add_comm,
    BitVec.sub_add_cancel]

/-- A list read value by value. -/
theorem map_range_eq {f : Nat → Nat} {ds : List Word} (h : ∀ i (hi : i < ds.length), f i = (ds[i]).toNat) :
    (List.range ds.length).map f = ds.map (·.toNat) :=
  List.ext_getElem (by simp) fun i _ hi => by simpa using h i (by simpa using hi)

/-- The cells of a chunk that a record holds, by its kind. -/
def chunkRead (x : Nat) : List Nat :=
  let c0 := bits x 32 32
  match x % 2 ^ 32 with
  | 0 => (List.range 16).map fun i => bits x (32 + 32 * i) 32
  | 1 => c0 :: (List.range 15).map fun i => wrap 32 (c0 + sext 8 (bits x (64 + 8 * i) 8))
  | 2 => c0 :: (List.range 15).map fun i => wrap 32 (c0 + sext 16 (bits x (64 + 16 * i) 16))
  | _ => List.replicate 16 c0

theorem readChunks_succ (x avail k : Nat) : readChunks x avail (k + 1) =
    if 3 < x % 2 ^ 32 ∨ avail < chunkBytes (x % 2 ^ 32) then none
    else match readChunks (x / 256 ^ chunkBytes (x % 2 ^ 32)) (avail - chunkBytes (x % 2 ^ 32)) k with
      | none => none
      | some (n, rest) => some (chunkBytes (x % 2 ^ 32) + n, chunkRead x ++ rest) := rfl

/-- Every cell's difference from the first fits in `n` bits. -/
def DiffsFit (n : Nat) (c0 : Word) (cs : List Word) : Prop := ∀ c ∈ cs, -(2 ^ (n - 1) : ℤ) ≤ (c - c0).toInt ∧ (c - c0).toInt < 2 ^ (n - 1)

/-- The kinds of a chunk, and what each says of its cells (R91). -/
theorem chunkKind_cases (c0 : Word) (ds : List Word) :
    (chunkKind (c0 :: ds) = 3 ∧ ∀ c ∈ ds, c = c0) ∨ (chunkKind (c0 :: ds) = 1 ∧ DiffsFit 8 c0 ds) ∨
      (chunkKind (c0 :: ds) = 2 ∧ DiffsFit 16 c0 ds) ∨ chunkKind (c0 :: ds) = 0 := by
  unfold chunkKind DiffsFit
  dsimp only [List.headD_cons]
  split
  · rename_i h
    exact .inl ⟨rfl, by simpa using h⟩
  · split
    · rename_i h
      exact .inr (.inl ⟨rfl, fun c hc => by simpa using List.all_eq_true.1 h c (List.mem_cons_of_mem _ hc)⟩)
    · split
      · rename_i h
        exact .inr (.inr (.inl ⟨rfl, fun c hc => by simpa using List.all_eq_true.1 h c (List.mem_cons_of_mem _ hc)⟩))
      · exact .inr (.inr (.inr rfl))

theorem bits_kind {k c0 p : Nat} (hk : k < 2 ^ 32) (hc : c0 < 2 ^ 32) (lo w : Nat) :
    (k + c0 * 2 ^ 32 + p * 2 ^ 64) % 2 ^ 32 = k ∧ bits (k + c0 * 2 ^ 32 + p * 2 ^ 64) 32 32 = c0 ∧
      bits (k + c0 * 2 ^ 32 + p * 2 ^ 64) (64 + lo) w = bits p lo w := by
  have hlow : k + c0 * 2 ^ 32 < 2 ^ 64 := by omega
  refine ⟨by omega, ?_, bits_high p hlow lo w⟩
  rw [bits_low p (by omega)]
  exact (bits_high c0 hk 0 32).trans (bits_zero_of_lt hc)

/-- A chunk of differences of `n` bits. -/
theorem diffs_read {n : Nat} (hn : 0 < n) (h32 : 8 * n ≤ 32) {c0 : Word} {ds : List Word} (hfit : DiffsFit (8 * n) c0 ds) (y m : Nat)
    (hm : n * ds.length ≤ m) (i : Nat) (hi : i < ds.length) :
    wrap 32 ((c0.toNat : ℤ) + sext (8 * n) (bits (packLE n (ds.map fun c => (c - c0).toNat) + y * 2 ^ (8 * m)) (8 * n * i) (8 * n))) = (ds[i]).toNat := by
  have hin : 8 * n * i + 8 * n ≤ 8 * m := by nlinarith
  obtain ⟨hlo, hhi⟩ := hfit ds[i] (List.getElem_mem hi)
  have hget : (ds.map fun c => (c - c0).toNat).getD i 0 = (ds[i] - c0).toNat := by simp [List.getD_eq_getElem?_getD, hi]
  rw [bits_low y hin, bits_packLE, hget, pow_bytes, sext_low (by omega) h32 hlo hhi, wrap_diff]

/-- A chunk whose bytes fit in its length, and of which what follows them does not change what is read (R91). -/
def ReadsBack (cs : List Word) : Prop :=
  chunkValue cs < 256 ^ chunkBytes (chunkKind cs) ∧ ∀ y, (chunkValue cs + y * 256 ^ chunkBytes (chunkKind cs)) % 2 ^ 32 = chunkKind cs ∧
    chunkRead (chunkValue cs + y * 256 ^ chunkBytes (chunkKind cs)) = cs.map (·.toNat)

section
variable {c0 : Word} {ds : List Word}

theorem readsBack_equal (hlen : ds.length = 15) (hk : chunkKind (c0 :: ds) = 3) (hall : ∀ c ∈ ds, c = c0) : ReadsBack (c0 :: ds) := by
  have hc0 : c0.toNat < 2 ^ 32 := c0.isLt
  have hval : chunkValue (c0 :: ds) = 3 + c0.toNat * 2 ^ 32 := by simp [chunkValue, hk]
  have hds : ds = List.replicate 15 c0 := List.eq_replicate_iff.2 ⟨hlen, hall⟩
  unfold ReadsBack
  rw [hval, hk, show chunkBytes 3 = 8 from rfl, show 256 ^ 8 = 2 ^ 64 by norm_num]
  refine ⟨by omega, fun y => ?_⟩
  obtain ⟨hkind, hfirst, -⟩ := bits_kind (k := 3) (p := y) (by norm_num) hc0 0 0
  refine ⟨hkind, ?_⟩
  unfold chunkRead
  rw [hkind, hfirst, hds]
  rfl

/-- The cells of a chunk of differences of `n` bytes, `n` being its kind too. -/
theorem chunkRead_diffs {n : Nat} (hn : n = 1 ∨ n = 2) {x : Nat} (hx : x % 2 ^ 32 = n) : chunkRead x = bits x 32 32 :: (List.range 15).map fun i =>
    wrap 32 (((bits x 32 32 : ℕ) : ℤ) + sext (8 * n) (bits x (64 + 8 * n * i) (8 * n))) := by
  unfold chunkRead
  rcases hn with rfl | rfl
  · rw [hx]
    rfl
  · rw [hx]
    rfl

theorem readsBack_diffs {n : Nat} (hn : n = 1 ∨ n = 2) (hlen : ds.length = 15) (hk : chunkKind (c0 :: ds) = n) (hfit : DiffsFit (8 * n) c0 ds) :
    ReadsBack (c0 :: ds) := by
  have hc0 : c0.toNat < 2 ^ 32 := c0.isLt
  have hval : chunkValue (c0 :: ds) = n + c0.toNat * 2 ^ 32 + packLE n (ds.map fun c => (c - c0).toNat) * 2 ^ 64 := by
    rcases hn with rfl | rfl <;> simp [chunkValue, hk]
  have hbytes : chunkBytes n = 8 + 16 * n := by rcases hn with rfl | rfl <;> rfl
  have hp := packLE_lt n (ds.map fun c => (c - c0).toNat)
  have hread := fun y i hi => diffs_read (by omega) (by omega) hfit y (16 * n) (by rw [hlen]; omega) i hi
  rw [List.length_map, hlen] at hp
  unfold ReadsBack
  rw [hval, hk, hbytes]
  generalize packLE n (ds.map fun c => (c - c0).toNat) = p at hp hread
  have hsplit : ∀ y, n + c0.toNat * 2 ^ 32 + p * 2 ^ 64 + y * 256 ^ (8 + 16 * n) = n + c0.toNat * 2 ^ 32 + (p + y * 2 ^ (8 * (16 * n))) * 2 ^ 64 := by
    intro y
    rw [pow_add, pow_bytes (16 * n)]
    ring
  refine ⟨?_, fun y => ?_⟩
  · have hp' : p < 256 ^ (16 * n) := hp.trans_le (Nat.pow_le_pow_right (by norm_num) (by omega))
    have hle : (p + 1) * 2 ^ 64 ≤ 256 ^ (16 * n) * 2 ^ 64 := Nat.mul_le_mul_right _ hp'
    rw [Nat.add_comm 8, pow_add, show 256 ^ 8 = 2 ^ 64 by norm_num]
    omega
  · have hbits := bits_kind (k := n) (p := p + y * 2 ^ (8 * (16 * n))) (by omega) hc0
    rw [hsplit y]
    refine ⟨(hbits 0 0).1, ?_⟩
    rw [chunkRead_diffs hn (hbits 0 0).1, (hbits 0 0).2.1, List.map_cons, ← hlen]
    exact congrArg _ (map_range_eq fun i hi => by rw [(hbits _ _).2.2]; exact hread y i hi)

theorem whole_shift (p y n : Nat) : p * 2 ^ 32 + y * 256 ^ (4 + n) = 0 + (p + y * 2 ^ (8 * n)) * 2 ^ 32 := by
  rw [pow_add, pow_bytes n]
  ring

theorem readsBack_whole (hlen : ds.length = 15) (hk : chunkKind (c0 :: ds) = 0) : ReadsBack (c0 :: ds) := by
  have hval : chunkValue (c0 :: ds) = packLE 4 ((c0 :: ds).map (·.toNat)) * 2 ^ 32 := by simp [chunkValue, hk]
  have hlen16 : (c0 :: ds).length = 16 := by simp [hlen]
  have hp := packLE_lt 4 ((c0 :: ds).map (·.toNat))
  have hget : ∀ y i (hi : i < (c0 :: ds).length),
      bits (packLE 4 ((c0 :: ds).map (·.toNat)) + y * 2 ^ (8 * 64)) (32 * i) 32 = ((c0 :: ds)[i]).toNat := by
    intro y i hi
    rw [bits_low y (by omega)]
    refine (bits_packLE 4 _ i).trans ?_
    simp only [List.getD_eq_getElem?_getD, List.getElem?_map, List.getElem?_eq_getElem hi, Option.map_some, Option.getD_some]
    exact Nat.mod_eq_of_lt ((c0 :: ds)[i]).isLt
  rw [List.length_map, hlen16] at hp
  unfold ReadsBack
  rw [hval, hk, show chunkBytes 0 = 4 + 64 from rfl]
  generalize packLE 4 ((c0 :: ds).map (·.toNat)) = p at hp hget
  refine ⟨by omega, fun y => ?_⟩
  have hkind : (0 + (p + y * 2 ^ (8 * 64)) * 2 ^ 32) % 2 ^ 32 = 0 := by rw [Nat.zero_add, Nat.mul_mod_left]
  rw [whole_shift]
  refine ⟨hkind, ?_⟩
  unfold chunkRead
  rw [hkind, ← hlen16]
  exact map_range_eq fun i hi => by rw [bits_high _ (by norm_num)]; exact hget y i hi

theorem readsBack (hlen : ds.length = 15) : ReadsBack (c0 :: ds) := by
  rcases chunkKind_cases c0 ds with ⟨hk, hall⟩ | ⟨hk, hfit⟩ | ⟨hk, hfit⟩ | hk
  · exact readsBack_equal hlen hk hall
  · exact readsBack_diffs (.inl rfl) hlen hk hfit
  · exact readsBack_diffs (.inr rfl) hlen hk hfit
  · exact readsBack_whole hlen hk
end

/-! ### A whole record -/

/-- The chunks of a record, each with its length. -/
def recordParts (css : List (List Word)) : List (Nat × Nat) := css.map fun cs => (chunkBytes (chunkKind cs), chunkValue cs)

theorem chunkBytes_le (k : Nat) : chunkBytes k ≤ 68 := by
  unfold chunkBytes
  split <;> omega

theorem chunkBytes_pos (k : Nat) : 0 < chunkBytes k := by
  unfold chunkBytes
  split <;> omega

/-- A record of chunks fits in its length, which 68 bytes a chunk bound, and reads back as their cells. -/
theorem record_roundTrip (css : List (List Word)) (h : ∀ cs ∈ css, cs.length = 16) (y avail : Nat) (ha : (joinBytes (recordParts css)).1 ≤ avail) :
    (joinBytes (recordParts css)).2 < 256 ^ (joinBytes (recordParts css)).1 ∧ (joinBytes (recordParts css)).1 ≤ 68 * css.length ∧
    readChunks ((joinBytes (recordParts css)).2 + y * 256 ^ (joinBytes (recordParts css)).1) avail css.length =
      some ((joinBytes (recordParts css)).1, css.flatMap fun cs => cs.map (·.toNat)) := by
  induction css generalizing avail with
  | nil => simp [recordParts, joinBytes, readChunks]
  | cons cs css ih =>
    obtain ⟨c0, ds, rfl⟩ : ∃ c0 ds, cs = c0 :: ds := List.exists_cons_of_length_eq_add_one (h cs List.mem_cons_self)
    have hlen : ds.length = 15 := by simpa using h (c0 :: ds) List.mem_cons_self
    have hcons : joinBytes (recordParts ((c0 :: ds) :: css)) = (chunkBytes (chunkKind (c0 :: ds)) + (joinBytes (recordParts css)).1,
      chunkValue (c0 :: ds) + (joinBytes (recordParts css)).2 * 256 ^ chunkBytes (chunkKind (c0 :: ds))) := rfl
    rw [hcons] at ha ⊢
    dsimp only at ha ⊢
    obtain ⟨hlt, hle, hread⟩ := ih (fun cs hcs => h cs (List.mem_cons_of_mem _ hcs)) (avail - chunkBytes (chunkKind (c0 :: ds))) (by omega)
    obtain ⟨hclt, hback⟩ := readsBack hlen (c0 := c0)
    obtain ⟨hkind, hcread⟩ := hback ((joinBytes (recordParts css)).2 + y * 256 ^ (joinBytes (recordParts css)).1)
    have hb := chunkBytes_le (chunkKind (c0 :: ds))
    have hk3 : ¬ 3 < chunkKind (c0 :: ds) := by
      rcases chunkKind_cases c0 ds with ⟨hk, -⟩ | ⟨hk, -⟩ | ⟨hk, -⟩ | hk <;> omega
    generalize joinBytes (recordParts css) = r at *
    generalize hn : chunkBytes (chunkKind (c0 :: ds)) = n at *
    have hsplit : chunkValue (c0 :: ds) + r.2 * 256 ^ n + y * 256 ^ (n + r.1) = chunkValue (c0 :: ds) + (r.2 + y * 256 ^ r.1) * 256 ^ n := by ring
    have hpos : 0 < 256 ^ n := by positivity
    refine ⟨?_, by rw [List.length_cons]; omega, ?_⟩
    · rw [pow_add]
      nlinarith
    · rw [hsplit, List.length_cons, readChunks_succ, hkind, hn, if_neg (by omega), Nat.add_mul_div_right _ _ hpos, Nat.div_eq_of_lt hclt, Nat.zero_add,
        hread, hcread]
      rfl

/-! ### The record of a thread -/

/-- The chunks of the first `k` groups of 16 cells. -/
def savedChunks (t : Thread) (k : Nat) : List (List Word) := (List.range k).map (chunkCells t)

theorem savedChunks_cells (t : Thread) (k : Nat) :
    (savedChunks t k).flatMap (fun cs => cs.map (·.toNat)) = (List.range (16 * k)).map fun i => (t.cell i).toNat := by
  induction k with
  | zero => rfl
  | succ k ih =>
    have hstep : savedChunks t (k + 1) = savedChunks t k ++ [chunkCells t k] := by
      rw [savedChunks, List.range_succ, List.map_append]
      rfl
    rw [hstep, List.flatMap_append, ih, Nat.mul_succ, List.range_add, List.map_append]
    simp [chunkCells, Function.comp_def]

/-- The bytes that a record's chunks take, filled up to a multiple of 8 (R91). -/
def savedLen (t : Thread) (k : Nat) : Nat := ((joinBytes (recordParts (savedChunks t k))).1 + 7) / 8 * 8

/-- The trailer of a record (R91). -/
def trailer (ret : DWord) (len d : Nat) : Nat := ret.toNat + len * 2 ^ 64 + d * 2 ^ 96

theorem spillRecord_eq (t : Thread) (k : Nat) (ret : DWord) : spillRecord t (16 * k) ret = (savedLen t k + 16,
    (joinBytes (recordParts (savedChunks t k))).2 + trailer ret (savedLen t k + 16) (16 * k) * 256 ^ savedLen t k) := by
  rw [spillRecord, Nat.mul_div_cancel_left k (by norm_num)]
  simp only [recordParts, savedChunks, savedLen, trailer, List.map_map]
  rfl

section
variable (t : Thread) {k : Nat} (hk : k ≤ 128) (ret : DWord)
include hk

/-- What a record holds: chunks that read back as the cells that it saved, and a trailer. -/
theorem spillRecord_spec : ∃ n x, savedLen t k = (n + 7) / 8 * 8 ∧ savedLen t k ≤ 8704 + 8 ∧ x < 256 ^ savedLen t k ∧
    (∀ y, readChunks (x + y * 256 ^ savedLen t k) (savedLen t k) k = some (n, (List.range (16 * k)).map fun i => (t.cell i).toNat)) ∧
    spillRecord t (16 * k) ret = (savedLen t k + 16, x + trailer ret (savedLen t k + 16) (16 * k) * 256 ^ savedLen t k) := by
  have hlen : (savedChunks t k).length = k := by simp [savedChunks]
  have hchunks : ∀ cs ∈ savedChunks t k, cs.length = 16 := by
    intro cs hcs
    obtain ⟨j, -, rfl⟩ := List.mem_map.1 hcs
    simp [chunkCells]
  have hpad : (joinBytes (recordParts (savedChunks t k))).1 ≤ savedLen t k := by
    unfold savedLen
    omega
  obtain ⟨hlt, hle, -⟩ := record_roundTrip (savedChunks t k) hchunks 0 _ hpad
  refine ⟨_, _, rfl, ?_, hlt.trans_le (Nat.pow_le_pow_right (by norm_num) hpad), fun y => ?_, spillRecord_eq t k ret⟩
  · rw [hlen] at hle
    unfold savedLen
    omega
  · obtain ⟨m, hm⟩ := Nat.exists_eq_add_of_le hpad
    obtain ⟨-, -, hread⟩ := record_roundTrip (savedChunks t k) hchunks (y * 256 ^ m) _ hpad
    rw [hlen, savedChunks_cells] at hread
    have hshift : y * 256 ^ savedLen t k = y * 256 ^ m * 256 ^ (joinBytes (recordParts (savedChunks t k))).1 := by
      rw [Nat.mul_assoc, ← pow_add, Nat.add_comm m, ← hm]
    rw [hshift, hread]

end

/-- The fields of a trailer. -/
theorem trailer_fields (ret : DWord) {len d : Nat} (hlen : len < 2 ^ 32) (hd : d < 2 ^ 16) :
    bits (trailer ret len d) 0 64 = ret.toNat ∧ bits (trailer ret len d) 64 32 = len ∧ bits (trailer ret len d) 96 16 = d ∧ trailer ret len d < 2 ^ 128 := by
  have hret := ret.isLt
  unfold trailer
  have hsplit : ret.toNat + len * 2 ^ 64 + d * 2 ^ 96 = ret.toNat + (len + d * 2 ^ 32) * 2 ^ 64 := by ring
  refine ⟨?_, ?_, ?_, by omega⟩
  · rw [hsplit, bits_low _ (by norm_num), bits_zero_of_lt hret]
  · rw [hsplit]
    refine (bits_high _ hret 0 32).trans ?_
    rw [bits_low _ (by norm_num), bits_zero_of_lt hlen]
  · refine (bits_high d (by omega) 0 16).trans (bits_zero_of_lt hd)

end Sys2Proof.Machine
end

section
/-! SUPPORT. Calls and returns (O14). -/

namespace Sys2Proof.Machine

section
variable {s : State} {v : View} {w : CastWord}

/-! ### Lanes that are all ready -/

theorem missing_ready (ls : List Nat) : missing (ls.map fun l => (l, LaneAct.ready)) = [] := by
  simp [missing]

theorem missingReads_ready (ls : List Nat) : missingReads (ls.map fun l => (l, LaneAct.ready)) = [] := by
  simp [missingReads]

/-- Lanes that are all ready perform in order (R188). -/
theorem View.performLanes_ready (perform : State → Nat → Thread → State × LaneRes) (ls : List Nat) (s : State) :
    v.performLanes perform s (ls.map fun l => (l, .ready)) = v.inOrder perform ls s := by
  induction ls generalizing s with
  | nil => rfl
  | cons l ls ih =>
    rw [List.map_cons, View.performLanes, View.inOrder]
    dsimp only
    rw [ih]

/-- Lanes that perform in order and do not trap leave their threads. -/
theorem View.inOrder_outs {perform : State → Nat → Thread → State × LaneRes} {f : Nat → Thread → Thread}
    (hf : ∀ s l t, (perform s l t).2 = .ok (f l t)) (ls : List Nat) (s : State) :
    (v.inOrder perform ls s).2 = ls.map fun l => (l, .ok (f l (v.g.thread l))) := by
  induction ls generalizing s with
  | nil => rfl
  | cons l ls ih => rw [View.inOrder, List.map_cons, ih, hf]

theorem View.apply_laneGroup (w : CastWord) (f : Nat → Thread → Thread) :
    v.g.apply ((v.active w).map fun l => (l, .ok (f l (v.g.thread l)))) = v.laneGroup w f :=
  Group.apply_ok v.g (v.active w) fun l => f l (v.g.thread l)

/-! ### Calls -/

/-- A thread that has pushed a record of `d` cells (R120). -/
def View.called (v : View) (d : Nat) (t : Thread) : Thread := { t with top := t.top + (spillRecord t d (v.nd.pc + 16)).1 }.raise d

/-- A lane pushes its record and raises its window (R120). -/
def View.pushRecord (v : View) (d : Nat) (s : State) (_ : Nat) (t : Thread) : State × LaneRes :=
  ((v.write s false {} (.glob (spillVa v.l.rec_ t t.top)) (spillRecord t d (v.nd.pc + 16)).1 (spillRecord t d (v.nd.pc + 16)).2).1, .ok (v.called d t))

/-- Every active lane may push its record: the region has room and the bytes translate. -/
def View.callRoom (v : View) (w : CastWord) (d limit : Nat) : Prop :=
  (v.active w ≠ [] → v.spillLimit = ([], limit)) ∧ ∀ l ∈ v.active w,
    (∀ i ∈ (v.g.thread l).badCells, d ≤ i) ∧ (v.g.thread l).top + (spillRecord (v.g.thread l) d (v.nd.pc + 16)).1 ≤ limit ∧
    ∃ ps, v.s.trRange v.c v.g.ctx v.nd.fatal .w (spillVa v.l.rec_ (v.g.thread l) (v.g.thread l).top)
      (spillRecord (v.g.thread l) d (v.nd.pc + 16)).1 = .ok ps

/-- A call whose targets are all good and whose records all fit. -/
theorem View.call_ready {tgt : Nat → Thread → Option (Nat × DWord) × DWord} {limit : Nat} (hroom : v.callRoom w (16 * w.mod.toNat) limit)
    (htgt : ∀ l ∈ v.active w, (tgt l (v.g.thread l)).1 = none) :
    v.call w tgt = v.transfer (v.inOrder (v.pushRecord (16 * w.mod.toNat)) (v.active w) v.s).1
      (v.laneGroup w fun _ t => v.called (16 * w.mod.toNat) t) [] [] ((v.active w).map fun l => (l, (tgt l (v.g.thread l)).2)) w.rj := by
  obtain ⟨hlimit, hlanes⟩ := hroom
  unfold View.call
  dsimp only
  rw [(List.map_congr_left ?ready : List.map _ (v.active w) = (v.active w).map fun l => (l, LaneAct.ready))]
  case ready =>
    intro l hl
    obtain ⟨hbad, hfits, ps, hps⟩ := hlanes l hl
    have hne : v.active w ≠ [] := List.ne_nil_of_mem hl
    have hlim : (if (v.active w).isEmpty = true then ([], 0) else v.spillLimit) = ([], limit) := by rw [if_neg (by simpa using hne), hlimit hne]
    have hany : ((v.g.thread l).badCells.any fun i => decide (i < 16 * w.mod.toNat)) = false :=
      List.any_eq_false.2 fun i hi => by simpa using hbad i hi
    rw [htgt l hl, hlim]
    dsimp only
    rw [hany, if_neg Bool.false_ne_true, if_neg (by simp), if_neg hfits.not_gt, hps]
  rw [missing_ready, missingReads_ready]
  dsimp only
  rw [View.performLanes_ready]
  have houts := View.inOrder_outs (v := v) (perform := v.pushRecord (16 * w.mod.toNat)) (f := fun _ t => v.called (16 * w.mod.toNat) t)
    (fun _ _ _ => rfl) (v.active w) v.s
  change v.transfer (v.inOrder (v.pushRecord (16 * w.mod.toNat)) (v.active w) v.s).1 (v.g.apply (v.inOrder (v.pushRecord (16 * w.mod.toNat)) (v.active w) v.s).2)
    (trapsOf (v.inOrder (v.pushRecord (16 * w.mod.toNat)) (v.active w) v.s).2) []
    (((v.active w).filter fun l => (tfind (trapsOf (v.inOrder (v.pushRecord (16 * w.mod.toNat)) (v.active w) v.s).2) l).isNone).map
      fun l => (l, (tgt l (v.g.thread l)).2)) w.rj = _
  rw [houts, View.apply_laneGroup w fun _ t => v.called (16 * w.mod.toNat) t, trapsOf_ok (v.active w) fun l => v.called (16 * w.mod.toNat) (v.g.thread l),
    (List.filter_eq_self.2 fun _ _ => rfl : (v.active w).filter (fun l => (tfind ([] : Table (Nat × DWord)) l).isNone) = v.active w)]

/-! ### Returns -/

theorem View.ret1_exit {t : Thread} (h : t.top = 16) : v.ret1 t = .exit := if_pos h

/-- Bytes `a` of `n` translate and read as `y`. -/
def View.readsAs (v : View) (a n y : Nat) : Prop := (∃ ps, v.trLoc .r (.glob a) n = .ok ps) ∧ v.peek (.glob a) n = .ok y

/-- Below the top of thread `t` stands the record of `k` groups of cells of `u`, with return address `pc`. -/
def View.holdsRecord (v : View) (t u : Thread) (k : Nat) (pc : DWord) : Prop :=
  16 * k ≤ v.g.win ∧ pc.toNat % 16 = 0 ∧ (spillRecord u (16 * k) pc).1 + 16 ≤ t.top ∧
    v.readsAs (spillVa v.l.rec_ t (t.top - 16)) 16 (bits (spillRecord u (16 * k) pc).2 (8 * ((spillRecord u (16 * k) pc).1 - 16)) 128) ∧
    (k ≠ 0 → v.readsAs (spillVa v.l.rec_ t (t.top - (spillRecord u (16 * k) pc).1)) ((spillRecord u (16 * k) pc).1 - 16)
      (bits (spillRecord u (16 * k) pc).2 0 (8 * ((spillRecord u (16 * k) pc).1 - 16))))

/-- A return finds the record that stands below the top (R121). -/
theorem View.ret1_record {t u : Thread} {k : Nat} {pc : DWord} (hk : k ≤ 128) (h : v.holdsRecord t u k pc) :
    v.ret1 t = .go (spillRecord u (16 * k) pc).1 (16 * k) pc (packLE 4 ((List.range (16 * k)).map fun i => (u.cell i).toNat)) := by
  obtain ⟨n, x, hn, hle, hx, hread, hrec⟩ := spillRecord_spec u hk pc
  obtain ⟨hwin, hpc, htop, ⟨⟨ps, hps⟩, hpeek⟩, hbody⟩ := h
  rw [pow_bytes] at hx hread hrec
  rw [hrec] at htop hpeek hbody ⊢
  dsimp only at htop hpeek hbody ⊢
  rw [Nat.add_sub_cancel] at hpeek hbody
  generalize savedLen u k = len at *
  obtain ⟨hret, hlen, hd, hlt⟩ := trailer_fields pc (len := len + 16) (d := 16 * k) (by omega) (by omega)
  have htrailer : bits (x + trailer pc (len + 16) (16 * k) * 2 ^ (8 * len)) (8 * len) 128 = trailer pc (len + 16) (16 * k) :=
    (bits_high _ hx 0 128).trans (bits_zero_of_lt hlt)
  have hcells : bits (x + trailer pc (len + 16) (16 * k) * 2 ^ (8 * len)) 0 (8 * len) = x :=
    (bits_low _ (by omega)).trans (bits_zero_of_lt hx)
  have hpc64 : trailer pc (len + 16) (16 * k) % 2 ^ 64 = pc.toNat := by simpa [bits] using hret
  rw [htrailer] at hpeek
  rw [hcells] at hbody
  unfold View.ret1
  dsimp only
  rw [if_neg (by omega), hps, hpeek]
  dsimp only
  rw [hpc64, hlen, hd, if_neg (by omega)]
  specialize hread 0
  rw [Nat.zero_mul, Nat.add_zero] at hread
  by_cases hk0 : k = 0
  · subst hk0
    obtain ⟨rfl, -⟩ := Prod.mk.inj (Option.some.inj hread)
    have hlen0 : len = 0 := hn
    rw [if_pos (by omega), if_pos rfl, BitVec.ofNat_toNat, BitVec.setWidth_eq]
    rfl
  · have hlen0 : len ≠ 0 := by
      rintro rfl
      obtain ⟨j, rfl⟩ := Nat.exists_eq_succ_of_ne_zero hk0
      rw [readChunks_succ, if_pos (.inr (chunkBytes_pos _))] at hread
      cases hread
    obtain ⟨⟨qs, hqs⟩, hbytes⟩ := hbody hk0
    rw [if_neg (by omega), Nat.add_sub_cancel, hqs, hbytes]
    dsimp only
    rw [Nat.mul_div_cancel_left k (by norm_num), hread]
    dsimp only
    rw [if_pos (by omega), BitVec.ofNat_toNat, BitVec.setWidth_eq]

/-- A return whose lanes all find a record (R121). -/
theorem exec_ret_go {n k : Nat → Nat} {pc : Nat → DWord} {cells : Nat → Nat} (h : s.decodes (.ret w) v)
    (hret : ∀ l ∈ v.active w, v.ret1 (v.g.thread l) = .go (n l) (k l) (pc l) (cells l)) :
    exec (.ret w) s = .next (v.transfer v.s (v.laneGroup w fun l t => { t with top := t.top - n l }.lower v.g.win (k l) (cells l)) [] []
      ((v.active w).map fun l => (l, pc l)) 0) := by
  have hrs : ((v.active w).map fun l => (l, v.ret1 (v.g.thread l))) = (v.active w).map fun l => (l, RetRes.go (n l) (k l) (pc l) (cells l)) :=
    List.map_congr_left fun l hl => by rw [hret l hl]
  refine (onFrag_uniform h).trans (congrArg Host.Outcome.next ?_)
  dsimp only
  rw [hrs]
  simp only [List.map_map, List.filterMap_map, Function.comp_def]
  rw [missing_ready]
  dsimp only
  have happly := View.apply_laneGroup (v := v) w fun l (t : Thread) => ({ t with top := t.top - n l } : Thread).lower v.g.win (k l) (cells l)
  have htraps := trapsOf_ok (v.active w) fun l => ({ v.g.thread l with top := (v.g.thread l).top - n l } : Thread).lower v.g.win (k l) (cells l)
  dsimp only at happly htraps
  rw [happly, htraps]
  congr 1
  · exact List.filterMap_eq_nil_iff.2 fun _ _ => rfl
  · exact congrFun List.filterMap_eq_map _

/-- A return of lanes with empty stacks ends them (R121). -/
theorem exec_ret_exit (h : s.decodes (.ret w) v) (htop : ∀ l ∈ v.active w, (v.g.thread l).top = 16) :
    exec (.ret w) s = .next (v.transfer v.s (v.laneGroup w fun _ t => t) [] (v.active w) [] 0) := by
  have hrs : ((v.active w).map fun l => (l, v.ret1 (v.g.thread l))) = (v.active w).map fun l => (l, RetRes.exit) :=
    List.map_congr_left fun l hl => by rw [View.ret1_exit (htop l hl)]
  refine (onFrag_uniform h).trans (congrArg Host.Outcome.next ?_)
  dsimp only
  rw [hrs]
  simp only [List.map_map, List.filterMap_map, Function.comp_def]
  rw [missing_ready]
  dsimp only
  rw [View.apply_laneGroup w fun _ t => t, trapsOf_ok (v.active w) fun l => v.g.thread l, List.filterMap_some]
  congr 1
  exact List.filterMap_eq_nil_iff.2 fun _ _ => rfl

end

/-- Settles O14: calls through lanes that all push, returns through the record below the top; a record reads back chunk by chunk. -/
theorem callAndReturnWords : Obligations.CallAndReturnWords := by
  unfold Obligations.CallAndReturnWords
  refine ⟨?_, ?_⟩
  · intro s v w r d there x len room push called holds
    refine ⟨fun h hroom => ?_, fun h hroom hx => ?_, fun t i => t.cell_raise d i, fun t m cells i => ⟨t.cell_lower _ m cells i, t.mem_badCells_lower _ m cells i⟩,
      fun n k pc cells h hret => exec_ret_go h hret, fun u k pc h hrec => ?_, exec_ret_exit⟩
    · obtain ⟨limit, hroom⟩ := hroom
      exact ⟨_, onFrag_uniform h, View.call_ready hroom fun _ _ => rfl⟩
    · obtain ⟨limit, hroom⟩ := hroom
      refine ⟨_, onFrag_uniform h.1, View.call_ready hroom fun l hl => ?_⟩
      obtain ⟨h16, h57⟩ := hx l hl
      dsimp only
      rw [h.2 l hl, if_neg Bool.false_ne_true, targetTrap, if_neg (not_not.2 h16), if_neg h57.not_ge]
    · exact exec_ret_go h fun l hl => View.ret1_record (hrec l hl).1 (hrec l hl).2
  · intro t k ret hk r
    obtain ⟨n, x, hn, hle, hx, hread, hrec⟩ := spillRecord_spec t hk ret
    rw [pow_bytes] at hx hread hrec
    obtain ⟨hret, hlen, hd, -⟩ := trailer_fields ret (len := savedLen t k + 16) (d := 16 * k) (by omega) (by omega)
    have hfields : ∀ lo n, bits (x + trailer ret (savedLen t k + 16) (16 * k) * 2 ^ (8 * savedLen t k)) (8 * savedLen t k + lo) n =
        bits (trailer ret (savedLen t k + 16) (16 * k)) lo n := fun lo n => bits_high _ hx lo n
    simp only [r, hrec, Nat.add_sub_cancel]
    exact ⟨n, _, hread _, by rw [hn], rfl, (hfields 0 64).trans hret, (hfields 64 32).trans hlen, (hfields 96 16).trans hd⟩

end Sys2Proof.Machine
end

section
/-! SUPPORT. Re-slicing keeps the launches and sets the block's grant (R125, R286). -/

namespace Sys2Proof.Machine

/-! ### Blocks -/

theorem State.block_setBlock {s : State} {i b : Nat} {l : Launch} (h : s.launch? i = some l) (x : Block) :
    (s.setBlock i b x).launch? i = some { l with blocks := tput l.blocks b x } ∧ (s.setBlock i b x).block? i b = some x := by
  have hl : (s.setBlock i b x).launch? i = some { l with blocks := tput l.blocks b x } := by
    rw [State.setBlock, h]
    exact State.launch_setLaunch_self ..
  exact ⟨hl, by rw [State.block?, hl]; exact tfind_tput_self ..⟩

theorem State.setBlock_cores (s : State) (i b : Nat) (x : Block) : (s.setBlock i b x).cores = s.cores := by
  unfold State.setBlock
  split <;> rfl

theorem State.setBlock_group (s : State) (i b : Nat) (x : Block) (c sl : Nat) : (s.setBlock i b x).group? c sl = s.group? c sl := by
  rw [State.group?, State.group?, State.core, State.core, State.setBlock_cores]

theorem State.block_setGroup (s : State) (c sl : Nat) (g : Group) (i b : Nat) : (s.setGroup c sl g).block? i b = s.block? i b := rfl

/-- A block that stands belongs to a launch that stands. -/
theorem State.launch_of_block {s : State} {i b : Nat} {x : Block} (h : s.block? i b = some x) : ∃ l, s.launch? i = some l := by
  unfold State.block? at h
  cases hl : s.launch? i with
  | none => rw [hl] at h; cases h
  | some l => exact ⟨l, rfl⟩

/-! ### What re-slicing leaves of the launches -/

/-- Folding steps that keep the launches keeps them. -/
theorem launches_foldl {α : Type} (f : State → α → State) (hf : ∀ s a, (f s a).launches = s.launches) (l : List α) (s : State) :
    (l.foldl f s).launches = s.launches :=
  List.foldlRecOn (motive := fun t : State => t.launches = s.launches) l f rfl fun _ h a _ => (hf _ a).trans h

theorem State.requestPages_launches (s : State) (f ctx source : Nat) (need : Need) (who : Requester) (pages : List Nat) :
    (s.requestPages f ctx source need who pages).launches = s.launches := rfl

theorem State.mapOwner_launches (s : State) (c sl : Nat) (dest : Option Nat) : (s.mapOwner c sl dest).launches = s.launches := rfl

theorem State.moveMerges_launches (s : State) (c sl dest c2 n : Nat) : (s.moveMerges c sl dest c2 n).launches = s.launches := rfl

theorem State.leaveMerges_launches (s : State) (c sl : Nat) : (s.leaveMerges c sl).launches = s.launches := rfl

theorem State.dropClaims_launches (s : State) (c sl : Nat) : (s.dropClaims c sl).launches = s.launches := rfl

theorem State.toRemnant_launches (s : State) (c sl : Nat) (g : Group) : (s.toRemnant c sl g).launches = s.launches := rfl

theorem State.settleOwners_launches (s : State) (c sl : Nat) : (s.settleOwners c sl).launches = s.launches := rfl

theorem State.stackEntry_launches (s : State) (c sl : Nat) (r : LaunchRec) (i : Nat) : (s.stackEntry c sl r i).launches = s.launches := by
  unfold State.stackEntry
  split
  · rfl
  · extract_lets ps misses
    split
    · exact launches_foldl _ (fun t p => (t.stackPart_sameRun _ _ _ _).launches) _ s
    · exact (State.requestPages_launches ..).trans (State.setGroup_launches ..)

theorem State.pushGroup_launches (s : State) (c sl : Nat) (g : Group) (r : LaunchRec) (old : Nat) : (s.pushGroup c sl g r old).launches = s.launches :=
  (launches_foldl _ (fun t _ => t.stackEntry_launches c sl r _) _ _).trans (State.setGroup_launches ..)

theorem State.cross_launches {s t : State} {o p : OldGroup} {c dest : Nat} (h : s.cross o c dest = some (t, p)) : t.launches = s.launches := by
  unfold State.cross at h
  extract_lets x t0 free at h
  split at h
  · rename_i _ _ _ _ _ t1 t2 _
    obtain ⟨ht, -⟩ := Prod.mk.inj (Option.some.inj h)
    have h1 : t1.launches = s.launches := (State.setCore_launches ..).trans (State.mapOwner_launches ..)
    have h2 : t2.launches = t1.launches := by
      simp only [t2]
      split <;> rfl
    rw [← ht]
    exact (State.moveMerges_launches ..).trans (h2.trans h1)
  · cases h

theorem State.unseat_launches (s : State) (coreOf : Nat → Option Nat) (olds : List OldGroup) : (s.unseat coreOf olds).1.launches = s.launches := by
  unfold State.unseat
  refine List.foldlRecOn (motive := fun a : State × List OldGroup => a.1.launches = s.launches) _ _ rfl fun a ha e _ => ?_
  obtain ⟨i, o⟩ := e
  dsimp -zeta only
  extract_lets u drop stay
  have hdrop : ∀ t : State, (drop t).launches = t.launches := fun t => State.setCore_launches ..
  have hstay : ∀ t : State, t.launches = s.launches → (stay t).1.launches = s.launches := by
    intro t ht
    simp only [stay]
    split
    · exact (State.toRemnant_launches ..).trans ht
    · exact (hdrop _).trans ((State.leaveMerges_launches ..).trans ((State.dropClaims_launches ..).trans ht))
  split
  · split
    · exact (hdrop _).trans ha
    · split
      · exact hstay _ ha
      · split
        · rename_i hcross
          exact (hdrop _).trans ((State.cross_launches hcross).trans ha)
        · exact hstay _ ha
  · exact hstay _ ha

theorem State.passEngines_launches (s : State) (olds : List OldGroup) (same moved : Bool) (c sl : Nat) (g : Group) :
    (s.passEngines olds same moved c sl g).launches = s.launches := by
  unfold State.passEngines
  extract_lets got led here nums oc ol t top g'
  exact (State.setGroup_launches ..).trans
    (launches_foldl _ (fun _ _ => (State.moveMerges_launches ..).trans (State.mapOwner_launches ..)) got s)

/-! ### The grant -/

/-- The live threads of a block's groups, as re-slicing seats them, in ascending order. -/
def State.seatsOf (s : State) (i b : Nat) : List Seat :=
  ((s.groupsOf i b).flatMap fun e => (e.2.2.threads.filter (·.2.alive)).filterMap fun y => e.2.2.seat y.1 y.2).foldl (fun acc y => insertSeat y acc) []

/-- Whether groups of width `G` for the block's live threads fit on its cores (R81). -/
def State.widthFits (s : State) (r : LaunchRec) (i b : Nat) (cores : List Nat) (G : Nat) : Prop :=
  (assignGroups r (48 * (cores.headD 0 / 48)) cores (fun c => (s.core c).fits (some (i, b)) r.win G) noHome
    (liveGroups r G (some ((s.seatsOf i b).map (·.t.tid))))).isSome = true

/-- The grant on a block's cores for its live threads, where `home` fixes some threads' cores. -/
def State.regrant (s : State) (r : LaunchRec) (i b : Nat) (cores : List Nat) (home : Nat → Option Nat) : Option (Nat × List (Nat × Nat)) :=
  grantOn r (48 * (cores.headD 0 / 48)) cores (fun c G => (s.core c).fits (some (i, b)) r.win G) (some ((s.seatsOf i b).map (·.t.tid))) home

/-- No width no greater than the one asked for fits where none is granted. -/
theorem State.regrant_none {s : State} {r : LaunchRec} {i b : Nat} {cores : List Nat} (h : s.regrant r i b cores noHome = none) :
    ∀ G ∈ widths, G ≤ r.wreq → ¬ s.widthFits r i b cores G := by
  intro G hG hle hfits
  have hno := List.findSome?_eq_none_iff.1 h G hG
  rw [if_neg hle.not_gt, Option.map_eq_none_iff] at hno
  rw [State.widthFits, hno] at hfits
  cases hfits

/-- The width that is granted is the greatest that fits. -/
theorem State.regrant_some {s : State} {r : LaunchRec} {i b : Nat} {cores : List Nat} {G : Nat} {a : List (Nat × Nat)}
    (h : s.regrant r i b cores noHome = some (G, a)) :
    G ∈ widths ∧ G ≤ r.wreq ∧ s.widthFits r i b cores G ∧ ∀ H ∈ widths, G < H → H ≤ r.wreq → ¬ s.widthFits r i b cores H := by
  obtain ⟨before, G', after, hsplit, hgrant, hno⟩ := List.findSome?_eq_some_iff.1 h
  by_cases hlt : r.wreq < G'
  · rw [if_pos hlt] at hgrant
    cases hgrant
  · rw [if_neg hlt, Option.map_eq_some_iff] at hgrant
    obtain ⟨asg, hasg, heq⟩ := hgrant
    obtain ⟨rfl, rfl⟩ := Prod.mk.inj heq
    have hsorted : widths.Pairwise (· > ·) := by decide
    rw [hsplit] at hsorted ⊢
    refine ⟨by simp, not_lt.1 hlt, by rw [State.widthFits, hasg]; rfl, fun H hH hGH hle hfits => ?_⟩
    have hbefore : H ∈ before := by
      rcases List.mem_append.1 hH with hH | hH
      · exact hH
      · rcases List.mem_cons.1 hH with rfl | hH
        · exact absurd hGH (lt_irrefl _)
        · exact absurd hGH (List.rel_of_pairwise_cons (List.pairwise_append.1 hsorted).2.1 hH).not_gt
    have hnone := hno H hbefore
    rw [if_neg hle.not_gt, Option.map_eq_none_iff] at hnone
    rw [State.widthFits, hnone] at hfits
    cases hfits

/-- Re-slicing where no width fits changes nothing; where one does, the launches change in the block's grant and its rendezvous alone. -/
theorem State.reslice_cases {s : State} {i b wreq : Nat} {l : Launch} {x : Block} {r : LaunchRec} (hl : s.launch? i = some l) (hx : s.block? i b = some x)
    (hr : { l.rec_ with wreq := wreq } = r) :
    (s.regrant r i b x.cores noHome = none ∧ s.reslice i b wreq = s) ∨
    ∃ (G : Nat) (a : List (Nat × Nat)) (u : State), s.regrant r i b x.cores noHome = some (G, a) ∧ u.launches = s.launches ∧
      s.reslice i b wreq = u.setBlock i b { x with grant := G, setwArrived := [], setwReq := 0 } := by
  unfold State.reslice
  rw [hl, hx]
  dsimp -zeta only
  extract_lets olds seats0 seats rec0 r' base grant
  have hseats : seats0 = s.seatsOf i b := by
    simp only [seats0, olds, State.seatsOf, List.flatMap_map]
  have hgrant : grant noHome = s.regrant r i b x.cores noHome := by
    have htids : seats.map (·.t.tid) = (s.seatsOf i b).map (·.t.tid) := by
      simp only [seats, hseats, List.map_map]
      rfl
    subst hr
    simp only [grant, htids]
    rfl
  rw [← hgrant]
  split
  · rename_i h
    exact .inl ⟨h, rfl⟩
  · rename_i G free h
    refine .inr ⟨G, free, ?_⟩
    extract_lets asg coreOf moved t1 news parts same t2 t3
    refine ⟨t3, h, ?_, rfl⟩
    have h0 := State.unseat_launches s coreOf olds
    have h1 : t1.launches = (s.unseat coreOf olds).1.launches :=
      launches_foldl _ (fun u e => (State.pushGroup_launches ..).trans (State.setCore_launches ..)) asg _
    have h2 : t2.launches = t1.launches := launches_foldl _ (fun u e => State.passEngines_launches ..) news t1
    have h3 : t3.launches = t2.launches := launches_foldl _ (fun u e => State.settleOwners_launches ..) news t2
    exact h3.trans (h2.trans (h1.trans h0))

end Sys2Proof.Machine
end

section
/-! SUPPORT. The fragments that a barrier frees (R124). -/

namespace Sys2Proof.Machine

/-! ### Sorted tables -/

theorem tfind_of_sorted {α : Type} {t : Table α} (hs : tsorted t = true) {i : Nat} {x : α} (h : (i, x) ∈ t) : tfind t i = some x := by
  induction t with
  | nil => cases h
  | cons e t ih =>
    rcases List.mem_cons.1 h with rfl | h
    · simp [tfind]
    · have hlt := tsorted_lt hs (i, x) h
      simp only [tfind]
      rw [if_neg (by dsimp only at hlt; omega), ih (tsorted_tail hs) h]

theorem State.core_of_mem {s : State} (hs : tsorted s.cores = true) {e : Nat × Core} (h : e ∈ s.cores) : s.core e.1 = e.2 := by
  rw [State.core, tget, tfind_of_sorted hs h]
  rfl

/-- The groups of every core rise by their slots. -/
theorem State.keysRise.groups {s : State} (h : s.keysRise) (c : Nat) : tsorted (s.core c).groups = true := by
  unfold State.core tget
  cases hc : tfind s.cores c with
  | none => rfl
  | some k => exact h.2 _ (mem_of_tfind hc)

theorem State.keysRise.of_groups {s : State} (hc : tsorted s.cores = true) (hg : ∀ c, tsorted (s.core c).groups = true) : s.keysRise :=
  ⟨hc, fun e he => by rw [← State.core_of_mem hc he]; exact hg e.1⟩

theorem SameRun.keysRise {s t : State} (h : SameRun s t) (k : s.keysRise) : t.keysRise :=
  .of_groups (h.sorted k.1) fun c => by rw [h.groups]; exact k.groups c

theorem State.keysRise.setGroup {s : State} (k : s.keysRise) (c sl : Nat) (g : Group) : (s.setGroup c sl g).keysRise := by
  refine .of_groups (tsorted_tput _ _ k.1) fun d => ?_
  by_cases hd : d = c
  · subst hd
    rw [State.core_setGroup_self]
    exact tsorted_tput _ _ (k.groups d)
  · rw [State.core_setGroup_ne _ _ _ hd]
    exact k.groups d

theorem State.keysRise.setBlock {s : State} (k : s.keysRise) (i b : Nat) (x : Block) : (s.setBlock i b x).keysRise := by
  unfold State.keysRise
  rw [State.setBlock_cores]
  exact k

/-- Where keys rise, what is listed as a group of a block stands in its slot. -/
theorem State.keysRise.group_of_listed {s : State} (k : s.keysRise) {i b c sl : Nat} {g : Group} (h : (c, sl, g) ∈ s.groupsOf i b) : s.group? c sl = some g := by
  obtain ⟨e, he, hmem⟩ := List.mem_flatMap.1 h
  obtain ⟨x, hx, heq⟩ := List.mem_map.1 hmem
  obtain ⟨rfl, rfl, rfl⟩ := heq
  rw [State.group?, State.core_of_mem k.1 he]
  exact tfind_of_sorted (k.2 e he) (List.mem_filter.1 hx).1

/-! ### What a barrier frees -/

/-- An entry that waits at barrier `n` in phase `ph` goes on. -/
def Node.freed (n ph : Nat) (x : Node) : Node := if x.st = .bar n ph then { x with st := .ready, pc := x.pc + 16 } else x

/-- The entries of a group that wait at barrier `n` in phase `ph` go on. -/
def Group.freed (g : Group) (n ph : Nat) : Group := { g with nodes := g.nodes.map (Node.freed n ph), stack := g.stack.map (Node.freed n ph) }

/-- A group of which no entry waits stays. -/
theorem Group.freed_of_none {g : Group} {n ph : Nat} (h : ∀ x ∈ g.nodes ++ g.stack, x.st ≠ .bar n ph) : g.freed n ph = g := by
  have hmap : ∀ xs : List Node, (∀ x ∈ xs, x.st ≠ .bar n ph) → xs.map (Node.freed n ph) = xs := by
    intro xs hxs
    refine (List.map_congr_left fun x hx => if_neg (hxs x hx)).trans (List.map_id' xs)
  unfold Group.freed
  rw [hmap _ fun x hx => h x (List.mem_append_left _ hx), hmap _ fun x hx => h x (List.mem_append_right _ hx)]

/-- One group of the block when a phase ends. -/
def State.freeOne (n ph : Nat) (wide : Bool) (s : State) (e : Nat × Nat × Group) : State :=
  if (e.2.2.nodes ++ e.2.2.stack).any fun x => x.st == .bar n ph then (s.setGroup e.1 e.2.1 (e.2.2.freed n ph)).acquireIf e.1 wide else s

theorem State.freeBar_eq (s : State) (i b n ph : Nat) (wide : Bool) : s.freeBar i b n ph wide = (s.groupsOf i b).foldl (State.freeOne n ph wide) s := by
  unfold State.freeBar
  congr 1
  funext s e
  simp only [State.freeOne, Group.freed, beq_iff_eq]
  rfl

section
variable {s : State} {n ph c sl : Nat} {wide : Bool} {g : Group} {e : Nat × Nat × Group}

theorem State.freeOne_launches : (s.freeOne n ph wide e).launches = s.launches := by
  unfold State.freeOne
  split
  · exact (State.acquireIf_sameRun _ _ _).launches
  · rfl

/-- Freeing another group leaves this one. -/
theorem State.freeOne_other (h : ¬ (c = e.1 ∧ sl = e.2.1)) : (s.freeOne n ph wide e).group? c sl = s.group? c sl := by
  unfold State.freeOne
  split
  · rw [(State.acquireIf_sameRun _ _ _).group?]
    by_cases hc : c = e.1
    · subst hc
      exact State.group_setGroup_ne_slot _ _ fun hsl => h ⟨rfl, hsl⟩
    · exact State.group_setGroup_ne_core _ _ hc
  · rfl

/-- Freeing a group, whether or not it is freed already. -/
theorem State.freeOne_self (h : s.group? c sl = some g ∨ s.group? c sl = some (g.freed n ph)) :
    (s.freeOne n ph wide (c, sl, g)).group? c sl = some (g.freed n ph) := by
  unfold State.freeOne
  split
  · rw [(State.acquireIf_sameRun _ _ _).group?, State.group_setGroup_self]
  · rename_i hnone
    have hfreed : g.freed n ph = g := Group.freed_of_none fun x hx heq => hnone (List.any_eq_true.2 ⟨x, hx, by simp [heq]⟩)
    rw [hfreed] at h ⊢
    exact h.elim id id

/-- After all groups of a list are freed, a group is freed where it is listed, or was freed before. -/
theorem foldl_freeOne (es : List (Nat × Nat × Group)) (hsame : ∀ e ∈ es, c = e.1 → sl = e.2.1 → e.2.2 = g)
    (h : s.group? c sl = some (g.freed n ph) ∨ s.group? c sl = some g ∧ (c, sl, g) ∈ es) :
    (es.foldl (State.freeOne n ph wide) s).group? c sl = some (g.freed n ph) := by
  induction es generalizing s with
  | nil => simpa using h
  | cons e es ih =>
    refine ih (fun x hx => hsame x (List.mem_cons_of_mem e hx)) ?_
    by_cases he : c = e.1 ∧ sl = e.2.1
    · obtain ⟨c', sl', g'⟩ := e
      obtain ⟨rfl, rfl⟩ := he
      obtain rfl := hsame _ List.mem_cons_self rfl rfl
      exact .inl (State.freeOne_self (h.symm.imp (·.1) id))
    · rw [State.freeOne_other he]
      refine h.imp_right fun hin => ⟨hin.1, (List.mem_cons.1 hin.2).resolve_left fun heq => he ?_⟩
      rw [← heq]
      exact ⟨rfl, rfl⟩

/-- When a phase ends, every group of the block that is no remnant goes on where it waits in it. -/
theorem State.freeBar_group (k : s.keysRise) (hg : s.group? c sl = some g) (hr : g.remnant = false) :
    (s.freeBar g.launch g.block n ph wide).group? c sl = some (g.freed n ph) := by
  rw [State.freeBar_eq]
  refine foldl_freeOne _ (fun e he hc hsl => ?_) (.inr ⟨hg, State.mem_groupsOf hg hr⟩)
  obtain ⟨c', sl', g'⟩ := e
  subst hc
  subst hsl
  exact Option.some.inj ((k.group_of_listed he).symm.trans hg)

theorem State.freeBar_launches (i b : Nat) : (s.freeBar i b n ph wide).launches = s.launches := by
  rw [State.freeBar_eq]
  exact launches_foldl _ (fun _ _ => State.freeOne_launches) _ s
end

/-! ### The end of a phase -/

section
variable {s : State} {i b n : Nat} {l : Launch} {x : Block}

/-- Before the last arrival a barrier stays. -/
theorem State.checkBar_waits (hl : s.launch? i = some l) (hx : s.block? i b = some x) (hall : x.allIn l.rec_.blockSize (x.bar n).arrived = false) (fuel : Nat) :
    s.checkBar i b n fuel = s := by
  cases fuel with
  | zero => rfl
  | succ fuel =>
    rw [State.checkBar, hl, hx]
    dsimp only
    rw [hall, if_neg Bool.false_ne_true]

/-- The barrier after a phase in which no thread arrived twice. -/
def Barrier.next (x : Barrier) : Barrier := { phase := (x.phase + 1) % 65536, arrived := [], later := [] }

theorem Block.allIn_nil (x : Block) (size : Nat) : x.allIn size [] = false := rfl

theorem Block.bar_tput (x : Block) (n : Nat) (y : Barrier) : ({ x with bars := tput x.bars n y } : Block).bar n = y := tget_tput_self ..

/-- A block whose barrier `n` has ended its phase. -/
def Block.passed (x : Block) (n : Nat) : Block := { x with bars := tput x.bars n (x.bar n).next }

/-- At the last arrival the phase ends. -/
theorem State.checkBar_ends (hl : s.launch? i = some l) (hx : s.block? i b = some x) (hall : x.allIn l.rec_.blockSize (x.bar n).arrived = true)
    (hlater : (x.bar n).later = []) (fuel : Nat) :
    s.checkBar i b n (fuel + 1) = (s.setBlock i b (x.passed n)).freeBar i b n (x.bar n).phase l.rec_.wideScope ∧
      (s.checkBar i b n (fuel + 1)).block? i b = some (x.passed n) := by
  obtain ⟨hl', hx'⟩ := State.block_setBlock hl (x.passed n)
  have hlaunches : ∀ j, ((s.setBlock i b (x.passed n)).freeBar i b n (x.bar n).phase l.rec_.wideScope).launch? j =
      (s.setBlock i b (x.passed n)).launch? j := fun j => by
    rw [State.launch?, State.freeBar_launches]
    rfl
  have hblock : ((s.setBlock i b (x.passed n)).freeBar i b n (x.bar n).phase l.rec_.wideScope).block? i b = some (x.passed n) := by
    rw [State.block?, hlaunches]
    exact hx'
  have hend : s.checkBar i b n (fuel + 1) = (s.setBlock i b (x.passed n)).freeBar i b n (x.bar n).phase l.rec_.wideScope := by
    rw [State.checkBar, hl, hx]
    dsimp only
    rw [hall, if_pos rfl, hlater]
    refine State.checkBar_waits (x := x.passed n) ((hlaunches i).trans hl') hblock ?_ fuel
    rw [Block.passed, Block.bar_tput]
    exact Block.allIn_nil _ _
  exact ⟨hend, by rw [hend, hblock]⟩

end

end Sys2Proof.Machine
end

section
/-! SUPPORT. Arrivals at a barrier (R124). -/

namespace Sys2Proof.Machine

section
variable {s : State} {v : View} {b : Block} {n : Nat}

/-- The fragment at a barrier: at its next word where it goes on. -/
def View.stands (v : View) (st : NodeState) : Node := { v.nd with st := st, pc := if st = .ready then v.nd.pc + 16 else v.nd.pc, fatal := [] }

/-- The THREADIDs of the fragment's lanes. -/
def View.tids (v : View) : List Nat := v.lanes.map fun l => (v.g.thread l).tid

/-- The state once the fragment has released its events and is counted at its block's rendezvous: the block is `x`, and the fragment `nd`. -/
def View.counted (v : View) (x : Block) (nd : Node) : State :=
  ((v.s.releaseIf v.c v.l.rec_.wideScope).setBlock v.g.launch v.g.block x).setGroup v.c v.slot (v.g.setNode nd)

/-! ### A fragment that is counted -/

theorem View.counted_group (x : Block) (nd : Node) : (v.counted x nd).group? v.c v.slot = some (v.g.setNode nd) := State.group_setGroup_self ..

theorem View.counted_block (hv : s.view = some v) (x : Block) (nd : Node) :
    (∃ l, (v.counted x nd).launch? v.g.launch = some l ∧ l.rec_ = v.l.rec_) ∧ (v.counted x nd).block? v.g.launch v.g.block = some x := by
  obtain ⟨-, -, hl⟩ := State.view_spec hv
  have hrel : (v.s.releaseIf v.c v.l.rec_.wideScope).launch? v.g.launch = some v.l := ((State.releaseIf_sameRun ..).launch? _).trans hl
  obtain ⟨hl', hx'⟩ := State.block_setBlock (b := v.g.block) hrel x
  exact ⟨⟨_, hl', rfl⟩, hx'⟩

theorem View.counted_keysRise (hv : s.view = some v) (k : s.keysRise) (x : Block) (nd : Node) : (v.counted x nd).keysRise := by
  rw [← State.view_s hv] at k
  exact (((State.releaseIf_sameRun ..).keysRise k).setBlock _ _ _).setGroup _ _ _

/-- The groups of the machine once a fragment is counted. -/
theorem View.counted_groups (hv : s.view = some v) (x : Block) (nd : Node) {c sl : Nat} {g : Group} (hg : s.group? c sl = some g) :
    (v.counted x nd).group? c sl = some (if c = v.c ∧ sl = v.slot then v.g.setNode nd else g) := by
  have hbase : ((v.s.releaseIf v.c v.l.rec_.wideScope).setBlock v.g.launch v.g.block x).group? c sl = some g := by
    rw [State.setBlock_group, (State.releaseIf_sameRun ..).group?, State.view_s hv, hg]
  by_cases hc : c = v.c
  · subst hc
    by_cases hsl : sl = v.slot
    · subst hsl
      rw [if_pos ⟨rfl, rfl⟩, View.counted_group]
    · rw [if_neg fun h => hsl h.2, View.counted, State.group_setGroup_ne_slot _ _ hsl, hbase]
  · rw [if_neg fun h => hc h.1, View.counted, State.group_setGroup_ne_core _ _ hc, hbase]

/-! ### bar and arrive -/

/-- The barrier once the fragment's threads are counted in its phase. -/
def Barrier.withFirst (x : Barrier) (tids : List Nat) : Barrier := { x with arrived := sunion x.arrived tids }

/-- The barrier once the fragment's threads are counted in its next phase. -/
def Barrier.withAgain (x : Barrier) (tids : List Nat) : Barrier := { x with later := sunion x.later tids }

theorem View.put_stands (v : View) (st : NodeState) :
    ({ v.nd with st := st, pc := if (st == .ready) = true then v.nd.pc + 16 else v.nd.pc, fatal := [] } : Node) = v.stands st := by
  simp only [View.stands, beq_iff_eq]

/-- A group with one entry put back has no longer stack: it is put into its slot. -/
theorem View.guardPush_setNode (nd : Node) (t : State) :
    v.guardPush (v.g.setNode nd) ((t.putGroup { v with s := t } (v.g.setNode nd)).checkBar v.g.launch v.g.block n 2) =
      (t.setGroup v.c v.slot (v.g.setNode nd)).checkBar v.g.launch v.g.block n 2 := by
  have hlen : (v.g.setNode nd).stack.length ≤ v.g.stack.length := by simp [Group.setNode]
  rw [View.guardPush, State.pushNeeds_short hlen, State.putGroup, State.pushGroup_short hlen]

/-- Arrivals of threads that are not counted in the phase yet. -/
theorem View.arrive_first (hb : v.s.block? v.g.launch v.g.block = some b) (hnew : ∀ i ∈ v.tids, i ∉ (b.bar n).arrived) (waits : Bool) :
    v.arrive n waits = (v.counted { b with bars := tput b.bars n ((b.bar n).withFirst v.tids) }
      (v.stands (if waits then .bar n (b.bar n).phase else .ready))).checkBar v.g.launch v.g.block n 2 := by
  have hnew' : ∀ l ∈ v.lanes, (b.bar n).arrived.contains (v.g.thread l).tid = false := fun l hl => by
    simpa using hnew _ (List.mem_map.2 ⟨l, hl, rfl⟩)
  have hagain : (v.lanes.filter fun l => (b.bar n).arrived.contains (v.g.thread l).tid) = [] := List.filter_eq_nil_iff.2 fun l hl => by simp only [hnew' l hl]; simp
  have hfirst : (v.lanes.filter fun l => !(b.bar n).arrived.contains (v.g.thread l).tid) = v.lanes := List.filter_eq_self.2 fun l hl => by simp only [hnew' l hl]; rfl
  unfold View.arrive
  rw [hb]
  dsimp only
  rw [hagain, hfirst, if_pos List.isEmpty_nil, View.put_stands, View.guardPush_setNode]
  rfl

/-- Arrivals of threads that are all counted in the phase already. -/
theorem View.arrive_again (hb : v.s.block? v.g.launch v.g.block = some b) (hne : v.tids ≠ []) (hin : ∀ i ∈ v.tids, i ∈ (b.bar n).arrived) (waits : Bool) :
    v.arrive n waits = (v.counted { b with bars := tput b.bars n ((b.bar n).withAgain v.tids) }
      (v.stands (if waits then .bar n (((b.bar n).phase + 1) % 65536) else .bar n (b.bar n).phase))).checkBar v.g.launch v.g.block n 2 := by
  have hin' : ∀ l ∈ v.lanes, (b.bar n).arrived.contains (v.g.thread l).tid = true := fun l hl => by
    simpa using hin _ (List.mem_map.2 ⟨l, hl, rfl⟩)
  have hagain : (v.lanes.filter fun l => (b.bar n).arrived.contains (v.g.thread l).tid) = v.lanes := List.filter_eq_self.2 hin'
  have hfirst : (v.lanes.filter fun l => !(b.bar n).arrived.contains (v.g.thread l).tid) = [] :=
    List.filter_eq_nil_iff.2 fun l hl => by simp only [hin' l hl]; simp
  have hlanes : v.lanes.isEmpty = false := by simpa [View.tids] using hne
  unfold View.arrive
  rw [hb]
  dsimp only
  rw [hagain, hfirst, hlanes, if_neg Bool.false_ne_true, if_pos List.isEmpty_nil, View.put_stands, View.guardPush_setNode]
  rfl

/-- What a fragment that is counted leaves before the phase ends. -/
theorem View.counted_waits (hv : s.view = some v) (x : Barrier) (nd : Node) (hall : b.allIn v.l.rec_.blockSize x.arrived = false) :
    ((v.counted { b with bars := tput b.bars n x } nd).checkBar v.g.launch v.g.block n 2).group? v.c v.slot = some (v.g.setNode nd) ∧
    (((v.counted { b with bars := tput b.bars n x } nd).checkBar v.g.launch v.g.block n 2).block? v.g.launch v.g.block).map (fun b => b.bar n) = some x := by
  obtain ⟨⟨l, hl, hrec⟩, hx⟩ := View.counted_block hv { b with bars := tput b.bars n x } nd
  rw [State.checkBar_waits hl hx (by rw [Block.bar_tput, hrec]; exact hall), View.counted_group, hx, Option.map_some, Block.bar_tput]
  exact ⟨rfl, rfl⟩

/-! ### The last arrival -/

/-- Entries that are alike once freed leave groups that are alike once freed. -/
theorem Group.freed_setNode {g : Group} {x y : Node} {n ph : Nat} (hid : x.id = y.id) (h : x.freed n ph = y.freed n ph) :
    (g.setNode x).freed n ph = (g.setNode y).freed n ph := by
  have hmap : ∀ ns : List Node, (ns.map fun m => if m.id = x.id then x else m).map (Node.freed n ph) =
      (ns.map fun m => if m.id = y.id then y else m).map (Node.freed n ph) := by
    intro ns
    rw [List.map_map, List.map_map, hid]
    refine List.map_congr_left fun m _ => ?_
    dsimp only [Function.comp]
    split
    · exact h
    · rfl
  unfold Group.freed Group.setNode
  dsimp only
  rw [hmap, hmap]

/-- A fragment that waits in the phase, and one that goes on, are alike once freed. -/
theorem View.freed_stands (v : View) (n ph : Nat) (waits : Bool) : (v.stands (if waits then .bar n ph else .ready)).freed n ph = v.onward.freed n ph := by
  have honward : v.onward.freed n ph = v.onward := if_neg (by simp [View.onward])
  rw [honward]
  cases waits with
  | true => exact if_pos rfl
  | false => exact if_neg (by simp [View.stands])

/-- At the last arrival the phase ends, and every fragment of the block that waits in it goes on. -/
theorem View.counted_ends (hv : s.view = some v) (k : s.keysRise) (waits : Bool)
    (hall : b.allIn v.l.rec_.blockSize (sunion (b.bar n).arrived v.tids) = true) (hlater : (b.bar n).later = []) {t : State}
    (ht : t = (v.counted { b with bars := tput b.bars n ((b.bar n).withFirst v.tids) }
      (v.stands (if waits then .bar n (b.bar n).phase else .ready))).checkBar v.g.launch v.g.block n 2) :
    (t.block? v.g.launch v.g.block).map (fun b => b.bar n) = some (b.bar n).next ∧
    ∀ c sl g, s.group? c sl = some g → g.launch = v.g.launch → g.block = v.g.block → g.remnant = false → v.g.remnant = false →
      t.group? c sl = some ((if c = v.c ∧ sl = v.slot then v.g.setNode v.onward else g).freed n (b.bar n).phase) := by
  generalize hnd : v.stands (if waits then .bar n (b.bar n).phase else .ready) = nd at ht
  generalize hx' : ({ b with bars := tput b.bars n ((b.bar n).withFirst v.tids) } : Block) = x at ht
  have hbar : x.bar n = (b.bar n).withFirst v.tids := by rw [← hx', Block.bar_tput]
  obtain ⟨⟨l, hl, hrec⟩, hx⟩ := View.counted_block hv x nd
  have hin : x.allIn l.rec_.blockSize (x.bar n).arrived = true := by
    rw [hbar, hrec, ← hx']
    exact hall
  obtain ⟨hend, hblock⟩ := State.checkBar_ends hl hx hin (by rw [hbar]; exact hlater) 1
  refine ⟨?_, fun c sl g hg hgl hgb hr hvr => ?_⟩
  · rw [ht, hblock, Option.map_some, Block.passed, Block.bar_tput, hbar]
    rfl
  · have hgroups := View.counted_groups hv x nd hg
    rw [ht, hend, hbar]
    generalize hg1 : (if c = v.c ∧ sl = v.slot then v.g.setNode nd else g) = g1 at hgroups
    have hfreed : g1.freed n (b.bar n).phase = (if c = v.c ∧ sl = v.slot then v.g.setNode v.onward else g).freed n (b.bar n).phase := by
      rw [← hg1, ← hnd]
      split
      · exact Group.freed_setNode rfl (v.freed_stands n _ waits)
      · rfl
    have hsame : g1.launch = v.g.launch ∧ g1.block = v.g.block ∧ g1.remnant = false := by
      rw [← hg1]
      split
      · exact ⟨rfl, rfl, hvr⟩
      · exact ⟨hgl, hgb, hr⟩
    obtain ⟨h1, h2, h3⟩ := hsame
    rw [← hfreed, ← h1, ← h2]
    refine State.freeBar_group ((View.counted_keysRise hv k x nd).setBlock _ _ _) ?_ h3
    rw [State.setBlock_group, hgroups]

end

end Sys2Proof.Machine
end

section
/-! O15: bar, arrive and setw. -/

namespace Sys2Proof.Machine

/-! ### The setw rendezvous (R125) -/

section
variable {s : State} {v : View} {w : CastWord} {b : Block} {i n req : Nat} {l : Launch} {x : Block}

/-- Before the last arrival a rendezvous stays. -/
theorem State.checkSetw_waits (hl : s.launch? i = some l) (hx : s.block? i n = some x) (hall : x.allIn l.rec_.blockSize x.setwArrived = false) :
    s.checkSetw i n = s := by
  rw [State.checkSetw, hl, hx]
  dsimp only
  rw [hall, if_neg Bool.false_ne_true]

/-- What re-slicing makes of a block: it stays where no width fits, and else takes its grant and starts its rendezvous anew. -/
theorem State.reslice_block {wreq : Nat} {r : LaunchRec} (hl : s.launch? i = some l) (hx : s.block? i n = some x) (hr : { l.rec_ with wreq := wreq } = r) :
    (s.regrant r i n x.cores noHome = none ∧ (s.reslice i n wreq).block? i n = some x) ∨
    ∃ (G : Nat) (a : List (Nat × Nat)), s.regrant r i n x.cores noHome = some (G, a) ∧
      (s.reslice i n wreq).block? i n = some { x with grant := G, setwArrived := [], setwReq := 0 } := by
  rcases State.reslice_cases hl hx hr with ⟨hnone, hstay⟩ | ⟨G, a, u, hsome, hu, hset⟩
  · exact .inl ⟨hnone, by rw [hstay, hx]⟩
  · have hul : u.launch? i = some l := by rw [State.launch?, hu]; exact hl
    exact .inr ⟨G, a, hsome, by rw [hset]; exact (State.block_setBlock hul _).2⟩

/-- At the last arrival the block is re-sliced, and its cores acquire where that ends the rendezvous. -/
theorem State.checkSetw_all (hl : s.launch? i = some l) (hx : s.block? i n = some x) (hall : x.allIn l.rec_.blockSize x.setwArrived = true) :
    s.checkSetw i n = if ((s.reslice i n x.setwReq).block? i n).any (fun y => y.setwArrived.isEmpty) = true
      then x.cores.foldl (fun s c => s.acquireIf c l.rec_.wideScope) (s.reslice i n x.setwReq) else s := by
  have hblock : ∃ y, (s.reslice i n x.setwReq).block? i n = some y := by
    rcases State.reslice_block hl hx rfl with ⟨-, h⟩ | ⟨G, a, -, h⟩
    · exact ⟨_, h⟩
    · exact ⟨_, h⟩
  obtain ⟨y, hy⟩ := hblock
  rw [State.checkSetw, hl, hx]
  dsimp only
  rw [hall, if_pos rfl, hy, Option.all_some, Option.any_some]

/-- The block once the fragment's threads have arrived at its rendezvous and asked for a width. -/
def View.setwBlock (v : View) (b : Block) (req : Nat) : Block :=
  { b with setwArrived := sunion b.setwArrived v.tids, setwReq := if b.setwArrived = [] then req else min b.setwReq req }

/-- The fragment at the rendezvous. -/
def View.atSetw (v : View) : Node := { v.nd with st := .setw, fatal := [] }

theorem exec_setw_illegal (h : s.decodes (.setw w) v) (hreq : kOrImmVal v.g w ∉ widths) : exec (.setw w) s = .next (v.trapAll causeIllop 0) := by
  refine (onFrag_uniform h).trans (congrArg Host.Outcome.next ?_)
  dsimp only
  rw [if_pos (by simpa using hreq)]

theorem exec_setw_legal (h : s.decodes (.setw w) v) (hb : s.block? v.g.launch v.g.block = some b) (hreq : kOrImmVal v.g w ∈ widths) :
    exec (.setw w) s = .next ((v.counted (v.setwBlock b (kOrImmVal v.g w)) v.atSetw).checkSetw v.g.launch v.g.block) := by
  refine (onFrag_uniform h).trans (congrArg Host.Outcome.next ?_)
  dsimp only
  rw [if_neg (by simpa using hreq), State.view_s h.1, hb]
  dsimp only
  simp only [List.isEmpty_iff]
  rw [← State.view_s h.1]
  rfl

/-- A fragment at setw waits before the last thread of its block has arrived. -/
theorem setw_waits (hv : s.view = some v) (hall : b.allIn v.l.rec_.blockSize (sunion b.setwArrived v.tids) = false) :
    (v.counted (v.setwBlock b req) v.atSetw).checkSetw v.g.launch v.g.block = v.counted (v.setwBlock b req) v.atSetw := by
  obtain ⟨⟨l, hl, hrec⟩, hx⟩ := View.counted_block hv (v.setwBlock b req) v.atSetw
  exact State.checkSetw_waits hl hx (by rw [hrec]; exact hall)

/-- The last arrival at setw re-slices the block. -/
theorem setw_last (hv : s.view = some v) (hall : b.allIn v.l.rec_.blockSize (sunion b.setwArrived v.tids) = true) {t u : State}
    (ht : v.counted (v.setwBlock b req) v.atSetw = t) (hu : t.reslice v.g.launch v.g.block (v.setwBlock b req).setwReq = u) :
    t.checkSetw v.g.launch v.g.block = if (u.block? v.g.launch v.g.block).any (fun y => y.setwArrived.isEmpty) = true
      then b.cores.foldl (fun s c => s.acquireIf c v.l.rec_.wideScope) u else t := by
  obtain ⟨⟨l, hl, hrec⟩, hx⟩ := View.counted_block hv (v.setwBlock b req) v.atSetw
  rw [ht] at hl hx
  rw [State.checkSetw_all hl hx (by rw [hrec]; exact hall), hu, hrec]
  rfl

/-- The block takes the greatest width, no greater than the one asked for, that fits on its cores; where none fits it stays. -/
theorem setw_block (hv : s.view = some v) {t : State} (ht : v.counted (v.setwBlock b req) v.atSetw = t) {r : LaunchRec}
    (hr : { v.l.rec_ with wreq := (v.setwBlock b req).setwReq } = r) {y : Block}
    (hy : (t.reslice v.g.launch v.g.block (v.setwBlock b req).setwReq).block? v.g.launch v.g.block = some y) :
    (y = v.setwBlock b req ∧ ∀ G ∈ widths, G ≤ r.wreq → ¬ t.widthFits r v.g.launch v.g.block b.cores G) ∨
    (y.grant ∈ widths ∧ y.grant ≤ r.wreq ∧ t.widthFits r v.g.launch v.g.block b.cores y.grant ∧
      (∀ G ∈ widths, y.grant < G → G ≤ r.wreq → ¬ t.widthFits r v.g.launch v.g.block b.cores G) ∧
      y = { b with grant := y.grant, setwArrived := [], setwReq := 0 }) := by
  obtain ⟨⟨l, hl, hrec⟩, hx⟩ := View.counted_block hv (v.setwBlock b req) v.atSetw
  rw [ht] at hl hx
  rw [← hrec] at hr
  rcases State.reslice_block hl hx hr with ⟨hnone, h⟩ | ⟨G, a, hsome, h⟩
  · exact .inl ⟨(Option.some.inj (h.symm.trans hy)).symm, State.regrant_none hnone⟩
  · obtain rfl := Option.some.inj (h.symm.trans hy)
    obtain ⟨hmem, hle, hfits, hmax⟩ := State.regrant_some hsome
    exact .inr ⟨hmem, hle, hfits, hmax, rfl⟩

end

/-! ### bar and arrive (R124) -/

theorem exec_bar {s : State} {v : View} {w : CastWord} (h : s.decodes (.bar w) v) : exec (.bar w) s = .next (v.arrive (w.imm.toNat % 16) true) := by
  refine (onFrag_uniform h).trans ?_
  rw [BitVec.toNat_and]
  exact congrArg (fun n => Host.Outcome.next (v.arrive n true)) (Nat.and_two_pow_sub_one_eq_mod _ 4)

theorem exec_arrive {s : State} {v : View} {w : CastWord} (h : s.decodes (.arrive w) v) : exec (.arrive w) s = .next (v.arrive (w.imm.toNat % 16) false) := by
  refine (onFrag_uniform h).trans ?_
  rw [BitVec.toNat_and]
  exact congrArg (fun n => Host.Outcome.next (v.arrive n false)) (Nat.and_two_pow_sub_one_eq_mod _ 4)

/-- Settles O15: a counted fragment waits, goes on, or ends the phase; the last arrival at setw re-slices to the greatest width that fits. -/
theorem rendezvousWords : Obligations.RendezvousWords := by
  unfold Obligations.RendezvousWords
  intro s v w b hb n tids x size waiting bars freed goesOn
  have hbv : ∀ {i : Instr}, s.decodes i v → v.s.block? v.g.launch v.g.block = some b := fun h => by rw [State.view_s h.1]; exact hb
  refine ⟨fun hnew => ⟨fun h hall => ⟨_, exec_bar h, ?_⟩, fun h hall => ⟨_, exec_arrive h, ?_⟩, ?_⟩,
    fun hne hin hall => ⟨fun h => ⟨_, exec_bar h, ?_⟩, fun h => ⟨_, exec_arrive h, ?_⟩⟩, ?_⟩
  · rw [View.arrive_first (hbv h) hnew]
    exact View.counted_waits h.1 _ _ hall
  · rw [View.arrive_first (hbv h) hnew]
    exact View.counted_waits h.1 _ _ hall
  · intro i hi h hall hlater k hr
    have hexec : ∃ waits, exec i s = .next (v.arrive (w.imm.toNat % 16) waits) := by
      rcases List.mem_pair.1 hi with rfl | rfl
      · exact ⟨true, exec_bar h⟩
      · exact ⟨false, exec_arrive h⟩
    obtain ⟨waits, hexec⟩ := hexec
    obtain ⟨hbars, hgroups⟩ := View.counted_ends h.1 k waits hall hlater (View.arrive_first (hbv h) hnew waits)
    exact ⟨_, hexec, hbars, fun c sl g hg hgl hgb hrem => ⟨_, hgroups c sl g hg hgl hgb hrem hr, rfl⟩⟩
  · rw [View.arrive_again (hbv h) hne hin]
    exact View.counted_waits h.1 _ _ hall
  · rw [View.arrive_again (hbv h) hne hin]
    exact View.counted_waits h.1 _ _ hall
  · intro h req all
    refine ⟨exec_setw_illegal h, fun hreq hall => ⟨_, exec_setw_legal h hb hreq, ?_⟩, fun hreq hall => ?_⟩
    · rw [setw_waits h.1 hall]
      exact ⟨View.counted_group _ _, (View.counted_block h.1 _ _).2⟩
    · intro arrived u live fits
      exact ⟨fun y hy => setw_block h.1 rfl rfl hy, _, exec_setw_legal h hb hreq, setw_last h.1 hall rfl rfl⟩

end Sys2Proof.Machine
end

section
/-! SUPPORT. Register words complete; the restoring division, and the integer arithmetic (O2). -/

namespace Sys2Proof.Machine

/-! ### Words of registers -/

section
variable {s : State} {v : View} {i : Instr} {w : CastWord}

/-- A word whose meaning is one result in each lane completes with that result. -/
theorem completes_of_lane {F : View → Nat → Thread → LaneRes} {f : Nat → Thread → Thread}
    (hexec : exec i s = onFrag s fun v => v.lane i w (F v)) (hF : ∀ l t, F v l t = .ok (f l t)) : Completes s v i w f :=
  fun h => hexec.trans (onFrag_lane_done h fun l _ => hF l _)

/-- A word of two typed sources completes with `res` of its function of them (R140). -/
theorem intTwo_completes {sat : Bool} (f : ℤ → ℤ → ℤ) (hexec : exec i s = intTwo i w sat f s) :
    Completes s v i w fun _ t => t.setInt w (resOf w.ty (widthOf w.ty w.lc) sat
      (f (valOf w.ty (widthOf w.ty w.lc) (srcA i v.g w t (cellsOf w.lc))) (valOf w.ty (widthOf w.ty w.lc) (srcB i v.g w t (cellsOf w.lc))))) :=
  completes_of_lane hexec fun _ _ => rfl

/-- A word of one typed source completes with `res` of its function of it (R140). -/
theorem intOne_completes (f : ℤ → ℤ) (hexec : exec i s = intOne i w f s) :
    Completes s v i w fun _ t => t.setInt w (resOf w.ty (widthOf w.ty w.lc) (w.modBit 1)
      (f (valOf w.ty (widthOf w.ty w.lc) (srcA i v.g w t (cellsOf w.lc))))) :=
  completes_of_lane hexec fun _ _ => rfl

end

/-! ### Sums, extremes, products -/

theorem ite_lt_eq_min_fun : (fun a b : ℤ => if a < b then a else b) = min := funext₂ fun a b => (min_def_lt a b).symm

theorem ite_gt_eq_max_fun : (fun a b : ℤ => if a > b then a else b) = max := funext₂ fun a b => (max_comm a b ▸ max_def_lt b a).symm

theorem ite_neg_eq_abs_fun : (fun a : ℤ => if a < 0 then -a else a) = abs := by
  funext a
  split
  · exact (abs_of_neg ‹_›).symm
  · exact (abs_of_nonneg (not_lt.1 ‹_›)).symm

/-- Terms added one after the other to `c`. -/
theorem foldl_add_eq (f : Nat → ℤ) (js : List Nat) (c : ℤ) : js.foldl (fun acc j => acc + f j) c = c + (js.map f).sum := by
  induction js generalizing c with
  | nil => simp
  | cons j js ih => rw [List.foldl_cons, ih, List.map_cons, List.sum_cons, add_assoc]

/-- A dot product completes with C and the exact products of the elements (R162). -/
theorem dotWord_completes {s : State} {v : View} {i : Instr} {w : CastWord} {e n : Nat} (hexec : exec i s = dotWord i w e n s) :
    let elem (signed : Bool) (x j : Nat) : ℤ := if signed then sext n (bits x (n * j) n) else (bits x (n * j) n : Nat)
    Completes s v i w fun _ t => t.setCells w.d.toNat 1 (resOf w.ty 32 (w.modBit 1) (valOf w.ty 32 (srcC i v.g w t 1) +
      ((List.range e).map fun j => elem (w.modBit 2) (srcA i v.g w t 1) j * elem (w.modBit 3) (srcB i v.g w t 1) j).sum)) :=
  completes_of_lane hexec fun _ _ => by rw [← foldl_add_eq]; rfl

/-! ### The restoring division (R147) -/

/-- Quotient and remainder once the dividend has one more low bit. -/
theorem div_mod_append_bit {b bit : Nat} (hb : 0 < b) (hbit : bit < 2) (hi : Nat) :
    ((2 * hi + bit) / b, (2 * hi + bit) % b) =
      if 2 * (hi % b) + bit ≥ b then (2 * (hi / b) + 1, 2 * (hi % b) + bit - b) else (2 * (hi / b), 2 * (hi % b) + bit) := by
  have hlt : hi % b < b := Nat.mod_lt hi hb
  have hsplit : 2 * hi + bit = 2 * (hi % b) + bit + b * (2 * (hi / b)) := by
    conv_lhs => rw [← Nat.mod_add_div hi b]
    ring
  rw [hsplit, Nat.add_mul_div_left _ _ hb, Nat.add_mul_mod_self_left]
  split_ifs with hge
  · rw [Nat.div_eq_sub_div hb hge, Nat.mod_eq_sub_mod hge, Nat.div_eq_of_lt (by omega), Nat.mod_eq_of_lt (by omega)]
    congr 1; omega
  · rw [Nat.div_eq_of_lt (by omega), Nat.mod_eq_of_lt (by omega), Nat.zero_add]

theorem div_two_pow_lt_two {x m : Nat} (h : x < 2 ^ (m + 1)) : x / 2 ^ m < 2 := Nat.div_lt_of_lt_mul (pow_succ 2 m ▸ h)

/-- A step with `m + 1` dividend bits `lo` left in Q above `j` quotient bits: it moves the highest of them into the remainder. -/
theorem divStep_eq {j m b lo hi : Nat} (hb : 0 < b) (hlo : lo < 2 ^ (m + 1)) (hhi : hi < 2 ^ j) :
    divStep (j + (m + 1)) b (lo * 2 ^ j + hi / b, hi % b) =
      (lo % 2 ^ m * 2 ^ (j + 1) + (2 * hi + lo / 2 ^ m) / b, (2 * hi + lo / 2 ^ m) % b) := by
  have hq : hi / b < 2 ^ j := (Nat.div_le_self hi b).trans_lt hhi
  have hbit : lo / 2 ^ m < 2 := div_two_pow_lt_two hlo
  have htop : (lo * 2 ^ j + hi / b) / 2 ^ (j + m) = lo / 2 ^ m := by
    rw [pow_add, ← Nat.div_div_eq_div_mul, mul_comm lo, Nat.mul_add_div (by positivity), Nat.div_eq_of_lt hq, Nat.add_zero]
  have hrest : 2 * (lo * 2 ^ j + hi / b) % 2 ^ (j + (m + 1)) = lo % 2 ^ m * 2 ^ (j + 1) + 2 * (hi / b) := by
    have hfit : (lo % 2 ^ m * 2 ^ j + hi / b) < 2 ^ (j + m) := by
      have := Nat.mod_lt lo (Nat.two_pow_pos m)
      calc lo % 2 ^ m * 2 ^ j + hi / b < (lo % 2 ^ m + 1) * 2 ^ j := by rw [add_mul]; omega
        _ ≤ 2 ^ m * 2 ^ j := Nat.mul_le_mul_right _ this
        _ = 2 ^ (j + m) := by rw [pow_add, mul_comm]
    have hsplit : 2 * (lo * 2 ^ j + hi / b) = 2 * (lo % 2 ^ m * 2 ^ j + hi / b) + 2 ^ (j + (m + 1)) * (lo / 2 ^ m) := by
      conv_lhs => rw [← Nat.mod_add_div lo (2 ^ m)]
      ring
    rw [hsplit, Nat.add_mul_mod_self_left, Nat.mod_eq_of_lt (by rw [← Nat.add_assoc, pow_succ]; omega)]
    ring
  have hstep := div_mod_append_bit hb hbit hi
  unfold divStep
  rw [show j + (m + 1) - 1 = j + m by omega, htop, Nat.mod_eq_of_lt hbit, hrest]
  dsimp only
  split_ifs at hstep ⊢ with hge
  · obtain ⟨hdiv, hmod⟩ := Prod.mk.inj hstep
    rw [hdiv, hmod, Nat.add_assoc]
  · obtain ⟨hdiv, hmod⟩ := Prod.mk.inj hstep
    rw [hdiv, hmod]

/-- The steps that remain finish the division of the dividend, of which `hi` is divided and the `m` bits `lo` are not. -/
theorem divSteps_eq {b : Nat} (hb : 0 < b) (m : Nat) : ∀ {j lo hi : Nat}, lo < 2 ^ m → hi < 2 ^ j →
    divSteps (j + m) b m (lo * 2 ^ j + hi / b, hi % b) = ((hi * 2 ^ m + lo) / b, (hi * 2 ^ m + lo) % b) := by
  induction m with
  | zero =>
    intro j lo hi hlo _
    obtain rfl : lo = 0 := by simpa using hlo
    simp [divSteps]
  | succ m ih =>
    intro j lo hi hlo hhi
    have hbit : lo / 2 ^ m < 2 := div_two_pow_lt_two hlo
    have hdividend : (2 * hi + lo / 2 ^ m) * 2 ^ m + lo % 2 ^ m = hi * 2 ^ (m + 1) + lo := by
      conv_rhs => rw [← Nat.mod_add_div lo (2 ^ m)]
      ring
    rw [divSteps, divStep_eq hb hlo hhi, show j + (m + 1) = j + 1 + m by omega,
      ih (Nat.mod_lt _ (by positivity)) (by rw [pow_succ]; omega), hdividend]

/-- As many steps as the dividend has bits, from remainder 0, give the quotient and the remainder. -/
theorem divSteps_all {n a b : Nat} (ha : a < 2 ^ n) (hb : 0 < b) : divSteps n b n (a, 0) = (a / b, a % b) := by
  simpa using divSteps_eq (j := 0) (hi := 0) hb n ha Nat.one_pos

/-- idivs: eight steps on the quotient and the remainder in A. -/
theorem idivs_completes (s : State) (v : View) (w : CastWord) : Completes s v (.idivs w) w fun _ t =>
    let n := widthOf w.ty w.lc
    let k := cellsOf w.lc
    let a := srcA (.idivs w) v.g w t (2 * k)
    let x := divSteps n (srcB (.idivs w) v.g w t k % 2 ^ n) 8 (a % 2 ^ n, a / 2 ^ n)
    t.setCells w.d.toNat (2 * k) (x.1 + x.2 % 2 ^ n * 2 ^ n) :=
  completes_of_lane rfl fun _ _ => rfl

/-! ### The signs of a division (R148) -/

/-- The quotient and the remainder that idive leaves, of the magnitudes `q` and `r`, the divisor `b` and the dividend `c`. -/
def divSigns (ty : BitVec 4) (n : Nat) (q r b c : ℤ) : Nat × Nat :=
  (if b = 0 then 2 ^ n - 1 else if isSigned ty ∧ (c < 0 ↔ ¬ b < 0) then wrap n (-q) else wrap n q,
   if b = 0 then wrap n c else if isSigned ty ∧ c < 0 then wrap n (-r) else wrap n r)

/-- Two truth values differ where one holds exactly when the other does not. -/
theorem decide_bne_decide (p q : Prop) [Decidable p] [Decidable q] : (decide p != decide q) = true ↔ (p ↔ ¬ q) := by
  by_cases p <;> by_cases q <;> simp [*]

theorem idive_completes (s : State) (v : View) (w : CastWord) : Completes s v (.idive w) w fun _ t =>
    let n := widthOf w.ty w.lc
    let k := cellsOf w.lc
    let a := srcA (.idive w) v.g w t (2 * k)
    let x := divSigns w.ty n (a % 2 ^ n : Nat) (a / 2 ^ n : Nat) (valOf w.ty n (srcB (.idive w) v.g w t k)) (valOf w.ty n (srcC (.idive w) v.g w t k))
    t.setCells w.d.toNat (2 * k) (x.1 + x.2 * 2 ^ n) := by
  refine completes_of_lane rfl fun _ t => ?_
  unfold divSigns
  by_cases hb : valOf w.ty (widthOf w.ty w.lc) (srcB (.idive w) v.g w t (cellsOf w.lc)) = 0
  · simp only [if_pos hb]
  · cases hs : isSigned w.ty
    · simp only [if_neg hb, Bool.false_eq_true, false_and, if_false]
    · simp only [if_neg hb, true_and, if_true, decide_bne_decide, apply_ite (wrap (widthOf w.ty w.lc))]

/-- imad without WIDE adds C in the type (R146). -/
theorem imad_completes {s : State} {v : View} {w : CastWord} (h : w.modBit 2 = false) : Completes s v (.imad w) w fun _ t =>
    let n := widthOf w.ty w.lc
    let k := cellsOf w.lc
    t.setInt w (resOf w.ty n (w.modBit 1)
      (valOf w.ty n (srcA (.imad w) v.g w t k) * valOf w.ty n (srcB (.imad w) v.g w t k) + valOf w.ty n (srcC (.imad w) v.g w t k))) :=
  completes_of_lane rfl fun _ _ => if_neg (by simp [h])

/-- imad with WIDE adds C in 64 bits (R146). -/
theorem imad_wide_completes {s : State} {v : View} {w : CastWord} (h : w.modBit 2 = true) : Completes s v (.imad w) w fun _ t =>
    let n := widthOf w.ty w.lc
    let k := cellsOf w.lc
    t.setCells w.d.toNat 2 (resOf w.ty 64 (w.modBit 1)
      (valOf w.ty n (srcA (.imad w) v.g w t k) * valOf w.ty n (srcB (.imad w) v.g w t k) + valOf w.ty 64 (srcC (.imad w) v.g w t 2))) :=
  completes_of_lane rfl fun _ _ => if_pos h

/-- Settles O2: each word by its shape; the division by induction on the dividend bits that remain. -/
theorem integerArithmeticWords : Obligations.IntegerArithmeticWords := by
  unfold Obligations.IntegerArithmeticWords
  refine ⟨?_, fun s v w => ⟨dotWord_completes rfl, dotWord_completes rfl⟩, fun n a b ha hb _ => divSteps_all ha hb,
    fun s v w => ⟨idivs_completes s v w, idive_completes s v w⟩⟩
  intro s v w n k a b res
  exact ⟨intTwo_completes (· + ·) rfl, intTwo_completes (· - ·) rfl, intTwo_completes (· * ·) rfl,
    intTwo_completes (sat := false) (fun x y => x * y / 2 ^ n) rfl, intTwo_completes (sat := false) min (ite_lt_eq_min_fun ▸ rfl),
    intTwo_completes (sat := false) max (ite_gt_eq_max_fun ▸ rfl), intOne_completes (fun x => -x) rfl,
    intOne_completes abs (ite_neg_eq_abs_fun ▸ rfl), imad_completes, imad_wide_completes⟩

end Sys2Proof.Machine
end

section
/-! SUPPORT. Logic, shifts, bit fields, counts and bytes (O3). -/

namespace Sys2Proof.Machine

section
variable {s : State} {v : View} {i : Instr} {w : CastWord}

/-- A logic word of two sources completes with the bits of its function of them (R149). -/
theorem logicTwo_completes (f : Nat → Nat → Nat) (hexec : exec i s = logicTwo i w f s) : Completes s v i w fun _ t =>
    t.setCells w.d.toNat (cellsOf w.lc) (f (srcA i v.g w t (cellsOf w.lc)) (srcB i v.g w t (cellsOf w.lc)) % 2 ^ (32 * cellsOf w.lc)) :=
  completes_of_lane hexec fun _ _ => rfl

/-- A shift completes with its function of the width, A and the count (R151). -/
theorem shiftWord_completes (f : Nat → Nat → Nat → Nat) (hexec : exec i s = shiftWord i w f s) : Completes s v i w fun _ t =>
    t.setInt w (f (widthOf w.ty w.lc) (srcA i v.g w t (cellsOf w.lc) % 2 ^ widthOf w.ty w.lc) (srcB i v.g w t 1 % 2 ^ 32)) :=
  completes_of_lane hexec fun _ _ => rfl

end

/-! ### Counts -/

theorem blen_eq_size (a : Nat) : blen a = a.size := by
  rcases Nat.eq_zero_or_pos a with rfl | h
  · rfl
  · rw [log_blen h]
    exact le_antisymm (Nat.lt_size.2 (Nat.log2_self_le h.ne')) (Nat.size_le.2 Nat.lt_log2_self)

theorem popc_completes (s : State) (v : View) (w : CastWord) : Completes s v (.popc w) w fun _ t =>
    t.setCells w.d.toNat 1 ((List.range (32 * cellsOf w.lc)).countP fun i => (srcA (.popc w) v.g w t (cellsOf w.lc)).testBit i) :=
  completes_of_lane rfl fun _ _ => by rw [List.countP_eq_length_filter]

theorem clz_completes (s : State) (v : View) (w : CastWord) : Completes s v (.clz w) w fun _ t =>
    t.setCells w.d.toNat 1 (32 * cellsOf w.lc - (srcA (.clz w) v.g w t (cellsOf w.lc)).size) :=
  completes_of_lane rfl fun _ _ => by rw [← blen_eq_size]; rfl

/-! ### Bytes (R154) -/

theorem bits_byte (x i : Nat) : bits x (8 * i) 8 = x / 256 ^ i % 256 := by rw [bits, ← pow_bytes]; rfl

/-- Four bytes as one number, the lowest first. -/
theorem sum_four_bytes (f : Nat → Nat) : ((List.range 4).map fun i => f i * 256 ^ i).sum = f 0 + f 1 * 256 + f 2 * 65536 + f 3 * 16777216 := by
  rw [List.sum_range_succ, List.sum_range_succ, List.sum_range_succ, List.sum_range_succ]
  norm_num

/-- The byte that a selector picks from the pool: one of its eight, or 0, complemented by bit 4 (R154). -/
def permByte (pool sel : Nat) : Nat :=
  let b := if sel.testBit 3 then 0 else bits pool (8 * (sel % 8)) 8
  if sel.testBit 4 then 255 - b else b

theorem perm_completes (s : State) (v : View) (w : CastWord) : Completes s v (.perm w) w fun _ t =>
    t.setCells w.d.toNat 1 (((List.range 4).map fun i =>
      permByte (srcA (.perm w) v.g w t 1 + 2 ^ 32 * srcB (.perm w) v.g w t 1) (bits (srcC (.perm w) v.g w t 1) (8 * i) 8) * 256 ^ i).sum) := by
  refine completes_of_lane rfl fun _ t => ?_
  rw [sum_four_bytes]
  simp only [permByte, bits_byte, mul_comm (2 ^ 32)]

/-! ### Bit fields (R152) -/

theorem fieldPos_eq (b : Nat) : fieldPos b = bits b 0 8 := by simp [fieldPos, bits]

theorem bfx_completes (s : State) (v : View) (w : CastWord) : Completes s v (.bfx w) w fun _ t =>
    let n := widthOf w.ty w.lc
    let b := srcB (.bfx w) v.g w t 1
    let len := min (bits b 8 8) n
    let x := wrap len (valOf w.ty n (srcA (.bfx w) v.g w t (cellsOf w.lc)) / 2 ^ bits b 0 8)
    t.setInt w (if len = 0 then 0 else wrap n (valOf w.ty len x)) :=
  completes_of_lane rfl fun _ _ => by simp only [← fieldPos_eq]; rfl

theorem bfi_completes (s : State) (v : View) (w : CastWord) : Completes s v (.bfi w) w fun _ t =>
    let n := widthOf w.ty w.lc
    let k := cellsOf w.lc
    let b := srcB (.bfi w) v.g w t 1
    t.setInt w (bitsFrom n fun i =>
      if bits b 0 8 ≤ i ∧ i < min (bits b 0 8 + min (bits b 8 8) n) n then (srcA (.bfi w) v.g w t k % 2 ^ n).testBit (i - bits b 0 8)
      else (srcC (.bfi w) v.g w t k % 2 ^ n).testBit i) :=
  completes_of_lane rfl fun _ _ => by simp only [← fieldPos_eq]; rfl

/-- Settles O3: each word by its shape; the counts, the bytes and the fields by the lemmas of each. -/
theorem bitAndShiftWords : Obligations.BitAndShiftWords := by
  unfold Obligations.BitAndShiftWords
  refine ⟨fun s v w => ?_, fun s v w => ?_⟩
  · intro k a b put
    exact ⟨logicTwo_completes (· &&& ·) rfl, logicTwo_completes (· ||| ·) rfl, logicTwo_completes (· ^^^ ·) rfl,
      logicTwo_completes (fun x y => x - (x &&& y)) rfl, completes_of_lane rfl fun _ _ => rfl, completes_of_lane rfl fun _ _ => rfl,
      popc_completes s v w, clz_completes s v w, completes_of_lane rfl fun _ _ => rfl, perm_completes s v w⟩
  · intro n k a c pos len
    exact ⟨shiftWord_completes (fun n a k => if k < n then a * 2 ^ k % 2 ^ n else 0) rfl,
      shiftWord_completes (fun n a k => if k < n then a / 2 ^ k else 0) rfl, shiftWord_completes (fun n a k => wrap n (sext n a / 2 ^ min k n)) rfl,
      shiftWord_completes (fun n a k => a * 2 ^ (k % n) % 2 ^ n + a / 2 ^ (n - k % n)) rfl, bfx_completes s v w, bfi_completes s v w⟩

end Sys2Proof.Machine
end

section
/-! SUPPORT. Comparisons, selection, moves, conversions and address words (O4). -/

namespace Sys2Proof.Machine

theorem CmpOp.holds_ne (x y : ℤ) : CmpOp.holds .ne x y = decide (x ≠ y) := by rw [decide_not]; rfl

/-- A field of three bits of MOD. -/
theorem toNat_mod_field (m : BitVec 8) : ((m >>> 1) &&& 7).toNat = bits m.toNat 1 3 := by
  rw [BitVec.toNat_and, BitVec.toNat_ushiftRight, Nat.shiftRight_eq_div_pow]
  exact Nat.and_two_pow_sub_one_eq_mod _ 3

theorem setWidth_ushiftRight_four (m : BitVec 8) : (m >>> 4).setWidth 4 = m.extractLsb' 4 4 := by
  ext i hi
  simp [BitVec.getElem_extractLsb']

/-- icmp completes with its relation, combined as COMB says (R155). -/
theorem icmp_completes (s : State) (v : View) (m : CmpOp) (w : CastWord) : Completes s v (.icmp m w) w fun _ t =>
    let n := widthOf w.ty w.lc
    let k := cellsOf w.lc
    t.setP w.d.toNat (combine w t (CmpOp.holds m (valOf w.ty n (srcA (.icmp m w) v.g w t k)) (valOf w.ty n (srcB (.icmp m w) v.g w t k)))) :=
  completes_of_lane rfl fun _ _ => rfl

theorem mov_completes (s : State) (v : View) (w : CastWord) :
    Completes s v (.mov w) w fun _ t => t.setCells w.d.toNat (cellsOf w.lc) (srcB (.mov w) v.g w t (cellsOf w.lc)) :=
  completes_of_lane rfl fun _ _ => rfl

/-- icvt reads A under STYPE (R158). -/
theorem icvt_completes (s : State) (v : View) (w : CastWord) : Completes s v (.icvt w) w fun _ t =>
    let st : BitVec 4 := w.mod.extractLsb' 4 4
    t.setInt w (resOf w.ty (widthOf w.ty w.lc) (w.modBit 1)
      (valOf st (widthOf st 0) (srcA (.icvt w) v.g w t (if widthOf st 0 = 64 then 2 else 1)))) :=
  completes_of_lane rfl fun _ _ => by rw [← setWidth_ushiftRight_four]; rfl

/-- lea adds the scaled element and the offset (R159). -/
theorem lea_completes (s : State) (v : View) (w : CastWord) : Completes s v (.lea w) w fun _ t =>
    let b := if kselB (.lea w) w then v.g.kcells w.b.toNat 1 else t.cells w.b.toNat 1
    t.setCells w.d.toNat 2 (wrap 64 (srcA (.lea w) v.g w t 2 + (if w.modBit 4 then (b : ℤ) else sext 32 b) * 2 ^ bits w.mod.toNat 1 3 +
      sext 32 w.imm.toNat)) :=
  completes_of_lane rfl fun _ _ => by rw [← toNat_mod_field]

theorem plop_completes (s : State) (v : View) (m : PlopOp) (w : CastWord) : Completes s v (.plop m w) w fun _ t =>
    let a := t.p w.a.toNat
    let b := t.p w.b.toNat
    t.setP w.d.toNat (match m with | .and => a && b | .or => a || b | .xor => a ^^ b | .andn => a && !b | .not => !a) :=
  completes_of_lane rfl fun _ _ => by cases m <;> rfl

/-- Settles O4: each word by the result of its lanes; icmp by the cases of its relation. -/
theorem compareAndMoveWords : Obligations.CompareAndMoveWords := by
  unfold Obligations.CompareAndMoveWords
  intro s v w n k rel
  have hrel : ∀ m x y, CmpOp.holds m x y = rel m x y := fun m x y => by
    cases m with
    | ne => exact CmpOp.holds_ne x y
    | eq | lt | le | gt | ge => rfl
  refine ⟨fun m => (icmp_completes s v m w).congr fun _ t => ?_, completes_of_lane rfl fun _ _ => rfl, mov_completes s v w,
    icvt_completes s v w, lea_completes s v w, completes_of_lane rfl fun _ _ => rfl, fun m => plop_completes s v m w⟩
  dsimp only
  rw [hrel]
  rfl

end Sys2Proof.Machine
end

section
/-! SUPPORT. A word of the integer unit whose fragment has its number a second time, on the overflow stack (O53). -/

namespace Sys2Proof.Machine

/-- The group of one thread, with its fragment's entry on the overflow stack too. -/
def stackedTwice : Group := { tinyGroup with stack := tinyGroup.nodes }

/-- Core 0 performs a word for the group. -/
def issuesStackedTwice : State :=
  { State.reset with cores := [(0, { Core.reset with groups := [(0, stackedTwice)] })], launches := [(0, tinyLaunch)] }

/-- mov of the immediate 0 to v0, with guard 15. -/
def movZero : CastWord := { tc := 0, pg := 15, pn := 0, d := 0, a := 0, b := 0, c := 0, reuse := 0, lc := 0, ty := 0xF, mod := 1, ext := 0, imm := 0 }

/-- The fragment that performs the word. -/
def stackedView : View :=
  { s := issuesStackedTwice, c := 0, slot := 0, g := stackedTwice, nd := { leafNode 1 0 none none false with id := 0 }, l := tinyLaunch }

theorem issuesStackedTwice_issues : issuesStackedTwice.issues (.mov movZero) movZero stackedView := by
  unfold State.issues State.decodes
  decide +kernel

/-- The fragment goes on wherever its number stands, in the table and on the overflow stack. -/
theorem View.doneGroup_stack (v : View) (w : CastWord) (f : Nat → Thread → Thread) :
    (v.doneGroup w f).stack = v.g.stack.map fun n => if n.id = v.nd.id then v.onward else n := rfl

/-- Refutes O53: the statement does not ask that no entry of the overflow stack has the number of the fragment. Where one has, it moves to the
next word with the fragment, and the group differs in its overflow stack too. -/
theorem not_integerUnitFrame : ¬ Obligations.IntegerUnitFrame := by
  unfold Obligations.IntegerUnitFrame
  intro h
  obtain ⟨t, g, ht, ⟨hgroup, -⟩, -, -, hg, -⟩ := h _ _ movZero .eq (.mov movZero) (by simp) issuesStackedTwice_issues
  obtain rfl := Host.Outcome.next.inj ((mov_completes _ _ movZero issuesStackedTwice_issues).symm.trans ht)
  obtain rfl := Option.some.inj ((View.done_group stackedView movZero _).symm.trans hgroup)
  have hstack := congrArg Group.stack hg
  rw [View.doneGroup_stack] at hstack
  exact absurd hstack (by decide)

end Sys2Proof.Machine
end

section
/-! SUPPORT. What performing the reds on their way may change, and memory words none of whose lanes is stopped (R169, R184, R188, R190). -/

namespace Sys2Proof.Machine

/-! ### What reds may change when they perform -/

/-- Nothing but memory, the cores, the fault entries, the lines that the arrays hold, the epochs of sectors, the requests on their way and
the peers' error counts differs. -/
def OnlyHome (s t : State) : Prop :=
  t = { s with
    mem := t.mem, cores := t.cores, faultQ := t.faultQ, box := { s.box with peererr := t.box.peererr }
    hearth := { s.hearth with
      l2 := t.hearth.l2, hearthLines := t.hearth.hearthLines, touches := t.hearth.touches, sectorEpoch := t.hearth.sectorEpoch
      requests := t.hearth.requests, routers := t.hearth.routers } }

theorem OnlyHome.refl (s : State) : OnlyHome s s := rfl

theorem OnlyHome.trans {s t u : State} (h : OnlyHome s t) (k : OnlyHome t u) : OnlyHome s u := by
  rw [OnlyHome, k, h]

theorem OnlyHome.foldl {α : Type} {s t : State} (h : OnlyHome s t) {f : State → α → State} (l : List α) (hf : ∀ s a, OnlyHome s (f s a)) :
    OnlyHome s (l.foldl f t) :=
  List.foldlRecOn l f h fun _ hb a _ => hb.trans (hf _ a)

theorem OnlyCaches.onlyHome {s t : State} (h : OnlyCaches s t) : OnlyHome s t := by
  rw [OnlyHome, h]

theorem OnlyHome.cur {s t : State} (h : OnlyHome s t) : t.cur = s.cur := by rw [h]

theorem OnlyHome.launches {s t : State} (h : OnlyHome s t) : t.launches = s.launches := by rw [h]

theorem State.l1Clean_onlyCaches (s : State) (c sec : Nat) : OnlyCaches s (s.l1Clean c sec) := by
  unfold State.l1Clean
  split
  · exact .refl s
  · split
    · exact (s.l1Drop_onlyL1 c sec).caches
    · exact (OnlyCaches.refl s).setCore c _

theorem State.homeWrite_onlyHome {s t : State} {pa n v : Nat} {k : WKind} {ev : Nat} (h : s.homeWrite pa n v k ev = some t) : OnlyHome s t := by
  have hw : ∀ pa n v, OnlyCaches s (s.rawWrite pa n v) := (OnlyCaches.refl s).rawWrite
  unfold State.homeWrite at h
  split at h
  · dsimp only at h
    split at h
    · obtain rfl := Option.some.inj h
      exact (((hw _ _ _).rawWrite _ _ _).cacheTouch _ _ _ _).onlyHome
    · cases h
  · split at h
    · split at h
      · obtain rfl := Option.some.inj h
        rfl
      · obtain rfl := Option.some.inj h
        exact (hw _ _ _).onlyHome
    · obtain rfl := Option.some.inj h
      exact ((hw _ _ _).cacheTouch _ _ _ _).onlyHome
    · obtain rfl := Option.some.inj h
      exact .refl s

theorem State.applyRed_onlyHome (s : State) (r : RedReq) (x : DWord) (srcs : List RedSrc) : OnlyHome s (s.applyRed r x srcs) := by
  unfold State.applyRed
  split
  · split
    · rename_i h
      exact (State.homeWrite_onlyHome h).trans rfl
    · rfl
  · rfl
  · exact .refl s

theorem State.performRed_onlyHome (s : State) (r : RedReq) : OnlyHome s (s.performRed r) := by
  have hclean := (OnlyHome.refl s).foldl (f := fun s c => (sectorsOf r.pa r.n).foldl (fun s sec => s.l1Clean c sec) s) (r.srcs.map (·.core))
    fun t c => (OnlyHome.refl t).foldl _ fun u sec => (u.l1Clean_onlyCaches c sec).onlyHome
  unfold State.performRed
  dsimp only
  split
  · exact hclean.foldl _ fun t x => t.applyRed_onlyHome r _ _
  · exact hclean.trans (State.applyRed_onlyHome _ _ _ _)

theorem State.settleReds_onlyHome (s : State) : OnlyHome s s.settleReds := by
  unfold State.settleReds
  split
  · exact .refl s
  · refine OnlyHome.trans (t := { s with hearth := { s.hearth with requests := [], routers := [] } }) rfl ?_
    exact (OnlyHome.refl _).foldl _ State.performRed_onlyHome

/-! ### Memory words whose lanes all perform -/

/-- A memory word that no lane is stopped in: the reds on their way and `before`, the lanes in order, and `after` (R188). -/
theorem View.memory_performed {v : View} {i : Instr} {w : CastWord} {plan : Nat → Thread → LaneAct} (need : Need)
    (f : State → Thread → State × LaneRes) (before after : State → State) (hc : v.check i = none) (hl : v.g.lsqHeld v.nd.mask = false)
    (hp : ∀ l ∈ v.active w, (v.g.thread l).readsBad i = false ∧ plan l (v.g.thread l) = .ready) :
    v.memory i w need plan (fun s _ t => f s t) before after = v.performed w f before after := by
  have hacts : ((v.active w).map fun l => (l, if (v.g.thread l).readsBad i then LaneAct.early causePoison 0 else plan l (v.g.thread l))) =
      (v.active w).map fun l => (l, LaneAct.ready) :=
    List.map_congr_left fun l h => by simp [hp l h]
  unfold View.memory View.performed
  simp only [hc, hl, hacts, missing_ready, missingReads_ready, View.performLanes_ready]
  cases ha : v.active w with
  | nil =>
    have hd := View.finish_ok v w fun _ t => t
    rw [ha] at hd
    simpa [View.inOrder] using hd
  | cons l ls => simp

/-- A word of the shape of `View.memory`, at the fragment that issues it, no lane of which is stopped. -/
theorem View.clear.performs {v : View} {s : State} {i : Instr} {w : CastWord} {plan : Thread → LaneAct} (h : v.clear s i w plan) (need : Need)
    (f : State → Thread → State × LaneRes) (before after : State → State) :
    v.memory i w need (fun _ t => plan t) (fun s _ t => f s t) before after = v.performed w f before after :=
  View.memory_performed need f before after h.1.1.2 h.2.1 fun l hl => ⟨h.1.2 l hl, h.2.2 l hl⟩

/-- The view of an image word that issues: the reds before it have performed. -/
theorem View.settled_eq {v : View} {i : Instr} (hc : v.check i = none) (hl : v.g.lsqHeld v.nd.mask = false) :
    v.settled i = { v with s := v.s.settleReds } := by
  simp [View.settled, hc, hl]

theorem View.settled_check (v : View) (i j : Instr) : (v.settled i).check j = v.check j := by
  unfold View.settled
  split
  · simp [View.check, v.s.settleReds_onlyHome.cur]
  · rfl

/-- An image word, no lane of which is stopped: its lanes perform on the settled view. -/
theorem View.clear.settledPerforms {v : View} {s : State} {i : Instr} {w : CastWord} {plan : Thread → LaneAct} (h : v.clear s i w plan)
    (need : Need) (f : State → Thread → State × LaneRes) (before after : State → State) :
    (v.settled i).memory i w need (fun _ t => plan t) (fun s _ t => f s t) before after = (v.settled i).performed w f before after := by
  have hc : (v.settled i).check i = none := (v.settled_check i i).trans h.1.1.2
  refine View.memory_performed need f before after hc ?_ ?_
  · rw [View.settled_eq h.1.1.2 h.2.1]; exact h.2.1
  · rw [View.settled_eq h.1.1.2 h.2.1]; exact fun l hl => ⟨h.1.2 l hl, h.2.2 l hl⟩

/-- A release comes before a word's writes where the word releases at scope flk or wider (R183). -/
theorem beforeRelease_eq (v : View) (w : CastWord) :
    beforeRelease v w = fun s => if 2 ≤ w.ord ∧ 3 ≤ w.scope then (s.release v.c).1 else s := by
  funext s
  simp [beforeRelease, releasesWide, wideScope]

end Sys2Proof.Machine
end

section
/-! SUPPORT. Loads and stores (O19). -/

namespace Sys2Proof.Machine

/-- The check of R231 that ldd makes first passes. -/
theorem effPrec_passes {pr : Word} {p : Nat} (h : p < prP pr → prXa pr = true) : ((effPrec pr p).2 && !prXa pr) = false := by
  unfold effPrec
  dsimp only
  split
  · rfl
  · split
    · rfl
    · rename_i hp
      rw [h (Nat.lt_of_not_le hp)]; rfl

/-- Settles O19: each word is `View.memory` of its access, in image space on the settled view. -/
theorem loadAndStoreWords : Obligations.LoadAndStoreWords := by
  unfold Obligations.LoadAndStoreWords
  intro s v w n m store release ld st
  have hrelease : beforeRelease v w = release := beforeRelease_eq v w
  refine ⟨fun h6 h => ?_, fun h6 h => ?_, fun h6 h => ?_, fun h6 h => ?_, fun hexh h => ?_, fun h => ?_⟩ <;>
    refine (onFrag_of_view h.1.1.1 _).trans (congrArg _ ?_)
  · exact (if_neg h6).trans (h.performs .r _ _ _)
  · refine (if_neg h6).trans (Eq.trans ?_ (h.performs .w _ release _))
    rw [← hrelease]; rfl
  · exact (if_pos h6).trans (h.settledPerforms .rw _ _ _)
  · refine (if_pos h6).trans (Eq.trans ?_ (h.settledPerforms .w _ release _))
    have hst : beforeRelease st w = release := by
      rw [beforeRelease_eq, show st.c = v.c by rw [show st = _ from View.settled_eq h.1.1.2 h.2.1]]
    rw [← hst]
  · refine View.memory_performed .r _ _ _ h.1.1.2 h.2.1 fun l hl => ⟨h.1.2 l hl, ?_⟩
    dsimp only
    rw [if_neg (by rw [effPrec_passes (hexh l hl)]; exact Bool.false_ne_true)]
    exact h.2.2 l hl
  · refine Eq.trans ?_ (h.performs .w _ release _)
    rw [← hrelease]
    simp only [beq_iff_eq]
    rfl

end Sys2Proof.Machine
end

section
/-! SUPPORT. Fences, marks and waits (O24). -/

namespace Sys2Proof.Machine

/-- waitv, no lane of which is stopped, begins its wait with every active lane (R206). -/
theorem exec_waitv {s : State} {v : View} {w : CastWord} {m : CmpOp} (h : v.clear s (.waitv m w) w (v.access w (accBytes w) (accBytes w) .r))
    (hl : v.lanes ≠ []) : exec (.waitv m w) s = .next (v.waitStep w m (s.wordOf (.waitv m w)) (v.active w) []) := by
  obtain ⟨⟨⟨hv, hc⟩, hr⟩, hq, hp⟩ := h
  obtain ⟨hg, hn, -⟩ := State.view_spec hv
  have hacts : ((v.active w).map fun l => (l, if (v.g.thread l).readsBad (.waitv m w) then LaneAct.early causePoison 0 else
      v.checkAccess (v.g.thread l) w.space (addressOf w v.g (v.g.thread l)) (accBytes w) (accBytes w) .r)) =
      (v.active w).map fun l => (l, LaneAct.ready) :=
    List.map_congr_left fun l h => by
      rw [if_neg (by rw [hr l h]; exact Bool.false_ne_true)]
      exact congrArg (l, ·) (hp l h)
  have hnil : ∀ ls : List Nat, earlyOf (ls.map fun l => (l, LaneAct.ready)) = [] := fun ls => by simp [earlyOf]
  refine (onFrag_of_view hv _).trans (congrArg _ ?_)
  dsimp only
  rw [hc]
  dsimp only
  rw [if_neg (by rw [hq]; exact Bool.false_ne_true), hacts, missing_ready, hnil]
  have hsome : ¬ ∀ l, l ∉ v.lanes := fun h => hl (List.eq_nil_iff_forall_not_mem.2 h)
  simp only [List.filterMap_map, List.filter_map, Function.comp_def, List.filterMap_none, List.append_nil, List.isEmpty_nil, if_true,
    List.any_nil, Bool.not_false, hg, Group.anyNode_of_node hn, List.map_map, BEq.rfl, List.filter_true, List.map_id']
  rw [if_neg (by simpa using fun _ => hsome)]
  exact congrArg (fun x : State => v.waitStep w m (x.wordOf (.waitv m w)) (v.active w) []) (State.view_s hv)

/-- A round of reads that leaves lanes to wait, none of which misses a page (R206). -/
theorem View.waitStep_left {v : View} {w : CastWord} {m : CmpOp} {word : BitVec 128} {pending left : List Nat} {vals got : Table DWord} {s' : State}
    (h : v.waitRound w m v.s.settleReds pending = (s', got, [], left)) (hl : left ≠ []) (hp : v.waitPages w left = []) :
    (v.waitStep w m word pending vals).group? v.c v.slot = some (v.g.setNode
      { v.nd with st := .waitv word (maskOf left) (got.foldl (fun t e => tput t e.1 e.2) vals), fatal := [] }) := by
  unfold View.waitStep
  simp [h, hl, hp]

/-- waitb: a batch that is open, to come or saved, one that is done, or one that the fragment waits for (R207). -/
theorem exec_waitb {s : State} {v : View} {w : CastWord} {e : EngineSel} (h : s.decodes (.waitb e w) v) :
    let x : BitVec 16 := if w.a = 0 then w.imm.setWidth 16 else (v.g.kreg w.a.toNat).setWidth 16
    let n : BitVec 16 := if w.modBit 5 = true then v.g.openBatch e - x else x
    exec (.waitb e w) s = .next (
      if n = v.g.openBatch e ∨ (1 ≤ (n - v.g.openBatch e).toNat ∧ (n - v.g.openBatch e).toNat ≤ 32767) ∨ n ∈ v.g.savedBatches e then v.trapAll 0x01 0
      else if s.batchDone v.c v.g e n = true then v.groupDone v.g
      else v.s.setGroup v.c v.slot (v.g.setNode { v.nd with st := .batch e n, fatal := [] })) := by
  refine (onFrag_uniform h).trans (congrArg _ ?_)
  simp only [later, List.contains_iff_mem, decide_eq_true_eq, State.view_s h.1]
  rfl

/-- The queue fences in force after qfence: the group's and its own, those that still hold something back (R184, R205). -/
theorem exec_qfence {s : State} {v : View} {w : CastWord} (h : s.decodes (.qfence w) v) :
    exec (.qfence w) s = .next (s.settleReds.setGroup v.c v.slot (Group.setNode { v.g with
      fences := (v.g.fences ++ [({ names := w.mod.extractLsb' 5 3, lanes := v.nd.mask, upTo := (s.core v.c).accepts, rank := v.g.rank } : QFence)]).filter
        fun q => q.left v.g } v.onward)) := by
  refine (onFrag_uniform h).trans (congrArg _ ?_)
  have hm : (w.mod >>> 5).setWidth 3 = w.mod.extractLsb' 5 3 := by
    generalize w.mod = m
    revert m; decide
  simp only [hm, State.view_s h.1]
  rfl

/-- Settles O24: fence, mark and qfence by their definitions; waitv by its first round; waitb by the state of its batch. -/
theorem orderingAndWaitWords : Obligations.OrderingAndWaitWords := by
  unfold Obligations.OrderingAndWaitWords
  intro s v w on
  refine ⟨fun h => ?_, fun h => ?_, fun h => ?_, fun m h hl => ?_, fun e h => ?_⟩
  · refine (onFrag_uniform h).trans (congrArg _ ?_)
    simp only [List.isEmpty_iff, releasesWide, acquiresWide, wideScope, State.view_s h.1, Bool.and_eq_true, Bool.or_eq_true, decide_eq_true_eq,
      beq_iff_eq]
    split
    · exact congrArg (fun x : State => on x v.g) (State.view_s h.1)
    · rfl
  · refine (onFrag_uniform h).trans (congrArg _ ?_)
    simp only [List.isEmpty_iff, State.view_s h.1]
    split
    · exact congrArg (fun x : State => on x v.g) (State.view_s h.1)
    · rfl
  · exact ⟨_, exec_qfence h, fun q => by simp [or_and_right]⟩
  · have hs : v.s = s := State.view_s h.1.1.1
    refine ⟨exec_waitv h hl, fun s' vals hr => ⟨_, exec_waitv h hl, ?_⟩, fun s' vals left hleft hr hp => ⟨_, _, exec_waitv h hl,
      View.waitStep_left (by rw [hs]; exact hr) hleft hp⟩⟩
    exact View.waitStep_done (Group.anyNode_of_node (State.view_spec h.1.1.1).2.1) (by rw [hs]; exact hr)
  · have hx := exec_waitb h
    exact ⟨fun hb => hx.trans (congrArg _ (if_pos hb)), fun hb hd => hx.trans (congrArg _ ((if_neg hb).trans (if_pos hd))),
      fun hb hd => hx.trans (congrArg _ ((if_neg hb).trans (if_neg (by rw [hd]; exact Bool.false_ne_true))))⟩

end Sys2Proof.Machine
end

section
/-! SUPPORT. Spills, fills and scratchpad queues (O25). -/

namespace Sys2Proof.Machine

theorem bits_one_eq_zero (x lo : Nat) : bits x lo 1 = 0 ↔ ¬ x / 2 ^ lo % 2 = 1 := by
  simp only [bits]; omega

/-- A queue word, no lane of which is stopped (R214). -/
theorem View.clear.queues {v : View} {s : State} {i : Instr} {w : CastWord} (h : v.clear s i w (v.access w 16 16 .rw)) (tail : Bool)
    {act f : Thread → Nat → Nat → Nat → Thread × Option (Nat × Nat × Nat)} (hact : ∀ t head tl slot, act t head tl slot = f t head tl slot) :
    v.queueWord i w tail act = v.performed w (fun s t => (
      if (w.ord = 1 ∨ w.ord = 3) ∧ 3 ≤ w.scope then (v.queueLane w tail s t (f t)).1.acquire v.c ((v.queueLane w tail s t (f t)).1.hearth.nextEpoch - 1)
      else (v.queueLane w tail s t (f t)).1, (v.queueLane w tail s t (f t)).2))
      (fun s => if 2 ≤ w.ord ∧ 3 ≤ w.scope then (s.release v.c).1 else s) id := by
  obtain rfl : act = f := funext fun t => funext fun a => funext fun b => funext fun c => hact t a b c
  rw [← beforeRelease_eq, ← h.performs .rw]
  unfold View.queueWord
  simp only [acquiresWide, wideScope, Bool.and_eq_true, Bool.or_eq_true, decide_eq_true_eq, beq_iff_eq]
  rfl

/-- Settles O25: spill and fill by the checks of their lanes, a queue word by what it does with its slot. -/
theorem spillAndQueueWords : Obligations.SpillAndQueueWords := by
  unfold Obligations.SpillAndQueueWords
  intro s v w r size n translates release acquire queue full
  have hfull : ∀ slot, bits slot 64 1 = 1 ↔ full slot := fun _ => Iff.rfl
  have hsize : spillSize w = size := rfl
  refine ⟨fun limit h hq hlim hp => ?_, fun h hq hp => ?_, fun h => ?_, fun h => ?_, fun h => ?_⟩
  · refine (onFrag_of_view h.1.1 _).trans (congrArg _ ?_)
    have hlimit : v.active w ≠ [] → (if (v.active w).isEmpty = true then ([], 0) else { v with s := v.s.settleReds }.spillLimit) = (([] : List Nat), limit) :=
      fun hne => (if_neg (by simpa using hne)).trans (hlim hne)
    dsimp only
    generalize (if (v.active w).isEmpty = true then ([], 0) else { v with s := v.s.settleReds }.spillLimit) = lim at hlimit ⊢
    refine View.memory_performed .w _ _ _ h.1.2 hq fun l hl => ⟨h.2 l hl, ?_⟩
    obtain ⟨hfits, ps, hps⟩ := hp l hl
    change v.s.trRange _ _ _ _ (spillVa v.l.rec_ _ _) _ = _ at hps
    obtain rfl := hlimit (List.ne_nil_of_mem hl)
    simp only [hsize, hps, List.isEmpty_nil, hfits.not_gt, Bool.not_true, Bool.false_eq_true, if_false]
  · refine (onFrag_of_view h.1.1 _).trans (congrArg _ ?_)
    refine View.memory_performed .r _ _ _ h.1.2 hq fun l hl => ⟨h.2 l hl, ?_⟩
    obtain ⟨hfits, ps, hps⟩ := hp l hl
    change v.s.trRange _ _ _ _ (spillVa v.l.rec_ _ _) _ = _ at hps
    simp only [hsize, hps, hfits.not_gt, if_false]
  · refine (onFrag_of_view h.1.1.1 _).trans (congrArg _ (h.queues true fun t head tl slot => ?_))
    rw [if_congr (bits_one_eq_zero slot 64) rfl rfl, ite_not]
  · exact (onFrag_of_view h.1.1.1 _).trans (congrArg _ (h.queues false fun t head tl slot => if_congr (hfull slot) rfl rfl))
  · exact (onFrag_of_view h.1.1.1 _).trans (congrArg _ (h.queues false fun t head tl slot => if_congr (hfull slot) rfl rfl))

end Sys2Proof.Machine
end

section
/-! SUPPORT. Constant loads, prefetches, cache operations and samples (O26). -/

namespace Sys2Proof.Machine

/-! ### What a prefetch leaves -/

/-- A prefetch changes caches only, once the reds on their way have performed; where there are none, no fault entry comes. -/
structure PrefKeeps (s t : State) : Prop where
  home : OnlyHome s t
  faultQ : s.hearth.requests ++ s.hearth.routers = [] → t.faultQ = s.faultQ ∧ t.hearth.requests ++ t.hearth.routers = []

theorem PrefKeeps.refl (s : State) : PrefKeeps s s := ⟨.refl s, fun h => ⟨rfl, h⟩⟩

theorem PrefKeeps.trans {s t u : State} (h : PrefKeeps s t) (k : PrefKeeps t u) : PrefKeeps s u :=
  ⟨h.home.trans k.home, fun hs => ⟨(k.faultQ (h.faultQ hs).2).1.trans (h.faultQ hs).1, (k.faultQ (h.faultQ hs).2).2⟩⟩

theorem OnlyCaches.prefKeeps {s t : State} (h : OnlyCaches s t) : PrefKeeps s t :=
  ⟨h.onlyHome, fun hs => by rw [h]; exact ⟨rfl, hs⟩⟩

theorem State.settleReds_of_none {s : State} (h : s.hearth.requests ++ s.hearth.routers = []) : s.settleReds = s := by
  obtain ⟨h1, h2⟩ := List.append_eq_nil_iff.1 h
  simp [State.settleReds, h1, h2]

theorem State.settleReds_prefKeeps (s : State) : PrefKeeps s s.settleReds :=
  ⟨s.settleReds_onlyHome, fun h => by rw [State.settleReds_of_none h]; exact ⟨rfl, h⟩⟩

theorem State.prefetch_onlyCaches (s : State) (c pa : Nat) : OnlyCaches s (s.prefetch c pa) := by
  unfold State.prefetch
  split
  · refine (OnlyCaches.refl s).foldl _ fun t sec => ?_
    split
    · exact .refl t
    · exact (t.l1Fill_onlyL1 c sec).caches
  · exact .refl s

theorem State.prefAt_prefKeeps (s : State) (c pa : Nat) (l2 : Bool) : PrefKeeps s (s.prefAt c pa l2) := by
  unfold State.prefAt
  split
  · exact ((OnlyCaches.refl s).cacheTouch _ _ _ _).prefKeeps
  · exact s.settleReds_prefKeeps.trans (State.prefetch_onlyCaches _ _ _).prefKeeps

theorem View.prefLane_prefKeeps (v : View) (w : CastWord) (s : State) (t : Thread) : PrefKeeps s (v.prefLane w s t) := by
  unfold View.prefLane
  split
  · split
    · exact s.prefAt_prefKeeps _ _ _
    · exact .refl s
  · exact .refl s

theorem PrefKeeps.foldl {α : Type} {s t : State} (h : PrefKeeps s t) {f : State → α → State} (l : List α) (hf : ∀ s a, PrefKeeps s (f s a)) :
    PrefKeeps s (l.foldl f t) :=
  List.foldlRecOn l f h fun _ hb a _ => hb.trans (hf _ a)

/-- The view of a pref: in image space the reds on their way have performed. -/
def View.prefView (v : View) (w : CastWord) : View := if w.space = 6 then { v with s := v.s.settleReds } else v

/-- The prefetch of one lane: in image space the line of the level-0 texel. -/
def View.prefOne (v : View) (w : CastWord) (s : State) (l : Nat) : State :=
  if w.space = 6 then
    match v.planDesc w with
    | .ok d =>
      let (xc, yc) := coords v.g w (v.g.thread l)
      if xc < d.width ∧ yc < d.height then
        match v.s.translate v.c v.g.ctx v.nd.fatal .r (d.at_ 0 xc yc) with
        | .hit pa => s.prefAt v.c pa (w.modBit 5)
        | _ => s
      else s
    | .error _ => s
  else v.prefLane w s (v.g.thread l)

theorem View.prefOne_prefKeeps (v : View) (w : CastWord) (s : State) (l : Nat) : PrefKeeps s (v.prefOne w s l) := by
  unfold View.prefOne
  split
  · split
    · dsimp only
      split
      · split
        · exact s.prefAt_prefKeeps _ _ _
        · exact .refl s
      · exact .refl s
    · exact .refl s
  · exact v.prefLane_prefKeeps w s _

/-- pref prefetches in every active lane and advances its fragment (R216). -/
theorem exec_pref {s : State} {v : View} {w : CastWord} (h : s.decodes (.pref w) v) :
    exec (.pref w) s = .next ((((v.prefView w).active w).foldl ((v.prefView w).prefOne w) (v.prefView w).s).setGroup v.c v.slot (v.g.setNode v.onward)) := by
  have hnext : ∀ t : State, View.next { v.prefView w with s := t } (v.prefView w).g = t.setGroup v.c v.slot (v.g.setNode v.onward) := fun t => by
    unfold View.prefView
    split <;> rfl
  exact (onFrag_uniform h).trans (congrArg _ (hnext (((v.prefView w).active w).foldl ((v.prefView w).prefOne w) (v.prefView w).s)))

theorem View.prefetches_prefKeeps (v : View) (w : CastWord) (ls : List Nat) :
    PrefKeeps v.s (ls.foldl ((v.prefView w).prefOne w) (v.prefView w).s) := by
  refine PrefKeeps.foldl ?_ ls fun t l => View.prefOne_prefKeeps _ w t l
  unfold View.prefView
  split
  · exact v.s.settleReds_prefKeeps
  · exact .refl v.s

/-! ### ldk -/

/-- ldk whose read is good writes its k registers (R215). -/
theorem exec_ldk {s : State} {v : View} {w : CastWord} {t : Thread} {loc : Loc} {x : Nat} (h : s.decodes (.ldk w) v)
    (hq : v.g.lsqHeld v.nd.mask = false) (ht : v.g.thread (v.lanes.headD 0) = t) (hb : t.readsBad (.ldk w) = false)
    (hp : v.checkAccess t w.space (addressOf w v.g t) (accBytes w) (accBytes w) .r = .ready)
    (hloc : v.locate t w.space (addressOf w v.g t) (accBytes w) = some loc) (hx : (v.load s.settleReds w loc (accBytes w)).2 = .ok x) :
    exec (.ldk w) s = .next (State.setGroup
      (if acquiresWide w then v.acquireAt (v.load s.settleReds w loc (accBytes w)).1 loc (accBytes w) else (v.load s.settleReds w loc (accBytes w)).1)
      v.c v.slot ((v.g.setKcells w.d.toNat (cellsOf w.lc) x).setNode v.onward)) := by
  refine (onFrag_uniform h).trans (congrArg _ ?_)
  simp only [hq, ht, hb, hp, hloc, State.view_s h.1, hx, Bool.and_false, Bool.false_eq_true, if_false]
  rfl

/-! ### ccop -/

/-- ccop with no length above 2^24 performs for every active lane, in order (R217). -/
theorem exec_ccop {s : State} {v : View} {w : CastWord} {m : CacheOp} (h : s.issues (.ccop m w) w v) (hq : v.g.lsqHeld v.nd.mask = false)
    (hlen : w.modBit 5 = true ∨ ∀ l ∈ v.active w, dataB v.g w (v.g.thread l) 1 ≤ 2 ^ 24) :
    exec (.ccop m w) s = .next (v.finish
      ((v.active w).foldl (fun s l => if w.modBit 5 = true then s.cacheOp v.c m (w.scope == 6) fun _ => true
        else v.ccopLane m w s (v.g.thread l) (dataB v.g w (v.g.thread l) 1)) v.s.settleReds)
      ((v.active w).map fun l => (l, .ok (v.g.thread l)))) := by
  have hfits : ∀ l ∈ v.active w, ¬ 2 ^ 24 < (if w.modBit 5 = true then 0 else dataB v.g w (v.g.thread l) 1) := by
    intro l hl
    split
    · omega
    · rename_i hm
      exact Nat.not_lt.2 ((hlen.resolve_left hm) l hl)
  have houts : ((v.active w).map fun l => (l, v.g.thread l, (if w.modBit 5 = true then 0 else dataB v.g w (v.g.thread l) 1),
      if (v.g.thread l).readsBad (.ccop m w) then LaneRes.ok (v.g.thread l)
      else if 2 ^ 24 < (if w.modBit 5 = true then 0 else dataB v.g w (v.g.thread l) 1) then LaneRes.trap (v.g.thread l) causeIllop 0
      else LaneRes.ok (v.g.thread l))) =
      (v.active w).map fun l => (l, v.g.thread l, (if w.modBit 5 = true then 0 else dataB v.g w (v.g.thread l) 1), LaneRes.ok (v.g.thread l)) :=
    List.map_congr_left fun l hl => by rw [h.2 l hl, if_neg Bool.false_ne_true, if_neg (hfits l hl)]
  refine (onFrag_of_view h.1.1 _).trans (congrArg _ ?_)
  simp only [h.1.2, hq, houts, Bool.false_eq_true, if_false, List.foldl_map, List.map_map]
  refine congrArg (v.finish · _) ?_
  refine List.foldl_ext _ _ _ fun t l hl => ?_
  rw [h.2 l hl, if_neg Bool.false_ne_true]
  split
  · rfl
  · rfl

/-- Settles O26: ldk, pref and ccop by what each does; the image words by their shape, on the settled view. -/
theorem constantCacheAndImageWords : Obligations.ConstantCacheAndImageWords := by
  unfold Obligations.ConstantCacheAndImageWords
  intro s v w n low a acquire
  refine ⟨fun loc x h hq hb hp hloc hx => ⟨_, exec_ldk h hq rfl hb hp hloc hx, State.group_setGroup_self ..⟩, fun h => ?_,
    fun m h hq hlen => exec_ccop h hq hlen, fun h => ?_, fun h => ?_⟩
  · have hk := v.prefetches_prefKeeps w ((v.prefView w).active w)
    rw [State.view_s h.1] at hk
    exact ⟨_, exec_pref h, State.group_setGroup_self .., hk.home.launches, fun hn => (hk.faultQ hn).1⟩
  · exact (onFrag_of_view h.1.1.1 _).trans (congrArg _ (h.settledPerforms .rw _ _ _))
  · refine (onFrag_of_view h.1.1.1 _).trans (congrArg _ (Eq.trans ?_ (h.settledPerforms .r _ id acquire)))
    have hc : (v.settled (.smpres w)).c = v.c := by rw [View.settled_eq h.1.1.2 h.2.1]
    simp only [acquiresWide, wideScope, Bool.and_eq_true, Bool.or_eq_true, decide_eq_true_eq, beq_iff_eq, hc]
    rfl

end Sys2Proof.Machine
end

section
/-! SUPPORT. An atomic of two lanes that acquire, in a core whose L1 lists a sector twice (O22). -/

namespace Sys2Proof.Machine

/-- A clean copy of sector 0 that holds its first byte, which the home slice has overtaken. -/
def staleCopy : L1Sector := { have_ := 1, dirty := 0, data := 1, filled := 0, wrote := 0 }

/-- A copy of sector 0 whose first byte, 7, is dirty. -/
def dirtyCopy : L1Sector := { have_ := 1, dirty := 1, data := 7, filled := 0, wrote := 0 }

/-- `tinyGroup` with a second thread. -/
def pairGroup : Group :=
  { tinyGroup with
    threads := [(0, { Thread.none with alive := true }), (1, { Thread.none with tid := 1, g := 1, alive := true })]
    nodes := [{ leafNode 3 0 none none false with id := 0 }] }

/-- The page at address 0, whose physical base is `pa`. -/
def openPage (pa : Nat) : TlbEntry := { ctx := 0, va := 0, size := 4096, pa := pa, r := true, w := true, x := true }

/-- Core 0 issues a word for the two threads; its L1 lists sector 0 twice, and the clean copy hides the dirty one. -/
def hidesDirtyCopy : State :=
  { State.reset with
    cores := [(0, { Core.reset with groups := [(0, pairGroup)], utlb := [openPage 0], l1 := [(0, staleCopy), (0, dirtyCopy)] })]
    launches := [(0, tinyLaunch)] }

/-- atom.add of a .u32 at address 0x100, which acquires at scope 5, with guard 15. -/
def acquiringAdd : CastWord :=
  { tc := 0, pg := 15, pn := 0, d := 0, a := 2, b := 4, c := 0, reuse := 0, lc := 0, ty := 2, mod := 1, ext := 0x6800, imm := 0x100 }

/-- The fragment that performs the word. -/
def adder : View :=
  { s := hidesDirtyCopy, c := 0, slot := 0, g := pairGroup, nd := { leafNode 3 0 none none false with id := 0 }, l := tinyLaunch }

theorem hidesDirtyCopy_decodes : hidesDirtyCopy.decodes (.atom .add acquiringAdd) adder := by
  unfold State.decodes
  decide +kernel

/-- Both lanes access the four bytes at physical address 0x100. -/
theorem adder_access : ∀ l ∈ adder.active acquiringAdd,
    adder.locate (adder.g.thread l) acquiringAdd.space (addressOf acquiringAdd adder.g (adder.g.thread l)) (accBytes acquiringAdd) = some (.glob 0x100) := by
  decide +kernel

theorem adder_trLoc : adder.trLoc .w (.glob 0x100) (accBytes acquiringAdd) = .ok [(0x100, 4)] := by decide +kernel

/-- Neither lane stores to byte 0. -/
theorem adder_not_storesTo : ¬ adder.storesTo acquiringAdd (accBytes acquiringAdd) 0 := by
  rintro ⟨l, hl, loc, m, ps, hloc, htr, p, hp, hle, -⟩
  rw [if_neg (by decide)] at hloc
  obtain ⟨hloc, rfl⟩ := hloc
  obtain rfl := Option.some.inj ((adder_access l hl).symm.trans hloc)
  obtain rfl := RangeTr.ok.inj (adder_trLoc.symm.trans htr)
  obtain rfl := List.mem_singleton.1 hp
  exact absurd hle (by decide)

/-- The clean copy is the one that an access to byte 0 finds. -/
theorem hidesDirtyCopy_not_dirtyIn : ¬ hidesDirtyCopy.dirtyIn 0 0 := by
  rintro ⟨x, hx, hdirty⟩
  obtain rfl : staleCopy = x := Option.some.inj hx
  exact absurd hdirty (by decide)

/-- The acquire of the first lane drops the clean copy, and the second lane's write takes the dirty one home. -/
theorem byte_of_acquiringAdd : ∃ t, exec (.atom .add acquiringAdd) hidesDirtyCopy = .next t ∧
    ((t.group? 0 0).bind (·.anyNode? 0) = some adder.onward ∧ t.mem.byte 0 = 7) := by
  have h : (match exec (.atom .add acquiringAdd) hidesDirtyCopy with
      | .next t => decide ((t.group? 0 0).bind (·.anyNode? 0) = some adder.onward ∧ t.mem.byte 0 = 7)
      | _ => false) = true := by decide +kernel
  split at h
  · exact ⟨_, ‹_›, of_decide_eq_true h⟩
  · cases h

/-- Refutes O22: the statement does not ask that the keys of an L1 rise. Where a sector is listed twice, the acquire of one lane can drop the
clean copy that hides a dirty one, and the write of the next lane takes that one home with every dirty byte of its core. -/
theorem not_storesChangeTheirBytesOnly : ¬ Obligations.StoresChangeTheirBytesOnly := by
  unfold Obligations.StoresChangeTheirBytesOnly
  intro h
  obtain ⟨t, ht, honward, hbyte⟩ := byte_of_acquiringAdd
  obtain ⟨hatom, -⟩ := h hidesDirtyCopy t adder acquiringAdd 0 hidesDirtyCopy_not_dirtyIn (by rintro ⟨r, hr, -⟩; cases hr)
  have hkeeps := hatom .add hidesDirtyCopy_decodes ht honward adder_not_storesTo
  exact absurd (hbyte.symm.trans hkeeps) (by decide)

end Sys2Proof.Machine
end

section
/-! SUPPORT. A compare-and-swap across the bound of a free frame (O23). -/

namespace Sys2Proof.Machine

/-- `tinyGroup` whose thread holds 5 in v4. -/
def comparingGroup : Group := { tinyGroup with threads := [(0, { Thread.none with alive := true, v := [(4, 5)] })] }

/-- Core 0 issues a word; its page's physical base lies two bytes below frame 1, which is free and whose first byte holds 1. -/
def endsInFreeFrame : State :=
  { State.reset with
    cores := [(0, { Core.reset with groups := [(0, comparingGroup)], utlb := [openPage 0x1FFFFE] })]
    launches := [(0, tinyLaunch)]
    mem := { cells := [(0x200000, 1)], poison := [] }
    hearth := { Hearth.reset with freeFrames := [1] } }

/-- cas of a .b32 at address 0 with v4, with guard 15. -/
def casWithV4 : CastWord :=
  { tc := 0, pg := 15, pn := 0, d := 0, a := 2, b := 4, c := 0, reuse := 0, lc := 0, ty := 0xF, mod := 1, ext := 0, imm := 0 }

/-- The fragment that performs the word. -/
def comparer : View :=
  { s := endsInFreeFrame, c := 0, slot := 0, g := comparingGroup, nd := { leafNode 1 0 none none false with id := 0 }, l := tinyLaunch }

theorem comparer_clear : comparer.clear endsInFreeFrame (.cas casWithV4) casWithV4 fun t => comparer.checkAtom casWithV4 t true false := by
  unfold View.clear State.issues State.decodes
  decide +kernel

/-- The bytes in the free frame read 0. -/
theorem comparer_read :
    (comparer.read (if 2 ≤ casWithV4.ord ∧ 3 ≤ casWithV4.scope then (endsInFreeFrame.settleReds.release 0).1 else endsInFreeFrame.settleReds) true
      (.glob 0) (accBytes casWithV4)).2 = .ok 0 := by
  decide +kernel

theorem comparer_trLoc : comparer.trLoc .rw (.glob 0) (accBytes casWithV4) = .ok [(0x1FFFFE, accBytes casWithV4)] := by decide +kernel

/-- The compare-and-swap writes nothing. -/
theorem memory_of_casWithV4 : ∃ t, exec (.cas casWithV4) endsInFreeFrame = .next t ∧ t.mem.read 0x1FFFFE (accBytes casWithV4) = 0x10000 := by
  have h : (match exec (.cas casWithV4) endsInFreeFrame with
      | .next t => decide (t.mem.read 0x1FFFFE (accBytes casWithV4) = 0x10000)
      | _ => false) = true := by decide +kernel
  split at h
  · exact ⟨_, ‹_›, of_decide_eq_true h⟩
  · cases h

/-- Refutes O23: where the bytes of a cas begin just below a free frame, those in the frame read 0 (R354) while memory keeps what they held; the
statement asks only that the first byte is not free, and the cas that does not match leaves them. -/
theorem not_atomicWords : ¬ Obligations.AtomicWords := by
  unfold Obligations.AtomicWords
  intro h
  obtain ⟨-, -, hwords⟩ := h
  obtain ⟨-, -, ⟨-, hcas⟩, -⟩ := hwords endsInFreeFrame comparer casWithV4
  obtain ⟨t, ht, -, -, hmem⟩ := hcas 0 (.glob 0) 0 comparer_clear (by decide +kernel) (by decide +kernel) comparer_read
  have hread := hmem 0x1FFFFE comparer_trLoc (by decide +kernel) (by decide +kernel) (by decide +kernel)
  obtain ⟨t', ht', hread'⟩ := memory_of_casWithV4
  obtain rfl := Host.Outcome.next.inj (ht.symm.trans ht')
  exact absurd (hread'.symm.trans hread) (by decide +kernel)

end Sys2Proof.Machine
end

section
/-! SUPPORT. An entry of the error ring whose message is written over it (O46). -/

namespace Sys2Proof.Machine

/-- The vector that an entry of the error ring raises (log 80). -/
def ringVector : Nat := Config.errorVector % 536

/-- The error ring lies at the host's address 0, which a Mantel partition of 2^24 ways covers; its vector is not masked, and its message goes
there. -/
def ringAtMessage : State :=
  { State.reset with
    sup := { Sup.reset with errbase := 0x8000000000000 }
    hearth := { Hearth.reset with mantelWays := 0x1000000 }
    box := { Firebox.reset with msix := [(ringVector * 2 + 1, 0)] } }

/-- The state in which the entry is written and its vector is raised. -/
def ringWritten : State :=
  let s := ringAtMessage.unitWrite 0x8000000000000 32 1
  { s with sup := { s.sup with errput := s.sup.errput + 1 } }

theorem errorEntry_ringAtMessage : ringAtMessage.errorEntry 1 0 0 0 = ringWritten.raise 0 ringVector := rfl

theorem ringWritten_msix : ringWritten.box.msix = [(ringVector * 2 + 1, 0)] := rfl

theorem ringWritten_msixWord : ringWritten.msixWord 0 ringVector 0 = 0 ∧ ringWritten.msixWord 0 ringVector 1 = 0 := by
  unfold State.msixWord
  rw [ringWritten_msix]
  constructor <;> simp [tget, tfind]

theorem ringWritten_raise : ringWritten.raise 0 ringVector = ringWritten.sendMsix 0 ringVector := by
  obtain ⟨-, hdata⟩ := ringWritten_msixWord
  have hvec : ¬ vectorsOf 0 ≤ ringVector := Nat.not_le.2 (Nat.mod_lt _ (by decide))
  unfold State.raise
  rw [if_neg hvec, hdata, if_neg (by decide)]

/-- A message to homed memory in use is in place there once it is sent (R467). -/
theorem State.read_sendMsix {s : State} {fn vec pa : Nat} (hpa : hostPa (s.msixWord fn vec 0).toNat = pa) (hh : s.isHomed pa = true)
    (hf : s.isFree pa = false) (hw : s.stateWord pa 4 = none) :
    (s.sendMsix fn vec).mem.read pa 4 = bits (s.msixWord fn vec 1).toNat 0 32 % 256 ^ 4 := by
  let u : State := { s with box := { s.box with delivered := s.box.delivered ++ [(fn, vec)] } }
  have hsend : s.sendMsix fn vec = (u.rawWrite pa 4 (bits (s.msixWord fn vec 1).toNat 0 32)).cacheTouch pa 4 true u.evictNow := by
    show (u.homeWrite (hostPa (s.msixWord fn vec 0).toNat) 4 (bits (s.msixWord fn vec 1).toNat 0 32)).getD u = _
    rw [hpa, State.homeWrite_of_homed (s := u) _ _ hh hw]
    rfl
  rw [hsend]
  exact u.read_rawWrite 4 _ hf

/-- The message leaves four zeros where the entry begins. -/
theorem ringAtMessage_read : (ringAtMessage.errorEntry 1 0 0 0).mem.read 0x8000000000000 4 = 0 := by
  obtain ⟨haddr, hdata⟩ := ringWritten_msixWord
  rw [errorEntry_ringAtMessage, ringWritten_raise,
    State.read_sendMsix (by rw [haddr]; rfl) (by decide +kernel) (by decide +kernel) (by decide +kernel), hdata]
  decide

/-- Refutes O46: the statement does not ask that MANTELWAYS is at most 24. With more, the Mantel partition covers host addresses, and the message
of the vector that an entry raises can go where the entry is. -/
theorem not_errorEvents : ¬ Obligations.ErrorEvents := by
  unfold Obligations.ErrorEvents
  intro h
  obtain ⟨-, hentry, -⟩ := h ringAtMessage
  have hread : (ringAtMessage.errorEntry 1 0 0 0).mem.read 0x8000000000000 32 = 1 :=
    (hentry (by decide) (by decide +kernel) (by decide +kernel) (by decide +kernel) 1 0 0 0).trans (by decide +kernel)
  have hmsg := ringAtMessage_read
  simp only [Memory.read] at hread hmsg
  omega

end Sys2Proof.Machine
end

section
/-! SUPPORT. Write-backs, reds in the network, refresh, free frames, locks and gated ways (O45). -/

namespace Sys2Proof.Machine

/-! ### Write-backs (R182) -/

/-- A sector's copy once its dirty bytes are home. -/
def L1Sector.cleaned (x : L1Sector) : L1Sector := { x with dirty := 0, wrote := 0 }

@[simp] theorem L1Sector.cleaned_comp_cleaned : L1Sector.cleaned ∘ L1Sector.cleaned = L1Sector.cleaned := rfl

@[simp] theorem State.mark_byte (s : State) (sec k : Nat) : (s.mark sec).mem.byte k = s.mem.byte k := by
  unfold State.mark
  split <;> rfl

@[simp] theorem State.stampEpoch_mem (s : State) (pa n e : Nat) : (s.stampEpoch pa n e).mem = s.mem := rfl

/-- A byte of a write at the device point, in a frame in use. -/
theorem State.rawWrite_byte_inside {s : State} {pa : Nat} (n v : Nat) {i : Nat} (hf : s.isFree pa = false) (hi : i < n) :
    (s.rawWrite pa n v).mem.byte (pa + i) = BitVec.ofNat 8 (v / 256 ^ i) := by
  rw [s.rawWrite_of_used n v hf]
  exact s.mem.byte_write_inside pa n v i hi

theorem L1Sector.ofNat_byte (x : L1Sector) (i : Nat) : BitVec.ofNat 8 (x.data.toNat / 256 ^ i) = BitVec.ofNat 8 (x.byte i) := by
  rw [L1Sector.byte, bits_byte]
  exact BitVec.eq_of_toNat_eq (by simp)

/-- Writing a sector's dirty bytes one by one leaves each in place, those that are listed and those that are there already. -/
theorem foldl_writeByte {x : L1Sector} {base i : Nat} (hd : x.dirty.getLsbD i = true) (l : List Nat) {s : State} (hf : s.isFree (base + i) = false)
    (h : i ∈ l ∨ s.mem.byte (base + i) = BitVec.ofNat 8 (x.byte i)) :
    (l.foldl (fun s i => if x.dirty.getLsbD i then s.rawWrite (base + i) 1 (x.byte i) else s) s).mem.byte (base + i) = BitVec.ofNat 8 (x.byte i) := by
  induction l generalizing s with
  | nil => simpa using h
  | cons a l ih =>
    rw [List.foldl_cons]
    by_cases ha : a = i
    · subst ha
      rw [if_pos hd]
      exact ih (by rw [((OnlyCaches.refl s).rawWrite _ _ _).isFree, hf]) (.inr (by simpa using s.rawWrite_byte_inside 1 (x.byte a) hf Nat.one_pos))
    · have h' : i ∈ l ∨ s.mem.byte (base + i) = BitVec.ofNat 8 (x.byte i) := h.imp_left fun h => (List.mem_cons.1 h).resolve_left (Ne.symm ha)
      split
      · exact ih (by rw [((OnlyCaches.refl s).rawWrite _ _ _).isFree, hf])
          (h'.imp_right fun h => (s.rawWrite_byte_outside _ _ _ _ (by omega)).trans h)
      · exact ih hf h'

/-- A dirty byte of a sector that is written back, in a frame in use. -/
theorem writeBytes_byte {s : State} {x : L1Sector} {sec i : Nat} (hd : x.dirty.getLsbD i = true) (hf : s.isFree (32 * sec + i) = false) :
    (writeBytes s (32 * sec) x).mem.byte (32 * sec + i) = BitVec.ofNat 8 (x.byte i) := by
  have hi : i < 32 := BitVec.lt_of_getLsbD hd
  have hbytes : (if x.dirty = byteMask 0 32 then s.rawWrite (32 * sec) 32 x.data.toNat
      else (List.range 32).foldl (fun s i => if x.dirty.getLsbD i then s.rawWrite (32 * sec + i) 1 (x.byte i) else s) s).mem.byte (32 * sec + i) =
      BitVec.ofNat 8 (x.byte i) := by
    split
    · rw [State.rawWrite_byte_inside 32 _ (by rwa [s.isFree_congr (b := 32 * sec + i) (by omega)]) hi, x.ofNat_byte]
    · exact foldl_writeByte hd _ hf (.inl (List.mem_range.2 hi))
  unfold writeBytes
  dsimp only
  split
  · rw [State.mark_byte, hbytes]
  · exact hbytes

/-- A write-back of a sector cleans its copy and leaves the others. -/
theorem State.l1WriteBack_find (s : State) (c sec j : Nat) :
    tfind ((s.l1WriteBack c sec).core c).l1 j = if j = sec then (tfind (s.core c).l1 j).map L1Sector.cleaned else tfind (s.core c).l1 j := by
  unfold State.l1WriteBack
  split
  · rename_i hx
    split
    · simp_all
    · rfl
  · rename_i x hx
    have hput : ∀ u : State, u.cores = s.cores →
        tfind ((u.setCore c { u.core c with l1 := tput (u.core c).l1 sec x.cleaned }).core c).l1 j =
          if j = sec then (tfind (s.core c).l1 j).map L1Sector.cleaned else tfind (s.core c).l1 j := fun u hu => by
      rw [State.core_setCore_self, show u.core c = s.core c from congrArg (tget Core.reset · c) hu]
      split
      · next h => rw [h, tfind_tput_self, hx]; rfl
      · next h => exact tfind_tput_ne _ _ h
    dsimp only
    split
    · exact hput s rfl
    · exact hput _ (writeBytes_cores s (32 * sec) x)

theorem State.l1WriteBack_byte {s : State} {c k : Nat} {x : L1Sector} (hx : tfind (s.core c).l1 (k / 32) = some x)
    (hd : x.dirty.getLsbD (k % 32) = true) (hf : s.isFree k = false) : (s.l1WriteBack c (k / 32)).mem.byte k = BitVec.ofNat 8 (x.byte (k % 32)) := by
  have hk : 32 * (k / 32) + k % 32 = k := Nat.div_add_mod k 32
  have hne : x.dirty ≠ 0 := fun h => by simp [h] at hd
  have hw := writeBytes_byte (s := s) (sec := k / 32) hd (by rwa [hk])
  rw [hk] at hw
  unfold State.l1WriteBack
  rw [hx]
  dsimp only
  rw [if_neg hne, State.setCore_mem, State.stampEpoch_mem, State.cacheTouch_mem, hw]

/-- Writing back sectors cleans the copies of those, and leaves the others. -/
theorem State.foldl_l1WriteBack_find (l : List Nat) (s : State) (c j : Nat) :
    tfind ((l.foldl (fun s sec => s.l1WriteBack c sec) s).core c).l1 j = if j ∈ l then (tfind (s.core c).l1 j).map L1Sector.cleaned else tfind (s.core c).l1 j := by
  induction l generalizing s with
  | nil => simp
  | cons a l ih =>
    rw [List.foldl_cons, ih, s.l1WriteBack_find]
    by_cases ha : j = a
    · by_cases hl : j ∈ l
      · simp [← ha, hl]
      · simp [← ha, hl]
    · simp [ha]

/-- A dirty byte is in place once its sector has been written back, and clean from there on. -/
theorem State.foldl_l1WriteBack_byte {c k : Nat} {x : L1Sector} (hd : x.dirty.getLsbD (k % 32) = true) (l : List Nat) {s : State} (hf : s.isFree k = false)
    (h : k / 32 ∈ l ∧ tfind (s.core c).l1 (k / 32) = some x ∨ s.mem.byte k = BitVec.ofNat 8 (x.byte (k % 32)) ∧ ¬ s.dirtyIn c k) :
    (l.foldl (fun s sec => s.l1WriteBack c sec) s).mem.byte k = BitVec.ofNat 8 (x.byte (k % 32)) := by
  induction l generalizing s with
  | nil => simpa using h.resolve_left (by simp) |>.1
  | cons a l ih =>
    rw [List.foldl_cons]
    refine ih (by rw [(s.l1WriteBack_onlyL1 c a).caches.isFree, hf]) ?_
    rcases h with ⟨hmem, hx⟩ | ⟨hbyte, hclean⟩
    · by_cases ha : k / 32 = a
      · subst ha
        refine .inr ⟨State.l1WriteBack_byte hx hd hf, fun ⟨y, hy, hdirty⟩ => ?_⟩
        rw [State.l1WriteBack_find, if_pos rfl, hx] at hy
        obtain rfl := Option.some.inj hy
        simp [L1Sector.cleaned] at hdirty
      · exact .inl ⟨(List.mem_cons.1 hmem).resolve_left ha, by rw [s.l1WriteBack_find, if_neg ha, hx]⟩
    · obtain ⟨hsame, hstill⟩ := State.l1WriteBack_clean (sec := a) hclean
      exact .inr ⟨hsame.trans hbyte, hstill⟩

/-- A dirty sector is among those that a write-back of the core takes. -/
theorem mem_dirtySectors {t : Table L1Sector} {j : Nat} {x : L1Sector} (hx : tfind t j = some x) (hd : x.dirty ≠ 0) :
    j ∈ (t.filter fun e => e.2.dirty != 0).map (·.1) :=
  List.mem_map.2 ⟨(j, x), List.mem_filter.2 ⟨mem_of_tfind hx, by simpa using hd⟩, rfl⟩

theorem State.l1WriteBackAll_find {s : State} {c j : Nat} {x : L1Sector} (hx : tfind (s.core c).l1 j = some x) (hd : x.dirty ≠ 0) :
    tfind ((s.l1WriteBackAll c).core c).l1 j = some x.cleaned := by
  rw [State.l1WriteBackAll, State.foldl_l1WriteBack_find, if_pos (mem_dirtySectors hx hd), hx]
  rfl

theorem State.l1WriteBackAll_dirtyByte {s : State} {c k : Nat} {x : L1Sector} (hx : tfind (s.core c).l1 (k / 32) = some x)
    (hd : x.dirty.getLsbD (k % 32) = true) (hf : s.isFree k = false) : ((s.l1WriteBackAll c).mem.byte k).toNat = x.byte (k % 32) := by
  have hne : x.dirty ≠ 0 := fun h => by simp [h] at hd
  rw [State.l1WriteBackAll, State.foldl_l1WriteBack_byte hd _ hf (.inl ⟨mem_dirtySectors hx hne, hx⟩), BitVec.toNat_ofNat]
  exact Nat.mod_eq_of_lt (Nat.mod_lt _ (by decide))

theorem exec_l1Writeback_at {s : State} {c i j : Nat} (ha : s.cur.arg = .at c i j) : exec .l1Writeback s = .next (s.l1WriteBackAll c) := by
  show execL1Writeback s = _
  simp only [execL1Writeback, ha]

/-- The clean bytes of a sector go, and with the last of its bytes the sector. -/
theorem State.l1Clean_of_find {s : State} {c i : Nat} {x : L1Sector} (hx : tfind (s.core c).l1 i = some x) :
    s.l1Clean c i = if x.have_ &&& x.dirty = 0 then s.l1Drop c i
      else s.setCore c { s.core c with l1 := tput (s.core c).l1 i { x with have_ := x.have_ &&& x.dirty } } := by
  unfold State.l1Clean
  rw [hx]
  simp only [L1Sector.without, BitVec.not_not]
  by_cases h : x.have_ &&& x.dirty = 0
  · simp only [if_pos h]
  · simp only [if_neg h]

theorem exec_l1LineExpire_at {s : State} {c i j : Nat} (ha : s.cur.arg = .at c i j) : exec .l1LineExpire s = .next (s.l1Clean c i) := by
  show execL1LineExpire s = _
  simp only [execL1LineExpire, ha]

/-! ### Reds in the network (R349, R350) -/

theorem RedReq.meets_iff (x y : RedReq) : x.meets y = true ↔ x.pa = y.pa ∧ ∃ a ∈ x.srcs, ∃ b ∈ y.srcs, a.core = b.core := by
  simp [RedReq.meets]

/-- The mate of a request is like it, and none before it shares a source and the address. -/
theorem mateOf_spec {rest : List RedReq} {x : RedReq} {n : Nat} (h : mateOf rest x = some n) :
    ∃ z, rest[n]? = some z ∧ x.like z = true ∧ ∀ y ∈ rest.take n, ¬ z.meets y = true := by
  have hn := List.find?_some h
  split at hn
  · next z hz =>
    simp only [Bool.and_eq_true, Bool.not_eq_true', List.any_eq_false] at hn
    obtain ⟨⟨hlike, -⟩, hfirst⟩ := hn
    exact ⟨z, hz, hlike, hfirst⟩
  · cases hn

section
variable {s : State} {i y z : Nat} {x : RedReq} (ha : s.cur.arg = .at i y z)
include ha

theorem exec_routerCombineFlush_waits (hx : s.hearth.routers[i]? = some x) (h : ∃ y ∈ s.hearth.routers.take i, x.meets y = true) :
    exec .routerCombineFlush s = .next s := by
  show execRouterCombineFlush s = _
  simp only [execRouterCombineFlush, ha, hx, if_pos (List.any_eq_true.2 h)]

/-- A request leaves its router alone or merged. -/
theorem exec_routerCombineFlush_goes (hx : s.hearth.routers[i]? = some x) (h : ¬ ∃ y ∈ s.hearth.routers.take i, x.meets y = true) :
    ∃ (y : RedReq) (rest : List RedReq),
      exec .routerCombineFlush s =
        .next { s.fresh with hearth := { s.hearth with routers := rest, requests := s.hearth.requests ++ [{ y with since := s.tick.toNat }] } } ∧
      (rest = s.hearth.routers.eraseIdx i ∧ y = x ∨
        ∃ n z, mateOf (s.hearth.routers.eraseIdx i) x = some n ∧ (s.hearth.routers.eraseIdx i)[n]? = some z ∧
          rest = (s.hearth.routers.eraseIdx i).eraseIdx n ∧ y = x.merge z) := by
  have hexec : exec .routerCombineFlush s = execRouterCombineFlush s := rfl
  rw [hexec]
  simp only [execRouterCombineFlush, ha, hx, if_neg (mt List.any_eq_true.1 h)]
  cases hm : if Config.happensNow s.free then mateOf (s.hearth.routers.eraseIdx i) x else none with
  | none => exact ⟨x, _, rfl, .inl ⟨rfl, rfl⟩⟩
  | some n =>
    have hmate : mateOf (s.hearth.routers.eraseIdx i) x = some n := by
      split at hm
      · exact hm
      · cases hm
    obtain ⟨z, hz, -⟩ := mateOf_spec hmate
    simp only [hz]
    exact ⟨_, _, rfl, .inr ⟨n, z, hmate, hz, rfl, rfl⟩⟩

theorem exec_p3Promotion_at (hx : s.hearth.requests[i]? = some x) : exec .p3Promotion s = .next (if x.since + 16384 ≤ s.tick.toNat then
    { s with hearth := { s.hearth with requests := s.hearth.requests.set i { x with prio := min x.prio 2 } } } else s) := by
  show execP3Promotion s = _
  simp only [execP3Promotion, ha, hx]
  split <;> rfl

/-- A request waits behind one of a better class at its port, and behind an older one of its class. -/
theorem exec_memoryRequestPerform_waits (hx : s.hearth.requests[i]? = some x)
    (h : (∃ y ∈ s.hearth.requests, y.port = x.port ∧ y.prio < x.prio) ∨ ∃ y ∈ s.hearth.requests.take i, y.port = x.port ∧ y.prio = x.prio) :
    exec .memoryRequestPerform s = .next s := by
  show execMemoryRequestPerform s = _
  simp only [execMemoryRequestPerform, ha, hx]
  exact if_pos (by simpa using h)

/-- The state in which request `i` has left its port. -/
def State.takeRequest (s : State) (i : Nat) : State := { s with hearth := { s.hearth with requests := s.hearth.requests.eraseIdx i } }

theorem exec_memoryRequestPerform_performs (hx : s.hearth.requests[i]? = some x) (hbest : ∀ y ∈ s.hearth.requests, y.port = x.port → x.prio ≤ y.prio)
    (hold : ∀ y ∈ s.hearth.requests.take i, y.port = x.port → y.prio ≠ x.prio) :
    exec .memoryRequestPerform s = .next ((s.takeRequest i).performRed x) := by
  show execMemoryRequestPerform s = _
  simp only [execMemoryRequestPerform, ha, hx]
  refine if_neg ?_
  simp only [Bool.or_eq_true, List.any_eq_true, Bool.and_eq_true, beq_iff_eq, decide_eq_true_eq, not_or, not_exists, not_and]
  exact ⟨fun y hy hp => Nat.not_lt.2 (hbest y hy hp), hold⟩

end

theorem OnlyCores.foldl {α : Type} {s : State} {f : State → α → State} (l : List α) (hf : ∀ s a, OnlyCores s (f s a)) : OnlyCores s (l.foldl f s) :=
  List.foldlRecOn (motive := fun t => OnlyCores s t) l f rfl fun _ ht a _ => ht.trans (hf _ a)

theorem State.l1Clean_onlyCores (s : State) (c sec : Nat) : OnlyCores s (s.l1Clean c sec) := by
  unfold State.l1Clean
  split
  · rfl
  · split <;> rfl

/-- The senders of a red keep no clean copy of its bytes (R179). -/
def State.cleanSenders (s : State) (r : RedReq) : State :=
  (r.srcs.map (·.core)).foldl (fun s c => (sectorsOf r.pa r.n).foldl (fun s sec => s.l1Clean c sec) s) s

theorem State.cleanSenders_onlyCores (s : State) (r : RedReq) : OnlyCores s (s.cleanSenders r) :=
  .foldl _ fun _ c => .foldl _ fun u sec => u.l1Clean_onlyCores c sec

theorem State.performRed_eq (s : State) (r : RedReq) : s.performRed r =
    if (s.stateWord r.pa r.n).isSome then r.srcs.foldl (fun s x => s.applyRed r x.val [x]) (s.cleanSenders r) else (s.cleanSenders r).applyRed r r.val r.srcs := by
  have h : (s.cleanSenders r).stateWord r.pa r.n = s.stateWord r.pa r.n := by rw [s.cleanSenders_onlyCores r]; rfl
  rw [← h]
  rfl

/-- A read at the device point depends on the bytes there, the poison, and which accesses are refused. -/
theorem State.homeRead_congr {s t : State} {pa n : Nat} (hb : ∀ k, t.byteAt k = s.byteAt k) (hm : t.mem = s.mem) (hp : t.peerRefused pa = s.peerRefused pa) :
    t.homeRead pa n = s.homeRead pa n := by
  have hraw : ∀ a n, t.rawRead a n = s.rawRead a n := fun a n => by
    induction n generalizing a with
    | zero => rfl
    | succ n ih => simp only [State.rawRead, hb, ih]
  simp only [State.homeRead, hp, hm, hraw]

theorem State.takeRequest_homeRead (s : State) (i pa n : Nat) : (s.takeRequest i).homeRead pa n = s.homeRead pa n :=
  State.homeRead_congr (fun _ => rfl) rfl rfl

theorem OnlyCores.homeRead {s t : State} (h : OnlyCores s t) (pa n : Nat) : t.homeRead pa n = s.homeRead pa n := by
  rw [h]
  exact State.homeRead_congr (fun _ => rfl) rfl rfl

/-- A write at the home slice of bytes that are no registered state word, with any EVICT. -/
theorem State.homeWrite_evict_of_homed {s : State} {pa n : Nat} (v : Nat) (k : WKind) (ev : Nat) (h : s.isHomed pa = true) (hw : s.stateWord pa n = none) :
    s.homeWrite pa n v k ev = some ((s.rawWrite pa n v).cacheTouch pa n true ev) := by
  rcases s.paRegion_of_homed h with e | e <;> simp only [State.homeWrite, hw, e]

/-- Whether the home slice rejects a write depends on memory and the registered state words alone (R39). -/
theorem State.homeWrite_none_congr {s t : State} {pa n v : Nat} {k : WKind} {ev : Nat} (hm : t.mem = s.mem) (hw : t.stateWord pa n = s.stateWord pa n)
    (h : s.homeWrite pa n v k ev = none) : t.homeWrite pa n v k ev = none := by
  unfold State.homeWrite at h ⊢
  rw [hw, hm]
  split at h
  · dsimp only at h ⊢
    split at h
    · cases h
    · next hbad => rw [if_neg hbad]
  · split at h
    · split at h <;> cases h
    · cases h
    · cases h

/-- A red performs on bytes that are no registered state word. -/
theorem State.applyRed_performs {s : State} {r : RedReq} {old : Nat} (x : DWord) (srcs : List RedSrc) (hr : s.homeRead r.pa r.n = .ok old)
    (hh : s.isHomed r.pa = true) (hf : s.isFree r.pa = false) (hw : s.stateWord r.pa r.n = none) :
    (s.applyRed r x srcs).hearth.requests = s.hearth.requests ∧ SameBytesBut s (s.applyRed r x srcs) r.pa r.n ∧
      (s.applyRed r x srcs).mem.read r.pa r.n = atomVal (redAtom r.op) r.ty (8 * r.n) old x.toNat % 256 ^ r.n := by
  have happly : s.applyRed r x srcs =
      ((s.rawWrite r.pa r.n (atomVal (redAtom r.op) r.ty (8 * r.n) old x.toNat)).cacheTouch r.pa r.n true r.evict).stampEpoch r.pa r.n
        ((s.rawWrite r.pa r.n (atomVal (redAtom r.op) r.ty (8 * r.n) old x.toNat)).hearth.nextEpoch - 1) := by
    unfold State.applyRed
    simp only [hr, State.homeWrite_evict_of_homed _ _ _ hh hw]
    rfl
  have hmem : (s.applyRed r x srcs).mem = (s.rawWrite r.pa r.n (atomVal (redAtom r.op) r.ty (8 * r.n) old x.toNat)).mem := by
    rw [happly, State.stampEpoch_mem, State.cacheTouch_mem]
  refine ⟨?_, fun k hk => ?_, ?_⟩
  · rw [happly, s.rawWrite_of_used _ _ hf]
    rfl
  · rw [hmem, State.rawWrite_byte_outside _ _ _ _ _ hk]
  · rw [hmem, State.read_rawWrite _ _ hf]

theorem State.reportReds_reportReds (s : State) (cause : Nat) (a b : List RedSrc) :
    (s.reportReds cause a).reportReds cause b = s.reportReds cause (a ++ b) := by
  simp [State.reportReds]

theorem State.reportReds_nil (s : State) (cause : Nat) : s.reportReds cause [] = s := by
  simp [State.reportReds]

theorem State.reportReds_homeRead (s : State) (cause : Nat) (srcs : List RedSrc) (pa n : Nat) :
    (s.reportReds cause srcs).homeRead pa n = s.homeRead pa n :=
  State.homeRead_congr (fun _ => rfl) rfl rfl

/-- Reds that are each reported with one cause, whatever has been reported before, are all reported. -/
theorem State.foldl_applyRed_reports {s : State} {r : RedReq} {cause : Nat} (l : List RedSrc)
    (h : ∀ done, ∀ x ∈ l, (s.reportReds cause done).applyRed r x.val [x] = (s.reportReds cause done).reportReds cause [x]) (done : List RedSrc) :
    l.foldl (fun s x => s.applyRed r x.val [x]) (s.reportReds cause done) = s.reportReds cause (done ++ l) := by
  induction l generalizing done with
  | nil => simp
  | cons x l ih =>
    rw [List.foldl_cons, h done x (by simp), State.reportReds_reportReds, ih fun d y hy => h d y (by simp [hy])]
    simp

theorem State.applyRed_poison {s : State} {r : RedReq} (x : DWord) (srcs : List RedSrc) (hr : s.homeRead r.pa r.n = .poison) :
    s.applyRed r x srcs = s.reportReds 0xD srcs := by
  simp only [State.applyRed, hr]

theorem State.applyRed_rejected {s : State} {r : RedReq} {old : Nat} (x : DWord) (srcs : List RedSrc) (hr : s.homeRead r.pa r.n = .ok old)
    (hw : s.homeWrite r.pa r.n (atomVal (redAtom r.op) r.ty (8 * r.n) old x.toNat) {} r.evict = none) : s.applyRed r x srcs = s.reportReds 5 srcs := by
  simp only [State.applyRed, hr, hw]

/-- A red that finds poison is reported for each of its senders. -/
theorem State.performRed_poison {s : State} {r : RedReq} (hr : s.homeRead r.pa r.n = .poison) :
    s.performRed r = (s.cleanSenders r).reportReds 0xD r.srcs := by
  have hr' : (s.cleanSenders r).homeRead r.pa r.n = .poison := by rw [(s.cleanSenders_onlyCores r).homeRead, hr]
  rw [State.performRed_eq]
  split
  · have h := State.foldl_applyRed_reports (s := s.cleanSenders r) (r := r) r.srcs (fun _ x _ => State.applyRed_poison x.val [x] (by rw [State.reportReds_homeRead, hr'])) []
    rwa [State.reportReds_nil, List.nil_append] at h
  · exact State.applyRed_poison _ _ hr'

/-- Reds whose changes of a state word the home slice rejects are reported one by one (R39). -/
theorem State.performRed_rejected {s : State} {r : RedReq} {old w : Nat} (hr : s.homeRead r.pa r.n = .ok old) (hw : s.stateWord r.pa r.n = some w)
    (h : ∀ y ∈ r.srcs, s.homeWrite r.pa r.n (atomVal (redAtom r.op) r.ty (8 * r.n) old y.val.toNat) {} r.evict = none) :
    s.performRed r = (s.cleanSenders r).reportReds 5 r.srcs := by
  have hc := s.cleanSenders_onlyCores r
  have hr' : (s.cleanSenders r).homeRead r.pa r.n = .ok old := by rw [hc.homeRead, hr]
  have hmem : (s.cleanSenders r).mem = s.mem := by rw [hc]
  have hword : (s.cleanSenders r).stateWord r.pa r.n = s.stateWord r.pa r.n := by rw [hc]; rfl
  rw [State.performRed_eq, hw, if_pos (Option.isSome_some)]
  have hall := State.foldl_applyRed_reports (s := s.cleanSenders r) (r := r) (cause := 5) r.srcs
    (fun _ x hx => State.applyRed_rejected x.val [x] (by rw [State.reportReds_homeRead, hr'])
      (State.homeWrite_none_congr hmem hword (h x hx))) []
  rwa [State.reportReds_nil, List.nil_append] at hall

/-- A red performs with its one combined operand. -/
theorem State.performRed_performs {s : State} {r : RedReq} {old : Nat} (hr : s.homeRead r.pa r.n = .ok old)
    (hh : s.isHomed r.pa = true) (hf : s.isFree r.pa = false) (hw : s.stateWord r.pa r.n = none) :
    (s.performRed r).hearth.requests = s.hearth.requests ∧ SameBytesBut s (s.performRed r) r.pa r.n ∧
      (s.performRed r).mem.read r.pa r.n = atomVal (redAtom r.op) r.ty (8 * r.n) old r.val.toNat % 256 ^ r.n := by
  have hc := s.cleanSenders_onlyCores r
  have hhearth : (s.cleanSenders r).hearth = s.hearth := by rw [hc]
  have hmem : (s.cleanSenders r).mem = s.mem := by rw [hc]
  obtain ⟨hreq, hbytes, hread⟩ := State.applyRed_performs (s := s.cleanSenders r) r.val r.srcs (by rw [hc.homeRead, hr]) (by rw [hc]; exact hh)
    (by rw [hc]; exact hf) (by rw [hc]; exact hw)
  rw [State.performRed_eq, hw, if_neg (by simp)]
  exact ⟨by rw [hreq, hhearth], fun k hk => by rw [hbytes k hk, hmem], hread⟩

/-! ### Refresh (R352) -/

/-- The refresh factor of a device by the temperature of its sensor (log 19). -/
def State.deviceFactor (s : State) (d : Nat) : Nat := heatFactor (tget 0#16 s.box.therm (gmemSensor d)).toNat

/-- The refresh factors of a controller's two devices. -/
theorem exec_refreshAdjust_at {s : State} {i y z : Nat} (ha : s.cur.arg = .at i y z) : exec .refreshAdjust s =
    .next { s with hearth := { s.hearth with
      refresh := tput (tput s.hearth.refresh (2 * i) (s.deviceFactor (2 * i))) (2 * i + 1) (s.deviceFactor (2 * i + 1)) } } := by
  show execRefreshAdjust s = _
  simp only [execRefreshAdjust, ha]
  rfl

/-- Two entries put beside each other: each is found, and the others stay. -/
theorem tget_tput_pair (d : Nat) (t : Table Nat) (i : Nat) (f : Nat → Nat) (k : Nat) :
    tget d (tput (tput t (2 * i) (f (2 * i))) (2 * i + 1) (f (2 * i + 1))) k = if k / 2 = i then f k else tget d t k := by
  by_cases h1 : k = 2 * i + 1
  · subst h1
    rw [tget_tput_self, if_pos (by omega)]
  · rw [tget_tput_ne _ _ _ h1]
    by_cases h0 : k = 2 * i
    · subst h0
      rw [tget_tput_self, if_pos (by omega)]
    · rw [tget_tput_ne _ _ _ h0, if_neg (by omega)]

/-! ### Free frames (R353, R354) -/

theorem mem_sinsert_iff {l : List Nat} {i x : Nat} : x ∈ sinsert l i ↔ x = i ∨ x ∈ l := by
  refine ⟨mem_sinsert, ?_⟩
  induction l with
  | nil => simp [sinsert]
  | cons a l ih =>
    simp only [sinsert]
    split
    · simp only [List.mem_cons]
      tauto
    · split <;> simp_all

/-- A frame that is cleared: its bytes read 0, and the others stay. -/
theorem tget_filter_frame (t : Table Byte) (f k : Nat) :
    tget 0#8 (t.filter fun e => decide (e.1 / 0x200000 ≠ f)) k = if k / 0x200000 = f then 0 else tget 0#8 t k := by
  induction t with
  | nil => simp [tget, tfind]
  | cons e t ih =>
    obtain ⟨j, x⟩ := e
    rw [List.filter_cons]
    by_cases hj : j = k
    · subst hj
      by_cases hf : j / 0x200000 = f
      · simpa [hf] using ih
      · simp [hf, tget, tfind]
    · have hskip : tget 0#8 ((j, x) :: t) k = tget 0#8 t k := by simp [tget, tfind, hj]
      rw [hskip, ← ih]
      split
      · simp [tget, tfind, hj]
      · rfl

theorem State.clearFrame_byte (s : State) (f k : Nat) : (s.clearFrame f).mem.byte k = if k / 0x200000 = f then 0 else s.mem.byte k :=
  tget_filter_frame s.mem.cells f k

/-- No L1 keeps a copy of a frame that leaves the caches. -/
theorem State.dropFrame_l1 (s : State) (f : Nat) : ∀ e ∈ (s.dropFrame f).cores, ∀ x ∈ e.2.l1, 32 * x.1 / 0x200000 ≠ f := by
  intro e he x hx
  obtain ⟨k, -, rfl⟩ := List.mem_map.1 he
  simpa using (List.mem_filter.1 hx).2

/-- What a command on a frame that performs leaves, `frames` being free from then on. -/
def State.frameDone (s : State) (f : Nat) (frames : List Nat) : State :=
  { (s.dropFrame f).clearFrame f with hearth := { (s.dropFrame f).hearth with freeFrames := frames, freeOp := some (3, f) } }

section
variable {s : State} {f y z : Nat} (ha : s.cur.arg = .at f y z)
include ha

theorem exec_freeDeclare_at : exec .freeDeclare s =
    .next (if s.hearth.freeOp = some (1, f) then s.frameDone f (sinsert s.hearth.freeFrames f) else s) := by
  show execFreeDeclare s = _
  simp only [execFreeDeclare, ha]
  split <;> rfl

theorem exec_freeReclaim_at : exec .freeReclaim s =
    .next (if s.hearth.freeOp = some (2, f) then s.frameDone f (s.hearth.freeFrames.filter (· ≠ f)) else s) := by
  show execFreeReclaim s = _
  simp only [execFreeReclaim, ha]
  split <;> rfl

end

theorem State.redInFrame_iff (s : State) (f : Nat) : s.redInFrame f = true ↔ ∃ r ∈ s.hearth.routers ++ s.hearth.requests, r.pa / 0x200000 = f := by
  simp only [State.redInFrame, List.any_eq_true, beq_iff_eq]

/-- The state once the command on a frame is over. -/
def State.endFree (s : State) : State :=
  { s with hearth := { s.hearth with freeOp := none }, sup := { s.sup with freecmd := setBit64 s.sup.freecmd 63 false } }

theorem exec_freecmdComplete_of_frame {s : State} {f : Nat} (hf : s.hearth.freeOp = some (3, f)) :
    exec .freecmdComplete s = .next (if s.redInFrame f = true then s else s.endFree) := by
  show execFreecmdComplete s = _
  simp only [execFreecmdComplete, hf]
  split <;> rfl

theorem exec_freecmdComplete_of_none {s : State} (h : ∀ f, s.hearth.freeOp ≠ some (3, f)) : exec .freecmdComplete s = .next s := by
  show execFreecmdComplete s = _
  unfold execFreecmdComplete
  split
  · next f hf => exact absurd hf (h f)
  · rfl

/-! ### Bits of a register -/

theorem setBit64_getLsbD (x : DWord) (i : Nat) (b : Bool) (k : Nat) (hi : i < 64) : (setBit64 x i b).getLsbD k = if k = i then b else x.getLsbD k := by
  have hone : (1#64 <<< i).getLsbD k = (decide (k < 64) && decide (k = i)) := by
    by_cases hk : k = i
    · simp [hk, hi]
    · simp only [BitVec.getLsbD_shiftLeft, BitVec.getLsbD_one, hk, decide_false, Bool.and_false]
      by_cases hlt : k < i
      · simp [hlt]
      · simp [show k - i ≠ 0 by omega]
  unfold setBit64
  cases b with
  | false =>
    rw [if_neg (by simp), BitVec.getLsbD_and, BitVec.getLsbD_not, hone]
    by_cases hk : k = i
    · simp [hk, hi]
    · simpa [hk] using fun h => BitVec.lt_of_getLsbD h
  | true =>
    rw [if_pos rfl, BitVec.getLsbD_or, hone]
    by_cases hk : k = i
    · simp [hk, hi]
    · simp [hk]

theorem setBit64_getLsbD_self (x : DWord) (b : Bool) {i : Nat} (hi : i < 64) : (setBit64 x i b).getLsbD i = b := by
  rw [setBit64_getLsbD x i b i hi, if_pos rfl]

theorem setBit64_getLsbD_ne (x : DWord) (b : Bool) {i k : Nat} (hi : i < 64) (hk : k ≠ i) : (setBit64 x i b).getLsbD k = x.getLsbD k := by
  rw [setBit64_getLsbD x i b k hi, if_neg hk]

/-! ### Locks (R334) -/

theorem exec_l2LockWrite_value {s : State} {i j : Nat} {v : BitVec 256} (ha : s.cur.arg = .value i j v) :
    exec .l2LockWrite s = .next (s.writeLock i (v.setWidth 64)) := by
  show execL2LockWrite s = _
  simp only [execL2LockWrite, ha]

theorem State.writeLock_discarded {s : State} {v : DWord} (i : Nat) (h : 0x6000000000 ≤ bits v.toNat 21 31 * 2 ^ 21) : s.writeLock i v = s := by
  simp only [State.writeLock, h, if_true]

/-- The entry that a write to a lock leaves. -/
def lockEntry (v : DWord) : DWord := BitVec.ofNat 64 (bits v.toNat 21 31 * 2 ^ 21 + bits v.toNat 0 1)

theorem State.writeLock_spec {s : State} {v : DWord} (i : Nat) (h : bits v.toNat 21 31 * 2 ^ 21 < 0x6000000000) :
    (s.writeLock i v).mem = s.mem ∧ (s.writeLock i v).sup.l2lock = tset 0#64 s.sup.l2lock i (lockEntry v) := by
  have hn : ¬ 0x6000000000 ≤ bits v.toNat 21 31 * 2 ^ 21 := Nat.not_le.2 h
  simp only [State.writeLock, hn, if_false, lockEntry]
  split
  · exact ⟨rfl, rfl⟩
  · exact ⟨rfl, rfl⟩

theorem lockEntry_toNat {v : DWord} (h : bits v.toNat 21 31 * 2 ^ 21 < 0x6000000000) :
    (lockEntry v).toNat = bits v.toNat 21 31 * 2 ^ 21 + v.toNat % 2 := by
  have hlow : bits v.toNat 0 1 = v.toNat % 2 := by simp [bits]
  rw [lockEntry, BitVec.toNat_ofNat, hlow]
  generalize bits v.toNat 21 31 = base at h
  omega

/-- The fields of a lock entry lie in the low 64 bits of the value written. -/
theorem lockFields_setWidth (v : BitVec 256) :
    bits (v.setWidth 64).toNat 21 31 = bits v.toNat 21 31 ∧ (v.setWidth 64).toNat % 2 = v.toNat % 2 := by
  simp only [bits, BitVec.toNat_setWidth]
  omega

/-! ### Gated ways (R355, R356) -/

@[simp] theorem State.waygate_setWaygate (s : State) (sl : Nat) (x : DWord) : (s.setWaygate sl x).waygate sl = x := by
  simp [State.waygate, State.setWaygate]

@[simp] theorem State.dropWay_waygate (s : State) (sl way k : Nat) : (s.dropWay sl way).waygate k = s.waygate k := rfl

@[simp] theorem State.dropWay_mem (s : State) (sl way : Nat) : (s.dropWay sl way).mem = s.mem := rfl

@[simp] theorem State.setWaygate_mem (s : State) (sl : Nat) (x : DWord) : (s.setWaygate sl x).mem = s.mem := rfl

/-- A way that is emptied holds no line. -/
theorem State.dropWay_l2 (s : State) (sl way : Nat) : ∀ x ∈ (s.dropWay sl way).hearth.l2, x.slice ≠ sl ∨ x.way ≠ way := by
  intro x hx
  have hout := (List.mem_filter.1 hx).2
  simp only [CacheLine.inWay, Bool.not_eq_true', Bool.and_eq_false_iff, beq_eq_false_iff_ne] at hout
  exact hout

section
variable {s : State} {i way z : Nat} (ha : s.cur.arg = .at i way z)
include ha

theorem exec_l2WayGate_at : exec .l2WayGate s =
    .next (if (s.waygate i).getLsbD way = true ∧ ∃ x ∈ s.hearth.l2, x.slice = i ∧ x.way = way ∧ x.locked = true
      then s.setWaygate i (setBit64 (s.waygate i) (32 + way) true) else s) := by
  show execL2WayGate s = _
  simp only [execL2WayGate, ha, CacheLine.inWay, Bool.and_eq_true, List.any_eq_true, beq_iff_eq, and_assoc]
  split <;> rfl

theorem exec_l2WayUngate_at : exec .l2WayUngate s = .next (if (s.waygate i).getLsbD way = true then s else
    (s.setWaygate i (setBit64 (setBit64 (s.waygate i) (16 + way) false) (32 + way) false)).dropWay i way) := by
  show execL2WayUngate s = _
  simp only [execL2WayUngate, ha]
  split <;> rfl

theorem exec_wayGateDone_slice (hi : i < 64) (hg : (s.waygate i).getLsbD way = true) (hskip : (s.waygate i).getLsbD (32 + way) = false) :
    exec .wayGateDone s = .next ((s.setWaygate i (setBit64 (s.waygate i) (16 + way) true)).dropWay i way) := by
  show execWayGateDone s = _
  simp only [execWayGateDone, ha, if_pos hi]
  exact if_pos (by simp [hg, hskip])

theorem exec_hearthWayGate_at : exec .hearthWayGate s = .next (if s.sup.hgate.getLsbD i = true ∧ i < s.hearth.mantelWays then
    { s with sup := { s.sup with hgskip := setBit64 s.sup.hgskip i true } } else s) := by
  show execHearthWayGate s = _
  simp only [execHearthWayGate, ha, Bool.and_eq_true, decide_eq_true_eq]
  split <;> rfl

theorem exec_hearthWayUngate_at : exec .hearthWayUngate s = .next (if s.sup.hgate.getLsbD i = true then s else { s with
    sup := { s.sup with hgate := setBit64 s.sup.hgate (24 + i) false, hgskip := setBit64 s.sup.hgskip i false }
    hearth := { s.hearth with hearthLines := s.hearth.hearthLines.filter fun x => decide (x.way ≠ i) } }) := by
  show execHearthWayUngate s = _
  simp only [execHearthWayUngate, ha]
  split <;> rfl

end

/-- Slice number 64 is the Hearth cache. -/
theorem exec_wayGateDone_hearth {s : State} {way z : Nat} (ha : s.cur.arg = .at 64 way z) (hg : s.sup.hgate.getLsbD way = true)
    (hskip : s.sup.hgskip.getLsbD way = false) : exec .wayGateDone s = .next { s with
      sup := { s.sup with hgate := setBit64 s.sup.hgate (24 + way) true }
      hearth := { s.hearth with hearthLines := s.hearth.hearthLines.filter fun x => decide (x.way ≠ way) } } := by
  show execWayGateDone s = _
  simp only [execWayGateDone, ha, if_neg (Nat.lt_irrefl 64)]
  exact if_pos (by simp [hg, hskip])

/-- The lines that are left of the Hearth cache once a way leaves it. -/
theorem way_ne_of_mem_filter {l : List CacheLine} {way : Nat} : ∀ x ∈ l.filter (fun x => decide (x.way ≠ way)), x.way ≠ way :=
  fun _ hx => of_decide_eq_true (List.mem_filter.1 hx).2

/-! ### The parts of the statement -/

/-- A way of a slice, gated and ungated (R356). -/
theorem l2WayEvents {s : State} {i way : Nat} (ha : s.cur.arg = .at i way 0) (hway : way < 16) :
    let g := s.waygate i
    let locked : Prop := ∃ x ∈ s.hearth.l2, x.slice = i ∧ x.way = way ∧ x.locked = true
    ((g.getLsbD way = false ∨ ¬ locked) → exec .l2WayGate s = .next s) ∧
    (g.getLsbD way = true → locked → exec .l2WayGate s = .next (s.setWaygate i (g ||| (1#64 <<< (32 + way))))) ∧
    (g.getLsbD way = true → exec .l2WayUngate s = .next s) ∧
    (g.getLsbD way = false → ∃ (t : State), exec .l2WayUngate s = .next t ∧ (∀ x ∈ t.hearth.l2, x.slice ≠ i ∨ x.way ≠ way) ∧
      (t.waygate i).getLsbD (16 + way) = false ∧ (t.waygate i).getLsbD (32 + way) = false ∧ t.mem = s.mem) ∧
    (i < 64 → g.getLsbD way = true → g.getLsbD (32 + way) = false → ∃ (t : State), exec .wayGateDone s = .next t ∧ (t.waygate i).getLsbD (16 + way) = true ∧
      (∀ x ∈ t.hearth.l2, x.slice ≠ i ∨ x.way ≠ way) ∧ t.mem = s.mem) := by
  intro g locked
  refine ⟨fun h => ?_, fun hg hl => ?_, fun hg => ?_, fun hg => ?_, fun hi hg hskip => ?_⟩
  · rw [exec_l2WayGate_at ha, if_neg]
    rintro ⟨hg, hl⟩
    rcases h with h | h
    · exact absurd (hg.symm.trans h) (by decide)
    · exact h hl
  · rw [exec_l2WayGate_at ha, if_pos ⟨hg, hl⟩]
    rfl
  · rw [exec_l2WayUngate_at ha, if_pos hg]
  · refine ⟨_, (exec_l2WayUngate_at ha).trans (by rw [if_neg (by simpa using hg)]), State.dropWay_l2 _ _ _, ?_, ?_, by simp⟩
    · rw [State.dropWay_waygate, State.waygate_setWaygate, setBit64_getLsbD_ne _ _ (by omega) (by omega), setBit64_getLsbD_self _ _ (by omega)]
    · rw [State.dropWay_waygate, State.waygate_setWaygate, setBit64_getLsbD_self _ _ (by omega)]
  · refine ⟨_, exec_wayGateDone_slice ha hi hg hskip, ?_, State.dropWay_l2 _ _ _, by simp⟩
    rw [State.dropWay_waygate, State.waygate_setWaygate, setBit64_getLsbD_self _ _ (by omega)]

/-- A way of the Hearth cache, gated and ungated (R355, R356). -/
theorem hearthWayEvents {s : State} {way : Nat} (ha : s.cur.arg = .at way 0 0) (hway : way < 24) :
    let g := s.sup.hgate
    ((g.getLsbD way = false ∨ s.hearth.mantelWays ≤ way) → exec .hearthWayGate s = .next s) ∧
    (g.getLsbD way = true → way < s.hearth.mantelWays → exec .hearthWayGate s =
      .next { s with sup := { s.sup with hgskip := s.sup.hgskip ||| (1#64 <<< way) } }) ∧
    (g.getLsbD way = true → exec .hearthWayUngate s = .next s) ∧
    (g.getLsbD way = false → ∃ (t : State), exec .hearthWayUngate s = .next t ∧ (∀ x ∈ t.hearth.hearthLines, x.way ≠ way) ∧
      t.sup.hgate.getLsbD (24 + way) = false ∧ t.sup.hgskip.getLsbD way = false) := by
  intro g
  refine ⟨fun h => ?_, fun hg hm => ?_, fun hg => ?_, fun hg => ?_⟩
  · rw [exec_hearthWayGate_at ha, if_neg]
    rintro ⟨hg, hm⟩
    rcases h with h | h
    · exact absurd (hg.symm.trans h) (by decide)
    · omega
  · rw [exec_hearthWayGate_at ha, if_pos ⟨hg, hm⟩]
    rfl
  · rw [exec_hearthWayUngate_at ha, if_pos hg]
  · refine ⟨_, (exec_hearthWayUngate_at ha).trans (by rw [if_neg (by simpa using hg)]), way_ne_of_mem_filter, ?_, ?_⟩
    · exact setBit64_getLsbD_self s.sup.hgate false (i := 24 + way) (by omega)
    · exact setBit64_getLsbD_self s.sup.hgskip false (i := way) (by omega)

/-- A request that leaves its router (R349). -/
theorem routerEvents {s : State} {i j : Nat} {x : RedReq} (ha : s.cur.arg = .at i j 0) (hx : s.hearth.routers[i]? = some x) :
    let meets (x y : RedReq) : Prop := x.pa = y.pa ∧ ∃ a ∈ x.srcs, ∃ b ∈ y.srcs, a.core = b.core
    ((∃ y ∈ s.hearth.routers.take i, meets x y) → exec .routerCombineFlush s = .next s) ∧
    ((∀ y ∈ s.hearth.routers.take i, ¬ meets x y) → ∃ (t : State), exec .routerCombineFlush s = .next t ∧ t.mem = s.mem ∧
      let rest := s.hearth.routers.eraseIdx i
      let goes (y : RedReq) : Prop := t.hearth.requests = s.hearth.requests ++ [{ y with since := s.tick.toNat }]
      (t.hearth.routers = rest ∧ goes x ∨
        ∃ n z, rest[n]? = some z ∧ x.like z = true ∧ (∀ y ∈ rest.take n, ¬ meets z y) ∧ t.hearth.routers = rest.eraseIdx n ∧ goes (x.merge z))) := by
  intro meets
  have hmeets : ∀ x y, meets x y ↔ x.meets y = true := fun x y => (x.meets_iff y).symm
  simp only [hmeets]
  refine ⟨fun h => exec_routerCombineFlush_waits ha hx h, fun h => ?_⟩
  obtain ⟨y, rest, hexec, hgoes⟩ := exec_routerCombineFlush_goes ha hx fun ⟨y, hy, hm⟩ => h y hy hm
  refine ⟨_, hexec, rfl, ?_⟩
  rcases hgoes with ⟨rfl, rfl⟩ | ⟨n, z, hmate, hz, rfl, rfl⟩
  · exact .inl ⟨rfl, rfl⟩
  · obtain ⟨z', hz', hlike, hfirst⟩ := mateOf_spec hmate
    obtain rfl := Option.some.inj (hz.symm.trans hz')
    exact .inr ⟨n, z, hz, hlike, hfirst, rfl, rfl⟩

/-- A request that performs where its bytes are no state word and hold no poison (R350). -/
theorem memoryRequest_performs {s : State} {i j : Nat} {x : RedReq} {old : Nat} (ha : s.cur.arg = .at i j 0) (hx : s.hearth.requests[i]? = some x)
    (hbest : ∀ y ∈ s.hearth.requests, y.port = x.port → x.prio ≤ y.prio)
    (hold : ∀ y ∈ s.hearth.requests.take i, y.port = x.port → y.prio ≠ x.prio) (hr : s.homeRead x.pa x.n = .ok old)
    (hh : s.isHomed x.pa = true) (hf : s.isFree x.pa = false) (hw : s.stateWord x.pa x.n = none) :
    ∃ (t : State), exec .memoryRequestPerform s = .next t ∧ t.hearth.requests = s.hearth.requests.eraseIdx i ∧ SameBytesBut s t x.pa x.n ∧
      t.mem.read x.pa x.n = atomVal (redAtom x.op) x.ty (8 * x.n) old x.val.toNat % 256 ^ x.n := by
  obtain ⟨hreq, hbytes, hval⟩ := State.performRed_performs (s := s.takeRequest i) ((s.takeRequest_homeRead i _ _).trans hr) hh hf hw
  exact ⟨_, exec_memoryRequestPerform_performs ha hx hbest hold, hreq, hbytes, hval⟩

/-- A request that is reported for each of its senders changes no byte. -/
theorem memoryRequest_reports {s : State} {i j cause : Nat} {x : RedReq} (ha : s.cur.arg = .at i j 0) (hx : s.hearth.requests[i]? = some x)
    (hbest : ∀ y ∈ s.hearth.requests, y.port = x.port → x.prio ≤ y.prio)
    (hold : ∀ y ∈ s.hearth.requests.take i, y.port = x.port → y.prio ≠ x.prio)
    (hp : (s.takeRequest i).performRed x = ((s.takeRequest i).cleanSenders x).reportReds cause x.srcs) :
    ∃ (t : State), exec .memoryRequestPerform s = .next t ∧ t.hearth.requests = s.hearth.requests.eraseIdx i ∧ t.mem = s.mem ∧
      t.faultQ = s.faultQ ++ x.srcs.map (·.entry cause) := by
  refine ⟨_, exec_memoryRequestPerform_performs ha hx hbest hold, ?_⟩
  rw [hp, State.cleanSenders_onlyCores (s.takeRequest i) x]
  exact ⟨rfl, rfl, rfl⟩

/-- A request at its slice's port (R192, R350). -/
theorem requestEvents {s : State} {i j : Nat} {x : RedReq} (ha : s.cur.arg = .at i j 0) (hx : s.hearth.requests[i]? = some x) :
    let port (y : RedReq) : Nat := Config.sliceOf (y.pa / 128) % 64
    exec .p3Promotion s = .next (if x.since + 16384 ≤ s.tick.toNat then
      { s with hearth := { s.hearth with requests := s.hearth.requests.set i { x with prio := min x.prio 2 } } } else s) ∧
    (((∃ y ∈ s.hearth.requests, port y = port x ∧ y.prio < x.prio) ∨ ∃ y ∈ s.hearth.requests.take i, port y = port x ∧ y.prio = x.prio) →
      exec .memoryRequestPerform s = .next s) ∧
    ((∀ y ∈ s.hearth.requests, port y = port x → x.prio ≤ y.prio) → (∀ y ∈ s.hearth.requests.take i, port y = port x → y.prio ≠ x.prio) →
      ∀ old, s.homeRead x.pa x.n = .ok old →
      s.isHomed x.pa = true → s.isFree x.pa = false → s.stateWord x.pa x.n = none → ∃ (t : State), exec .memoryRequestPerform s = .next t ∧
        t.hearth.requests = s.hearth.requests.eraseIdx i ∧ SameBytesBut s t x.pa x.n ∧
        t.mem.read x.pa x.n = atomVal (redAtom x.op) x.ty (8 * x.n) old x.val.toNat % 256 ^ x.n) ∧
    ((∀ y ∈ s.hearth.requests, port y = port x → x.prio ≤ y.prio) → (∀ y ∈ s.hearth.requests.take i, port y = port x → y.prio ≠ x.prio) →
      let keeps (t : State) (cause : Nat) : Prop := exec .memoryRequestPerform s = .next t ∧ t.hearth.requests = s.hearth.requests.eraseIdx i ∧
        t.mem = s.mem ∧ t.faultQ = s.faultQ ++ x.srcs.map (·.entry cause)
      (s.homeRead x.pa x.n = .poison → ∃ t, keeps t 0xD) ∧
      ∀ w old, s.homeRead x.pa x.n = .ok old → s.stateWord x.pa x.n = some w →
        (∀ y ∈ x.srcs, s.homeWrite x.pa x.n (atomVal (redAtom x.op) x.ty (8 * x.n) old y.val.toNat) {} x.evict = none) → ∃ t, keeps t 5) := by
  intro port
  have hread := s.takeRequest_homeRead i x.pa x.n
  refine ⟨exec_p3Promotion_at ha hx, exec_memoryRequestPerform_waits ha hx,
    fun hbest hold old hr hh hf hw => memoryRequest_performs ha hx hbest hold hr hh hf hw, fun hbest hold => ⟨fun hr => ?_, fun w old hr hw hrej => ?_⟩⟩
  · exact memoryRequest_reports ha hx hbest hold (State.performRed_poison (hread.trans hr))
  · exact memoryRequest_reports ha hx hbest hold
      (State.performRed_rejected (hread.trans hr) hw fun y hy => State.homeWrite_none_congr (s := s) rfl rfl (hrej y hy))

/-- Both devices of a controller follow their temperature (R352). -/
theorem refreshEvents {s : State} {i j : Nat} (ha : s.cur.arg = .at i j 0) :
    ∃ (t : State), exec .refreshAdjust s = .next t ∧ t = { s with hearth := { s.hearth with refresh := t.hearth.refresh } } ∧
      (∀ d, d / 2 = i → let heat := (tget 0#16 s.box.therm (48 + d)).toNat
        tget 1 t.hearth.refresh d = if heat ≤ 16 * 85 then 1 else if heat ≤ 16 * 95 then 2 else 4) ∧
      ∀ d, d / 2 ≠ i → tget 1 t.hearth.refresh d = tget 1 s.hearth.refresh d := by
  refine ⟨_, exec_refreshAdjust_at ha, rfl, fun d hd => ?_, fun d hd => ?_⟩
  · exact (tget_tput_pair 1 _ i s.deviceFactor d).trans (if_pos hd)
  · exact (tget_tput_pair 1 _ i s.deviceFactor d).trans (if_neg hd)

/-- A command on a frame that performs (R354). -/
theorem frameDone_spec (s : State) (f op : Nat) (frames : List Nat) (hmem : f ∈ frames ↔ op = 1)
    (hkeep : ∀ k, k ≠ f → (k ∈ frames ↔ k ∈ s.hearth.freeFrames)) :
    (∀ k, (s.frameDone f frames).mem.byte k = if k / 0x200000 = f then 0 else s.mem.byte k) ∧
      (s.frameDone f frames).hearth.freeOp = some (3, f) ∧ (f ∈ (s.frameDone f frames).hearth.freeFrames ↔ op = 1) ∧
      (∀ k, k ≠ f → (k ∈ (s.frameDone f frames).hearth.freeFrames ↔ k ∈ s.hearth.freeFrames)) ∧
      ∀ e ∈ (s.frameDone f frames).cores, ∀ x ∈ e.2.l1, 32 * x.1 / 0x200000 ≠ f :=
  ⟨(s.dropFrame f).clearFrame_byte f, rfl, hmem, hkeep, s.dropFrame_l1 f⟩

/-- The commands on frames (R353, R354). -/
theorem frameEvents {s : State} {i j : Nat} (ha : s.cur.arg = .at i j 0) :
    (s.hearth.freeOp ≠ some (1, i) → exec .freeDeclare s = .next s) ∧ (s.hearth.freeOp ≠ some (2, i) → exec .freeReclaim s = .next s) ∧
    (∀ (e : Instr) (op : Nat), (e = .freeDeclare ∧ op = 1 ∨ e = .freeReclaim ∧ op = 2) → s.hearth.freeOp = some (op, i) → ∃ (t : State), exec e s = .next t ∧
      (∀ k, t.mem.byte k = if k / 0x200000 = i then 0 else s.mem.byte k) ∧ t.hearth.freeOp = some (3, i) ∧ (i ∈ t.hearth.freeFrames ↔ op = 1) ∧
      (∀ f, f ≠ i → (f ∈ t.hearth.freeFrames ↔ f ∈ s.hearth.freeFrames)) ∧
      ∀ e ∈ t.cores, ∀ x ∈ e.2.l1, 32 * x.1 / 0x200000 ≠ i) := by
  refine ⟨fun h => by rw [exec_freeDeclare_at ha, if_neg h], fun h => by rw [exec_freeReclaim_at ha, if_neg h], ?_⟩
  rintro e op (⟨rfl, rfl⟩ | ⟨rfl, rfl⟩) hop
  · exact ⟨_, by rw [exec_freeDeclare_at ha, if_pos hop], frameDone_spec s i 1 _ (by simp [mem_sinsert_iff]) fun f hf => by simp [mem_sinsert_iff, hf]⟩
  · exact ⟨_, by rw [exec_freeReclaim_at ha, if_pos hop], frameDone_spec s i 2 _ (by simp) fun f hf => by simp [hf]⟩

/-- A write-back, and a sector whose clean bytes expire (R182). -/
theorem l1Events {s : State} {c i : Nat} (ha : s.cur.arg = .at c i 0) :
    (∃ (t : State), exec .l1Writeback s = .next t ∧
      (∀ j x, tfind (s.core c).l1 j = some x → x.dirty ≠ 0 → tfind (t.core c).l1 j = some { x with dirty := 0, wrote := 0 }) ∧
      (∀ k x, tfind (s.core c).l1 (k / 32) = some x → x.dirty.getLsbD (k % 32) = true → s.isFree (k / 32 * 32) = false → s.isFree k = false →
        (t.mem.byte k).toNat = x.byte (k % 32)) ∧
      ∀ k, ¬ s.dirtyIn c k → t.mem.byte k = s.mem.byte k) ∧
    ∀ x, tfind (s.core c).l1 i = some x → exec .l1LineExpire s = .next (if x.have_ &&& x.dirty = 0 then s.l1Drop c i
      else s.setCore c { s.core c with l1 := tput (s.core c).l1 i { x with have_ := x.have_ &&& x.dirty } }) :=
  ⟨⟨_, exec_l1Writeback_at ha, fun _ _ hx hd => State.l1WriteBackAll_find hx hd, fun _ _ hx hd _ hf => State.l1WriteBackAll_dirtyByte hx hd hf,
    fun _ hk => State.l1WriteBackAll_byte hk⟩, fun _ hx => by rw [exec_l1LineExpire_at ha, State.l1Clean_of_find hx]⟩

/-- The end of a command on a frame (R354). -/
theorem freecmdEvents (s : State) :
    (∀ f, s.hearth.freeOp = some (3, f) → (∃ r ∈ s.hearth.routers ++ s.hearth.requests, r.pa / 0x200000 = f) → exec .freecmdComplete s = .next s) ∧
    (∀ f, s.hearth.freeOp = some (3, f) → (∀ r ∈ s.hearth.routers ++ s.hearth.requests, r.pa / 0x200000 ≠ f) → ∃ (t : State), exec .freecmdComplete s = .next t ∧ t.hearth.freeOp = none ∧ t.sup.freecmd.getLsbD 63 = false ∧
      ∀ k, k ≠ 63 → t.sup.freecmd.getLsbD k = s.sup.freecmd.getLsbD k) ∧
    ((∀ f, s.hearth.freeOp ≠ some (3, f)) → exec .freecmdComplete s = .next s) := by
  refine ⟨fun f hf h => ?_, fun f hf h => ?_, exec_freecmdComplete_of_none⟩
  · rw [exec_freecmdComplete_of_frame hf, if_pos ((s.redInFrame_iff f).2 h)]
  · have hno : ¬ s.redInFrame f = true := fun hr => let ⟨r, hr, hf⟩ := (s.redInFrame_iff f).1 hr; h r hr hf
    exact ⟨s.endFree, by rw [exec_freecmdComplete_of_frame hf, if_neg hno], rfl, setBit64_getLsbD_self s.sup.freecmd false (i := 63) (by decide),
      fun k hk => setBit64_getLsbD_ne s.sup.freecmd false (i := 63) (by decide) hk⟩

/-- A write to a lock entry (R334). -/
theorem lockEvents {s : State} {i : Nat} {v : BitVec 256} (ha : s.cur.arg = .value i 0 v) :
    (0x6000000000 ≤ bits v.toNat 21 31 * 2 ^ 21 → exec .l2LockWrite s = .next s) ∧
    (bits v.toNat 21 31 * 2 ^ 21 < 0x6000000000 → ∃ (t : State), exec .l2LockWrite s = .next t ∧ t.mem = s.mem ∧
      (tget 0#64 t.sup.l2lock i).toNat = bits v.toNat 21 31 * 2 ^ 21 + v.toNat % 2 ∧ ∀ k, k ≠ i → tget 0#64 t.sup.l2lock k = tget 0#64 s.sup.l2lock k) := by
  obtain ⟨hbase, hlow⟩ := lockFields_setWidth v
  refine ⟨fun h => ?_, fun h => ?_⟩
  · rw [exec_l2LockWrite_value ha, State.writeLock_discarded i (by rwa [hbase])]
  · rw [← hbase] at h
    obtain ⟨hmem, hlock⟩ := State.writeLock_spec (s := s) i h
    refine ⟨_, exec_l2LockWrite_value ha, hmem, ?_, fun k hk => ?_⟩
    · rw [hlock, tget_tset_self, lockEntry_toNat h, hbase, hlow]
    · rw [hlock, tget_tset_ne _ _ hk]

/-- Settles O45, part by part: the L1's events by what each sector's write-back leaves, a red by where its bytes lie. -/
theorem memorySystemEvents : Obligations.MemorySystemEvents := by
  unfold Obligations.MemorySystemEvents
  intro s c i j
  refine ⟨l1Events, fun ha => ?_, rfl, ?_⟩
  · obtain ⟨hdeclare, hreclaim, hframe⟩ := frameEvents ha
    exact ⟨fun _ hx => routerEvents ha hx, fun _ hx => requestEvents ha hx, refreshEvents ha, hdeclare, hreclaim, hframe⟩
  · obtain ⟨hbusy, hdone, hnone⟩ := freecmdEvents s
    refine ⟨hbusy, hdone, hnone, fun _ ha => lockEvents ha, fun _ ha hway => l2WayEvents ha hway, fun _ ha hway => hearthWayEvents ha hway,
      fun way ha hway hg hskip => ⟨_, exec_wayGateDone_hearth ha hg hskip, ?_, way_ne_of_mem_filter⟩⟩
    exact setBit64_getLsbD_self s.sup.hgate true (i := 24 + way) (by omega)

end Sys2Proof.Machine
end

section
/-! SUPPORT. The words of the Kiln that round one result a lane (O5). -/

namespace Sys2Proof.Machine

/-! ### A lane that rounds -/

/-- What a lane holds once it has rounded to `r` (R231, R234). -/
def Thread.rounded (t : Thread) (w : CastWord) (f : Fmt) (r : Rounded) : Thread :=
  { t.setCells w.d.toNat (cellsOf w.lc) (f.encode r.v) with
    fpflags := t.fpflags ||| BitVec.ofNat 32 r.flags
    pr := if isV w.ty = true ∧ f.prec < prP t.pr then t.pr ||| 0x10000 ||| (if r.flags % 2 = 1 then 0x20000 else 0) else t.pr }

/-- The model's writes of a rounded result are those of `Thread.rounded`. -/
theorem exhausted_rounded (t : Thread) (w : CastWord) (f : Fmt) (r : Rounded) {exh : Bool}
    (h : exh = true ↔ isV w.ty = true ∧ f.prec < prP t.pr) :
    ((t.setCells w.d.toNat (cellsOf w.lc) (f.encode r.v)).exhausted exh r.inexact).flags r.flags = t.rounded w f r := by
  unfold Thread.rounded
  cases exh with
  | false =>
    rw [if_neg fun hr => Bool.false_ne_true (h.2 hr)]
    simp only [Thread.exhausted, Thread.flags, Bool.false_eq_true, if_false, Thread.setCells_fpflags]
    rw [← Thread.setCells_pr t w.d.toNat (cellsOf w.lc) (f.encode r.v)]
  | true =>
    rw [if_pos (h.1 rfl)]
    simp only [Thread.exhausted, Thread.flags, if_true, Thread.setCells_fpflags, Thread.setCells_pr, Rounded.inexact, beq_iff_eq,
      BitVec.or_assoc]
    rfl

/-- The FPE check of flags that the word does not trap on (R233). -/
theorem fpeThen_ok {w : CastWord} {flags : Nat} (h : w.modBit 4 = true → flags &&& 28 = 0) (t : Thread) (put : Thread → Thread) :
    fpeThen w t flags put = .ok ((put t).flags flags) := by
  refine if_neg ?_
  cases hb : w.modBit 4
  · simp
  · simp [flagNV, flagDZ, flagOF, h hb]

/-- A lane that takes neither PREC_EXH nor FPE holds its rounded result. -/
theorem roundLane_ok {w : CastWord} {v : View} {f : Fmt} {words : Thread → List Nat} {op : Thread → Target → Rounded} {t : Thread}
    (hx : Thread.exhausts w f t → prXa t.pr = true) (hf : w.modBit 4 = true → (op t (v.roundsTo w f words t)).flags &&& 28 = 0) :
    roundLane w v f (isV w.ty) words op t = .ok (t.rounded w f (op t (v.roundsTo w f words t))) := by
  rw [roundLane_eq, if_neg (by simpa [Thread.exhausts] using hx)]
  exact (fpeThen_ok hf t _).trans (congrArg _ (exhausted_rounded t w f _ decide_eq_true_iff))

section
variable {s : State} {v : View} {i : Instr} {w : CastWord}

/-- A word whose lanes round completes as R230-R234 say. -/
theorem rounds_of_lane {words : View → Thread → List Nat} {op : View → Thread → Target → Rounded}
    (hexec : exec i s = onFrag s fun v => v.lane i w fun _ t => roundLane w v (fmtOf w.ty w.lc) (isV w.ty) (words v) (op v) t) :
    Rounds s v i w (words v) (op v) := by
  intro h hi
  refine hexec.trans (onFrag_lane_done hi fun l hl => ?_)
  obtain ⟨hx, hf⟩ := h l hl
  exact roundLane_ok hx hf

/-- A word of three sources of its own type. -/
theorem fltWord_three (op : Target → List FV → Rounded) : fltWord i w 3 op s = onFrag s fun v => v.lane i w fun _ t =>
    roundLane w v (fmtOf w.ty w.lc) (isV w.ty) (fun t => wordsA i v.g w t ++ wordsB i v.g w t ++ wordsC i v.g w t)
      (fun t tg => op tg [(fmtOf w.ty w.lc).decode (fltA i v.g w t), (fmtOf w.ty w.lc).decode (fltB i v.g w t),
        (fmtOf w.ty w.lc).decode (fltC i v.g w t)]) t := by
  simp [fltWord]

/-- A word of one source of its own type, NaNs apart (R246). -/
theorem fltOne_eq (op : Target → FV → Rounded) : fltOne i w op s = onFrag s fun v => v.lane i w fun _ t =>
    roundLane w v (fmtOf w.ty w.lc) (isV w.ty) (wordsA i v.g w)
      (fun t tg => orNan ((fmtOf w.ty w.lc).decode (fltA i v.g w t)) (op tg ((fmtOf w.ty w.lc).decode (fltA i v.g w t)))) t := by
  simp [fltOne, fltWord, fv0]

end

/-- Settles O5: each word by its shape, of one source, two or three. -/
theorem kilnRoundingWords : Obligations.KilnRoundingWords := by
  unfold Obligations.KilnRoundingWords
  intro s v w f sf a b c one two three
  have hone : ∀ i op, exec i s = fltOne i w op s → one i op := fun i op h => rounds_of_lane (h.trans (fltOne_eq op))
  have htwo : ∀ i (op : Target → List FV → Rounded), exec i s = fltWord i w 2 op s → two i fun t a b => op t [a, b] :=
    fun i op h => rounds_of_lane (h.trans (fltWord_two i w op s))
  have hpair : ∀ i op, exec i s = fltWord i w 2 (fun t xs => op t (fv0 xs) (fv1 xs)) s → two i op := fun i op h => htwo i _ h
  have hthree : ∀ i (op : Target → List FV → Rounded), exec i s = fltWord i w 3 op s → three i fun t a b c => op t [a, b, c] :=
    fun i op h => rounds_of_lane (h.trans (fltWord_three op))
  refine ⟨htwo _ (fun t xs => roundSum t xs) rfl, htwo _ (fun t xs => roundSum t [fv0 xs, (fv1 xs).negate]) rfl, hpair _ _ rfl,
    hthree _ (fun t xs => roundFma t (fv0 xs) (fv1 xs) (fv2 xs)) rfl, hthree _ (fun t xs => roundSum t xs) rfl, hpair _ _ rfl, hpair _ _ rfl,
    hpair _ _ rfl, hone _ _ rfl, hone _ _ rfl, hone _ _ rfl, hone _ _ rfl, hone _ _ rfl, hone _ _ rfl, hone _ _ rfl, hone _ _ rfl,
    hone _ _ rfl, hone _ _ rfl, ?_, ?_, ?_⟩
  · exact rounds_of_lane (words := fun v t => wordsOf sf.width (cellsOf w.slc) (srcA (.fcvt w) v.g w t (cellsOf w.slc) % 2 ^ sf.width))
      (op := fun v t tg => cvtFV tg (w.modBit 5) (sf.decode (srcA (.fcvt w) v.g w t (cellsOf w.slc) % 2 ^ sf.width))) rfl
  · intro n z
    let z (v : View) (t : Thread) : Nat := srcA (.icvtf w) v.g w t (cellsOf w.slc) % 2 ^ n
    exact rounds_of_lane (words := fun v t => wordsOf n (cellsOf w.slc) (z v t))
      (op := fun v t tg => roundFin tg (decide (valOf w.styp n (z v t) < 0)) (valOf w.styp n (z v t)).natAbs 0) rfl
  · intro n
    let n (v : View) (t : Thread) : Nat := if w.modBit 0 = true then w.imm.toNat else srcB (.fscale w) v.g w t 1
    exact rounds_of_lane (words := fun v t => wordsA (.fscale w) v.g w t ++ [n v t])
      (op := fun v t tg => scaleFV tg (f.decode (fltA (.fscale w) v.g w t)) (sext 32 (n v t))) rfl

end Sys2Proof.Machine
end

section
/-! SUPPORT. The words of the Kiln that round no sum: what they deliver, the order of data, integers of data (O6). -/

namespace Sys2Proof.Machine

/-! ### A word that delivers -/

section
variable {s : State} {v : View} {i : Instr} {w : CastWord}

/-- A word whose lanes raise flags and write completes as R232-R234 say; what it writes leaves FPFLAGS alone. -/
theorem delivers_of_lane {flags : View → Thread → Nat} {put : View → Thread → Thread → Thread}
    (hexec : exec i s = onFrag s fun v => v.lane i w fun _ t => fpeThen w t (flags v t) (put v t))
    (hput : ∀ t, (put v t t).fpflags = t.fpflags) : Delivers s v i w (flags v) fun t => put v t t := by
  intro hf hi
  refine hexec.trans (onFrag_lane_done hi fun l hl => ?_)
  rw [fpeThen_ok (hf l hl)]
  simp only [Thread.flags, hput]

theorem Delivers.congr {flags flags' : Thread → Nat} {put put' : Thread → Thread} (h : Delivers s v i w flags put)
    (hf : v.check i = none → ∀ t, flags t = flags' t) (hp : v.check i = none → ∀ t, put t = put' t) : Delivers s v i w flags' put' := by
  intro hfpe hi
  rw [← funext (hf hi.1.2)] at hfpe ⊢
  rw [← funext (hp hi.1.2)]
  exact h hfpe hi

end

/-! ### The order of data -/

/-- An exact difference has the sign of the difference of the numbers. -/
theorem cmpFV_fin (s : Bool) (m : Nat) (e : ℤ) (u : Bool) (n : Nat) (k : ℤ) :
    cmpFV (.fin s m e) (.fin u n k) = cmp (FV.fin s m e).rat (FV.fin u n k).rat := by
  have hsum := sumFin_rat [.fin s m e, (FV.fin u n k).negate]
  have hneg : (FV.fin u n k).negate.rat = -(FV.fin u n k).rat := by cases u <;> simp [FV.negate, FV.rat]
  have h2 : (0 : ℚ) < 2 ^ (sumFin [.fin s m e, (FV.fin u n k).negate]).2 := by positivity
  simp only [List.map_cons, List.map_nil, List.sum_cons, List.sum_nil, add_zero, hneg, ← sub_eq_add_neg] at hsum
  have hlt : (sumFin [.fin s m e, (FV.fin u n k).negate]).1 < 0 ↔ (FV.fin s m e).rat < (FV.fin u n k).rat := by
    rw [← sub_neg (a := (FV.fin s m e).rat), ← hsum, intCast_mul_neg_iff h2]
  have heq : (sumFin [.fin s m e, (FV.fin u n k).negate]).1 = 0 ↔ (FV.fin s m e).rat = (FV.fin u n k).rat := by
    rw [← sub_eq_zero (a := (FV.fin s m e).rat), ← hsum, mul_eq_zero, or_iff_left h2.ne', Int.cast_eq_zero]
  unfold cmpFV cmp cmpUsing
  simp only [hlt, heq]
  split_ifs with h1 h2 h3 h4
  · rfl
  · exact absurd h3 (h2 ▸ lt_irrefl _)
  · rfl
  · rfl
  · exact absurd (le_antisymm (not_lt.1 h4) (not_lt.1 h1)) h2

/-- Two data that are no NaNs compare as their places do. -/
theorem cmpFV_eq_cmp {a b : FV} (ha : a.isNan = false) (hb : b.isNan = false) : cmpFV a b = cmp a.place b.place := by
  have htop : ∀ q : ℚ, (((q : WithTop ℚ)) : WithBot (WithTop ℚ)) < ((⊤ : WithTop ℚ) : WithBot (WithTop ℚ)) :=
    fun q => WithBot.coe_lt_coe.2 (WithTop.coe_lt_top q)
  have hbot : ∀ q : ℚ, (⊥ : WithBot (WithTop ℚ)) < ((q : WithTop ℚ) : WithBot (WithTop ℚ)) := fun q => WithBot.bot_lt_coe _
  cases a with
  | nan => simp [FV.isNan] at ha
  | inf s =>
    cases b with
    | nan => simp [FV.isNan] at hb
    | inf u => cases s <;> cases u <;> simp [cmpFV, FV.place, cmp, cmpUsing]
    | fin u n k =>
      cases s
      · exact (cmp_eq_gt_iff _ _).2 (htop _) ▸ rfl
      · exact (cmp_eq_lt_iff _ _).2 (hbot _) ▸ rfl
  | fin s m e =>
    cases b with
    | nan => simp [FV.isNan] at hb
    | inf u =>
      cases u
      · exact (cmp_eq_lt_iff _ _).2 (htop _) ▸ rfl
      · exact (cmp_eq_gt_iff _ _).2 (hbot _) ▸ rfl
    | fin u n k =>
      rw [cmpFV_fin]
      simp only [cmp, cmpUsing, FV.place_fin, WithBot.coe_lt_coe, WithTop.coe_lt_coe]

/-- fcmp's relation of two data (R244). -/
def fcmpHolds (m : FCmpOp) (a b : FV) : Bool :=
  let nan := a.isNan || b.isNan
  match m with
  | .eq => !nan && decide (a.place = b.place)
  | .ne => nan || decide (a.place ≠ b.place)
  | .lt => !nan && decide (a.place < b.place)
  | .le => !nan && decide (a.place ≤ b.place)
  | .gt => !nan && decide (b.place < a.place)
  | .ge => !nan && decide (b.place ≤ a.place)
  | .uno => nan
  | .ord => !nan

theorem FV.isNan_of_isSig {a : FV} (h : a.isSig = true) : a.isNan = true := by
  cases a with
  | nan g => rfl
  | inf | fin => exact absurd h Bool.false_ne_true

/-- The model's relation and NV are those of the places (R244). -/
theorem fcmpRes_eq (m : FCmpOp) (a b : FV) : fcmpRes m a b =
    (fcmpHolds m a b, a.isSig || b.isSig || ((m == .lt || m == .le || m == .gt || m == .ge) && (a.isNan || b.isNan))) := by
  by_cases hn : (a.isNan || b.isNan) = true
  · have hsig : (a.isSig || b.isSig || (a.isNan || b.isNan)) = true := by simp [hn]
    cases m <;> simp [fcmpRes, fcmpHolds, hn]
  · obtain ⟨ha, hb⟩ := Bool.or_eq_false_iff.1 (Bool.not_eq_true _ ▸ hn)
    have hsa : a.isSig = false := Bool.eq_false_iff.2 fun h => by simp [FV.isNan_of_isSig h] at ha
    have hsb : b.isSig = false := Bool.eq_false_iff.2 fun h => by simp [FV.isNan_of_isSig h] at hb
    have heq := cmp_eq_eq_iff a.place b.place
    have hlt := cmp_eq_lt_iff a.place b.place
    have hgt := cmp_eq_gt_iff a.place b.place
    cases m <;> simp only [fcmpRes, fcmpHolds, ha, hb, hsa, hsb, cmpFV_eq_cmp ha hb, Bool.or_false, Bool.not_false, Bool.true_and,
      Bool.false_or, Bool.and_false, Prod.mk.injEq, and_true]
    case eq => exact Bool.eq_iff_iff.2 (by simp [heq])
    case ne => exact Bool.eq_iff_iff.2 (by simp [heq])
    case lt => exact Bool.eq_iff_iff.2 (by simp [hlt])
    case le => exact Bool.eq_iff_iff.2 (by simp [hgt])
    case gt => exact Bool.eq_iff_iff.2 (by simp [hgt])
    case ge => exact Bool.eq_iff_iff.2 (by simp [hlt])

/-- fmin and fmax deliver the operand that their order picks, or the other one beside a NaN (R242). -/
theorem minMaxBits_eq (f : Fmt) (max : Bool) (a b : Nat) : minMaxBits f max a b =
    if (f.decode a).isNan = true then (if (f.decode b).isNan = true then f.canonNan else b)
    else if (f.decode b).isNan = true then a
    else if (ltFV (f.decode a) (f.decode b) ^^ max) = true then a else b := by
  unfold minMaxBits
  cases ha : (f.decode a).isNan
  · cases hb : (f.decode b).isNan
    · cases max <;> cases hl : ltFV (f.decode a) (f.decode b) <;> simp [ha, hb, hl]
    · simp [ha, hb]
  · cases hb : (f.decode b).isNan <;> simp [ha, hb]

/-! ### Classes (R245) -/

theorem classOf_eq (f : Fmt) (v : FV) : classOf f v = match v with
    | .inf n => if n = true then 1 else 128
    | .nan g => if g = true then 256 else 512
    | .fin n m _ => if m = 0 then (if n = true then 8 else 16) else if m < 2 ^ f.fbits then (if n = true then 4 else 32)
      else if n = true then 2 else 64 := by
  cases v with
  | nan g => cases g <;> rfl
  | inf n => cases n <;> rfl
  | fin n m e =>
    cases m with
    | zero => rfl
    | succ m => simp [classOf]

/-! ### Integers of data (R250, R252) -/

/-- The integer that a mode chooses for a finite datum, and whether it differs (R227). -/
theorem toInteger_spec (mode : RMode) (rnd : Nat) (n : Bool) (m : Nat) (e : ℤ) :
    ((toInteger mode rnd n m e).1 : ℤ) = chosen mode n rnd ((m : ℚ) * 2 ^ e) ∧
    ((toInteger mode rnd n m e).2 = false ↔ ((chosen mode n rnd ((m : ℚ) * 2 ^ e) : ℤ) : ℚ) = m * 2 ^ e) := by
  obtain ⟨hr, hx⟩ := roundAt_exact mode n rnd m e 0
  rw [zpow_zero, div_one] at hr
  rw [zpow_zero, mul_one] at hx
  exact ⟨hr, by rw [← hr, Int.cast_natCast]; exact hx⟩

/-- NX of the integer that a mode chooses (R232). -/
theorem toInteger_flag (mode : RMode) (rnd : Nat) (n : Bool) (m : Nat) (e : ℤ) :
    (if (toInteger mode rnd n m e).2 = true then flagNX else 0) = if ((chosen mode n rnd ((m : ℚ) * 2 ^ e) : ℤ) : ℚ) = m * 2 ^ e then 0 else 1 := by
  simp only [← (toInteger_spec mode rnd n m e).2]
  cases (toInteger mode rnd n m e).2 <;> rfl

/-- The integer chosen for a number is not below its floor. -/
theorem floor_le_chosen {K : Type} [Field K] [LinearOrder K] [IsStrictOrderedRing K] [FloorRing K] (mode : RMode) (neg : Bool) (rnd : Nat) (y : K) :
    ⌊y⌋ ≤ chosen mode neg rnd y := by
  unfold chosen
  cases mode <;> dsimp only <;> split_ifs <;> omega

/-- A magnitude of at least 70 bits above the point is chosen beyond every integer type. -/
theorem chosen_huge (mode : RMode) (neg : Bool) (rnd : Nat) {m : Nat} {e : ℤ} (hm : 0 < m) (h : 70 < e + blen m) :
    2 ^ 70 ≤ chosen mode neg rnd ((m : ℚ) * 2 ^ e) := by
  refine (Int.le_floor.2 ?_).trans (floor_le_chosen mode neg rnd _)
  have hlog := log_magnitude hm e
  have hpos : (0 : ℚ) < (m : ℚ) * 2 ^ e := by positivity
  have h70 : ((2 : ℕ) : ℚ) ^ (70 : ℤ) ≤ (m : ℚ) * 2 ^ e := (Int.zpow_le_iff_le_log one_lt_two hpos).2 (by omega)
  exact_mod_cast h70

/-- The integer of a signed magnitude, brought between the bounds of its type (R250). -/
def boundedInt (low high z : ℤ) (flags : Nat) : ℤ × Nat := if z < low then (low, 16) else if high < z then (high, 16) else (z, flags)

/-- The integer types of up to 64 bits lie within 2^64. -/
theorem minOf_maxOf_bounds (ty : BitVec 4) {n : Nat} (h0 : 0 < n) (hn : n ≤ 64) : -(2 ^ 70) < minOf ty n ∧ minOf ty n ≤ 0 ∧ 0 ≤ maxOf ty n ∧ maxOf ty n < 2 ^ 70 := by
  have hpow : (2 : ℤ) ^ n ≤ 2 ^ 64 := by exact_mod_cast Nat.pow_le_pow_right two_pos hn
  have hpred : (2 : ℤ) ^ (n - 1) ≤ 2 ^ 64 := by exact_mod_cast Nat.pow_le_pow_right two_pos (by omega)
  have hpos : (0 : ℤ) < 2 ^ (n - 1) := by positivity
  have hpos' : (0 : ℤ) < 2 ^ n := by positivity
  unfold minOf maxOf
  cases isSigned ty <;> simp only [Bool.false_eq_true, if_false, if_true] <;> omega

/-- A finite datum converted to an integer type (R250). A zero has an exponent of its format. -/
theorem cvtiFV_fin (ty : BitVec 4) {n : Nat} (h0 : 0 < n) (hn : n ≤ 64) (mode : RMode) (rnd : Nat) (k : Bool) {m : Nat} {e : ℤ} (he : m = 0 → e ≤ 70) :
    let z : ℤ := (if k = true then -1 else 1) * chosen mode k rnd ((m : ℚ) * 2 ^ e)
    cvtiFV ty n mode rnd (.fin k m e) = boundedInt (minOf ty n) (maxOf ty n) z (if (z : ℚ) = (FV.fin k m e).rat then 0 else 1) := by
  intro z
  obtain ⟨hlow, hlow0, hhigh0, hhigh⟩ := minOf_maxOf_bounds ty h0 hn
  by_cases hbig : 70 < e + blen m
  · have hm : 0 < m := Nat.pos_of_ne_zero fun h => by
      have := he h
      subst h
      simp only [blen, if_true, Nat.cast_zero] at hbig
      omega
    have hc := chosen_huge mode k rnd hm hbig
    refine (if_pos hbig).trans ?_
    unfold boundedInt
    cases k
    · have hz : z = chosen mode false rnd ((m : ℚ) * 2 ^ e) := one_mul _
      rw [if_neg (c := z < minOf ty n) (by omega), if_pos (c := maxOf ty n < z) (by omega)]
      rfl
    · have hz : z = -chosen mode true rnd ((m : ℚ) * 2 ^ e) := neg_one_mul _
      rw [if_pos (c := z < minOf ty n) (by omega)]
      rfl
  · have hz : (if k = true then -((toInteger mode rnd k m e).1 : ℤ) else (toInteger mode rnd k m e).1) = z := by
      rw [(toInteger_spec mode rnd k m e).1]
      cases k
      · exact (one_mul _).symm
      · exact (neg_one_mul _).symm
    have hiff : (z : ℚ) = (FV.fin k m e).rat ↔ ((chosen mode k rnd ((m : ℚ) * 2 ^ e) : ℤ) : ℚ) = m * 2 ^ e := by
      cases k <;> simp [z, FV.rat]
    have hflag := toInteger_flag mode rnd k m e
    simp only [← hiff] at hflag
    refine (if_neg hbig).trans ?_
    rw [← hflag, ← hz]
    rfl

/-- A zero's exponent is the least of its format. -/
theorem decode_zero_exp {f : Fmt} {x : Nat} {k : Bool} {e : ℤ} (h : f.decode x = .fin k 0 e) : e ≤ 70 := by
  have hpos : 0 < 2 ^ f.fbits := by positivity
  unfold Fmt.decode at h
  dsimp only at h
  split_ifs at h
  · simp only [FV.fin.injEq] at h
    have := h.2.2
    unfold Fmt.emin at this
    omega
  · simp only [FV.fin.injEq] at h
    omega

/-- The integral datum that a mode chooses (R252). -/
theorem rintFV_eq (mode : RMode) (rnd : Nat) (a : FV) : rintFV mode rnd a = match a with
    | .nan g => ⟨.nan false, if g = true then 16 else 0⟩
    | .inf k => ⟨.inf k, 0⟩
    | .fin k m e =>
      let z : ℤ := chosen mode k rnd ((m : ℚ) * 2 ^ e)
      if 0 ≤ e then ⟨.fin k m e, 0⟩ else ⟨.fin k z.toNat 0, if (z : ℚ) = (m : ℚ) * 2 ^ e then 0 else 1⟩ := by
  cases a with
  | nan g => rfl
  | inf k => rfl
  | fin k m e =>
    dsimp only
    rw [← toInteger_flag, ← (toInteger_spec mode rnd k m e).1, Int.toNat_natCast]
    rfl

/-- The binary exponent of a datum (R254). -/
theorem getExp_eq (a : FV) : getExp a = match a with
    | .fin _ m e => if m = 0 then (0x80000000, 16) else (wrap 32 (e + m.log2), 0)
    | .inf _ => (0x7FFFFFFF, 16)
    | .nan _ => (0x80000000, 16) := by
  cases a with
  | nan | inf => rfl
  | fin k m e =>
    by_cases hm : m = 0
    · simp [getExp, hm, flagNV]
    · simp only [getExp, if_neg hm, log_blen (Nat.pos_of_ne_zero hm)]
      congr 2
      push_cast
      ring

/-- A word whose checks pass has a type that its row allows (R53). -/
theorem tyOk_of_check {v : View} {i : Instr} {sp : OpSpec} {w : CastWord} (hs : opSpec i = some (sp, w)) (h : v.check i = none) : sp.tyOk = true := by
  by_contra hty
  have hl : legalIn v.g.win i sp w = false := by simp [legalIn, hty]
  unfold View.check checkWord at h
  rw [hs] at h
  simp [hl] at h

/-- The type of fcvti's result is one of 32 or 64 bits (R238). -/
theorem fcvti_width {v : View} {w : CastWord} (h : v.check (.fcvti w) = none) : 0 < widthOf w.ty w.lc ∧ widthOf w.ty w.lc ≤ 64 := by
  have hty : isInt3264 w.ty = true := tyOk_of_check rfl h
  simp only [isInt3264, decide_eq_true_eq] at hty
  rcases hty with h | h | h | h <;> simp [widthOf, h]

/-! ### The words -/

section
variable (s : State) (v : View) (w : CastWord)

/-- fmin and fmax (R242). -/
theorem minMax_delivers {i : Instr} {max : Bool} (hexec : exec i s = minMaxWord i w max s) :
    let f := fmtOf w.ty w.lc
    Delivers s v i w (fun t => if ((f.decode (fltA i v.g w t)).isSig || (f.decode (fltB i v.g w t)).isSig) = true then 16 else 0) fun t =>
      t.setCells w.d.toNat (cellsOf w.lc) (minMaxBits f max (fltA i v.g w t) (fltB i v.g w t)) :=
  delivers_of_lane (flags := fun v t => if ((fmtOf w.ty w.lc).decode (fltA i v.g w t)).isSig || ((fmtOf w.ty w.lc).decode (fltB i v.g w t)).isSig then flagNV else 0)
    (put := fun v t u => u.setCells w.d.toNat (cellsOf w.lc) (minMaxBits (fmtOf w.ty w.lc) max (fltA i v.g w t) (fltB i v.g w t))) hexec
    fun _ => Thread.setCells_fpflags ..

/-- fcmp (R244). -/
theorem fcmp_delivers (m : FCmpOp) :
    let r (t : Thread) : Bool × Bool := fcmpRes m ((fmtOf w.ty w.lc).decode (fltA (.fcmp m w) v.g w t)) ((fmtOf w.ty w.lc).decode (fltB (.fcmp m w) v.g w t))
    Delivers s v (.fcmp m w) w (fun t => if (r t).2 = true then 16 else 0) fun t => t.setP w.d.toNat (combine w t (r t).1) :=
  let r (v : View) (t : Thread) : Bool × Bool :=
    fcmpRes m ((fmtOf w.ty w.lc).decode (fltA (.fcmp m w) v.g w t)) ((fmtOf w.ty w.lc).decode (fltB (.fcmp m w) v.g w t))
  delivers_of_lane (flags := fun v t => if (r v t).2 = true then 16 else 0) (put := fun v t u => u.setP w.d.toNat (combine w u (r v t).1)) rfl
    fun _ => rfl

/-- The number that sst draws for a lane (R229). -/
def laneDraw (v : View) (w : CastWord) (words : Thread → List Nat) (t : Thread) : Nat :=
  if laneMode w t.pr = .sst then draw (v.g.kreg 127) t.g (words t) else 0

/-- fcvti (R250). -/
theorem fcvti_delivers :
    let sf := fmtOf w.styp w.slc
    let x (t : Thread) : Nat := srcA (.fcvti w) v.g w t (cellsOf w.slc) % 2 ^ sf.width
    let r (t : Thread) : ℤ × Nat :=
      cvtiFV w.ty (widthOf w.ty w.lc) (laneMode w t.pr) (laneDraw v w (fun t => wordsOf sf.width (cellsOf w.slc) (x t)) t) (sf.decode (x t))
    Delivers s v (.fcvti w) w (fun t => (r t).2) fun t => t.setInt w (wrap (widthOf w.ty w.lc) (r t).1) := by
  let sf := fmtOf w.styp w.slc
  let x (v : View) (t : Thread) : Nat := srcA (.fcvti w) v.g w t (cellsOf w.slc) % 2 ^ sf.width
  let r (v : View) (t : Thread) : ℤ × Nat :=
    cvtiFV w.ty (widthOf w.ty w.lc) (laneMode w t.pr) (laneDraw v w (fun t => wordsOf sf.width (cellsOf w.slc) (x v t)) t) (sf.decode (x v t))
  refine delivers_of_lane (flags := fun v t => (r v t).2) (put := fun v t u => u.setInt w (wrap (widthOf w.ty w.lc) (r v t).1)) ?_
    fun _ => Thread.setCells_fpflags ..
  simp only [r, laneDraw, ← beq_iff_eq (a := laneMode _ _)]
  rfl

/-- frint (R252). -/
theorem frint_delivers :
    let f := fmtOf w.ty w.lc
    let r (t : Thread) : Rounded := rintFV (laneMode w t.pr) (laneDraw v w (wordsA (.frint w) v.g w) t) (f.decode (fltA (.frint w) v.g w t))
    Delivers s v (.frint w) w (fun t => (r t).flags) fun t => t.setCells w.d.toNat (cellsOf w.lc) (f.encode (r t).v) := by
  let f := fmtOf w.ty w.lc
  let r (v : View) (t : Thread) : Rounded := rintFV (laneMode w t.pr) (laneDraw v w (wordsA (.frint w) v.g w) t) (f.decode (fltA (.frint w) v.g w t))
  refine delivers_of_lane (flags := fun v t => (r v t).flags) (put := fun v t u => u.setCells w.d.toNat (cellsOf w.lc) (f.encode (r v t).v)) ?_
    fun _ => Thread.setCells_fpflags ..
  simp only [r, laneDraw, ← beq_iff_eq (a := laneMode _ _)]
  rfl

/-- fgetexp (R254). -/
theorem fgetexp_delivers :
    let x (t : Thread) : Nat × Nat := getExp ((fmtOf w.ty w.lc).decode (fltA (.fgetexp w) v.g w t))
    Delivers s v (.fgetexp w) w (fun t => (x t).2) fun t => t.setCells w.d.toNat 1 (x t).1 :=
  let x (v : View) (t : Thread) : Nat × Nat := getExp ((fmtOf w.ty w.lc).decode (fltA (.fgetexp w) v.g w t))
  delivers_of_lane (flags := fun v t => (x v t).2) (put := fun v t u => u.setCells w.d.toNat 1 (x v t).1) rfl fun _ => Thread.setCells_fpflags ..

end

/-- Settles O6: each word by what it delivers; comparisons through the places of the data, conversions through the integer chosen. -/
theorem kilnExactWords : Obligations.KilnExactWords := by
  unfold Obligations.KilnExactWords
  intro s v w f k a b nv pick either
  refine ⟨(minMax_delivers s v w rfl).congr (fun _ _ => rfl) fun _ t => ?_, (minMax_delivers s v w rfl).congr (fun _ _ => rfl) fun _ t => ?_,
    completes_of_lane rfl fun _ _ => rfl, completes_of_lane rfl fun _ _ => rfl, fun m => ?_,
    (completes_of_lane rfl fun _ _ => rfl : Completes s v (.fclass w) w fun _ t =>
      t.setCells w.d.toNat 1 (classOf f (f.decode (a (.fclass w) t)))).congr fun _ t => congrArg _ (classOf_eq _ _), ?_, ?_, ?_⟩
  · rw [minMaxBits_eq, Bool.xor_false]
  · rw [minMaxBits_eq, Bool.xor_true]
  · exact (fcmp_delivers s v w m).congr (fun _ t => congrArg (fun z : Bool × Bool => nv z.2) (fcmpRes_eq m _ _))
      fun _ t => congrArg (fun z : Bool × Bool => t.setP w.d.toNat (combine w t z.1)) (fcmpRes_eq m _ _)
  · intro sf x rnd n low high r
    have hr : v.check (.fcvti w) = none → ∀ t, cvtiFV w.ty n (laneMode w t.pr) (rnd t) (sf.decode (x t)) = r t := by
      intro hc t
      obtain ⟨h0, hn⟩ := fcvti_width hc
      simp only [r]
      split
      case h_1 g h => rw [h]; rfl
      case h_2 k h => rw [h]; rfl
      case h_3 k m e h =>
        rw [h]
        exact cvtiFV_fin w.ty h0 hn _ _ k fun hm => decode_zero_exp (hm ▸ h)
    exact (fcvti_delivers s v w).congr (fun hc t => congrArg Prod.snd (hr hc t)) fun hc t => by rw [← hr hc t]; rfl
  · intro rnd r
    have hr : ∀ t, rintFV (laneMode w t.pr) (rnd t) (f.decode (a (.frint w) t)) = ⟨(r t).1, (r t).2⟩ := by
      intro t
      rw [rintFV_eq]
      simp only [r]
      cases f.decode (a (.frint w) t) with
      | nan g => rfl
      | inf k => rfl
      | fin k m e => dsimp only; split_ifs <;> rfl
    exact (frint_delivers s v w).congr (fun _ t => congrArg Rounded.flags (hr t)) fun _ t => congrArg (fun z => t.setCells _ _ (f.encode (Rounded.v z))) (hr t)
  · intro r
    have hr : ∀ t, getExp (f.decode (a (.fgetexp w) t)) = r t := fun t => getExp_eq _
    exact (fgetexp_delivers s v w).congr (fun _ t => congrArg Prod.snd (hr t)) fun _ t => congrArg (fun z : Nat × Nat => t.setCells _ 1 z.1) (hr t)

end Sys2Proof.Machine
end

section
/-! SUPPORT. Numbers that stand on the same side of every coarse multiple of a power of two round alike (R226-R229). -/

namespace Sys2Proof.Machine

section
variable {K L : Type} [Field K] [LinearOrder K] [Field L] [LinearOrder L]

/-- Two numbers stand on the same side of every multiple of 2^k for each k from `e` on. -/
def SameSide (e : ℤ) (x : K) (x' : L) : Prop :=
  ∀ z k : ℤ, e ≤ k → ((z : K) * 2 ^ k < x ↔ (z : L) * 2 ^ k < x') ∧ (x < (z : K) * 2 ^ k ↔ x' < (z : L) * 2 ^ k)

section
variable {e : ℤ} {x : K} {x' : L} (h : SameSide e x x') {k : ℤ} (hk : e ≤ k)
include h hk

theorem SameSide.le_iff (z : ℤ) : (z : K) * 2 ^ k ≤ x ↔ (z : L) * 2 ^ k ≤ x' := by
  rw [← not_lt, ← not_lt, (h z k hk).2]

theorem SameSide.eq_iff (z : ℤ) : x = (z : K) * 2 ^ k ↔ x' = (z : L) * 2 ^ k := by
  rw [eq_iff_le_not_lt, eq_iff_le_not_lt, ← not_lt, ← not_lt, (h z k hk).1, (h z k hk).2]
end

variable [IsStrictOrderedRing K] [IsStrictOrderedRing L]

/-- The same in units of 2^q. -/
theorem SameSide.div {e : ℤ} {x : K} {x' : L} (h : SameSide e x x') (q : ℤ) : SameSide (e - q) (x / 2 ^ q) (x' / 2 ^ q) := by
  intro z k hk
  have hK : (0 : K) < 2 ^ q := by positivity
  have hL : (0 : L) < 2 ^ q := by positivity
  rw [lt_div_iff₀ hK, lt_div_iff₀ hL, div_lt_iff₀ hK, div_lt_iff₀ hL, mul_assoc, mul_assoc, ← zpow_add₀ two_ne_zero, ← zpow_add₀ two_ne_zero]
  exact h z (k + q) (by omega)

/-- Multiples of powers of two compare alike in every ordered field. -/
theorem dyadic_lt_iff (a b k l : ℤ) : ((a : K) * 2 ^ k < (b : K) * 2 ^ l) ↔ ((a : L) * 2 ^ k < (b : L) * 2 ^ l) := by
  have hK := Rat.cast_lt (K := K) (p := (a : ℚ) * 2 ^ k) (q := (b : ℚ) * 2 ^ l)
  have hL := Rat.cast_lt (K := L) (p := (a : ℚ) * 2 ^ k) (q := (b : ℚ) * 2 ^ l)
  push_cast at hK hL
  rw [hK, hL]

/-- A rational number stands where its image in an ordered field does. -/
theorem sameSide_cast (e : ℤ) (x : ℚ) : SameSide e x (x : K) := by
  intro z k _
  rw [← Rat.cast_lt (K := K), ← Rat.cast_lt (K := K)]
  push_cast
  exact ⟨Iff.rfl, Iff.rfl⟩

/-- Two numbers between the same neighbouring multiples of 2^e. -/
theorem sameSide_of_cell {m : ℕ} {e : ℤ} {x : K} {x' : L} (hx : (m : K) * 2 ^ e < x ∧ x < (m + 1 : K) * 2 ^ e)
    (hx' : (m : L) * 2 ^ e < x' ∧ x' < (m + 1 : L) * 2 ^ e) : SameSide e x x' := by
  have hside : ∀ {M : Type} [Field M] [LinearOrder M] [IsStrictOrderedRing M] {y : M}, (m : M) * 2 ^ e < y → y < (m + 1 : M) * 2 ^ e →
      ∀ z k : ℤ, e ≤ k → (((z : M) * 2 ^ k < y) ↔ z * 2 ^ (k - e).toNat ≤ m) ∧ ((y < (z : M) * 2 ^ k) ↔ (m : ℤ) < z * 2 ^ (k - e).toNat) := by
    intro M _ _ _ y hlo hhi z k hk
    have h2 : (0 : M) < 2 ^ e := by positivity
    have hz : (z : M) * 2 ^ k = ((z * 2 ^ (k - e).toNat : ℤ) : M) * 2 ^ e := by
      push_cast
      rw [mul_assoc, ← zpow_natCast, Int.toNat_of_nonneg (by omega), ← zpow_add₀ two_ne_zero, sub_add_cancel]
    rw [hz]
    generalize z * 2 ^ (k - e).toNat = c
    have hle : c ≤ m → (c : M) * 2 ^ e < y := fun hc => by
      refine lt_of_le_of_lt (mul_le_mul_of_nonneg_right ?_ h2.le) hlo
      exact_mod_cast hc
    have hlt : (m : ℤ) < c → y < (c : M) * 2 ^ e := fun hc => by
      refine lt_of_lt_of_le hhi (mul_le_mul_of_nonneg_right ?_ h2.le)
      exact_mod_cast hc
    refine ⟨⟨fun hy => ?_, hle⟩, ⟨fun hy => ?_, hlt⟩⟩
    · by_contra hc
      exact (hy.trans (hlt (not_le.1 hc))).false
    · by_contra hc
      exact (hy.trans (hle (not_lt.1 hc))).false
  intro z k hk
  rw [(hside hx.1 hx.2 z k hk).1, (hside hx.1 hx.2 z k hk).2, (hside hx'.1 hx'.2 z k hk).1, (hside hx'.1 hx'.2 z k hk).2]
  exact ⟨Iff.rfl, Iff.rfl⟩

end

section
variable {K L : Type} [Field K] [LinearOrder K] [FloorRing K] [Field L] [LinearOrder L] [FloorRing L]

theorem SameSide.floor_eq {e : ℤ} {x : K} {x' : L} (h : SameSide e x x') (he : e ≤ 0) : ⌊x⌋ = ⌊x'⌋ := by
  refine eq_of_forall_le_iff fun z => ?_
  have hz := h.le_iff he z
  rw [zpow_zero, zpow_zero, mul_one, mul_one] at hz
  rw [Int.le_floor, Int.le_floor, hz]

variable [IsStrictOrderedRing K] [IsStrictOrderedRing L]

theorem SameSide.log_eq {e : ℤ} {x : K} {x' : L} (h : SameSide e x x') (hx : 0 < x) (hx' : 0 < x') (hl : e ≤ Int.log 2 x) : Int.log 2 x = Int.log 2 x' := by
  have hone : ∀ k, e ≤ k → ((2 : K) ^ k ≤ x ↔ (2 : L) ^ k ≤ x') := fun k hk => by simpa using h.le_iff hk 1
  have hlo : ((2 : ℕ) : L) ^ Int.log 2 x ≤ x' := by
    have := Int.zpow_log_le_self one_lt_two hx
    rw [Nat.cast_two] at this ⊢
    exact (hone _ hl).1 this
  have hhi : x' < ((2 : ℕ) : L) ^ (Int.log 2 x + 1) := by
    have := Int.lt_zpow_succ_log_self one_lt_two x
    rw [Nat.cast_two] at this ⊢
    exact not_le.1 fun hle => not_le.2 this ((hone _ (by omega)).2 hle)
  have h1 := (Int.zpow_le_iff_le_log one_lt_two hx').1 hlo
  have h2 := (Int.lt_zpow_iff_log_lt one_lt_two hx').1 hhi
  omega

/-- A mode chooses alike for numbers on the same side of every multiple of 2^-64 (R227, R229). -/
theorem SameSide.chosen_eq {y : K} {y' : L} (h : SameSide (-64) y y') (mode : RMode) (neg : Bool) (rnd : Nat) :
    chosen mode neg rnd y = chosen mode neg rnd y' := by
  have hfloor : ⌊y⌋ = ⌊y'⌋ := h.floor_eq (by omega)
  have hint : y = (⌊y'⌋ : K) ↔ y' = (⌊y'⌋ : L) := by
    have := h.eq_iff (k := 0) (by omega) ⌊y'⌋
    simpa using this
  have hlt : y - (⌊y'⌋ : K) < 1 / 2 ↔ y' - (⌊y'⌋ : L) < 1 / 2 := by
    have := (h (2 * ⌊y'⌋ + 1) (-1) (by omega)).2
    push_cast at this
    rw [zpow_neg_one, zpow_neg_one] at this
    rw [sub_lt_iff_lt_add, sub_lt_iff_lt_add, show 1 / 2 + (⌊y'⌋ : K) = (2 * ⌊y'⌋ + 1) * 2⁻¹ by ring,
      show 1 / 2 + (⌊y'⌋ : L) = (2 * ⌊y'⌋ + 1) * 2⁻¹ by ring, this]
  have heq : y - (⌊y'⌋ : K) = 1 / 2 ↔ y' - (⌊y'⌋ : L) = 1 / 2 := by
    have := h.eq_iff (k := -1) (by omega) (2 * ⌊y'⌋ + 1)
    push_cast at this
    rw [zpow_neg_one, zpow_neg_one] at this
    rw [sub_eq_iff_eq_add, sub_eq_iff_eq_add, show 1 / 2 + (⌊y'⌋ : K) = (2 * ⌊y'⌋ + 1) * 2⁻¹ by ring,
      show 1 / 2 + (⌊y'⌋ : L) = (2 * ⌊y'⌋ + 1) * 2⁻¹ by ring, this]
  have hdraw : ⌊(y - (⌊y'⌋ : K)) * 2 ^ 64⌋ = ⌊(y' - (⌊y'⌋ : L)) * 2 ^ 64⌋ := by
    refine eq_of_forall_le_iff fun z => ?_
    have := h.le_iff (k := -64) (by omega) (z + ⌊y'⌋ * 2 ^ 64)
    have hunit : ∀ {M : Type} [Field M] [LinearOrder M] [IsStrictOrderedRing M] (u : M),
        (z : M) ≤ (u - (⌊y'⌋ : M)) * 2 ^ 64 ↔ ((z + ⌊y'⌋ * 2 ^ 64 : ℤ) : M) * 2 ^ (-64 : ℤ) ≤ u := by
      intro M _ _ _ u
      have h64 : (0 : M) < 2 ^ 64 := by positivity
      rw [zpow_neg, ← div_eq_mul_inv, show (2 : M) ^ (64 : ℤ) = 2 ^ 64 from zpow_natCast 2 64, div_le_iff₀ h64]
      push_cast
      constructor <;> intro hz <;> linarith
    rw [Int.le_floor, Int.le_floor, hunit, hunit, this]
  unfold chosen
  rw [hfloor]
  simp only [hint, hlt, heq, hdraw]

/-- The largest finite significand, and how far it lies below the power of two (R219). -/
theorem maxSig_lt {t : Target} (he : t.e4m3 = true → t.p = 4) : t.maxSig < 2 ^ t.p := by
  unfold Target.maxSig
  split
  case isTrue h => rw [he h]; norm_num
  case isFalse => exact Nat.sub_lt (by positivity) one_pos

/-- Beyond the largest finite value sst's number is that of a multiple of 2^(top - 64) (R229). -/
theorem sst_floor_iff {t : Target} (he : t.e4m3 = true → t.p = 4) (x : K) :
    (t.rnd : ℤ) < ⌊(x - t.maxSig * 2 ^ (t.emax - t.p + 1)) / (2 ^ (t.emax + 1) - t.maxSig * 2 ^ (t.emax - t.p + 1)) * 2 ^ 64⌋ ↔
      (((t.rnd + 1) * (2 ^ t.p - t.maxSig : ℕ) + t.maxSig * 2 ^ 64 : ℤ) : K) * 2 ^ (t.emax - t.p + 1 - 64) ≤ x := by
  have hmax := maxSig_lt he
  have hc : (0 : K) < ((2 ^ t.p - t.maxSig : ℕ) : K) := by exact_mod_cast Nat.sub_pos_of_lt hmax
  have htop : (2 : K) ^ (t.emax + 1) - t.maxSig * 2 ^ (t.emax - t.p + 1) = ((2 ^ t.p - t.maxSig : ℕ) : K) * 2 ^ (t.emax - t.p + 1) := by
    rw [Nat.cast_sub hmax.le, sub_mul, Nat.cast_pow, Nat.cast_two, ← zpow_natCast, ← zpow_add₀ two_ne_zero]
    congr 2
    ring
  have h2 : (0 : K) < 2 ^ (t.emax - t.p + 1) := by positivity
  have h64 : (2 : K) ^ (t.emax - t.p + 1 - 64) = 2 ^ (t.emax - t.p + 1) / 2 ^ 64 := by
    rw [zpow_sub₀ two_ne_zero, show (2 : K) ^ (64 : ℤ) = 2 ^ 64 from zpow_natCast 2 64]
  rw [htop, ← Int.add_one_le_iff, Int.le_floor, div_mul_eq_mul_div, le_div_iff₀ (mul_pos hc h2), h64]
  generalize (2 : K) ^ (t.emax - t.p + 1) = u
  generalize (2 ^ t.p - t.maxSig : ℕ) = c
  rw [mul_div_assoc', div_le_iff₀ (by positivity)]
  push_cast
  constructor <;> intro h <;> linarith

/-- Numbers on the same side of every multiple of a power of two 64 places below the last bit of the precision round alike. -/
theorem RoundsTo.congr {t : Target} (hp : 2 ≤ t.p) (he : t.e4m3 = true → t.p = 4) {neg : Bool} {e : ℤ} {x : K} {x' : L} (h : SameSide e x x')
    (hx : 0 < x) (hx' : 0 < x') (hl : e + 64 ≤ Int.log 2 x - t.p + 1) {a : Rounded} (ha : RoundsTo t neg x a) : RoundsTo t neg x' a := by
  have hlog : Int.log 2 x = Int.log 2 x' := h.log_eq hx hx' (by omega)
  have hchosen : ∀ q, e + 64 ≤ q → chosen t.mode neg t.rnd (x / 2 ^ q) = chosen t.mode neg t.rnd (x' / 2 ^ q) := by
    intro q hq
    refine SameSide.chosen_eq (fun z k hk => h.div q z k (by omega)) _ _ _
  have hmax := maxSig_lt he
  -- below the units of both numbers every multiple in sight lies below both
  have hlow : ∀ z k : ℤ, z ≤ 2 ^ t.p → k < e → ((z : K) * 2 ^ k < x ∧ (z : L) * 2 ^ k < x') := by
    intro z k hz hk
    have hbound : ∀ {M : Type} [Field M] [LinearOrder M] [IsStrictOrderedRing M] [FloorRing M] {y : M}, 0 < y → Int.log 2 x = Int.log 2 y →
        (z : M) * 2 ^ k < y := by
      intro M _ _ _ _ y hy hxy
      have hzM : (z : M) ≤ 2 ^ (t.p : ℤ) := by
        rw [zpow_natCast]
        exact_mod_cast hz
      have hlt : (z : M) * 2 ^ k < 2 ^ (Int.log 2 y) := by
        refine lt_of_le_of_lt (mul_le_mul_of_nonneg_right hzM (by positivity)) ?_
        rw [← zpow_add₀ two_ne_zero]
        exact zpow_lt_zpow_right₀ one_lt_two (by omega)
      have hle := Int.zpow_log_le_self one_lt_two hy
      rw [Nat.cast_two] at hle
      exact hlt.trans_le hle
    exact ⟨hbound hx rfl, hbound hx' hlog⟩
  have hmost : ((t.maxSig : K) * 2 ^ (t.emax - t.p + 1) < x ↔ (t.maxSig : L) * 2 ^ (t.emax - t.p + 1) < x') := by
    rcases le_or_gt e (t.emax - t.p + 1) with hk | hk
    · exact_mod_cast (h t.maxSig _ hk).1
    · obtain ⟨h1, h2⟩ := hlow t.maxSig _ (by exact_mod_cast hmax.le) hk
      exact iff_of_true (by exact_mod_cast h1) (by exact_mod_cast h2)
  have hnext : ((t.maxSig + 1 : K) * 2 ^ (t.emax - t.p + 1) ≤ x ↔ (t.maxSig + 1 : L) * 2 ^ (t.emax - t.p + 1) ≤ x') := by
    rcases le_or_gt e (t.emax - t.p + 1) with hk | hk
    · exact_mod_cast h.le_iff hk (t.maxSig + 1)
    · obtain ⟨h1, h2⟩ := hlow (t.maxSig + 1) _ (by exact_mod_cast hmax) hk
      exact iff_of_true (by exact_mod_cast h1.le) (by exact_mod_cast h2.le)
  have hsst : ((t.maxSig + 1 : K) * 2 ^ (t.emax - t.p + 1) ≤ x ∨ (t.rnd : ℤ) < ⌊(x - t.maxSig * 2 ^ (t.emax - t.p + 1)) /
        (2 ^ (t.emax + 1) - t.maxSig * 2 ^ (t.emax - t.p + 1)) * 2 ^ 64⌋) ↔
      ((t.maxSig + 1 : L) * 2 ^ (t.emax - t.p + 1) ≤ x' ∨ (t.rnd : ℤ) < ⌊(x' - t.maxSig * 2 ^ (t.emax - t.p + 1)) /
        (2 ^ (t.emax + 1) - t.maxSig * 2 ^ (t.emax - t.p + 1)) * 2 ^ 64⌋) := by
    by_cases hbig : (t.maxSig + 1 : K) * 2 ^ (t.emax - t.p + 1) ≤ x
    · exact iff_of_true (.inl hbig) (.inl (hnext.1 hbig))
    · have hle : e ≤ t.emax - t.p + 1 - 64 := by
        have hxlt : x < ((2 : ℕ) : K) ^ (t.emax + 1) := by
          refine (not_le.1 hbig).trans_le ?_
          rw [Nat.cast_two, show t.emax + 1 = (t.p : ℤ) + (t.emax - t.p + 1) by ring, zpow_add₀ two_ne_zero (t.p : ℤ), zpow_natCast]
          refine mul_le_mul_of_nonneg_right ?_ (by positivity)
          exact_mod_cast hmax
        have := (Int.lt_zpow_iff_log_lt one_lt_two hx).1 hxlt
        omega
      rw [or_iff_right hbig, or_iff_right fun h' => hbig (hnext.2 h'), sst_floor_iff he, sst_floor_iff he]
      exact h.le_iff hle _
  have hexact : ∀ r : ℤ, (r : K) * 2 ^ (max (Int.log 2 x') t.emin - t.p + 1) = x ↔ (r : L) * 2 ^ (max (Int.log 2 x') t.emin - t.p + 1) = x' :=
    fun r => (eq_comm.trans (h.eq_iff (by omega) r)).trans eq_comm
  have hover : ∀ r q : ℤ, (t.maxSig : K) * 2 ^ (t.emax - t.p + 1) < (r : K) * 2 ^ q ↔ (t.maxSig : L) * 2 ^ (t.emax - t.p + 1) < (r : L) * 2 ^ q :=
    fun r q => by exact_mod_cast dyadic_lt_iff (K := K) (L := L) t.maxSig r _ q
  have htiny : ∀ r q : ℤ, (r : K) * 2 ^ q < 2 ^ t.emin ↔ (r : L) * 2 ^ q < 2 ^ t.emin :=
    fun r q => by simpa using dyadic_lt_iff (K := K) (L := L) r 1 q t.emin
  unfold RoundsTo at ha ⊢
  dsimp only at ha ⊢
  rw [hlog] at ha
  simp only [hmost, hsst, hchosen (max (Int.log 2 x') t.emin - t.p + 1) (by omega), hchosen (Int.log 2 x' - t.p + 1) (by omega), hexact, hover,
    htiny] at ha
  exact ha

end

end Sys2Proof.Machine
end

section
/-! SUPPORT. Magnitudes that are known between neighbouring multiples of a power of two round as their numbers do (R226-R229). -/

namespace Sys2Proof.Machine

/-! ### A magnitude strictly above its significand -/

theorem blen_two_mul_add_one (m : Nat) : blen (2 * m + 1) = blen m + 1 := by
  rcases Nat.eq_zero_or_pos m with rfl | hm
  · rfl
  · rw [log_blen hm, log_blen (Nat.succ_pos _), Nat.log2_def, if_pos (by omega), show (2 * m + 1) / 2 = m by omega]

theorem two_pow_le_iff_blen {m n : Nat} : 2 ^ n ≤ m ↔ n < blen m := by
  rcases Nat.eq_zero_or_pos m with rfl | hm
  · simp [blen]
  · rw [log_blen hm, Nat.lt_succ_iff, Nat.le_log2 hm.ne']

theorem lt_two_pow_blen (m : Nat) : m < 2 ^ blen m := Nat.lt_of_not_le fun h => (two_pow_le_iff_blen.1 h).false

/-- Halving an odd number of half units. -/
theorem two_mul_add_one_div_mod (m span : Nat) :
    (2 * m + 1) / (2 * span) = m / span ∧ (2 * m + 1) % (2 * span) = 2 * (m % span) + 1 := by
  have hdiv : (2 * m + 1) / (2 * span) = m / span := by
    rw [← Nat.div_div_eq_div_mul]
    congr 1
    omega
  refine ⟨hdiv, ?_⟩
  have h1 := Nat.div_add_mod (2 * m + 1) (2 * span)
  have h2 := Nat.div_add_mod m span
  rw [hdiv, mul_assoc] at h1
  omega

/-- A remainder strictly above `rem` goes the way of the next half unit, where the units are fine enough for the draw of sst. -/
theorem goesUp_more (mode : RMode) (neg : Bool) (rnd lo rem j : Nat) :
    goesUp mode neg rnd lo rem (2 ^ (64 + j)) true = goesUp mode neg rnd lo (2 * rem + 1) (2 * 2 ^ (64 + j)) false := by
  have heven : 2 ^ (64 + j) = 2 * 2 ^ (63 + j) := by rw [← pow_succ']; congr 1; omega
  cases mode with
  | rtz | rup | rdn => rfl
  | rna =>
    simp only [goesUp]
    exact decide_eq_decide.2 (by omega)
  | rne =>
    simp only [goesUp]
    refine Bool.eq_iff_iff.2 ?_
    simp only [Bool.or_eq_true, Bool.and_eq_true, decide_eq_true_eq, beq_iff_eq, Bool.false_or, Bool.true_or, and_true]
    omega
  | sst =>
    simp only [goesUp]
    refine decide_eq_decide.2 ?_
    have h1 : rem * 2 ^ 64 / 2 ^ (64 + j) = rem / 2 ^ j := by
      rw [pow_add, mul_comm rem, Nat.mul_div_mul_left _ _ (by positivity)]
    have h2 : (2 * rem + 1) * 2 ^ 64 / (2 * 2 ^ (64 + j)) = rem / 2 ^ j := by
      rw [pow_add, show 2 * (2 ^ 64 * 2 ^ j) = 2 ^ 64 * (2 * 2 ^ j) by ring, mul_comm (2 * rem + 1), Nat.mul_div_mul_left _ _ (by positivity)]
      exact (two_mul_add_one_div_mod rem (2 ^ j)).1
    rw [h1, h2]

/-- A magnitude strictly above its significand rounds at a coarse place as the half unit above it. -/
theorem roundAt_more (mode : RMode) (neg : Bool) (rnd m : Nat) {e q : ℤ} (hq : e + 64 ≤ q) :
    roundAt mode neg rnd ⟨m, e, true⟩ q = roundAt mode neg rnd ⟨2 * m + 1, e - 1, false⟩ q := by
  obtain ⟨j, hj⟩ : ∃ j : Nat, q = e + 64 + j := ⟨(q - e - 64).toNat, by omega⟩
  have hd : (q - e).toNat = 64 + j := by omega
  have hd' : (q - (e - 1)).toNat = (64 + j) + 1 := by omega
  obtain ⟨hdiv, hmod⟩ := two_mul_add_one_div_mod m (2 ^ (64 + j))
  unfold roundAt
  dsimp only
  rw [if_neg (c := q - e ≤ 0) (by omega), if_neg (c := q - (e - 1) ≤ 0) (by omega), hd, hd', pow_succ', hdiv, hmod, ← goesUp_more]
  exact (if_neg (by simp)).trans (if_neg (by simp)).symm

/-- Where the limit is a multiple of the unit, or lies below every number of as many bits, both compare alike with it. -/
theorem magLt_more {m s : Nat} {e k : ℤ} (h : e ≤ k ∨ s ≤ m) :
    (magLt m e s k = magLt (2 * m + 1) (e - 1) s k) ∧ (!magLt m e s k) = magLt s k (2 * m + 1) (e - 1) := by
  have h2 : (0 : ℚ) < 2 ^ (e - 1) := by positivity
  have he : (2 : ℚ) ^ e = 2 * 2 ^ (e - 1) := by rw [← zpow_one_add₀ two_ne_zero]; congr 1; omega
  have hlo : (m : ℚ) * 2 ^ e < ((2 * m + 1 : ℕ) : ℚ) * 2 ^ (e - 1) := by rw [he]; push_cast; nlinarith
  have hhi : ((2 * m + 1 : ℕ) : ℚ) * 2 ^ (e - 1) < (m + 1 : ℕ) * 2 ^ e := by rw [he]; push_cast; nlinarith
  rcases le_or_gt ((s : ℚ) * 2 ^ k) (m * 2 ^ e) with hs | hs
  · have h1 : magLt m e s k = false := Bool.eq_false_iff.2 fun hm => not_lt.2 hs ((magLt_iff ..).1 hm)
    have h2 : magLt (2 * m + 1) (e - 1) s k = false := Bool.eq_false_iff.2 fun hm => not_lt.2 (hs.trans hlo.le) ((magLt_iff ..).1 hm)
    rw [h1, h2, (magLt_iff ..).2 (hs.trans_lt hlo)]
    exact ⟨rfl, rfl⟩
  · have hek : e ≤ k := by
      rcases h with h | h
      · exact h
      · by_contra hk
        refine not_le.2 hs (mul_le_mul (by exact_mod_cast h) (zpow_le_zpow_right₀ one_le_two (by omega)) (by positivity) (by positivity))
    have hle : ((m + 1 : ℕ) : ℚ) * 2 ^ e ≤ s * 2 ^ k := by
      have hk : (s : ℚ) * 2 ^ k = ((s * 2 ^ (k - e).toNat : ℕ) : ℚ) * 2 ^ e := by
        rw [Nat.cast_mul, two_zpow_toNat (by omega), mul_assoc, ← zpow_add₀ two_ne_zero, sub_add_cancel]
      rw [hk, mul_lt_mul_iff_left₀ (by positivity), Nat.cast_lt] at hs
      rw [hk, mul_le_mul_iff_left₀ (by positivity), Nat.cast_le]
      exact hs
    have h1 : magLt m e s k = true := (magLt_iff ..).2 hs
    have h2 : magLt (2 * m + 1) (e - 1) s k = true := (magLt_iff ..).2 (hhi.trans_le hle)
    have h3 : magLt s k (2 * m + 1) (e - 1) = false := Bool.eq_false_iff.2 fun hm => not_lt.2 (hhi.trans_le hle).le ((magLt_iff ..).1 hm)
    rw [h1, h2, h3]
    exact ⟨rfl, rfl⟩

/-- The draw of sst beyond the largest finite value, in units and in half units. -/
theorem sst_draw_more {t : Target} (he : t.e4m3 = true → t.p = 4) {m : Nat} {e : ℤ} (hk : e + 64 ≤ t.emax - t.p + 1) :
    let top := t.emax - t.p + 1
    (m * 2 ^ (e - min e top).toNat - t.maxSig * 2 ^ (top - min e top).toNat) * 2 ^ 64 /
        (2 ^ (t.emax + 1 - min e top).toNat - t.maxSig * 2 ^ (top - min e top).toNat) =
      ((2 * m + 1) * 2 ^ (e - 1 - min (e - 1) top).toNat - t.maxSig * 2 ^ (top - min (e - 1) top).toNat) * 2 ^ 64 /
        (2 ^ (t.emax + 1 - min (e - 1) top).toNat - t.maxSig * 2 ^ (top - min (e - 1) top).toNat) := by
  intro top
  have hmax := maxSig_lt he
  obtain ⟨j, hj⟩ : ∃ j : Nat, top = e + 64 + j := ⟨(top - e - 64).toNat, by omega⟩
  have h1 : min e top = e := by omega
  have h2 : min (e - 1) top = e - 1 := by omega
  have h3 : (top - e).toNat = 64 + j := by omega
  have h4 : (top - (e - 1)).toNat = 65 + j := by omega
  have h5 : (t.emax + 1 - e).toNat = t.p + (64 + j) := by omega
  have h6 : (t.emax + 1 - (e - 1)).toNat = t.p + (65 + j) := by omega
  rw [h1, h2, h3, h4, h5, h6, sub_self, sub_self, Int.toNat_zero, pow_zero, mul_one, mul_one, pow_add 2 t.p, pow_add 2 t.p, ← Nat.sub_mul, ← Nat.sub_mul]
  rw [show 65 + j = (64 + j) + 1 by omega, pow_succ' 2 (64 + j), pow_add 2 64 j]
  generalize 2 ^ t.p - t.maxSig = c
  generalize 2 ^ j = u
  rcases lt_or_ge m (t.maxSig * (2 ^ 64 * u)) with hm | hm
  · rw [Nat.sub_eq_zero_of_le hm.le, Nat.sub_eq_zero_of_le (by rw [mul_left_comm t.maxSig 2]; omega), zero_mul, Nat.zero_div, Nat.zero_div]
  · obtain ⟨d, rfl⟩ := Nat.exists_eq_add_of_le hm
    have hodd : 2 * (t.maxSig * (2 ^ 64 * u) + d) + 1 - t.maxSig * (2 * (2 ^ 64 * u)) = 2 * d + 1 := by rw [mul_left_comm t.maxSig 2]; omega
    rw [Nat.add_sub_cancel_left, hodd, show c * (2 ^ 64 * u) = 2 ^ 64 * (c * u) by ring, show c * (2 * (2 ^ 64 * u)) = 2 ^ 64 * (2 * (c * u)) by ring,
      mul_comm d, mul_comm (2 * d + 1), Nat.mul_div_mul_left _ _ (by positivity), Nat.mul_div_mul_left _ _ (by positivity)]
    exact (two_mul_add_one_div_mod d (c * u)).1.symm

/-- A number of `p + 65` bits below 2^p units lies in units 64 places finer. -/
theorem magLt_exp_le {p m s : Nat} {e k : ℤ} (hm : 2 ^ (p + 64) ≤ m) (hs : s < 2 ^ p) (h : magLt m (e - 1) (s + 1) k = true) : e + 64 ≤ k := by
  have hlt := (magLt_iff ..).1 h
  have hlo : (2 : ℚ) ^ ((p + 64 : ℕ) + (e - 1)) ≤ m * 2 ^ (e - 1) := by
    rw [zpow_add₀ two_ne_zero, zpow_natCast]
    exact mul_le_mul_of_nonneg_right (by exact_mod_cast hm) (by positivity)
  have hhi : ((s + 1 : ℕ) : ℚ) * 2 ^ k ≤ 2 ^ ((p : ℤ) + k) := by
    rw [zpow_add₀ two_ne_zero, zpow_natCast]
    exact mul_le_mul_of_nonneg_right (by exact_mod_cast hs) (by positivity)
  have := (zpow_lt_zpow_iff_right₀ one_lt_two).1 ((hlo.trans_lt hlt).trans_le hhi)
  push_cast at this
  omega

/-- A magnitude strictly above its significand, with 64 bits to spare, rounds as the half unit above it. -/
theorem roundMag_more {t : Target} (he : t.e4m3 = true → t.p = 4) (neg : Bool) {m : Nat} (hm : 2 ^ (t.p + 63) ≤ m) (e : ℤ) :
    roundMag t neg ⟨m, e, true⟩ = roundFin t neg (2 * m + 1) (e - 1) := by
  have hmax := maxSig_lt he
  have hbits := two_pow_le_iff_blen.1 hm
  have hbig : 2 ^ t.p ≤ m := (Nat.pow_le_pow_right two_pos (by omega)).trans hm
  have hq : e - 1 + ((blen m + 1 : ℕ) : ℤ) - 1 = e + blen m - 1 := by push_cast; ring
  obtain ⟨-, hover⟩ := magLt_more (k := t.emax - t.p + 1) (e := e) (Or.inr (hmax.le.trans hbig))
  obtain ⟨hnext, -⟩ := magLt_more (k := t.emax - t.p + 1) (e := e) (s := t.maxSig + 1) (Or.inr (hmax.trans_le hbig))
  have hbeyond : (magLt t.maxSig (t.emax - t.p + 1) m e || true && !magLt m e t.maxSig (t.emax - t.p + 1)) =
      (magLt t.maxSig (t.emax - t.p + 1) (2 * m + 1) (e - 1) || false && !magLt (2 * m + 1) (e - 1) t.maxSig (t.emax - t.p + 1)) := by
    rw [hover]
    cases hlt : magLt t.maxSig (t.emax - t.p + 1) m e
    · simp
    · have : magLt m e t.maxSig (t.emax - t.p + 1) = false :=
        Bool.eq_false_iff.2 fun h => lt_asymm ((magLt_iff ..).1 h) ((magLt_iff ..).1 hlt)
      simp [← hover, this]
  have hm' : 2 ^ (t.p + 64) ≤ 2 * m + 1 := by rw [show t.p + 64 = (t.p + 63) + 1 from rfl, pow_succ' 2 (t.p + 63)]; omega
  have hdraw : ∀ big lo span big' lo' span' : Nat, (e + 64 ≤ t.emax - t.p + 1 → (big - lo) * 2 ^ 64 / span = (big' - lo') * 2 ^ 64 / span') →
      (!magLt (2 * m + 1) (e - 1) (t.maxSig + 1) (t.emax - t.p + 1) || decide (t.rnd < (big - lo) * 2 ^ 64 / span)) =
        (!magLt (2 * m + 1) (e - 1) (t.maxSig + 1) (t.emax - t.p + 1) || decide (t.rnd < (big' - lo') * 2 ^ 64 / span')) := by
    intro big lo span big' lo' span' h
    cases hlt : magLt (2 * m + 1) (e - 1) (t.maxSig + 1) (t.emax - t.p + 1)
    · rw [Bool.not_false, Bool.true_or, Bool.true_or]
    · rw [h (magLt_exp_le hm' hmax hlt)]
  unfold roundFin roundMag
  rw [blen_two_mul_add_one]
  dsimp only
  rw [hq, hbeyond, hnext, roundAt_more _ _ _ _ (by omega), roundAt_more _ _ _ _ (by omega)]
  rw [if_neg (c := m = 0 ∧ (!true) = true) (by simp), if_neg (c := 2 * m + 1 = 0 ∧ (!false) = true) (by simp),
    hdraw _ _ _ _ _ _ (sst_draw_more he)]

/-! ### Magnitudes that stand for numbers -/

/-- A magnitude stands for the number `x`: for it exactly, or with at least `n` bits below it and less than a unit away. -/
def Mag.standsFor {K : Type} [Field K] [LinearOrder K] (X : Mag) (n : Nat) (x : K) : Prop :=
  if X.more = true then 2 ^ n ≤ X.m ∧ (X.m : K) * 2 ^ X.e < x ∧ x < (X.m + 1 : K) * 2 ^ X.e else 0 < X.m ∧ x = (X.m : K) * 2 ^ X.e

section
variable {K : Type} [Field K] [LinearOrder K]

theorem Mag.standsFor_above {n m : Nat} {e : ℤ} {x : K} (hm : 2 ^ n ≤ m) (hlo : (m : K) * 2 ^ e < x) (hhi : x < (m + 1 : K) * 2 ^ e) :
    (⟨m, e, true⟩ : Mag).standsFor n x := ⟨hm, hlo, hhi⟩

theorem Mag.standsFor_exact {n m : Nat} {e : ℤ} {x : K} (hm : 0 < m) (hx : x = (m : K) * 2 ^ e) : (⟨m, e, false⟩ : Mag).standsFor n x := ⟨hm, hx⟩

theorem Mag.standsFor.mono {X : Mag} {n k : Nat} {x : K} (h : X.standsFor n x) (hk : k ≤ n) : X.standsFor k x := by
  unfold Mag.standsFor at h ⊢
  split
  case isTrue hm =>
    rw [if_pos hm] at h
    exact ⟨(Nat.pow_le_pow_right two_pos hk).trans h.1, h.2⟩
  case isFalse hm => rwa [if_neg hm] at h

variable [IsStrictOrderedRing K] [FloorRing K]

/-- A magnitude with 64 bits to spare rounds as the number that it stands for, in every mode. -/
theorem Mag.standsFor.roundsTo {t : Target} (hp : 2 ≤ t.p) (he : t.e4m3 = true → t.p = 4) (neg : Bool) {X : Mag} {x : K}
    (h : X.standsFor (t.p + 63) x) : RoundsTo t neg x (roundMag t neg X) := by
  obtain ⟨m, e, more⟩ := X
  cases more with
  | false =>
    obtain ⟨hm, rfl⟩ : 0 < m ∧ x = (m : K) * 2 ^ e := h
    have hlog := log_magnitude hm e
    have hround := roundFin_roundsTo hp he neg hm e
    refine RoundsTo.congr hp he (e := e + blen m - 1 - t.p + 1 - 64) ?_ (by positivity) (by positivity) (by rw [hlog]; omega) hround
    have hcast := sameSide_cast (K := K) (e + blen m - 1 - t.p + 1 - 64) ((m : ℚ) * 2 ^ e)
    push_cast at hcast
    exact hcast
  | true =>
    obtain ⟨hm, hlo, hhi⟩ : 2 ^ (t.p + 63) ≤ m ∧ (m : K) * 2 ^ e < x ∧ x < (m + 1 : K) * 2 ^ e := h
    have hhalf : (2 : ℚ) ^ e = 2 * 2 ^ (e - 1) := by rw [← zpow_one_add₀ two_ne_zero]; congr 1; omega
    have h2 : (0 : ℚ) < 2 ^ (e - 1) := by positivity
    have hlog := log_magnitude (Nat.succ_pos (2 * m)) (e - 1)
    have hbits := two_pow_le_iff_blen.1 hm
    have hround := roundFin_roundsTo hp he neg (Nat.succ_pos (2 * m)) (e - 1)
    rw [roundMag_more he neg hm]
    refine RoundsTo.congr hp he (sameSide_of_cell (m := m) (e := e) ⟨?_, ?_⟩ ⟨hlo, hhi⟩) (by positivity) ?_ ?_ hround
    · rw [hhalf]; push_cast; nlinarith
    · rw [hhalf]; push_cast; nlinarith
    · exact lt_of_le_of_lt (by positivity) hlo
    · rw [hlog, blen_two_mul_add_one]; push_cast; omega

end


end Sys2Proof.Machine
end

section
/-! SUPPORT. Integer square roots, and magnitudes of quotients and roots (R246). -/

namespace Sys2Proof.Machine

/-! ### Newton's iteration -/

section
variable {n x : Nat}

/-- Newton's iteration never falls below the root. -/
theorem sqrt_le_newton (hx : 0 < x) : Nat.sqrt n ≤ (x + n / x) / 2 := by
  have hs : Nat.sqrt n * Nat.sqrt n ≤ n := Nat.sqrt_le n
  have hdiv : n < x * (n / x + 1) := Nat.lt_mul_div_succ n hx
  rw [Nat.le_div_iff_mul_le two_pos]
  by_contra hlt
  nlinarith [sq_nonneg ((x : ℤ) - Nat.sqrt n)]

/-- Above the root the iteration at least halves the distance to it. -/
theorem newton_halves (hx : Nat.sqrt n < x) : 2 * ((x + n / x) / 2 - Nat.sqrt n) ≤ x - Nat.sqrt n := by
  have hn : n < (Nat.sqrt n + 1) * (Nat.sqrt n + 1) := Nat.lt_succ_sqrt n
  have hdiv : n / x ≤ Nat.sqrt n := by
    rw [← Nat.lt_succ_iff, Nat.div_lt_iff_lt_mul (by omega)]
    exact hn.trans_le (Nat.mul_le_mul_left _ hx)
  omega

/-- The distance to the root falls quadratically. -/
theorem newton_square (hx : Nat.sqrt n ≤ x) (h0 : 0 < x) :
    2 * ((x + n / x) / 2 - Nat.sqrt n) * x ≤ (x - Nat.sqrt n) * (x - Nat.sqrt n) + 2 * Nat.sqrt n := by
  have hn : n ≤ Nat.sqrt n * Nat.sqrt n + 2 * Nat.sqrt n := by have := Nat.sqrt_le_add n; omega
  have hdiv : n / x * x ≤ n := Nat.div_mul_le_self n x
  have hy := sqrt_le_newton (n := n) h0
  have h2 : 2 * ((x + n / x) / 2) ≤ x + n / x := by omega
  obtain ⟨d, rfl⟩ := Nat.exists_eq_add_of_le hx
  generalize (Nat.sqrt n + d + n / (Nat.sqrt n + d)) / 2 = y at *
  obtain ⟨c, rfl⟩ := Nat.exists_eq_add_of_le hy
  rw [Nat.add_sub_cancel_left, Nat.add_sub_cancel_left]
  nlinarith [Nat.mul_le_mul_right (Nat.sqrt n + d) h2]

theorem isqrtGo_sqrt (n : Nat) (fuel : Nat) : isqrtGo n fuel (Nat.sqrt n) = Nat.sqrt n := by
  cases fuel with
  | zero => rfl
  | succ fuel =>
    rw [isqrtGo]
    refine if_neg (not_lt.2 ?_)
    rcases Nat.eq_zero_or_pos (Nat.sqrt n) with h | h
    · rw [h]; exact Nat.zero_le _
    · exact sqrt_le_newton h

theorem isqrtGo_step (hx : Nat.sqrt n < x) (fuel : Nat) : isqrtGo n (fuel + 1) x = isqrtGo n fuel ((x + n / x) / 2) := by
  have := newton_halves hx
  rw [isqrtGo]
  exact if_pos (by omega)

/-- Near the root the iteration ends at it. -/
theorem isqrtGo_near {k fuel : Nat} (hf : k ≤ fuel) (hx : Nat.sqrt n ≤ x) (hd : x - Nat.sqrt n < 2 ^ k) : isqrtGo n fuel x = Nat.sqrt n := by
  induction k generalizing fuel x with
  | zero =>
    obtain rfl : x = Nat.sqrt n := by omega
    exact isqrtGo_sqrt n fuel
  | succ k ih =>
    obtain ⟨fuel, rfl⟩ : ∃ f, fuel = f + 1 := ⟨fuel - 1, by omega⟩
    rcases hx.eq_or_lt with rfl | hlt
    · exact isqrtGo_sqrt n _
    · have := newton_halves hlt
      rw [isqrtGo_step hlt]
      exact ih (by omega) (sqrt_le_newton (by omega)) (by rw [pow_succ] at hd; omega)

/-- Once the relative distance to the root is below 2^-(2^a) it squares with every step. -/
theorem isqrtGo_quadratic {j a fuel : Nat} (hf : j + 2 ≤ fuel) (hx : Nat.sqrt n ≤ x) (hd : (x - Nat.sqrt n) * 2 ^ 2 ^ a ≤ Nat.sqrt n)
    (hs : Nat.sqrt n < 2 ^ 2 ^ (a + j)) : isqrtGo n fuel x = Nat.sqrt n := by
  induction j generalizing a fuel x with
  | zero =>
    obtain rfl : x = Nat.sqrt n := by
      have : x - Nat.sqrt n = 0 := by
        by_contra h
        have := Nat.le_mul_of_pos_left (2 ^ 2 ^ a) (Nat.pos_of_ne_zero h)
        rw [add_zero] at hs
        omega
      omega
    exact isqrtGo_sqrt n fuel
  | succ j ih =>
    obtain ⟨fuel, rfl⟩ : ∃ f, fuel = f + 1 := ⟨fuel - 1, by omega⟩
    rcases hx.eq_or_lt with rfl | hlt
    · exact isqrtGo_sqrt n _
    · have hy : Nat.sqrt n ≤ (x + n / x) / 2 := sqrt_le_newton (by omega)
      have hsq := newton_square hx (by omega)
      rw [isqrtGo_step hlt]
      generalize (x + n / x) / 2 = y at *
      have hs0 : 0 < Nat.sqrt n := by
        have : 0 < (x - Nat.sqrt n) * 2 ^ 2 ^ a := Nat.mul_pos (by omega) (by positivity)
        omega
      have hle : 2 * (y - Nat.sqrt n) * Nat.sqrt n ≤ (x - Nat.sqrt n) * (x - Nat.sqrt n) + 2 * Nat.sqrt n :=
        (Nat.mul_le_mul_left _ hx).trans hsq
      rcases le_or_gt ((x - Nat.sqrt n) * (x - Nat.sqrt n)) (2 * Nat.sqrt n) with hsmall | hlarge
      · have : y - Nat.sqrt n ≤ 2 := by nlinarith
        exact isqrtGo_near (k := 2) (by omega) hy (by omega)
      · refine ih (by omega) (a := a + 1) hy ?_ (by rwa [show a + 1 + j = a + (j + 1) by omega])
        rw [pow_succ 2 a, pow_mul, sq]
        generalize 2 ^ 2 ^ a = u at hd ⊢
        generalize x - Nat.sqrt n = d at *
        generalize y - Nat.sqrt n = c at *
        have h1 : c * Nat.sqrt n ≤ d * d := by nlinarith
        have h2 : c * (u * u) * Nat.sqrt n ≤ Nat.sqrt n * Nat.sqrt n := by
          calc c * (u * u) * Nat.sqrt n = c * Nat.sqrt n * (u * u) := by ring
            _ ≤ d * d * (u * u) := Nat.mul_le_mul_right _ h1
            _ = d * u * (d * u) := by ring
            _ ≤ Nat.sqrt n * Nat.sqrt n := Nat.mul_le_mul hd hd
        exact Nat.le_of_mul_le_mul_right h2 hs0

/-- From a few times the root the iteration first halves the distance. -/
theorem isqrtGo_far {i j fuel : Nat} (hf : j + 2 + i ≤ fuel) (hx : Nat.sqrt n ≤ x) (hd : 2 * (x - Nat.sqrt n) ≤ 2 ^ i * Nat.sqrt n)
    (hs : Nat.sqrt n < 2 ^ 2 ^ j) : isqrtGo n fuel x = Nat.sqrt n := by
  induction i generalizing fuel x with
  | zero => exact isqrtGo_quadratic (a := 0) (by omega) hx (by simpa [mul_comm] using hd) (by simpa using hs)
  | succ i ih =>
    obtain ⟨fuel, rfl⟩ : ∃ f, fuel = f + 1 := ⟨fuel - 1, by omega⟩
    rcases hx.eq_or_lt with rfl | hlt
    · exact isqrtGo_sqrt n _
    · have := newton_halves hlt
      rw [isqrtGo_step hlt]
      refine ih (by omega) (sqrt_le_newton (by omega)) ?_
      rw [pow_succ, mul_right_comm] at hd
      omega

/-- The model's integer square root is the root's floor, for numbers of up to 2^195 bits. -/
theorem isqrt_eq {j : Nat} (hj : j ≤ 195) (h : n < 2 ^ 2 ^ j) : isqrt n = Nat.sqrt n := by
  unfold isqrt
  split
  case isTrue h0 => rw [h0, Nat.sqrt_zero]
  case isFalse h0 =>
    have hlo : 2 ^ (blen n - 1) ≤ n := two_pow_le_iff_blen.2 (by have := log_blen (Nat.pos_of_ne_zero h0); omega)
    have hhi : n < 2 ^ blen n := lt_two_pow_blen n
    have hb : 0 < blen n := by rw [log_blen (Nat.pos_of_ne_zero h0)]; omega
    have hs : Nat.sqrt n ≤ n := Nat.sqrt_le_self n
    have hs0 : 0 < Nat.sqrt n := Nat.sqrt_pos.2 (Nat.pos_of_ne_zero h0)
    have hsq : n ≤ Nat.sqrt n * Nat.sqrt n + 2 * Nat.sqrt n := by have := Nat.sqrt_le_add n; omega
    have hx2 : 2 ^ (blen n / 2 + 1) * 2 ^ (blen n / 2 + 1) ≤ 8 * n := by
      calc 2 ^ (blen n / 2 + 1) * 2 ^ (blen n / 2 + 1) = 2 ^ (blen n / 2 + 1 + (blen n / 2 + 1)) := (pow_add ..).symm
        _ ≤ 2 ^ (3 + (blen n - 1)) := Nat.pow_le_pow_right two_pos (by omega)
        _ = 8 * 2 ^ (blen n - 1) := pow_add ..
        _ ≤ 8 * n := Nat.mul_le_mul_left 8 hlo
    have hx1 : n < 2 ^ (blen n / 2 + 1) * 2 ^ (blen n / 2 + 1) := by
      rw [← pow_add]
      exact hhi.trans_le (Nat.pow_le_pow_right two_pos (by omega))
    refine isqrtGo_far (i := 3) (j := j) (by omega) (Nat.sqrt_lt.2 hx1).le ?_ (hs.trans_lt h)
    generalize 2 ^ (blen n / 2 + 1) = x at *
    have : x ≤ 5 * Nat.sqrt n := by
      by_contra hlt
      nlinarith
    omega

end

/-! ### Quotients and roots of magnitudes -/

section
variable {K : Type} [Field K] [LinearOrder K] [IsStrictOrderedRing K]

/-- The quotient of naturals with a mark where it is above its floor. -/
theorem div_standsFor {x d n : Nat} (hd : 0 < d) (hx : 2 ^ n * d ≤ x) (k : ℤ) :
    (⟨x / d, k, x % d != 0⟩ : Mag).standsFor n ((x : K) / d * 2 ^ k) := by
  have hdK : (0 : K) < d := by exact_mod_cast hd
  have h2 : (0 : K) < 2 ^ k := by positivity
  have hsplit : (x : K) = d * (x / d : ℕ) + (x % d : ℕ) := by exact_mod_cast (Nat.div_add_mod x d).symm
  have hle : 2 ^ n ≤ x / d := (Nat.le_div_iff_mul_le hd).2 hx
  unfold Mag.standsFor
  by_cases hr : x % d = 0
  · rw [if_neg (by simp [hr])]
    refine ⟨lt_of_lt_of_le (by positivity) hle, ?_⟩
    rw [hr, Nat.cast_zero, add_zero] at hsplit
    rw [hsplit, mul_div_cancel_left₀ _ hdK.ne']
  · have hr0 : (0 : K) < (x % d : ℕ) := by exact_mod_cast Nat.pos_of_ne_zero hr
    have hrd : ((x % d : ℕ) : K) < d := by exact_mod_cast Nat.mod_lt x hd
    rw [if_pos (by simp [hr])]
    refine ⟨hle, mul_lt_mul_of_pos_right ?_ h2, mul_lt_mul_of_pos_right ?_ h2⟩
    · rw [lt_div_iff₀ hdK]; dsimp only; linarith
    · rw [div_lt_iff₀ hdK]; dsimp only; linarith

theorem two_pow_blen_le {m : Nat} (hm : 0 < m) : 2 ^ blen m ≤ 2 * m := by
  rw [log_blen hm, pow_succ']
  exact Nat.mul_le_mul_left 2 (Nat.log2_self_le hm.ne')

/-- The magnitude of a quotient (R246). -/
theorem divMag_standsFor {ma mb : Nat} (ha : 0 < ma) (hb : 0 < mb) (ea eb : ℤ) (n : Nat) :
    (divMag ma ea mb eb n).standsFor n ((ma : K) * 2 ^ ea / (mb * 2 ^ eb)) := by
  obtain ⟨s, hs⟩ : ∃ s, n + 1 + blen mb - min (blen ma) (n + 1 + blen mb) = s := ⟨_, rfl⟩
  have hval : (ma : K) * 2 ^ ea / (mb * 2 ^ eb) = ((ma * 2 ^ s : ℕ) : K) / mb * 2 ^ (ea - s - eb) := by
    rw [zpow_sub₀ two_ne_zero, zpow_sub₀ two_ne_zero, zpow_natCast]
    push_cast
    field_simp
  unfold divMag
  rw [hs, hval]
  refine div_standsFor hb ?_ _
  have h1 := two_pow_blen_le ha
  have h2 := (lt_two_pow_blen mb).le
  have h3 : 2 * (2 ^ n * mb) ≤ 2 * (ma * 2 ^ s) := by
    calc 2 * (2 ^ n * mb) ≤ 2 * (2 ^ n * 2 ^ blen mb) := by gcongr
      _ = 2 ^ (n + 1 + blen mb) := by ring
      _ ≤ 2 ^ (blen ma + s) := Nat.pow_le_pow_right two_pos (by omega)
      _ = 2 ^ blen ma * 2 ^ s := pow_add ..
      _ ≤ 2 * ma * 2 ^ s := Nat.mul_le_mul_right _ h1
      _ = 2 * (ma * 2 ^ s) := mul_assoc ..
  omega

end

/-- The root of a quotient of naturals with a mark where it is above its floor. -/
theorem sqrt_standsFor {x d n : Nat} (hd : 0 < d) (hx : 2 ^ (2 * n) * d ≤ x) (k : ℤ) :
    (⟨Nat.sqrt (x / d), k, Nat.sqrt (x / d) * Nat.sqrt (x / d) * d != x⟩ : Mag).standsFor n (Real.sqrt ((x : ℝ) / d) * 2 ^ k) := by
  have hdR : (0 : ℝ) < d := by exact_mod_cast hd
  have h2 : (0 : ℝ) < 2 ^ k := by positivity
  have hlo : Nat.sqrt (x / d) * Nat.sqrt (x / d) * d ≤ x := (Nat.mul_le_mul_right d (Nat.sqrt_le _)).trans (Nat.div_mul_le_self x d)
  have hhi : x < (Nat.sqrt (x / d) + 1) * (Nat.sqrt (x / d) + 1) * d := (Nat.div_lt_iff_lt_mul hd).1 (Nat.lt_succ_sqrt _)
  have hle : 2 ^ n ≤ Nat.sqrt (x / d) := by
    rw [Nat.le_sqrt, ← pow_add, ← two_mul]
    exact (Nat.le_div_iff_mul_le hd).2 hx
  generalize Nat.sqrt (x / d) = r at *
  unfold Mag.standsFor
  by_cases hr : r * r * d = x
  · rw [if_neg (by simp [hr])]
    refine ⟨lt_of_lt_of_le (by positivity) hle, ?_⟩
    have : (x : ℝ) / d = r * r := by
      rw [← hr]
      push_cast
      rw [mul_div_cancel_right₀ _ hdR.ne']
    rw [this, Real.sqrt_mul_self (Nat.cast_nonneg r)]
  · rw [if_pos (by simpa using hr)]
    refine ⟨hle, mul_lt_mul_of_pos_right ?_ h2, mul_lt_mul_of_pos_right ?_ h2⟩
    · refine Real.lt_sqrt_of_sq_lt ?_
      rw [lt_div_iff₀ hdR, sq]
      exact_mod_cast lt_of_le_of_ne hlo hr
    · rw [Real.sqrt_lt' (by positivity), div_lt_iff₀ hdR, sq]
      exact_mod_cast hhi

/-- The root of a power of two with an even exponent. -/
theorem sqrt_mul_zpow (x : ℝ) {e k : ℤ} (h : e = 2 * k) (hx : 0 ≤ x) : Real.sqrt (x * 2 ^ e) = Real.sqrt x * 2 ^ k := by
  rw [Real.sqrt_mul hx, h, two_mul, zpow_add₀ two_ne_zero, Real.sqrt_mul_self (by positivity)]

/-- The magnitude of a square root (R246). -/
theorem sqrtMag_standsFor {m : Nat} (hm : 0 < m) (e : ℤ) {n : Nat} (hn : blen m + 2 * n + 3 ≤ 2 ^ 20) :
    (sqrtMag m e n).standsFor n (Real.sqrt ((m : ℝ) * 2 ^ e)) := by
  obtain ⟨s, hs⟩ : ∃ s, (if (e - (2 * n + 2 - min (blen m) (2 * n + 2) : ℕ)) % 2 = 0 then 2 * n + 2 - min (blen m) (2 * n + 2)
    else 2 * n + 2 - min (blen m) (2 * n + 2) + 1) = s := ⟨_, rfl⟩
  have hbits : 2 * n + 2 ≤ blen m + s ∧ s ≤ 2 * n + 3 ∧ (e - s) % 2 = 0 := by split_ifs at hs <;> omega
  obtain ⟨hlo, hhi, heven⟩ := hbits
  have hval : Real.sqrt ((m : ℝ) * 2 ^ e) = Real.sqrt (((m * 2 ^ s : ℕ) : ℝ) / (1 : ℕ)) * 2 ^ ((e - s) / 2) := by
    rw [← sqrt_mul_zpow _ (e := e - s) (by omega) (by positivity), zpow_sub₀ two_ne_zero, zpow_natCast]
    push_cast
    field_simp
  have hx : m * 2 ^ s < 2 ^ 2 ^ 20 := by
    calc m * 2 ^ s < 2 ^ blen m * 2 ^ s := Nat.mul_lt_mul_of_pos_right (lt_two_pow_blen m) (by positivity)
      _ = 2 ^ (blen m + s) := (pow_add ..).symm
      _ ≤ 2 ^ 2 ^ 20 := Nat.pow_le_pow_right two_pos (by omega)
  have hbig : 2 ^ (2 * n) * 1 ≤ m * 2 ^ s := by
    have h1 : 2 * 2 ^ (2 * n) ≤ 2 * (m * 2 ^ s) := by
      calc 2 * 2 ^ (2 * n) = 2 ^ (2 * n + 1) := (pow_succ' ..).symm
        _ ≤ 2 ^ (blen m + s) := Nat.pow_le_pow_right two_pos (by omega)
        _ = 2 ^ blen m * 2 ^ s := pow_add ..
        _ ≤ 2 * m * 2 ^ s := Nat.mul_le_mul_right _ (two_pow_blen_le hm)
        _ = 2 * (m * 2 ^ s) := mul_assoc ..
    omega
  have hroot := sqrt_standsFor one_pos hbig ((e - s) / 2)
  rw [Nat.div_one, mul_one] at hroot
  unfold sqrtMag
  dsimp only
  rw [hs, isqrt_eq (by norm_num) hx, hval]
  exact hroot

/-- The magnitude of the reciprocal of a square root (R246). -/
theorem rsqrtMag_standsFor {m : Nat} (hm : 0 < m) (e : ℤ) {n : Nat} (hn : 2 * blen m + 2 * n + 10 ≤ 2 ^ 20) :
    (rsqrtMag m e n).standsFor n (1 / Real.sqrt ((m : ℝ) * 2 ^ e)) := by
  obtain ⟨m', hm'⟩ : ∃ m', (if e % 2 = 0 then m else 2 * m) = m' := ⟨_, rfl⟩
  obtain ⟨e', he'⟩ : ∃ e', (if e % 2 = 0 then e else e - 1) = e' := ⟨_, rfl⟩
  have hpos : 0 < m' := by split_ifs at hm' <;> omega
  have heven : e' = 2 * (e' / 2) := by split_ifs at he' <;> omega
  have hbits : blen m' ≤ blen m + 1 := by
    by_contra hlt
    have h1 : 2 ^ (blen m + 1) ≤ m' := two_pow_le_iff_blen.2 (not_le.1 hlt)
    have h2 := lt_two_pow_blen m
    rw [pow_succ] at h1
    split_ifs at hm' <;> omega
  have hsame : (m : ℝ) * 2 ^ e = m' * 2 ^ e' := by
    rw [← hm', ← he']
    split_ifs
    · rfl
    · rw [zpow_sub_one₀ two_ne_zero]
      push_cast
      ring
  obtain ⟨k, hk⟩ : ∃ k, n + 2 + blen m' = k := ⟨_, rfl⟩
  have hbig : 2 ^ (2 * n) * m' ≤ 2 ^ (2 * k) := by
    calc 2 ^ (2 * n) * m' ≤ 2 ^ (2 * n) * 2 ^ blen m' := Nat.mul_le_mul_left _ (lt_two_pow_blen m').le
      _ = 2 ^ (2 * n + blen m') := (pow_add ..).symm
      _ ≤ 2 ^ (2 * k) := Nat.pow_le_pow_right two_pos (by omega)
  have hsmall : 2 ^ (2 * k) / m' < 2 ^ 2 ^ 20 :=
    (Nat.div_le_self _ _).trans_lt (Nat.pow_lt_pow_right one_lt_two (by omega))
  have hval : 1 / Real.sqrt ((m : ℝ) * 2 ^ e) = Real.sqrt (((2 ^ (2 * k) : ℕ) : ℝ) / m') * 2 ^ (-(k : ℤ) - e' / 2) := by
    have hroot : Real.sqrt (((2 ^ (2 * k) : ℕ) : ℝ) / m') = 2 ^ k / Real.sqrt m' := by
      rw [Nat.cast_pow, Nat.cast_two, mul_comm 2 k, pow_mul, Real.sqrt_div (by positivity), Real.sqrt_sq (by positivity)]
    rw [hsame, sqrt_mul_zpow _ heven (Nat.cast_nonneg m'), hroot, zpow_sub₀ two_ne_zero, zpow_neg, zpow_natCast]
    have h1 : Real.sqrt m' ≠ 0 := (Real.sqrt_pos.2 (by exact_mod_cast hpos)).ne'
    field_simp
  have hroot := sqrt_standsFor hpos hbig (-(k : ℤ) - e' / 2)
  unfold rsqrtMag
  dsimp only
  rw [hm', he', hk, isqrt_eq (by norm_num) hsmall, hval]
  exact hroot

end Sys2Proof.Machine
end

section
/-! SUPPORT. Sums, products, quotients and roots of finite data are rounded once (O7). -/

namespace Sys2Proof.Machine

/-- A sum of zero (R129). -/
theorem roundSum_zero (t : Target) {xs : List FV} (hfin : ∀ v ∈ xs, v.isNan = false ∧ v.isInf = false) (hsum : (xs.map FV.rat).sum = 0) :
    roundSum t xs = ⟨.fin (zeroSign t.mode xs) 0 0, 0⟩ := by
  have hnan : xs.any FV.isNan = false := List.any_eq_false.2 fun v hv => by simp [(hfin v hv).1]
  have hinf : xs.any (fun v => v.isInf && v.neg) = false := List.any_eq_false.2 fun v hv => by simp [(hfin v hv).2]
  have hfind : xs.find? FV.isInf = none := List.find?_eq_none.2 fun v hv => by simp [(hfin v hv).2]
  have h2 : (2 : ℚ) ^ (sumFin xs).2 ≠ 0 := by positivity
  rw [← sumFin_rat, mul_eq_zero, or_iff_left h2, Int.cast_eq_zero] at hsum
  unfold roundSum
  rw [hinf, hnan, hfind]
  exact if_pos hsum

/-- The sign of a zero sum, by the signs of zeros (R129). -/
theorem zeroSign_eq (mode : RMode) (xs : List FV) : zeroSign mode xs =
    if ∀ x ∈ xs, x.isZero = true ∧ x.neg = true then true else if ∀ x ∈ xs, x.isZero = true ∧ x.neg = false then false else mode == .rdn := by
  simp [zeroSign]

/-- The magnitude of a finite datum. -/
theorem FV.abs_rat (s : Bool) (m : Nat) (e : ℤ) : |(FV.fin s m e).rat| = m * 2 ^ e := by
  have : (0 : ℚ) ≤ (m : ℚ) * 2 ^ e := by positivity
  cases s <;> simp [FV.rat, abs_of_nonneg this]

theorem FV.rat_mul (i j : Bool) (m n : Nat) (e k : ℤ) : (FV.fin (i != j) (m * n) (e + k)).rat = (FV.fin i m e).rat * (FV.fin j n k).rat := by
  rw [FV.rat, FV.rat, FV.rat, zpow_add₀ two_ne_zero]
  push_cast
  cases i <;> cases j <;> simp <;> ring

/-- Two data of one sign sum to zero only where both are zeros. -/
theorem FV.rat_add_eq_zero {s : Bool} {m n : Nat} {e k : ℤ} (h : (FV.fin s m e).rat + (FV.fin s n k).rat = 0) : m = 0 ∧ n = 0 := by
  have hm : (0 : ℚ) ≤ (m : ℚ) * 2 ^ e := by positivity
  have hn : (0 : ℚ) ≤ (n : ℚ) * 2 ^ k := by positivity
  have hboth : (m : ℚ) * 2 ^ e = 0 ∧ (n : ℚ) * 2 ^ k = 0 := by
    cases s <;> simp only [FV.rat, Bool.false_eq_true, if_false, if_true] at h <;> constructor <;> linarith
  have h2 : ∀ z : ℤ, (2 : ℚ) ^ z ≠ 0 := fun z => by positivity
  simpa [h2] using hboth

section
variable {t : Target} (hp : 2 ≤ t.p) (he : t.e4m3 = true → t.p = 4) (i j : Bool) (m n : Nat) (e k : ℤ)
include hp he

/-- The product of finite data is rounded once (R239). -/
theorem roundMul_roundsTo :
    if m * n = 0 then roundMul t (.fin i m e) (.fin j n k) = ⟨.fin (i != j) 0 0, 0⟩
    else RoundsTo t (i != j) |(FV.fin i m e).rat * (FV.fin j n k).rat| (roundMul t (.fin i m e) (.fin j n k)) := by
  have hround : roundMul t (.fin i m e) (.fin j n k) = roundFin t (i != j) (m * n) (e + k) := by
    simp [roundMul, zeroInf, FV.isNan, FV.isInf, mulFV, roundFV, FV.neg]
  rw [hround]
  split
  case isTrue h => simp [h, roundFin, roundMag]
  case isFalse h =>
    rw [← FV.rat_mul, FV.abs_rat]
    exact roundFin_roundsTo hp he _ (Nat.pos_of_ne_zero h) _

/-- The product and sum of finite data is rounded once; a zero takes the sign that both addends share (R129, R240). -/
theorem roundFma_roundsTo (h : Bool) (l : Nat) (f : ℤ) :
    let sum : ℚ := (FV.fin i m e).rat * (FV.fin j n k).rat + (FV.fin h l f).rat
    if sum ≠ 0 then RoundsTo t (decide (sum < 0)) |sum| (roundFma t (.fin i m e) (.fin j n k) (.fin h l f))
    else roundFma t (.fin i m e) (.fin j n k) (.fin h l f) = ⟨.fin (if (i != j) = h then h else t.mode == .rdn) 0 0, 0⟩ := by
  intro sum
  have hround : roundFma t (.fin i m e) (.fin j n k) (.fin h l f) = roundSum t [.fin (i != j) (m * n) (e + k), .fin h l f] := by
    simp [roundFma, zeroInf, FV.isNan, FV.isInf, mulFV, FV.neg]
  have hsum : ([FV.fin (i != j) (m * n) (e + k), .fin h l f].map FV.rat).sum = sum := by
    simp [sum, FV.rat_mul]
  have hfin : ∀ v ∈ [FV.fin (i != j) (m * n) (e + k), .fin h l f], v.isNan = false ∧ v.isInf = false := by simp [FV.isNan, FV.isInf]
  rw [hround]
  split
  case isTrue h0 =>
    rw [← hsum] at h0 ⊢
    exact roundSum_roundsTo hp he hfin h0
  case isFalse h0 =>
    rw [roundSum_zero t hfin (hsum.trans (not_not.1 h0)), zeroSign_eq]
    by_cases hsign : (i != j) = h
    · rw [List.map_cons, List.map_cons, List.map_nil, List.sum_cons, List.sum_cons, List.sum_nil, add_zero, hsign] at hsum
      obtain ⟨h1, h2⟩ := FV.rat_add_eq_zero (hsum.trans (not_not.1 h0))
      rw [if_pos hsign, hsign, h1, h2]
      cases h <;> simp [FV.isZero, FV.neg]
    · have hnot : (i != j) = !h := Bool.eq_not.2 hsign
      rw [if_neg hsign, hnot]
      cases h <;> simp [FV.neg]

/-- The quotient of finite data is rounded once (R246). -/
theorem divFV_roundsTo (hm : 0 < m) (hn : 0 < n) :
    RoundsTo t (i != j) |(FV.fin i m e).rat / (FV.fin j n k).rat| (divFV t (.fin i m e) (.fin j n k)) := by
  obtain ⟨m, rfl⟩ : ∃ m', m = m' + 1 := ⟨m - 1, by omega⟩
  obtain ⟨n, rfl⟩ : ∃ n', n = n' + 1 := ⟨n - 1, by omega⟩
  rw [abs_div, FV.abs_rat, FV.abs_rat]
  exact ((divMag_standsFor hm hn e k t.need).mono (by unfold Target.need; omega)).roundsTo hp he _

/-- The reciprocal of a finite datum is rounded once (R246). -/
theorem rcpFV_roundsTo (hm : 0 < m) : RoundsTo t i |1 / (FV.fin i m e).rat| (rcpFV t (.fin i m e)) := by
  have h := divFV_roundsTo hp he false i 1 m 0 e one_pos hm
  obtain ⟨m, rfl⟩ : ∃ m', m = m' + 1 := ⟨m - 1, by omega⟩
  rw [Bool.false_bne, show (FV.fin false 1 0).rat = 1 by simp [FV.rat]] at h
  exact h

/-- The square root of a finite datum and its reciprocal are rounded once (R246). -/
theorem sqrtFV_roundsTo (hm : 0 < m) (hbits : blen m + 2 * t.need + 3 ≤ 2 ^ 20) :
    RoundsTo t false (Real.sqrt ((m : ℝ) * 2 ^ e)) (sqrtFV t (.fin false m e)) := by
  have h := ((sqrtMag_standsFor hm e hbits).mono (by unfold Target.need; omega)).roundsTo hp he false
  obtain ⟨m, rfl⟩ : ∃ m', m = m' + 1 := ⟨m - 1, by omega⟩
  exact h

theorem rsqrtFV_roundsTo (hm : 0 < m) (hbits : 2 * blen m + 2 * t.need + 10 ≤ 2 ^ 20) :
    RoundsTo t false (1 / Real.sqrt ((m : ℝ) * 2 ^ e)) (rsqrtFV t (.fin false m e)) := by
  have h := ((rsqrtMag_standsFor hm e hbits).mono (by unfold Target.need; omega)).roundsTo hp he false
  obtain ⟨m, rfl⟩ : ∃ m', m = m' + 1 := ⟨m - 1, by omega⟩
  exact h

end

/-- Settles O7: an exact number by its magnitude; sums, products and quotients as exact numbers, roots as numbers between neighbours. -/
theorem roundingRule : Obligations.RoundingRule := by
  unfold Obligations.RoundingRule
  intro t hp he
  refine ⟨fun n m e hm => roundFin_roundsTo hp he n hm e, fun xs _ hxs => ?_, fun i j m n e k => ?_⟩
  · have hfin : ∀ v ∈ xs, v.isNan = false ∧ v.isInf = false := fun v hv => isInf_isNan_of_fin (hxs v hv)
    intro sum
    split
    case isTrue h => exact roundSum_roundsTo hp he hfin h
    case isFalse h => rw [roundSum_zero t hfin (not_not.1 h), zeroSign_eq]
  · intro a b
    refine ⟨roundMul_roundsTo hp he i j m n e k, fun h l f => roundFma_roundsTo hp he i j m n e k h l f, divFV_roundsTo hp he i j m n e k,
      fun hm hn => ?_, rcpFV_roundsTo hp he i m e, fun hp' hm hm' => ?_⟩
    · obtain ⟨n, rfl⟩ : ∃ n', n = n' + 1 := ⟨n - 1, by omega⟩
      subst hm
      rfl
    · have hb : blen m ≤ 1000 := not_lt.1 fun h => not_le.2 hm' (two_pow_le_iff_blen.2 h)
      exact ⟨sqrtFV_roundsTo hp he m e hm (by unfold Target.need; omega), rsqrtFV_roundsTo hp he m e hm (by unfold Target.need; omega)⟩

end Sys2Proof.Machine
end

section
/-! SUPPORT. The binary32 vector ops of the Flue (O37). -/

namespace Sys2Proof.Machine

theorem f32T_eq : f32T = { p := 24, emin := -126, emax := 127, e4m3 := false, mode := .rne, rnd := 0 } := by decide

/-- The canonical NaN of binary32 (R222). -/
theorem toF32_nan (g : Bool) (flags : Nat) : toF32 ⟨.nan g, flags⟩ = 0x7FC00000 := rfl

theorem orNan_of_nan {a : FV} (h : a.isNan = true) (r : Rounded) : orNan a r = ⟨.nan false, if a.isSig = true then flagNV else 0⟩ := if_pos h

/-- A relation of two data that are no NaNs as a mask (R435). -/
theorem fcmp32_eq (f : Ordering → Bool) (x y : Word) : fcmp32 f x y =
    if (ofF32 x).isNan = false ∧ (ofF32 y).isNan = false ∧ f (cmpFV (ofF32 x) (ofF32 y)) = true then 0xFFFFFFFF else 0 := by
  unfold fcmp32 flag32
  simp [and_assoc]

theorem bits_zero (x n : Nat) : bits x 0 n = x % 2 ^ n := by rw [bits, pow_zero, Nat.div_one]

/-- A NaN and the infinities as integers (R434). -/
theorem cvtFI_nan {x : Word} (h : (ofF32 x).isNan = true) : cvtFI x = 0 := by
  unfold cvtFI
  cases hx : ofF32 x with
  | nan g => rfl
  | inf | fin => rw [hx] at h; exact absurd h Bool.false_ne_true

theorem cvtFI_inf {x : Word} {n : Bool} (h : ofF32 x = .inf n) : cvtFI x = if n then 0x80000000 else 0x7FFFFFFF := by
  unfold cvtFI
  rw [h]

/-- A binary32 number as an integer, brought into range (R434). -/
theorem cvtFI_toInt {x : Word} {n : Bool} {m : Nat} {e : ℤ} (h : ofF32 x = .fin n m e) :
    (cvtFI x).toInt = max (-(2 ^ 31)) (min (2 ^ 31 - 1) (if n then -((toInteger .rne 0 n m e).1 : ℤ) else (toInteger .rne 0 n m e).1)) := by
  unfold cvtFI
  rw [h]
  generalize hk : (toInteger .rne 0 n m e).1 = k
  dsimp only
  rw [hk]
  cases n
  · rw [if_neg Bool.false_ne_true, if_neg Bool.false_ne_true]
    split
    case isTrue hle =>
      rw [min_eq_left (by omega), max_eq_right (by norm_num)]
      rfl
    case isFalse hle =>
      rw [min_eq_right (by omega), max_eq_right (by omega), BitVec.toInt_eq_toNat_cond, BitVec.toNat_ofNat]
      omega
  · rw [if_pos rfl, if_pos rfl]
    split
    case isTrue hle =>
      rw [min_eq_right (by omega), max_eq_left (by omega)]
      rfl
    case isFalse hle =>
      rw [min_eq_right (by omega), max_eq_right (by omega), BitVec.toInt_ofInt, Int.bmod_def]
      omega

/-! ### Encodings of rounded data -/

/-- A rounded number is an infinity or lies within the largest finite value (R228). -/
theorem RoundsTo.bounded {K : Type} [Field K] [LinearOrder K] [IsStrictOrderedRing K] [FloorRing K] {t : Target} {neg : Bool} {x : K} {a : Rounded}
    (h : RoundsTo t neg x a) : a.v = .inf neg ∨ ∃ m e, a.v = .fin neg m e ∧ (m : K) * 2 ^ e ≤ t.maxSig * 2 ^ (t.emax - t.p + 1) := by
  have hmost : (0 : K) ≤ t.maxSig * 2 ^ (t.emax - t.p + 1) := by positivity
  have hinf : ∀ P : Prop, [Decidable P] → ∀ v : FV, v = (if P then FV.fin neg t.maxSig (t.emax - t.p + 1) else .inf neg) →
      v = .inf neg ∨ ∃ m e, v = .fin neg m e ∧ (m : K) * 2 ^ e ≤ t.maxSig * 2 ^ (t.emax - t.p + 1) := by
    intro P _ v hv
    split at hv
    · exact .inr ⟨_, _, hv, le_rfl⟩
    · exact .inl hv
  unfold RoundsTo at h
  dsimp only at h
  split at h
  case isTrue =>
    split at h
    · exact hinf _ a.v (congrArg Rounded.v h)
    · exact .inr ⟨_, _, congrArg Rounded.v h, le_rfl⟩
  case isFalse =>
    split at h
    case isTrue => exact hinf _ a.v (congrArg Rounded.v h)
    case isFalse ho =>
      refine .inr ⟨_, _, congrArg Rounded.v h, ?_⟩
      generalize chosen t.mode neg t.rnd (x / 2 ^ (max (Int.log 2 x) t.emin - t.p + 1)) = r at ho
      rcases le_or_gt 0 r with hr | hr
      · rw [← Int.cast_natCast (R := K), Int.toNat_of_nonneg hr]
        exact not_lt.1 ho
      · rw [Int.toNat_of_nonpos hr.le, Nat.cast_zero, zero_mul]
        exact hmost

/-- A datum within the largest finite value of binary16 has an encoding of 16 bits. -/
theorem encode_f16_fin (s : Bool) {m : Nat} {e : ℤ} (h : (m : ℚ) * 2 ^ e < 2 ^ (16 : ℤ)) : f16.encode (.fin s m e) < 2 ^ 16 := by
  have hs : (if s then 2 ^ (f16.ebits + f16.fbits) else 0) ≤ 2 ^ 15 := by cases s <;> decide
  unfold Fmt.encode
  dsimp only
  generalize (if s then 2 ^ (f16.ebits + f16.fbits) else 0) = sign at hs
  have hemin : f16.emin = -14 := by decide
  have hbias : f16.bias = 15 := by decide
  have hfbits : f16.fbits = 10 := rfl
  rw [hemin, hbias, hfbits]
  split
  case isTrue => omega
  case isFalse hm =>
    have hpos := Nat.pos_of_ne_zero hm
    have hm0 : (0 : ℚ) < (m : ℚ) * 2 ^ e := by positivity
    have hexp : e + blen m - 1 < 16 := by
      rw [← log_magnitude hpos e]
      exact (Int.lt_zpow_iff_log_lt one_lt_two hm0).1 (by exact_mod_cast h)
    have hlt := lt_two_pow_blen m
    -- a significand of `blen m` bits shifted so that `j` bits remain
    have hshift : ∀ (k : ℤ) (j : Nat), blen m + k ≤ j → shiftBy m k < 2 ^ j := by
      intro k j hk
      unfold shiftBy
      split
      case isTrue hneg =>
        rw [Nat.div_lt_iff_lt_mul (by positivity), ← pow_add]
        exact hlt.trans_le (Nat.pow_le_pow_right two_pos (by omega))
      case isFalse hneg =>
        calc m * 2 ^ k.toNat < 2 ^ blen m * 2 ^ k.toNat := Nat.mul_lt_mul_of_pos_right hlt (by positivity)
          _ = 2 ^ (blen m + k.toNat) := (pow_add ..).symm
          _ ≤ 2 ^ j := Nat.pow_le_pow_right two_pos (by omega)
    split
    case isTrue hq =>
      have := hshift (e - (-14 - (10 : ℕ))) 10 (by push_cast; omega)
      omega
    case isFalse hq =>
      have := hshift (((10 : ℕ) : ℤ) - (blen m - 1 : ℕ)) 11 (by push_cast; omega)
      omega

/-- The encoding of a datum that was rounded to binary16 has 16 bits. -/
theorem encode_roundFV_f16 (v : FV) : f16.encode (roundFV (f16.target .rne 0) v).v < 2 ^ 16 := by
  cases v with
  | nan g => cases g <;> decide
  | inf s => cases s <;> decide
  | fin s m e =>
    rcases Nat.eq_zero_or_pos m with rfl | hm
    · have hzero : roundFV (f16.target .rne 0) (.fin s 0 e) = ⟨.fin s 0 0, 0⟩ := rfl
      rw [hzero]
      cases s <;> decide
    · have hround : RoundsTo (f16.target .rne 0) s ((m : ℚ) * 2 ^ e) (roundFV (f16.target .rne 0) (.fin s m e)) :=
        roundFin_roundsTo (by decide) (by decide) s hm e
      rcases hround.bounded with h | ⟨m', e', h, hle⟩
      · rw [h]
        cases s <;> decide
      · rw [h]
        refine encode_f16_fin s (hle.trans_lt ?_)
        rw [show (f16.target .rne 0).maxSig = 2047 by decide, show (f16.target .rne 0).emax - (f16.target .rne 0).p + 1 = 5 by decide]
        norm_num

/-- The significand of a datum fits the format's precision (R220). -/
theorem decode_significand_lt {f : Fmt} {x : Nat} {s : Bool} {m : Nat} {e : ℤ} (h : f.decode x = .fin s m e) : m < 2 ^ (f.fbits + 1) := by
  have hfr : bits x 0 f.fbits < 2 ^ f.fbits := Nat.mod_lt _ (by positivity)
  unfold Fmt.decode at h
  dsimp only at h
  rw [pow_succ]
  split_ifs at h
  all_goals
    simp only [FV.fin.injEq] at h
    omega

/-! ### The ops -/

section
variable {s : State} {i : Instr} {d a b : BitVec 6} {lat : Nat} (hl : s.cur.line < 64)
include hl

theorem exec_vec1 (f : Word → Word) (hexec : exec i s = vec1 s lat d a f) :
    exec i s = .next (s.vectorResult lat d [a.toNat] fun l => f ((s.line s.cur.line).fl a.toNat l)) :=
  hexec.trans (vecOp_eq hl ..)

theorem exec_vec2 (f : Word → Word → Word) (hexec : exec i s = vec2 s lat d a b f) :
    exec i s = .next (s.vectorResult lat d [a.toNat, b.toNat] fun l => f ((s.line s.cur.line).fl a.toNat l) ((s.line s.cur.line).fl b.toNat l)) :=
  hexec.trans (vecOp_eq hl ..)

/-- A comparison issues the mask of its relation (R435). -/
theorem exec_fcmp32 (p : Ordering → Bool) (hexec : exec i s = vec2 s 3 d a b (fcmp32 p)) :
    exec i s = .next (s.vectorResult 3 d [a.toNat, b.toNat] fun l =>
      let x := ofF32 ((s.line s.cur.line).fl a.toNat l)
      let y := ofF32 ((s.line s.cur.line).fl b.toNat l)
      if x.isNan = false ∧ y.isNan = false ∧ p (cmpFV x y) = true then 0xFFFFFFFF else 0) :=
  (exec_vec2 hl _ hexec).trans (congrArg (fun f => Host.Outcome.next (s.vectorResult 3 d [a.toNat, b.toNat] f)) (funext fun _ => fcmp32_eq p _ _))
end

/-- 1 / a of a datum, NaNs apart (R246). -/
theorem rcp_values {T : Target} (hp : 2 ≤ T.p) (he : T.e4m3 = true → T.p = 4) (v : FV) :
    let r := orNan v (rcpFV T v)
    (v.isNan = true → toF32 r = 0x7FC00000) ∧ (∀ n, v = .inf n → r.v = .fin n 0 0) ∧ (∀ n e, v = .fin n 0 e → r.v = .inf n) ∧
      ∀ n m e, v = .fin n m e → 0 < m → RoundsTo T n |1 / v.rat| r := by
  refine ⟨fun h => ?_, fun n h => ?_, fun n e h => ?_, fun n m e h hm => ?_⟩
  · rw [orNan_of_nan h]; rfl
  · rw [h]; rfl
  · rw [h]; rfl
  · rw [h]; exact rcpFV_roundsTo hp he n m e hm

/-- 1 / √a of a datum, NaNs apart (R246). -/
theorem rsqrt_values {T : Target} (hp : 2 ≤ T.p) (he : T.e4m3 = true → T.p = 4) (hT : T.p ≤ 300) {v : FV}
    (hv : ∀ m e, v = .fin false m e → m < 2 ^ 24) :
    let r := orNan v (rsqrtFV T v)
    (v.isNan = true → toF32 r = 0x7FC00000) ∧ (v = .inf false → r.v = .fin false 0 0) ∧ (∀ n e, v = .fin n 0 e → r.v = .inf n) ∧
      (v.isZero = false → v.isNan = false → v.neg = true → toF32 r = 0x7FC00000) ∧
      ∀ m e, v = .fin false m e → 0 < m → RoundsTo T false (1 / Real.sqrt ((m : ℝ) * 2 ^ e)) r := by
  refine ⟨fun h => ?_, fun h => ?_, fun n e h => ?_, fun hz hn hneg => ?_, fun m e h hm => ?_⟩
  · rw [orNan_of_nan h]; rfl
  · rw [h]; rfl
  · rw [h]; rfl
  · match v with
    | .nan g => exact absurd hn Bool.true_eq_false.mp
    | .inf true => rfl
    | .fin true (m + 1) e => rfl
  · have hb : blen m ≤ 24 := not_lt.1 fun hb => not_le.2 (hv m e h) (two_pow_le_iff_blen.2 hb)
    rw [h]
    exact rsqrtFV_roundsTo hp he m e hm (by unfold Target.need; omega)

/-- Two halves of a word read back (R434). -/
theorem ofNat_halves {x y : Nat} (hx : x < 2 ^ 16) (hy : y < 2 ^ 16) :
    (BitVec.ofNat 32 (x + y * 2 ^ 16)).toNat % 2 ^ 16 = x ∧ (BitVec.ofNat 32 (x + y * 2 ^ 16)).toNat / 2 ^ 16 = y := by
  rw [BitVec.toNat_ofNat]
  omega

/-- Settles O37: each op by its lanes' function; quotients and roots as O7 rounds them, conversions by their range. -/
theorem slotVectorFloatOps : Obligations.SlotVectorFloatOps := by
  unfold Obligations.SlotVectorFloatOps
  intro s d a b c hl k T A B C enc one two ones order
  have hT : f32T = T := f32T_eq
  have hp : 2 ≤ T.p := by decide
  have he : T.e4m3 = true → T.p = 4 := by decide
  refine ⟨hT, ?_, ?_, ?_, ?_, ?_, ?_, ⟨fun l => orNan (A l) (rcpFV T (A l)), ?_, fun l => rcp_values hp he (A l)⟩,
    ⟨fun l => orNan (A l) (rsqrtFV T (A l)), ?_, fun l => rsqrt_values hp he (by decide) fun m e h => ?_⟩, ?_, ?_, ?_,
    ⟨fun l => cvtFI (k.fl a.toNat l), ?_, fun l => ⟨fun h => ?_, fun h => ?_, fun h => ?_, fun n m e h => cvtFI_toInt h⟩⟩, ?_, fun half => ?_,
    ⟨fun l => BitVec.ofNat 32 (f16.encode (roundFV (f16.target .rne 0) (A l)).v + f16.encode (roundFV (f16.target .rne 0) (B l)).v * 2 ^ 16),
      ?_, fun l => ofNat_halves (encode_roundFV_f16 _) (encode_roundFV_f16 _)⟩, ?_⟩
  · exact exec_vec2 hl (fun x y => toF32 (roundSum T [ofF32 x, ofF32 y])) (by rw [← hT]; rfl)
  · exact exec_vec2 hl (fun x y => toF32 (roundSum T [ofF32 x, (ofF32 y).negate])) (by rw [← hT]; rfl)
  · exact exec_vec2 hl (fun x y => toF32 (roundMul T (ofF32 x) (ofF32 y))) (by rw [← hT]; rfl)
  · rw [← hT]
    exact vecOp_eq hl 5 d _ fun k l => toF32 (roundFma f32T (ofF32 (k.fl a.toNat l)) (ofF32 (k.fl b.toNat l)) (ofF32 (k.fl c.toNat l)))
  · exact exec_vec2 hl (fun x y => BitVec.ofNat 32 (minMaxBits f32 false x.toNat y.toNat)) rfl
  · exact exec_vec2 hl (fun x y => BitVec.ofNat 32 (minMaxBits f32 true x.toNat y.toNat)) rfl
  · exact exec_vec1 hl (fun x => toF32 (orNan (ofF32 x) (rcpFV T (ofF32 x)))) (by rw [← hT]; rfl)
  · exact exec_vec1 hl (fun x => toF32 (orNan (ofF32 x) (rsqrtFV T (ofF32 x)))) (by rw [← hT]; rfl)
  · exact decode_significand_lt h
  · exact exec_fcmp32 hl (fun o => o == .lt) rfl
  · exact exec_fcmp32 hl (fun o => o != .gt) rfl
  · exact exec_fcmp32 hl (fun o => o == .eq) rfl
  · exact exec_vec1 hl cvtFI rfl
  · exact cvtFI_nan h
  · exact cvtFI_inf h
  · exact cvtFI_inf h
  · exact exec_vec1 hl (fun x => toF32 (roundFin T x.msb x.toInt.natAbs 0)) (by rw [← hT]; rfl)
  · exact exec_vec1 hl (fun x => toF32 (roundFV T (f16.decode (x.toNat / 2 ^ (16 * half.toNat) % 2 ^ 16)))) (by rw [← hT]; rfl)
  · exact exec_vec2 hl (fun x y => BitVec.ofNat 32 (f16.encode (roundFV (f16.target .rne 0) (ofF32 x)).v +
      f16.encode (roundFV (f16.target .rne 0) (ofF32 y)).v * 2 ^ 16)) rfl
  · simp only [← bits_zero]
    exact vecOp_eq hl 12 d [a.toNat, b.toNat, c.toNat] fun k l =>
      let h (r n : Nat) : FV := f16.decode (bits (k.fl r n).toNat 0 16)
      crucSum 0 false (ofF32 (k.fl c.toNat l) :: (List.range 8).map fun m => prodFV false (h a.toNat (8 * (l / 8) + m)) (h b.toNat (8 * m + l % 8)))

end Sys2Proof.Machine
end

section
/-! SUPPORT. What a settled magnitude, a huge one and a vanishing one round to (R226-R229, R246). -/

namespace Sys2Proof.Machine

/-! ### Settled bits -/

/-- Bits settled from an integer whose distance from a number is less than 2^40 units: they stand for the number, which is not zero and has the integer's sign. -/
theorem settle_standsFor {n : Nat} {a e : ℤ} {X : Mag} (h : settle n a e = some X) {v : ℝ} (hv : |v - a * 2 ^ e| < 2 ^ 40 * 2 ^ e) :
    X.standsFor n |v| ∧ (v < 0 ↔ a < 0) ∧ v ≠ 0 := by
  unfold settle at h
  dsimp only at h
  rw [show errBits = 40 from rfl] at h
  split_ifs at h with hsmall hcell
  push Not at hsmall
  obtain ⟨hbig, hbits⟩ := hsmall
  have hX := (Option.some.inj h).symm
  have h2 : (0 : ℝ) < 2 ^ e := by positivity
  have habs : ((a.natAbs : ℕ) : ℝ) = |(a : ℝ)| := by rw [Nat.cast_natAbs, Int.cast_abs]
  have hclose : |(|v|) - a.natAbs * 2 ^ e| < 2 ^ 40 * 2 ^ e := by
    refine lt_of_le_of_lt ?_ hv
    rw [habs, ← abs_of_pos h2, ← abs_mul, abs_of_pos h2]
    exact abs_abs_sub_abs_le _ _
  obtain ⟨hlo, hhi⟩ := abs_lt.1 hclose
  obtain ⟨g, hg⟩ : ∃ g, blen a.natAbs = n + 2 + g := ⟨blen a.natAbs - (n + 2), by omega⟩
  have hg' : blen a.natAbs - (n + 2) = g := by omega
  rw [hg'] at hcell hX
  have hsig : 2 ^ n ≤ (a.natAbs - 2 ^ 40) / 2 ^ g := by
    have htop : 2 ^ (n + 1 + g) ≤ a.natAbs := two_pow_le_iff_blen.2 (by omega)
    have h40 : 2 ^ 40 ≤ 2 ^ (n + g) := Nat.pow_le_pow_right two_pos (by omega)
    have hdouble : 2 ^ (n + 1 + g) = 2 * 2 ^ (n + g) := by rw [← pow_succ']; congr 1; omega
    rw [Nat.le_div_iff_mul_le (by positivity), ← pow_add]
    omega
  have hbigR : (2 : ℝ) ^ 40 < a.natAbs := by exact_mod_cast hbig
  refine ⟨?_, ?_, ?_⟩
  · rw [hX]
    have hgpos : 0 < 2 ^ g := by positivity
    have hfloor := Nat.div_mul_le_self (a.natAbs - 2 ^ 40) (2 ^ g)
    have hceil := Nat.lt_mul_div_succ (a.natAbs + 2 ^ 40) hgpos
    rw [← hcell] at hceil
    have heg : ∀ c : ℝ, c * 2 ^ (e + g) = c * 2 ^ g * 2 ^ e := fun c => by rw [zpow_add₀ two_ne_zero, zpow_natCast]; ring
    have hlow : (((a.natAbs - 2 ^ 40) / 2 ^ g : ℕ) : ℝ) * 2 ^ g ≤ (a.natAbs : ℝ) - 2 ^ 40 := by
      have hcast : ((a.natAbs - 2 ^ 40 : ℕ) : ℝ) = (a.natAbs : ℝ) - 2 ^ 40 := by rw [Nat.cast_sub hbig.le]; norm_num
      rw [← hcast]
      exact_mod_cast hfloor
    have hhigh : (a.natAbs : ℝ) + 2 ^ 40 ≤ ((((a.natAbs - 2 ^ 40) / 2 ^ g : ℕ) : ℝ) + 1) * 2 ^ g := by
      have : a.natAbs + 2 ^ 40 ≤ ((a.natAbs - 2 ^ 40) / 2 ^ g + 1) * 2 ^ g := by rw [mul_comm]; exact hceil.le
      exact_mod_cast this
    refine Mag.standsFor_above hsig ?_ ?_
    · rw [heg]
      refine (mul_le_mul_of_nonneg_right hlow h2.le).trans_lt ?_
      rw [sub_mul]
      linarith
    · rw [heg]
      refine lt_of_lt_of_le ?_ (mul_le_mul_of_nonneg_right hhigh h2.le)
      rw [add_mul]
      linarith
  · obtain ⟨hvlo, hvhi⟩ := abs_lt.1 hv
    rcases lt_or_ge a 0 with ha | ha
    · have haR : (a : ℝ) = -a.natAbs := by rw [habs, abs_of_neg (by exact_mod_cast ha), neg_neg]
      exact iff_of_true (by nlinarith) ha
    · have haR : (a : ℝ) = a.natAbs := by rw [habs, abs_of_nonneg (by exact_mod_cast ha)]
      exact iff_of_false (by nlinarith) (by omega)
  · rintro rfl
    rw [abs_zero] at hlo
    nlinarith

/-- A loop that settles within `k` tries settles at a precision of its row, and on the same value with more tries. -/
theorem settleLoop_found {α : Type} (f : Nat → Option α) {k w : Nat} (h : (settleLoop f k w).isSome = true) {l : Nat} (hl : k ≤ l) :
    ∃ j < k, ∃ x, f (2 ^ j * w) = some x ∧ settleLoop f l w = some x := by
  induction k generalizing w l with
  | zero => simp [settleLoop] at h
  | succ k ih =>
    obtain ⟨l, rfl⟩ : ∃ i, l = i + 1 := ⟨l - 1, by omega⟩
    unfold settleLoop at h ⊢
    cases hw : f w with
    | some x => exact ⟨0, k.succ_pos, x, by simpa using hw, rfl⟩
    | none =>
      rw [hw] at h
      obtain ⟨j, hj, x, hx, hloop⟩ := ih h (Nat.le_of_succ_le_succ hl)
      exact ⟨j + 1, Nat.succ_lt_succ hj, x, by rwa [pow_succ, mul_assoc], hloop⟩

/-- The precisions of the first four tries. -/
theorem settleLoop_four {α : Type} {f : Nat → Option α} {n : Nat} (h : (settleLoop f 4 (firstTry n)).isSome = true) :
    ∃ w x, n + 128 ≤ w ∧ w ≤ 8 * (n + 128) ∧ f w = some x ∧ settleLoop f 16 (firstTry n) = some x := by
  obtain ⟨j, hj, x, hx, hloop⟩ := settleLoop_found f h (l := 16) (by omega)
  refine ⟨2 ^ j * firstTry n, x, ?_, ?_, hx, hloop⟩
  · exact Nat.le_mul_of_pos_left _ (by positivity)
  · exact Nat.mul_le_mul_right _ (Nat.pow_le_pow_right two_pos (by omega : j ≤ 3))

theorem settled_four {f : Nat → Option Mag} {n : Nat} (h : (settleLoop f 4 (firstTry n)).isSome = true) :
    ∃ w, n + 128 ≤ w ∧ w ≤ 8 * (n + 128) ∧ f w = some (settled n f) := by
  obtain ⟨w, x, hlo, hhi, hx, hloop⟩ := settleLoop_four h
  exact ⟨w, hlo, hhi, by rw [hx, settled, hloop, Option.getD_some]⟩

/-! ### Numbers beyond and below every format -/

/-- What KilnRealFunctions asks of a target: a format of the machine. -/
structure Target.Bounded (t : Target) : Prop where
  two_le : 2 ≤ t.p
  p_le : t.p ≤ 241
  e4m3 : t.e4m3 = true → t.p = 4
  emin_ge : -16382 ≤ t.emin
  emin_le : t.emin ≤ t.emax
  emax_le : t.emax ≤ 16383

/-- The magnitude rounds as the number `x` does, with either sign. -/
def Mag.RoundsAs (X : Mag) (t : Target) (x : ℝ) : Prop := ∀ neg, RoundsTo t neg x (roundMag t neg X)

theorem Mag.standsFor.roundsAs {t : Target} (ht : t.Bounded) {X : Mag} {n : Nat} {x : ℝ} (h : X.standsFor n x) (hn : t.p + 63 ≤ n) : X.RoundsAs t x :=
  fun neg => (h.mono hn).roundsTo ht.two_le ht.e4m3 neg

theorem roundsAs_settle {t : Target} (ht : t.Bounded) {a e : ℤ} {X : Mag} (h : settle t.need a e = some X) {v : ℝ}
    (hv : |v - a * 2 ^ e| < 2 ^ 40 * 2 ^ e) : X.RoundsAs t |v| :=
  (settle_standsFor h hv).1.roundsAs ht (by unfold Target.need; omega)

section
variable {t : Target} (ht : t.Bounded) {neg : Bool} {x : ℝ} {a : Rounded}
include ht

/-- A number of 2^(emax + 1) or more overflows (R226, R228, R229). -/
theorem roundsTo_huge (hx : (2 : ℝ) ^ (t.emax + 1) ≤ x) : RoundsTo t neg x a ↔ a = overflowed t neg := by
  have h2 : (0 : ℝ) < 2 ^ (t.emax - t.p + 1) := by positivity
  have hx0 : 0 < x := lt_of_lt_of_le (by positivity) hx
  have hlog : t.emax + 1 ≤ Int.log 2 x := (Int.zpow_le_iff_le_log (b := 2) one_lt_two hx0).1 (by exact_mod_cast hx)
  have htop : (t.maxSig + 1 : ℝ) * 2 ^ (t.emax - t.p + 1) ≤ 2 ^ (t.emax + 1) := by
    have hsplit : (2 : ℝ) ^ (t.emax + 1) = 2 ^ t.p * 2 ^ (t.emax - t.p + 1) := by
      rw [← zpow_natCast, ← zpow_add₀ two_ne_zero]
      congr 1
      ring
    rw [hsplit]
    exact mul_le_mul_of_nonneg_right (by exact_mod_cast maxSig_lt ht.e4m3) h2.le
  have hmost : (t.maxSig : ℝ) * 2 ^ (t.emax - t.p + 1) < 2 ^ (t.emax + 1) := lt_of_lt_of_le (by nlinarith) htop
  have hq : max (Int.log 2 x) t.emin - t.p + 1 = Int.log 2 x - t.p + 1 := by have := ht.emin_le; omega
  have hunits : ((2 ^ (t.p - 1) : ℤ) : ℝ) * 2 ^ (Int.log 2 x - t.p + 1) = 2 ^ Int.log 2 x := by
    push_cast
    rw [← zpow_natCast, ← zpow_add₀ two_ne_zero]
    congr 1
    have := ht.two_le
    omega
  have hchosen : (2 : ℤ) ^ (t.p - 1) ≤ chosen t.mode neg t.rnd (x / 2 ^ (Int.log 2 x - t.p + 1)) := by
    refine (Int.le_floor.2 ?_).trans (floor_le_chosen ..)
    rw [le_div_iff₀ (by positivity), hunits]
    exact_mod_cast Int.zpow_log_le_self (b := 2) one_lt_two hx0
  have hbeyond : (t.maxSig : ℝ) * 2 ^ (t.emax - t.p + 1) <
      chosen t.mode neg t.rnd (x / 2 ^ (Int.log 2 x - t.p + 1)) * 2 ^ (Int.log 2 x - t.p + 1) :=
    calc _ < (2 : ℝ) ^ (t.emax + 1) := hmost
      _ ≤ 2 ^ Int.log 2 x := zpow_le_zpow_right₀ one_le_two hlog
      _ = _ := hunits.symm
      _ ≤ _ := mul_le_mul_of_nonneg_right (by exact_mod_cast hchosen) (by positivity)
  unfold RoundsTo
  dsimp only
  rw [hq]
  by_cases hsst : t.mode = .sst ∧ (t.maxSig : ℝ) * 2 ^ (t.emax - t.p + 1) < x
  · rw [if_pos hsst, if_pos (Or.inl (htop.trans hx))]
    exact Iff.rfl
  · rw [if_neg hsst, if_pos hbeyond]
    exact Iff.rfl

omit ht in
/-- The integer chosen for a number is at most the next one above its floor. -/
theorem chosen_le_floor (mode : RMode) (neg : Bool) (rnd : Nat) (y : ℝ) : chosen mode neg rnd y ≤ ⌊y⌋ + 1 := by
  unfold chosen
  cases mode <;> dsimp only <;> split_ifs <;> omega

/-- A number below half the least normal one, rounded with an unbounded exponent, stays below the least normal one (R232). -/
theorem chosen_free_lt (hx : 0 < x) (hlt : x < 2 ^ (t.emin - 1)) :
    (chosen t.mode neg t.rnd (x / 2 ^ (Int.log 2 x - t.p + 1)) : ℝ) * 2 ^ (Int.log 2 x - t.p + 1) < 2 ^ t.emin := by
  have hp := ht.two_le
  have hlog : Int.log 2 x < t.emin - 1 := (Int.lt_zpow_iff_log_lt (b := 2) one_lt_two hx).1 (by exact_mod_cast hlt)
  have hu : (0 : ℝ) < 2 ^ (Int.log 2 x - t.p + 1) := by positivity
  have hfloor := Int.floor_le (x / 2 ^ (Int.log 2 x - t.p + 1))
  have hup : (chosen t.mode neg t.rnd (x / 2 ^ (Int.log 2 x - t.p + 1)) : ℝ) ≤ ⌊x / 2 ^ (Int.log 2 x - t.p + 1)⌋ + 1 := by
    exact_mod_cast chosen_le_floor t.mode neg t.rnd (x / 2 ^ (Int.log 2 x - t.p + 1))
  calc _ ≤ (x / 2 ^ (Int.log 2 x - t.p + 1) + 1) * 2 ^ (Int.log 2 x - t.p + 1) := mul_le_mul_of_nonneg_right (by linarith) hu.le
    _ = x + 2 ^ (Int.log 2 x - t.p + 1) := by rw [add_mul, one_mul, div_mul_cancel₀ _ hu.ne']
    _ < 2 ^ (t.emin - 1) + 2 ^ (t.emin - 1) := add_lt_add_of_lt_of_le hlt (zpow_le_zpow_right₀ one_le_two (by omega))
    _ = 2 ^ t.emin := by rw [← two_mul, ← zpow_one_add₀ two_ne_zero, add_sub_cancel]

/-- A positive number of less than 2^-64 units of the least place rounds as every other such number (R227, R229). -/
theorem roundsTo_tiny (hx : 0 < x) (hlt : x < 2 ^ (t.emin - t.p - 64)) :
    RoundsTo t neg x a ↔ a = ⟨.fin neg (chosen t.mode neg t.rnd ((2 : ℝ) ^ (-65 : ℤ))).toNat (t.emin - t.p + 1), flagNX + flagUF⟩ := by
  have hlog : Int.log 2 x < t.emin - t.p - 64 := (Int.lt_zpow_iff_log_lt (b := 2) one_lt_two hx).1 (by exact_mod_cast hlt)
  have hp := ht.two_le
  have hmm := ht.emin_le
  have hq : max (Int.log 2 x) t.emin - t.p + 1 = t.emin - t.p + 1 := by omega
  have hsig : 1 ≤ t.maxSig := by
    unfold Target.maxSig
    split
    · omega
    · have : 2 ^ 1 ≤ 2 ^ t.p := Nat.pow_le_pow_right two_pos (by omega)
      omega
  have hmost : (2 : ℝ) ^ (t.emin - t.p + 1) ≤ t.maxSig * 2 ^ (t.emax - t.p + 1) :=
    (zpow_le_zpow_right₀ one_le_two (by omega)).trans (le_mul_of_one_le_left (by positivity) (by exact_mod_cast hsig))
  have hxle : x ≤ 2 ^ (t.emin - t.p + 1) := hlt.le.trans (zpow_le_zpow_right₀ one_le_two (by omega))
  have hy0 : 0 < x / 2 ^ (t.emin - t.p + 1) := by positivity
  have hy1 : x / 2 ^ (t.emin - t.p + 1) < 2 ^ (-64 : ℤ) := by
    rw [div_lt_iff₀ (by positivity), ← zpow_add₀ two_ne_zero]
    exact hlt.trans_le (zpow_le_zpow_right₀ one_le_two (by omega))
  have hsame : SameSide (-64) (x / 2 ^ (t.emin - t.p + 1)) ((2 : ℝ) ^ (-65 : ℤ)) :=
    sameSide_of_cell (m := 0) (e := -64) ⟨by simpa using hy0, by simpa using hy1⟩ ⟨by norm_num, by norm_num⟩
  have hchosen := hsame.chosen_eq t.mode neg t.rnd
  have hr1 : chosen t.mode neg t.rnd ((2 : ℝ) ^ (-65 : ℤ)) ≤ 1 := by
    have hfloor : ⌊(2 : ℝ) ^ (-65 : ℤ)⌋ = 0 := Int.floor_eq_zero_iff.2 ⟨by norm_num, by norm_num⟩
    have hle := chosen_le_floor t.mode neg t.rnd ((2 : ℝ) ^ (-65 : ℤ))
    rwa [hfloor, zero_add] at hle
  have hunder := chosen_free_lt ht (neg := neg) hx (hlt.trans_le (zpow_le_zpow_right₀ one_le_two (by omega)))
  unfold RoundsTo
  dsimp only
  rw [hq, hchosen]
  generalize chosen t.mode neg t.rnd ((2 : ℝ) ^ (-65 : ℤ)) = r at hr1
  have hrR : (r : ℝ) ≤ 1 := by exact_mod_cast hr1
  have hinexact : (r : ℝ) * 2 ^ (t.emin - t.p + 1) ≠ x := by
    rw [Ne, eq_comm, ← div_eq_iff (by positivity)]
    intro h
    rw [h] at hy0 hy1
    have h1 : (r : ℝ) < 1 := hy1.trans (by norm_num)
    have h0 : 0 < r := by exact_mod_cast hy0
    have h1' : r < 1 := by exact_mod_cast h1
    omega
  rw [if_neg (fun h => absurd (hxle.trans hmost) (not_le.2 h.2)), if_neg, if_neg hinexact, if_pos hunder]
  rw [not_lt]
  exact (mul_le_of_le_one_left (by positivity) hrR).trans hmost

/-- The model's magnitude beyond every format rounds as any number beyond every format. -/
theorem hugeMag_roundsAs (hx : (2 : ℝ) ^ (16384 : ℤ) ≤ x) : hugeMag.RoundsAs t x := by
  intro neg
  have hemax := ht.emax_le
  have hstands : hugeMag.standsFor 400 (((2 ^ 400 : ℕ) + 1 / 2 : ℝ) * 2 ^ (100000 : ℤ)) := by
    have h2 : (0 : ℝ) < 2 ^ (100000 : ℤ) := zpow_pos two_pos _
    exact Mag.standsFor_above le_rfl (mul_lt_mul_of_pos_right (by linarith) h2) (mul_lt_mul_of_pos_right (by linarith) h2)
  have hround := hstands.roundsAs ht (by have := ht.p_le; omega) neg
  rw [roundsTo_huge ht] at hround ⊢
  · exact hround
  · exact (zpow_le_zpow_right₀ one_le_two (by omega)).trans hx
  · have h1 : (1 : ℝ) ≤ ((2 ^ 400 : ℕ) : ℝ) + 1 / 2 := by
      have : (1 : ℝ) ≤ ((2 ^ 400 : ℕ) : ℝ) := by exact_mod_cast Nat.one_le_two_pow
      linarith
    exact (zpow_le_zpow_right₀ one_le_two (by omega)).trans (le_mul_of_one_le_left (zpow_pos two_pos _).le h1)

/-- The model's magnitude below every format rounds as any number below every format. -/
theorem tinyMag_roundsAs (hx : 0 < x) (hlt : x < (2 : ℝ) ^ (-16700 : ℤ)) : tinyMag.RoundsAs t x := by
  intro neg
  have hemin := ht.emin_ge
  have hp := ht.p_le
  have h2 : (0 : ℝ) < 2 ^ (-100000 : ℤ) := zpow_pos two_pos _
  have hstands : tinyMag.standsFor 400 (((2 ^ 400 : ℕ) + 1 / 2 : ℝ) * 2 ^ (-100000 : ℤ)) :=
    Mag.standsFor_above le_rfl (mul_lt_mul_of_pos_right (by linarith) h2) (mul_lt_mul_of_pos_right (by linarith) h2)
  have hround := hstands.roundsAs ht (by omega) neg
  rw [roundsTo_tiny ht] at hround ⊢
  · exact hround
  · exact hx
  · exact hlt.trans_le (zpow_le_zpow_right₀ one_le_two (by omega))
  · exact mul_pos (by positivity) h2
  · have hhalf : ∀ k : ℕ, ((2 ^ k : ℕ) : ℝ) + 1 / 2 < 2 ^ ((k : ℤ) + 1) := fun k => by
      have : (1 : ℝ) ≤ 2 ^ k := one_le_pow₀ one_le_two
      rw [zpow_add_one₀ two_ne_zero, zpow_natCast]
      push_cast
      linarith
    have hle : ((400 : ℕ) : ℤ) + 1 + -100000 ≤ t.emin - t.p - 64 := by omega
    calc _ < (2 : ℝ) ^ (((400 : ℕ) : ℤ) + 1) * 2 ^ (-100000 : ℤ) := mul_lt_mul_of_pos_right (hhalf 400) h2
      _ = 2 ^ (((400 : ℕ) : ℤ) + 1 + -100000) := (zpow_add₀ two_ne_zero _ _).symm
      _ ≤ _ := zpow_le_zpow_right₀ one_le_two hle

/-! ### Numbers next to 1 -/

theorem nearOne_above_roundsAs (hlo : 1 < x) (hhi : x < 1 + 2 ^ (-t.need : ℤ)) : (nearOne t.need true).RoundsAs t x := by
  have h1 : (2 : ℝ) ^ t.need * 2 ^ (-t.need : ℤ) = 1 := by rw [← zpow_natCast, ← zpow_add₀ two_ne_zero, add_neg_cancel, zpow_zero]
  refine (Mag.standsFor_above (n := t.need) le_rfl ?_ ?_).roundsAs ht (by unfold Target.need; omega)
  · push_cast; rw [h1]; exact hlo
  · push_cast; rw [add_mul, h1, one_mul]; exact hhi

omit ht in
/-- The number one unit of `n` bits more below k 2^e. -/
theorem pred_mul_zpow {k : Nat} (hk : 0 < k) (n : Nat) (e : ℤ) : ((k * 2 ^ n - 1 : ℕ) : ℝ) * 2 ^ (e - n) = k * 2 ^ e - 2 ^ (e - n) := by
  have hone : 1 ≤ k * 2 ^ n := Nat.one_le_iff_ne_zero.2 (Nat.mul_ne_zero hk.ne' (by positivity))
  rw [Nat.cast_sub hone, sub_mul]
  push_cast
  rw [one_mul, mul_assoc, ← zpow_natCast, ← zpow_add₀ two_ne_zero, add_sub_cancel]

/-- A number less than a unit below k 2^e, in units of `t.need` bits more. -/
theorem below_roundsAs {k : Nat} {e : ℤ} (hk : 0 < k) (hlo : (k : ℝ) * 2 ^ e - 2 ^ (e - t.need) < x) (hhi : x < k * 2 ^ e) :
    (⟨k * 2 ^ t.need - 1, e - t.need, true⟩ : Mag).RoundsAs t x := by
  have hpow : 2 ^ t.need = 2 * 2 ^ (t.need - 1) := by rw [← pow_succ']; congr 1
  have hone : 1 ≤ 2 ^ (t.need - 1) := Nat.one_le_two_pow
  have hmul : 2 ^ t.need ≤ k * 2 ^ t.need := Nat.le_mul_of_pos_left _ hk
  have hval := pred_mul_zpow hk t.need e
  refine (Mag.standsFor_above (n := t.need - 1) (by omega) (by rwa [hval]) ?_).roundsAs ht (by unfold Target.need; omega)
  rwa [add_mul, hval, one_mul, sub_add_cancel]

theorem nearOne_below_roundsAs (hlo : 1 - 2 ^ (-t.need : ℤ) < x) (hhi : x < 1) : (nearOne t.need false).RoundsAs t x := by
  have h := below_roundsAs ht (x := x) (k := 1) (e := 0) one_pos (by simpa using hlo) (by simpa using hhi)
  simpa [nearOne] using h

end

end Sys2Proof.Machine
end

section
/-! SUPPORT. The fixed-point sums of R246-R248 and their errors, in units of the last place. -/

namespace Sys2Proof.Machine

/-! ### Fixed-point operations -/

/-- The fixed-point number `a` with `w` fraction bits lies within `d` units of the last place of `v`. -/
def FxNear (w : Nat) (a : ℤ) (v d : ℝ) : Prop := |(a : ℝ) - v * 2 ^ w| ≤ d

theorem FxNear.mono {w : Nat} {a : ℤ} {v d d' : ℝ} (h : FxNear w a v d) (hd : d ≤ d') : FxNear w a v d' := h.trans hd

theorem fxNear_self (w : Nat) (a : ℤ) : FxNear w a (a / 2 ^ w) 0 := by
  rw [FxNear, div_mul_cancel₀ _ (by positivity), sub_self, abs_zero]

theorem FxNear.add {w : Nat} {a b : ℤ} {u v d d' : ℝ} (ha : FxNear w a u d) (hb : FxNear w b v d') : FxNear w (a + b) (u + v) (d + d') := by
  rw [FxNear, Int.cast_add, add_mul, add_sub_add_comm]
  exact (abs_add_le _ _).trans (add_le_add ha hb)

theorem FxNear.neg {w : Nat} {a : ℤ} {u d : ℝ} (ha : FxNear w a u d) : FxNear w (-a) (-u) d := by
  rw [FxNear, Int.cast_neg, neg_mul, ← neg_sub', abs_neg]
  exact ha

theorem FxNear.sub {w : Nat} {a b : ℤ} {u v d d' : ℝ} (ha : FxNear w a u d) (hb : FxNear w b v d') : FxNear w (a - b) (u - v) (d + d') := by
  rw [sub_eq_add_neg, sub_eq_add_neg]
  exact ha.add hb.neg

theorem FxNear.int_mul {w : Nat} {a : ℤ} {u d : ℝ} (ha : FxNear w a u d) (j : ℤ) : FxNear w (j * a) (j * u) (|(j : ℝ)| * d) := by
  rw [FxNear, Int.cast_mul, mul_assoc, ← mul_sub, abs_mul]
  exact mul_le_mul_of_nonneg_left ha (abs_nonneg _)

theorem FxNear.abs_le {w : Nat} {a : ℤ} {v d : ℝ} (h : FxNear w a v d) : |(a : ℝ)| ≤ |v| * 2 ^ w + d := by
  have := abs_sub_abs_le_abs_sub (a : ℝ) (v * 2 ^ w)
  rw [abs_mul, abs_of_pos (by positivity : (0 : ℝ) < 2 ^ w)] at this
  unfold FxNear at h
  linarith

theorem FxNear.value_dist {w : Nat} {a : ℤ} {v d : ℝ} (h : FxNear w a v d) : |(a : ℝ) / 2 ^ w - v| * 2 ^ w ≤ d := by
  have h2 : (0 : ℝ) < 2 ^ w := by positivity
  rw [← abs_of_pos h2, ← abs_mul, abs_of_pos h2, sub_mul, div_mul_cancel₀ _ h2.ne']
  exact h

/-- A number that stands near another. -/
theorem FxNear.of_value {w : Nat} {a : ℤ} {u v d d' : ℝ} (h : FxNear w a u d) (huv : |u - v| * 2 ^ w ≤ d') : FxNear w a v (d + d') := by
  have hsplit : (a : ℝ) - v * 2 ^ w = (a - u * 2 ^ w) + (u - v) * 2 ^ w := by ring
  rw [FxNear, hsplit]
  refine (abs_add_le _ _).trans (add_le_add h ?_)
  rwa [abs_mul, abs_of_pos (by positivity : (0 : ℝ) < 2 ^ w)]

/-- The floor of a quotient of integers lies within one unit below it. -/
theorem abs_intDiv_sub_le (a : ℤ) {b : ℤ} (hb : 0 < b) : |((a / b : ℤ) : ℝ) - a / b| ≤ 1 := by
  have hbR : (0 : ℝ) < b := by exact_mod_cast hb
  have hlo : ((a / b : ℤ) : ℝ) * b ≤ a := by exact_mod_cast Int.ediv_mul_le a hb.ne'
  have hhi : (a : ℝ) < (((a / b : ℤ) : ℝ) + 1) * b := by exact_mod_cast Int.lt_ediv_add_one_mul_self a hb
  rw [← le_div_iff₀ hbR] at hlo
  rw [← div_lt_iff₀ hbR] at hhi
  exact abs_le.2 ⟨by linarith, by linarith⟩

theorem FxNear.div_int {w : Nat} {a : ℤ} {u d : ℝ} (ha : FxNear w a u d) {b : ℤ} (hb : 0 < b) : FxNear w (a / b) (u / b) (d / b + 1) := by
  have hbR : (0 : ℝ) < b := by exact_mod_cast hb
  have hsplit : ((a / b : ℤ) : ℝ) - u / b * 2 ^ w = (a - u * 2 ^ w) / b + (((a / b : ℤ) : ℝ) - a / b) := by ring
  rw [FxNear, hsplit]
  refine (abs_add_le _ _).trans (add_le_add ?_ (abs_intDiv_sub_le a hb))
  rw [abs_div, abs_of_pos hbR]
  exact div_le_div_of_nonneg_right ha hbR.le

/-- A quotient near a number stands near it in every function of slope at most 1. -/
theorem FxNear.of_slope {w : Nat} {a b : ℤ} {v c d : ℝ} {f : ℝ → ℝ} (hf : ∀ x y, |f x - f y| ≤ |x - y|) (h : FxNear w b (f (a / 2 ^ w)) c)
    (ha : FxNear w a v d) : FxNear w b (f v) (c + d) :=
  h.of_value ((mul_le_mul_of_nonneg_right (hf _ _) (by positivity)).trans ha.value_dist)

theorem fxMul_floor (w : Nat) (a b : ℤ) : |(fxMul w a b : ℝ) - a * b / 2 ^ w| ≤ 1 := by
  have h := abs_intDiv_sub_le (a * b) (b := 2 ^ w) (by positivity)
  push_cast at h
  exact h

/-- The error of a product. -/
theorem FxNear.mul {w : Nat} {a b : ℤ} {u v d d' c : ℝ} (ha : FxNear w a u d) (hb : FxNear w b v d') (hc : |v| + d' / 2 ^ w ≤ c) :
    FxNear w (fxMul w a b) (u * v) (d * c + |u| * d' + 1) := by
  have h2 : (0 : ℝ) < 2 ^ w := by positivity
  have hd : 0 ≤ d := (abs_nonneg _).trans ha
  have hsplit : (fxMul w a b : ℝ) - u * v * 2 ^ w = (a - u * 2 ^ w) * (b / 2 ^ w) + u * (b - v * 2 ^ w) + ((fxMul w a b : ℝ) - a * b / 2 ^ w) := by
    field_simp
    ring
  rw [FxNear, hsplit]
  refine (abs_add_le _ _).trans (add_le_add ((abs_add_le _ _).trans (add_le_add ?_ ?_)) (fxMul_floor w a b))
  · rw [abs_mul, abs_div, abs_of_pos h2]
    refine mul_le_mul ha (le_trans ?_ hc) (by positivity) hd
    rw [div_le_iff₀ h2, add_mul, div_mul_cancel₀ _ h2.ne']
    exact hb.abs_le
  · rw [abs_mul]
    exact mul_le_mul_of_nonneg_left hb (abs_nonneg _)

/-- The error of a quotient by a number that is not small. -/
theorem FxNear.div {w : Nat} {a b : ℤ} {u v d d' c : ℝ} (ha : FxNear w a u d) (hb : FxNear w b v d') (hv : v ≠ 0) (hc : 0 < c) (hbc : c * 2 ^ w ≤ b) :
    FxNear w (fxDiv w a b) (u / v) ((d + |u / v| * d') / c + 1) := by
  have h2 : (0 : ℝ) < 2 ^ w := by positivity
  have hbR : (0 : ℝ) < b := lt_of_lt_of_le (by positivity) hbc
  have hfloor := abs_intDiv_sub_le (a * 2 ^ w) (b := b) (by exact_mod_cast hbR)
  push_cast at hfloor
  have hsplit : (fxDiv w a b : ℝ) - u / v * 2 ^ w =
      ((a - u * 2 ^ w) - u / v * (b - v * 2 ^ w)) * (2 ^ w / b) + ((fxDiv w a b : ℝ) - a * 2 ^ w / b) := by
    field_simp
    ring
  rw [FxNear, hsplit]
  refine (abs_add_le _ _).trans (add_le_add ?_ hfloor)
  rw [abs_mul, abs_div, abs_of_pos h2, abs_of_pos hbR, div_eq_mul_one_div _ c]
  refine mul_le_mul ?_ ?_ (by positivity) ?_
  · refine (abs_sub _ _).trans (add_le_add ha ?_)
    rw [abs_mul]
    exact mul_le_mul_of_nonneg_left hb (abs_nonneg _)
  · rw [div_le_div_iff₀ hbR hc]
    linarith
  · exact add_nonneg ((abs_nonneg _).trans ha) (mul_nonneg (abs_nonneg _) ((abs_nonneg _).trans hb))

/-! ### Sums of a series -/

/-- The loop of every series of the model: raw terms, each from the one before, and what each adds to the sum. -/
def fxSeries (next out : Nat → ℤ → ℤ) : Nat → Nat → ℤ → ℤ → ℤ
  | 0, _, _, acc => acc
  | fuel + 1, k, term, acc => if term = 0 then acc else fxSeries next out fuel (k + 1) (next k term) (acc + out k term)

theorem oddSeries_eq_fxSeries (w : Nat) (alt : Bool) (z2 : ℤ) (fuel k : Nat) (term acc : ℤ) :
    oddSeries w alt z2 fuel k term acc =
      fxSeries (fun _ t => fxMul w t z2) (fun i t => (if alt && i % 2 == 1 then -1 else 1) * (t / (2 * i + 1 : Nat))) fuel k term acc := by
  induction fuel generalizing k term acc with
  | zero => rfl
  | succ fuel ih => rw [oddSeries, fxSeries, ih]

theorem expSeries_eq_fxSeries (w : Nat) (x : ℤ) (fuel k : Nat) (term acc : ℤ) :
    expSeries w x fuel k term acc = fxSeries (fun i t => fxMul w t x / (i + 1 : Nat)) (fun _ t => t) fuel k term acc := by
  induction fuel generalizing k term acc with
  | zero => rfl
  | succ fuel ih => rw [expSeries, fxSeries, ih]

theorem sinSeries_eq_fxSeries (w : Nat) (x2 : ℤ) (c fuel k : Nat) (term acc : ℤ) :
    sinSeries w x2 fuel (2 * k + c) term acc =
      fxSeries (fun i t => -(fxMul w t x2) / ((2 * i + c + 1) * (2 * i + c + 2) : Nat)) (fun _ t => t) fuel k term acc := by
  induction fuel generalizing k term acc with
  | zero => rfl
  | succ fuel ih => rw [sinSeries, fxSeries, show 2 * k + c + 2 = 2 * (k + 1) + c by ring, ih]

/-- What is left of a series after `k` terms, where each term is at most half the one before. -/
theorem hasSum_tail_le {f T : Nat → ℝ} {S : ℝ} (hf : ∀ k, |f k| ≤ |T k|) (hT : ∀ k, |T (k + 1)| ≤ |T k| / 2) (hS : HasSum f S) (k : Nat) :
    |S - ∑ i ∈ Finset.range k, f i| ≤ 2 * |T k| := by
  have hgeo : ∀ i, |T (i + k)| ≤ |T k| * (1 / 2) ^ i := by
    intro i
    induction i with
    | zero => simp
    | succ i ih =>
      rw [Nat.add_right_comm, pow_succ]
      linarith [hT (i + k)]
  have htail := (hasSum_nat_add_iff' k).2 hS
  have hbound := htail.norm_le_of_bounded (hasSum_geometric_two.mul_left |T k|) fun i => (hf (i + k)).trans (hgeo i)
  rwa [mul_comm] at hbound

/-- The loop's sum: each step loses at most four units, and what a vanished term leaves out is at most six. -/
theorem fxSeries_near {next out : Nat → ℤ → ℤ} {f T : Nat → ℝ} {S : ℝ} (hf : ∀ k, |f k| ≤ |T k|) (hT : ∀ k, |T (k + 1)| ≤ |T k| / 2) (hS : HasSum f S)
    (hnext : ∀ (k : Nat) (t : ℤ), |(t : ℝ) - T k| ≤ 3 → |(next k t : ℝ) - T (k + 1)| ≤ 3) (hout : ∀ (k : Nat) (t : ℤ), |(t : ℝ) - T k| ≤ 3 → |(out k t : ℝ) - f k| ≤ 4)
    (N k : Nat) (t a : ℤ) (hN : |T k| ≤ 2 ^ N) (ht : |(t : ℝ) - T k| ≤ 3) :
    |(fxSeries next out N k t a : ℝ) - (a + (S - ∑ i ∈ Finset.range k, f i))| ≤ 4 * N + 6 := by
  induction N generalizing k t a with
  | zero =>
    have htail := hasSum_tail_le hf hT hS k
    rw [fxSeries, sub_add_cancel_left, abs_neg]
    norm_num at hN ⊢
    linarith
  | succ N ih =>
    have htail := hasSum_tail_le hf hT hS k
    rw [fxSeries]
    push_cast
    split
    case isTrue h0 =>
      rw [h0, Int.cast_zero, zero_sub, abs_neg] at ht
      rw [sub_add_cancel_left, abs_neg]
      linarith [N.cast_nonneg (α := ℝ)]
    case isFalse =>
      have hstep := ih (k + 1) (next k t) (a + out k t) ((hT k).trans (by rw [pow_succ] at hN; linarith)) (hnext k t ht)
      rw [Finset.sum_range_succ] at hstep
      push_cast at hstep
      have hsplit : ((fxSeries next out N (k + 1) (next k t) (a + out k t) : ℤ) : ℝ) - (a + (S - ∑ i ∈ Finset.range k, f i)) =
          ((fxSeries next out N (k + 1) (next k t) (a + out k t) : ℤ) - (a + out k t + (S - (∑ i ∈ Finset.range k, f i + f k)))) + (out k t - f k) := by ring
      rw [hsplit]
      refine (abs_add_le _ _).trans ?_
      linarith [hout k t ht]

/-- The whole series, from its first term. -/
theorem fxSeries_start {next out : Nat → ℤ → ℤ} {f T : Nat → ℝ} {S : ℝ} (hf : ∀ k, |f k| ≤ |T k|) (hT : ∀ k, |T (k + 1)| ≤ |T k| / 2) (hS : HasSum f S)
    (hnext : ∀ (k : Nat) (t : ℤ), |(t : ℝ) - T k| ≤ 3 → |(next k t : ℝ) - T (k + 1)| ≤ 3) (hout : ∀ (k : Nat) (t : ℤ), |(t : ℝ) - T k| ≤ 3 → |(out k t : ℝ) - f k| ≤ 4)
    {w : Nat} {t : ℤ} (ht : (t : ℝ) = T 0) (ht1 : |(t : ℝ)| ≤ 2 ^ w) : |(fxSeries next out (w + 8) 0 t 0 : ℝ) - S| ≤ 4 * w + 38 := by
  have hN : |T 0| ≤ 2 ^ (w + 8) := by rw [← ht]; exact ht1.trans (pow_le_pow_right₀ one_le_two (by omega))
  have h := fxSeries_near hf hT hS hnext hout (w + 8) 0 t 0 hN (by rw [ht, sub_self, abs_zero]; norm_num)
  simp only [Finset.range_zero, Finset.sum_empty, sub_zero, Int.cast_zero, zero_add] at h
  refine h.trans ?_
  push_cast
  linarith

/-! ### atanh and atan -/

/-- The terms of the odd series, signs apart. -/
theorem oddSeries_near {w : Nat} (hw : 2 ≤ w) (alt : Bool) {z : ℤ} (hz : |(z : ℝ) / 2 ^ w| ≤ 1 / 2) {S : ℝ}
    (hS : HasSum (fun k : ℕ => (if alt && k % 2 == 1 then -1 else 1 : ℝ) * ((z / 2 ^ w) ^ (2 * k + 1) / (2 * k + 1))) S) :
    FxNear w (oddSeries w alt (fxMul w z z) (w + 8) 0 z 0) S (4 * w + 38) := by
  have h2 : (0 : ℝ) < 2 ^ w := by positivity
  have h4 : (4 : ℝ) ≤ 2 ^ w := by
    calc (4 : ℝ) = 2 ^ 2 := by norm_num
      _ ≤ 2 ^ w := pow_le_pow_right₀ one_le_two hw
  obtain ⟨Z, hZ⟩ : ∃ Z : ℝ, Z = z / 2 ^ w := ⟨_, rfl⟩
  rw [← hZ] at hz hS
  have hzZ : (z : ℝ) = Z * 2 ^ w := by rw [hZ, div_mul_cancel₀ _ h2.ne']
  have hZ2 : Z ^ 2 ≤ 1 / 4 := by
    rw [← sq_abs]
    nlinarith [abs_nonneg Z]
  have hsq : FxNear w (fxMul w z z) (Z ^ 2) 1 := by
    have h := fxMul_floor w z z
    rw [hzZ] at h
    rw [FxNear]
    convert h using 3
    field_simp
  rw [FxNear, oddSeries_eq_fxSeries]
  refine fxSeries_start (T := fun k => Z ^ (2 * k + 1) * 2 ^ w) ?_ ?_ (hS.mul_right (2 ^ w)) ?_ ?_ ?_ ?_
  · intro k
    have hsign : |(if alt && k % 2 == 1 then -1 else 1 : ℝ)| = 1 := by split <;> simp
    have hk : (1 : ℝ) ≤ 2 * k + 1 := by linarith [k.cast_nonneg (α := ℝ)]
    rw [abs_mul, abs_mul, abs_mul, hsign, one_mul, abs_div, abs_of_pos (by linarith : (0 : ℝ) < 2 * k + 1)]
    exact mul_le_mul_of_nonneg_right (div_le_self (abs_nonneg _) hk) (abs_nonneg _)
  · intro k
    rw [show 2 * (k + 1) + 1 = 2 * k + 1 + 2 by ring, pow_add, mul_right_comm, abs_mul _ (Z ^ 2), abs_of_nonneg (sq_nonneg Z)]
    nlinarith [abs_nonneg (Z ^ (2 * k + 1) * 2 ^ w)]
  · intro k t ht
    have hpow : |Z ^ (2 * k + 1)| ≤ 1 / 2 := by
      rw [abs_pow, pow_succ]
      exact (mul_le_of_le_one_left (abs_nonneg _) (pow_le_one₀ (abs_nonneg _) (hz.trans (by norm_num)))).trans hz
    have hmul := FxNear.mul (c := 1 / 2) ht hsq (by
      rw [abs_of_nonneg (sq_nonneg Z)]
      have : (1 : ℝ) / 2 ^ w ≤ 1 / 4 := one_div_le_one_div_of_le (by norm_num) h4
      linarith)
    refine (le_of_eq ?_).trans (hmul.mono (d' := 3) (by linarith))
    congr 2
    ring
  · intro k t ht
    have hsign : |(if alt && k % 2 == 1 then -1 else 1 : ℝ)| = 1 := by split <;> simp
    have hk : (1 : ℝ) ≤ ((2 * k + 1 : ℕ) : ℤ) := by push_cast; linarith [k.cast_nonneg (α := ℝ)]
    have hdiv := FxNear.div_int (w := w) (u := Z ^ (2 * k + 1)) ht (b := ((2 * k + 1 : ℕ) : ℤ)) (by positivity)
    have hle : (3 : ℝ) / ((2 * k + 1 : ℕ) : ℤ) ≤ 3 := div_le_self (by norm_num) hk
    have hdiv' := hdiv.mono (d' := 4) (by linarith)
    rw [FxNear] at hdiv'
    have hfactor : (((if alt && k % 2 == 1 then -1 else 1 : ℤ) * (t / ((2 * k + 1 : ℕ) : ℤ)) : ℤ) : ℝ) -
        (if alt && k % 2 == 1 then -1 else 1 : ℝ) * (Z ^ (2 * k + 1) / (2 * k + 1)) * 2 ^ w =
        (if alt && k % 2 == 1 then -1 else 1 : ℝ) * (((t / ((2 * k + 1 : ℕ) : ℤ) : ℤ) : ℝ) - Z ^ (2 * k + 1) / ((2 * k + 1 : ℕ) : ℤ) * 2 ^ w) := by
      push_cast
      split <;> ring
    rw [hfactor, abs_mul, hsign, one_mul]
    exact hdiv'
  · simpa using hzZ
  · rw [hzZ, abs_mul, abs_of_pos h2]
    exact mul_le_of_le_one_left h2.le (hz.trans (by norm_num))

theorem fxAtanh_near {w : Nat} (hw : 2 ≤ w) {z : ℤ} (hz : |(z : ℝ) / 2 ^ w| ≤ 1 / 2) :
    FxNear w (fxAtanh w z) ((Real.log (1 + z / 2 ^ w) - Real.log (1 - z / 2 ^ w)) / 2) (4 * w + 38) := by
  refine oddSeries_near hw false hz ?_
  have h := (Real.hasSum_log_sub_log_of_abs_lt_one (hz.trans_lt (by norm_num))).div_const 2
  refine h.congr_fun fun k => ?_
  simp only [Bool.false_and, Bool.false_eq_true, if_false]
  ring

theorem fxAtanSmall_near {w : Nat} (hw : 2 ≤ w) {z : ℤ} (hz : |(z : ℝ) / 2 ^ w| ≤ 1 / 2) :
    FxNear w (fxAtanSmall w z) (Real.arctan (z / 2 ^ w)) (4 * w + 38) := by
  refine oddSeries_near hw true hz ?_
  refine (Real.hasSum_arctan (hz.trans_lt (by norm_num))).congr_fun fun k => ?_
  rcases Nat.mod_two_eq_zero_or_one k with hk | hk
  · simp [hk, Nat.even_iff.2 hk |>.neg_one_pow]
  · simp [hk, Nat.odd_iff.2 hk |>.neg_one_pow]
    ring

/-! ### exp -/

theorem expSeries_near {w : Nat} {x : ℤ} (hx : |(x : ℝ) / 2 ^ w| ≤ 1 / 3) :
    FxNear w (expSeries w x (w + 8) 0 (2 ^ w) 0) (Real.exp (x / 2 ^ w)) (4 * w + 38) := by
  have h2 : (0 : ℝ) < 2 ^ w := by positivity
  obtain ⟨X, hX⟩ : ∃ X : ℝ, X = x / 2 ^ w := ⟨_, rfl⟩
  have hxX : FxNear w x X 0 := hX ▸ fxNear_self w x
  rw [← hX] at hx ⊢
  have hS : HasSum (fun k : ℕ => X ^ k / k.factorial) (Real.exp X) := by
    rw [Real.exp_eq_exp_ℝ]
    exact NormedSpace.expSeries_div_hasSum_exp X
  rw [FxNear, expSeries_eq_fxSeries]
  have hnextT : ∀ k : ℕ, X ^ (k + 1) / ((k + 1).factorial : ℝ) = X ^ k / k.factorial * X / ((k + 1 : ℕ) : ℤ) := by
    intro k
    rw [Nat.factorial_succ, pow_succ]
    push_cast
    field_simp
  refine fxSeries_start (T := fun k => X ^ k / k.factorial * 2 ^ w) (fun k => le_rfl) ?_ (hS.mul_right (2 ^ w)) ?_ (fun k t ht => le_trans ht (by norm_num)) ?_ ?_
  · intro k
    have hk : (1 : ℝ) ≤ ((k + 1 : ℕ) : ℤ) := by push_cast; linarith [k.cast_nonneg (α := ℝ)]
    rw [hnextT, show X ^ k / k.factorial * X / ((k + 1 : ℕ) : ℤ) * 2 ^ w = X ^ k / k.factorial * 2 ^ w * (X / ((k + 1 : ℕ) : ℤ)) by ring, abs_mul]
    have hle : |X / ((k + 1 : ℕ) : ℤ)| ≤ 1 / 2 := by
      rw [abs_div, abs_of_pos (by linarith : (0 : ℝ) < ((k + 1 : ℕ) : ℤ))]
      exact (div_le_self (abs_nonneg _) hk).trans (hx.trans (by norm_num))
    nlinarith [abs_nonneg (X ^ k / k.factorial * 2 ^ w)]
  · intro k t ht
    have hk : (1 : ℝ) ≤ ((k + 1 : ℕ) : ℤ) := by push_cast; linarith [k.cast_nonneg (α := ℝ)]
    have hmul := (FxNear.mul (c := 1 / 3) (u := X ^ k / k.factorial) ht hxX (by simpa using hx)).div_int (b := ((k + 1 : ℕ) : ℤ)) (by positivity)
    rw [hnextT]
    refine hmul.mono ?_
    have : (3 * (1 / 3) + |X ^ k / k.factorial| * 0 + 1) / (((k + 1 : ℕ) : ℤ) : ℝ) ≤ 2 := by
      rw [mul_zero]
      norm_num
      exact div_le_self (by norm_num) (by exact_mod_cast hk)
    linarith
  · simp
  · push_cast
    rw [abs_of_pos h2]

/-! ### sin and cos -/

/-- The terms of the series of sin (c = 1) and cos (c = 0). -/
theorem sinSeries_near {w : Nat} (hw : 6 ≤ w) {x : ℤ} (hx : |(x : ℝ) / 2 ^ w| ≤ 4 / 5) {c : Nat} (hc : c ≤ 1) {t : ℤ} (ht : (t : ℝ) = (x / 2 ^ w) ^ c * 2 ^ w) {S : ℝ}
    (hS : HasSum (fun k : ℕ => (-1) ^ k * (x / 2 ^ w : ℝ) ^ (2 * k + c) / (2 * k + c).factorial) S) :
    FxNear w (sinSeries w (fxMul w x x) (w + 8) c t 0) S (4 * w + 38) := by
  have h2 : (0 : ℝ) < 2 ^ w := by positivity
  have h64 : (64 : ℝ) ≤ 2 ^ w := by
    calc (64 : ℝ) = 2 ^ 6 := by norm_num
      _ ≤ 2 ^ w := pow_le_pow_right₀ one_le_two hw
  obtain ⟨X, hX⟩ : ∃ X : ℝ, X = x / 2 ^ w := ⟨_, rfl⟩
  rw [← hX] at hx ht hS
  have hxX : (x : ℝ) = X * 2 ^ w := by rw [hX, div_mul_cancel₀ _ h2.ne']
  have hX2 : X ^ 2 ≤ 16 / 25 := by
    rw [← sq_abs]
    nlinarith [abs_nonneg X]
  have hX1 : |X| ≤ 1 := hx.trans (by norm_num)
  have hsq : FxNear w (fxMul w x x) (X ^ 2) 1 := by
    have h := fxMul_floor w x x
    rw [hxX] at h
    rw [FxNear]
    convert h using 3
    field_simp
  have hterm : ∀ k : ℕ, |(-1) ^ k * X ^ (2 * k + c) / ((2 * k + c).factorial : ℝ)| ≤ 1 := by
    intro k
    have hfac : (1 : ℝ) ≤ (2 * k + c).factorial := by exact_mod_cast Nat.one_le_iff_ne_zero.2 (Nat.factorial_ne_zero _)
    rw [abs_div, abs_mul, abs_pow, abs_neg, abs_one, one_pow, one_mul, abs_pow, abs_of_pos (lt_of_lt_of_le one_pos hfac)]
    exact div_le_one_of_le₀ ((pow_le_one₀ (abs_nonneg _) hX1).trans hfac) (by positivity)
  have hden : ∀ k : ℕ, (2 : ℝ) ≤ (((2 * k + c + 1) * (2 * k + c + 2) : ℕ) : ℤ) := by
    intro k
    have : 1 * 2 ≤ (2 * k + c + 1) * (2 * k + c + 2) := Nat.mul_le_mul (by omega) (by omega)
    exact_mod_cast this
  have hnextT : ∀ k : ℕ, (-1) ^ (k + 1) * X ^ (2 * (k + 1) + c) / ((2 * (k + 1) + c).factorial : ℝ) =
      -((-1) ^ k * X ^ (2 * k + c) / ((2 * k + c).factorial : ℝ) * X ^ 2) / (((2 * k + c + 1) * (2 * k + c + 2) : ℕ) : ℤ) := by
    intro k
    rw [show 2 * (k + 1) + c = 2 * k + c + 1 + 1 by ring, Nat.factorial_succ, Nat.factorial_succ]
    push_cast
    field_simp
    ring
  have hstart : sinSeries w (fxMul w x x) (w + 8) c t 0 = sinSeries w (fxMul w x x) (w + 8) (2 * 0 + c) t 0 := by rw [mul_zero, zero_add]
  rw [FxNear, hstart, sinSeries_eq_fxSeries]
  refine fxSeries_start (T := fun k => (-1) ^ k * X ^ (2 * k + c) / (2 * k + c).factorial * 2 ^ w) (fun k => le_rfl) ?_ (hS.mul_right (2 ^ w)) ?_
    (fun k t ht => le_trans ht (by norm_num)) ?_ ?_
  · intro k
    rw [hnextT, show ∀ a b d : ℝ, -(a * b) / d * 2 ^ w = a * 2 ^ w * (-(b / d)) by intro a b d; ring, abs_mul, abs_neg,
      abs_of_nonneg (div_nonneg (sq_nonneg X) (by linarith [hden k]))]
    have hle : X ^ 2 / (((2 * k + c + 1) * (2 * k + c + 2) : ℕ) : ℤ) ≤ 1 / 2 := by
      rw [div_le_iff₀ (by linarith [hden k])]
      linarith [hden k]
    rw [div_eq_mul_one_div _ (2 : ℝ)]
    exact mul_le_mul_of_nonneg_left hle (abs_nonneg _)
  · intro k t ht
    have hdiv := (FxNear.mul (c := 21 / 32) ht hsq (by
      rw [abs_of_nonneg (sq_nonneg X)]
      have : (1 : ℝ) / 2 ^ w ≤ 1 / 64 := one_div_le_one_div_of_le (by norm_num) h64
      linarith)).neg.div_int (b := (((2 * k + c + 1) * (2 * k + c + 2) : ℕ) : ℤ)) (by positivity)
    rw [hnextT]
    refine hdiv.mono ?_
    have : (3 * (21 / 32) + |(-1) ^ k * X ^ (2 * k + c) / ((2 * k + c).factorial : ℝ)| * 1 + 1) / (((2 * k + c + 1) * (2 * k + c + 2) : ℕ) : ℤ) ≤ (2 : ℝ) := by
      rw [div_le_iff₀ (by linarith [hden k])]
      linarith [hden k, hterm k]
    linarith
  · rw [ht]
    interval_cases c <;> simp
  · rw [ht, abs_mul, abs_of_pos h2, abs_pow]
    exact mul_le_of_le_one_left h2.le (pow_le_one₀ (abs_nonneg _) hX1)

end Sys2Proof.Machine
end

section
/-! SUPPORT. The fixed-point functions of R246-R248 and their errors, in units of the last place. -/

namespace Sys2Proof.Machine

/-! ### Functions of bounded slope -/

theorem abs_log_sub_log_le {a b c : ℝ} (hc : 0 < c) (ha : c ≤ a) (hb : c ≤ b) : |Real.log a - Real.log b| ≤ |a - b| / c := by
  have hone : ∀ {u v : ℝ}, c ≤ u → c ≤ v → Real.log u - Real.log v ≤ |u - v| / c := by
    intro u v hu hv
    have hu0 := hc.trans_le hu
    have hv0 := hc.trans_le hv
    rw [← Real.log_div hu0.ne' hv0.ne']
    calc Real.log (u / v) ≤ u / v - 1 := Real.log_le_sub_one_of_pos (div_pos hu0 hv0)
      _ = (u - v) / v := by rw [sub_div, div_self hv0.ne']
      _ ≤ |u - v| / v := div_le_div_of_nonneg_right (le_abs_self _) hv0.le
      _ ≤ |u - v| / c := div_le_div_of_nonneg_left (abs_nonneg _) hc hv
  refine abs_sub_le_iff.2 ⟨hone ha hb, ?_⟩
  rw [abs_sub_comm]
  exact hone hb ha

theorem abs_arctan_sub_arctan_le (a b : ℝ) : |Real.arctan a - Real.arctan b| ≤ |a - b| := by
  have h := Convex.norm_image_sub_le_of_norm_hasDerivWithin_le (f := Real.arctan) (f' := fun x => 1 / (1 + x ^ 2)) (C := 1) (s := Set.univ)
    (fun x _ => (Real.hasDerivAt_arctan x).hasDerivWithinAt)
    (fun x _ => by
      rw [Real.norm_eq_abs, abs_of_nonneg (by positivity)]
      exact div_le_one_of_le₀ (by nlinarith [sq_nonneg x]) (by positivity)) convex_univ (Set.mem_univ b) (Set.mem_univ a)
  simpa using h

theorem abs_exp_sub_exp_le {a b c : ℝ} (ha : Real.exp a ≤ c) (hb : Real.exp b ≤ c) : |Real.exp a - Real.exp b| ≤ c * |a - b| := by
  have hone : ∀ {u v : ℝ}, Real.exp u ≤ c → Real.exp u - Real.exp v ≤ c * |u - v| := by
    intro u v hu
    have h := Real.add_one_le_exp (v - u)
    have hv : Real.exp v = Real.exp u * Real.exp (v - u) := by rw [← Real.exp_add, add_sub_cancel]
    rw [hv]
    nlinarith [Real.exp_pos u, le_abs_self (u - v), abs_nonneg (u - v)]
  refine abs_sub_le_iff.2 ⟨hone ha, ?_⟩
  rw [abs_sub_comm]
  exact hone hb

/-! ### ln 2, π and ln -/

/-- The area hyperbolic tangent as half a difference of logarithms. -/
theorem fxAtanh_near_value {w : Nat} (hw : 2 ≤ w) {z : ℤ} {v d : ℝ} (h : FxNear w z v d) (hz : |(z : ℝ) / 2 ^ w| ≤ 1 / 2) (hv : |v| ≤ 1 / 2) :
    FxNear w (fxAtanh w z) ((Real.log (1 + v) - Real.log (1 - v)) / 2) (4 * w + 38 + 2 * d) := by
  have h2 : (0 : ℝ) < 2 ^ w := by positivity
  refine (fxAtanh_near hw hz).of_value ?_
  obtain ⟨hz1, hz2⟩ := abs_le.1 hz
  obtain ⟨hv1, hv2⟩ := abs_le.1 hv
  have hplus := abs_log_sub_log_le (a := 1 + z / 2 ^ w) (b := 1 + v) one_half_pos (by linarith) (by linarith)
  have hminus := abs_log_sub_log_le (a := 1 - v) (b := 1 - z / 2 ^ w) one_half_pos (by linarith) (by linarith)
  rw [show 1 + (z : ℝ) / 2 ^ w - (1 + v) = z / 2 ^ w - v by ring] at hplus
  rw [show 1 - v - (1 - (z : ℝ) / 2 ^ w) = z / 2 ^ w - v by ring] at hminus
  have hdist := h.value_dist
  rw [show (Real.log (1 + z / 2 ^ w) - Real.log (1 - z / 2 ^ w)) / 2 - (Real.log (1 + v) - Real.log (1 - v)) / 2 =
    ((Real.log (1 + z / 2 ^ w) - Real.log (1 + v)) + (Real.log (1 - v) - Real.log (1 - z / 2 ^ w))) / 2 by ring]
  have hsum := abs_add_le (Real.log (1 + z / 2 ^ w) - Real.log (1 + v)) (Real.log (1 - v) - Real.log (1 - z / 2 ^ w))
  rw [abs_div, abs_two]
  nlinarith

theorem fxAtanSmall_near_value {w : Nat} (hw : 2 ≤ w) {z : ℤ} {v d : ℝ} (h : FxNear w z v d) (hz : |(z : ℝ) / 2 ^ w| ≤ 1 / 2) :
    FxNear w (fxAtanSmall w z) (Real.arctan v) (4 * w + 38 + d) :=
  (fxAtanSmall_near hw hz).of_slope abs_arctan_sub_arctan_le h

/-- The fixed-point quotient 1 / k. -/
theorem fxNear_one_div (w : Nat) {k : ℤ} (hk : 2 ≤ k) : FxNear w (2 ^ w / k) (1 / k) 1 ∧ |((2 ^ w / k : ℤ) : ℝ) / 2 ^ w| ≤ 1 / 2 := by
  have h2 : (0 : ℝ) < 2 ^ w := by positivity
  have hkR : (2 : ℝ) ≤ k := by exact_mod_cast hk
  constructor
  · have h := abs_intDiv_sub_le (2 ^ w) (b := k) (by omega)
    rw [FxNear, one_div_mul_eq_div]
    exact_mod_cast h
  · have hnn : (0 : ℝ) ≤ ((2 ^ w / k : ℤ) : ℝ) := by exact_mod_cast Int.ediv_nonneg (by positivity) (by omega)
    have hle : ((2 ^ w / k : ℤ) : ℝ) * k ≤ 2 ^ w := by exact_mod_cast Int.ediv_mul_le (2 ^ w) (by omega : k ≠ 0)
    rw [abs_of_nonneg (by positivity), div_le_iff₀ h2]
    nlinarith

theorem fxLn2_near {w : Nat} (hw : 2 ≤ w) : FxNear w (fxLn2 w) (Real.log 2) (8 * w + 80) := by
  obtain ⟨hnear, hsmall⟩ := fxNear_one_div w (k := 3) (by norm_num)
  have h := (fxAtanh_near_value hw hnear hsmall (by norm_num [abs_of_pos])).int_mul 2
  have hlog : (2 : ℤ) * ((Real.log (1 + 1 / (3 : ℤ)) - Real.log (1 - 1 / (3 : ℤ))) / 2) = Real.log 2 := by
    rw [← Real.log_div (by norm_num) (by norm_num)]
    norm_num
    ring
  rw [hlog] at h
  refine h.mono (le_of_eq ?_)
  norm_num
  ring

theorem fxPi_near {w : Nat} (hw : 2 ≤ w) : FxNear w (fxPi w) Real.pi (80 * w + 780) := by
  obtain ⟨hnear5, hsmall5⟩ := fxNear_one_div w (k := 5) (by norm_num)
  obtain ⟨hnear239, hsmall239⟩ := fxNear_one_div w (k := 239) (by norm_num)
  have h := ((fxAtanSmall_near_value hw hnear5 hsmall5).int_mul 16).sub ((fxAtanSmall_near_value hw hnear239 hsmall239).int_mul 4)
  have hmachin := Real.four_mul_arctan_inv_5_sub_arctan_inv_239
  have hpi : ((16 : ℤ) : ℝ) * Real.arctan (1 / (5 : ℤ)) - (4 : ℤ) * Real.arctan (1 / (239 : ℤ)) = Real.pi := by
    push_cast
    rw [one_div, one_div]
    linarith
  rw [hpi] at h
  refine h.mono (le_of_eq ?_)
  norm_num
  ring

/-- The significand of a positive number in units of 2^-w, its leading bit moved to the first place after the point. -/
theorem shiftBy_blen {m w : Nat} (hw : blen m ≤ w) : ((shiftBy m ((w : ℤ) - blen m) : ℕ) : ℝ) = m * 2 ^ (-(blen m : ℤ)) * 2 ^ w := by
  unfold shiftBy
  rw [if_neg (by omega)]
  push_cast
  rw [mul_assoc, ← zpow_natCast, ← zpow_natCast, ← zpow_add₀ two_ne_zero]
  congr 2
  omega

/-- A fixed-point number between 3/4 and 3/2 and its logarithm. -/
theorem fxLn_core_near {w : Nat} (hw : 2 ≤ w) {y : ℤ} {Y : ℝ} (hy : (y : ℝ) = Y * 2 ^ w) (hlo : 3 / 4 ≤ Y) (hhi : Y ≤ 3 / 2) :
    FxNear w (2 * fxAtanh w (fxDiv w (y - 2 ^ w) (y + 2 ^ w))) (Real.log Y) (8 * w + 80) := by
  have h4 : (4 : ℝ) ≤ 2 ^ w := by
    calc (4 : ℝ) = 2 ^ 2 := by norm_num
      _ ≤ 2 ^ w := pow_le_pow_right₀ one_le_two hw
  have hY : (0 : ℝ) < Y + 1 := by linarith
  have hnum : FxNear w (y - 2 ^ w) (Y - 1) 0 := by
    rw [FxNear]
    push_cast
    rw [hy, show Y * 2 ^ w - 2 ^ w - (Y - 1) * 2 ^ w = 0 by ring, abs_zero]
  have hden : FxNear w (y + 2 ^ w) (Y + 1) 0 := by
    rw [FxNear]
    push_cast
    rw [hy, show Y * 2 ^ w + 2 ^ w - (Y + 1) * 2 ^ w = 0 by ring, abs_zero]
  have hdiv := (hnum.div hden hY.ne' one_pos (by push_cast; rw [hy]; nlinarith)).mono (d' := 1) (by simp)
  have hv : |(Y - 1) / (Y + 1)| ≤ 1 / 5 := by
    rw [abs_div, abs_of_pos hY, div_le_iff₀ hY]
    exact abs_le.2 ⟨by linarith, by linarith⟩
  have hz : |(fxDiv w (y - 2 ^ w) (y + 2 ^ w) : ℝ) / 2 ^ w| ≤ 1 / 2 := by
    have h := hdiv.abs_le
    rw [abs_div, abs_of_pos (by positivity : (0 : ℝ) < 2 ^ w), div_le_iff₀ (by positivity)]
    nlinarith
  have h := (fxAtanh_near_value hw hdiv hz (hv.trans (by norm_num))).int_mul 2
  have hplus : 1 + (Y - 1) / (Y + 1) = 2 * Y / (Y + 1) := by field_simp; ring
  have hminus : 1 - (Y - 1) / (Y + 1) = 2 / (Y + 1) := by field_simp; ring
  have hlog : ((2 : ℤ) : ℝ) * ((Real.log (1 + (Y - 1) / (Y + 1)) - Real.log (1 - (Y - 1) / (Y + 1))) / 2) = Real.log Y := by
    rw [hplus, hminus, ← Real.log_div (by positivity) (by positivity)]
    push_cast
    rw [mul_div_cancel₀ _ two_ne_zero]
    congr 1
    field_simp
  rw [hlog] at h
  refine h.mono (le_of_eq ?_)
  norm_num
  ring

/-- The fixed-point logarithm and its error. -/
theorem fxLn_near {w m : Nat} (hw : 2 ≤ w) (hm : 0 < m) (hmw : blen m ≤ w) (e : ℤ) :
    FxNear w (fxLn w m e) (Real.log (m * 2 ^ e)) ((|((e + blen m : ℤ) : ℝ)| + 2) * (8 * w + 80)) := by
  have h2 : (0 : ℝ) < 2 ^ w := by positivity
  obtain ⟨Y, hY⟩ : ∃ Y : ℝ, Y = m * 2 ^ (-(blen m : ℤ)) := ⟨_, rfl⟩
  have hpow : (0 : ℝ) < 2 ^ (-(blen m : ℤ)) := by positivity
  have hone : (2 : ℝ) ^ blen m * 2 ^ (-(blen m : ℤ)) = 1 := by rw [← zpow_natCast, ← zpow_add₀ two_ne_zero, add_neg_cancel, zpow_zero]
  have hlo : 1 / 2 ≤ Y := by
    have h : (2 : ℝ) ^ blen m ≤ 2 * m := by exact_mod_cast two_pow_blen_le hm
    rw [hY]
    nlinarith
  have hhi : Y < 1 := by
    have h : (m : ℝ) < 2 ^ blen m := by exact_mod_cast lt_two_pow_blen m
    rw [hY]
    nlinarith
  have hval : (m : ℝ) * 2 ^ e = Y * 2 ^ (e + blen m) := by
    rw [hY, mul_assoc, ← zpow_add₀ two_ne_zero]
    congr 2
    ring
  have hy := shiftBy_blen hmw
  rw [← hY] at hy
  have hlog : ∀ {Z : ℝ} {j : ℤ}, 0 < Z → (m : ℝ) * 2 ^ e = Z * 2 ^ j → Real.log (m * 2 ^ e) = Real.log Z + j * Real.log 2 := by
    intro Z j hZ hj
    rw [hj, Real.log_mul hZ.ne' (by positivity), Real.log_zpow]
  have hE : (0 : ℝ) ≤ 8 * w + 80 := by positivity
  unfold fxLn
  dsimp only
  split
  case isTrue hsmall =>
    have hsmallR : 4 * ((shiftBy m ((w : ℤ) - blen m) : ℕ) : ℝ) < 3 * 2 ^ w := by exact_mod_cast hsmall
    have hYs : Y ≤ 3 / 4 := by
      rw [hy] at hsmallR
      nlinarith
    have hcore := fxLn_core_near hw (y := 2 * ((shiftBy m ((w : ℤ) - blen m) : ℕ) : ℤ)) (Y := 2 * Y) (by push_cast; rw [hy]; ring) (by linarith) (by linarith)
    rw [hlog (Z := 2 * Y) (j := e + blen m - 1) (by linarith) (by rw [hval, zpow_sub_one₀ two_ne_zero]; field_simp)]
    refine (hcore.add ((fxLn2_near hw).int_mul (e + blen m - 1))).mono ?_
    have hj : |((e + blen m - 1 : ℤ) : ℝ)| ≤ |((e + blen m : ℤ) : ℝ)| + 1 := by
      push_cast
      exact (abs_sub _ _).trans (by rw [abs_one])
    nlinarith
  case isFalse hlarge =>
    have hlargeR : 3 * (2 : ℝ) ^ w ≤ 4 * ((shiftBy m ((w : ℤ) - blen m) : ℕ) : ℝ) := by exact_mod_cast not_lt.1 hlarge
    have hYl : 3 / 4 ≤ Y := by
      rw [hy] at hlargeR
      nlinarith
    have hcore := fxLn_core_near hw (y := ((shiftBy m ((w : ℤ) - blen m) : ℕ) : ℤ)) (Y := Y) (by exact_mod_cast hy) hYl (by linarith)
    rw [hlog (by linarith) hval]
    refine (hcore.add ((fxLn2_near hw).int_mul (e + blen m))).mono ?_
    nlinarith

/-! ### exp -/

theorem two_pow_ge {w : Nat} (hw : 200 ≤ w) : (10 : ℝ) ^ 50 ≤ 2 ^ w :=
  le_trans (by norm_num) (pow_le_pow_right₀ one_le_two hw)

theorem exp_le_of_le {u : ℝ} (hu : u ≤ 9 / 25) : Real.exp u ≤ 8 / 5 := by
  refine (Real.exp_le_exp.2 hu).trans ((Real.exp_bound_div_one_sub_of_interval' (by norm_num) (by norm_num)).le.trans ?_)
  norm_num

/-- Squaring n times an exponential that stays below 8/5. -/
theorem iter_square_near {w : Nat} (n : Nat) {a : ℤ} {R d : ℝ} (h : FxNear w a (Real.exp R) d) (hR : 2 ^ n * |R| ≤ 9 / 25)
    (hd : 4 ^ n * (d + 1) ≤ 2 ^ w / 10) : FxNear w (iter (fun a => fxMul w a a) n a) (Real.exp (2 ^ n * R)) (4 ^ n * (d + 1)) := by
  have h2 : (0 : ℝ) < 2 ^ w := by positivity
  have hd0 : 0 ≤ d := (abs_nonneg _).trans h
  induction n generalizing a R d with
  | zero =>
    rw [pow_zero, one_mul, pow_zero, one_mul]
    exact h.mono (by linarith)
  | succ n ih =>
    have h2n : (1 : ℝ) ≤ 2 ^ n := one_le_pow₀ one_le_two
    have h4n : (1 : ℝ) ≤ 4 ^ n := one_le_pow₀ (by norm_num)
    rw [pow_succ] at hR hd
    have hRs : |R| ≤ 9 / 25 := by nlinarith [abs_nonneg R]
    have hexp := exp_le_of_le ((le_abs_self R).trans hRs)
    have hV : |Real.exp R| ≤ 8 / 5 := by rwa [abs_of_pos (Real.exp_pos R)]
    have hdw : d / 2 ^ w ≤ 1 / 10 := by
      rw [div_le_iff₀ h2]
      nlinarith
    have hsq := h.mul h (c := 17 / 10) (by linarith)
    have hsq' : FxNear w (fxMul w a a) (Real.exp (2 * R)) (4 * d + 1) := by
      rw [two_mul, Real.exp_add]
      exact hsq.mono (by nlinarith)
    have hnext := ih hsq' (by rw [abs_mul, abs_two]; linarith) (by nlinarith) (by linarith)
    rw [iter, pow_succ, mul_assoc, pow_succ]
    exact hnext.mono (by nlinarith)

/-- The nearest multiple of a positive integer: the remainder and the size of the multiple. -/
theorem nearest_multiple {l : ℤ} (hl : 0 < l) (y : ℤ) :
    |(y : ℝ) - ((y + l / 2) / l : ℤ) * l| ≤ (l + 1) / 2 ∧ |(((y + l / 2) / l : ℤ) : ℝ)| * l ≤ |(y : ℝ)| + (l + 1) / 2 := by
  have hlR : (0 : ℝ) < l := by exact_mod_cast hl
  have h1 := Int.ediv_mul_le (y + l / 2) hl.ne'
  have h2 := Int.lt_ediv_add_one_mul_self (y + l / 2) hl
  rw [add_mul, one_mul] at h2
  generalize (y + l / 2) / l = k at h1 h2 ⊢
  have hlo : -(l + 1) ≤ 2 * (y - k * l) := by omega
  have hhi : 2 * (y - k * l) ≤ l + 1 := by omega
  have hloR : -((l : ℝ) + 1) ≤ 2 * (y - k * l) := by exact_mod_cast hlo
  have hhiR : 2 * ((y : ℝ) - k * l) ≤ l + 1 := by exact_mod_cast hhi
  have hrem : |(y : ℝ) - k * l| ≤ (l + 1) / 2 := abs_le.2 ⟨by linarith, by linarith⟩
  refine ⟨hrem, ?_⟩
  rw [← abs_of_pos hlR, ← abs_mul, abs_of_pos hlR]
  have htri := abs_sub_abs_le_abs_sub ((k : ℝ) * l) y
  rw [abs_sub_comm] at htri
  linarith

theorem fxLn2_bounds {w : Nat} (hw : 200 ≤ w) (hw' : w ≤ 8192) : (69 / 100 : ℝ) * 2 ^ w ≤ fxLn2 w ∧ (fxLn2 w : ℝ) ≤ 7 / 10 * 2 ^ w := by
  have hbig := two_pow_ge hw
  have hwR : (w : ℝ) ≤ 8192 := by exact_mod_cast hw'
  have h := fxLn2_near (w := w) (by omega)
  rw [FxNear] at h
  obtain ⟨h1, h2⟩ := abs_le.1 h
  have hlo := Real.log_two_gt_d9
  have hhi := Real.log_two_lt_d9
  constructor <;> nlinarith

/-- What the exponential leaves of its argument: a small remainder, near what a whole number of ln 2 leaves. -/
theorem fxExp_remainder {w : Nat} (hw : 200 ≤ w) (hw' : w ≤ 8192) {y : ℤ} {x d K : ℝ} (h : FxNear w y x d) (hK : 2 ≤ K) (hy : |(y : ℝ)| ≤ K * 2 ^ w) :
    let k := (y + fxLn2 w / 2) / fxLn2 w
    let r := (y - k * fxLn2 w) / 256
    2 ^ 8 * |(r : ℝ) / 2 ^ w| ≤ 71 / 200 ∧ |2 ^ 8 * ((r : ℝ) / 2 ^ w) - (x - k * Real.log 2)| * 2 ^ w ≤ 256 + d + 2 * K * (8 * w + 80) := by
  intro k r
  have h2 : (0 : ℝ) < 2 ^ w := by positivity
  have hbig := two_pow_ge hw
  obtain ⟨hl1, hl2⟩ := fxLn2_bounds hw hw'
  have hL := fxLn2_near (w := w) (by omega)
  have hl : 0 < fxLn2 w := by
    have : (0 : ℝ) < fxLn2 w := by nlinarith
    exact_mod_cast this
  obtain ⟨hrem, hkl⟩ : |(y : ℝ) - k * fxLn2 w| ≤ (fxLn2 w + 1) / 2 ∧ |(k : ℝ)| * fxLn2 w ≤ |(y : ℝ)| + (fxLn2 w + 1) / 2 := nearest_multiple hl y
  have hr : |(r : ℝ) - (y - k * fxLn2 w) / 256| ≤ 1 := by
    have hdiv := abs_intDiv_sub_le (y - k * fxLn2 w) (b := 256) (by norm_num)
    push_cast at hdiv
    exact hdiv
  clear_value r k
  generalize fxLn2 w = l at hl1 hl2 hL hrem hkl hr
  have hk : |(k : ℝ)| ≤ 2 * K := by
    by_contra hbad
    rw [not_le] at hbad
    nlinarith
  have hr256 : |256 * (r : ℝ) - (y - k * l)| ≤ 256 := by
    rw [show 256 * (r : ℝ) - (y - k * l) = 256 * (r - (y - k * l) / 256) by ring, abs_mul, abs_of_pos (by norm_num : (0 : ℝ) < 256)]
    linarith
  constructor
  · have hrabs : 256 * |(r : ℝ)| ≤ 71 / 200 * 2 ^ w := by
      have := abs_sub_abs_le_abs_sub (256 * (r : ℝ)) (y - k * l)
      rw [abs_mul, abs_of_pos (by norm_num : (0 : ℝ) < 256)] at this
      nlinarith
    rw [abs_div, abs_of_pos h2, ← mul_div_assoc, div_le_iff₀ h2]
    linarith
  · rw [← abs_of_pos h2, ← abs_mul, abs_of_pos h2]
    have hsplit : (2 ^ 8 * ((r : ℝ) / 2 ^ w) - (x - k * Real.log 2)) * 2 ^ w =
        (256 * (r : ℝ) - (y - k * l)) + ((y - x * 2 ^ w) - k * (l - Real.log 2 * 2 ^ w)) := by
      field_simp
      ring
    rw [hsplit]
    rw [FxNear] at h hL
    have h1 := abs_add_le (256 * (r : ℝ) - (y - k * l)) ((y - x * 2 ^ w) - k * (l - Real.log 2 * 2 ^ w))
    have h3 := abs_sub ((y : ℝ) - x * 2 ^ w) (k * (l - Real.log 2 * 2 ^ w))
    have h4 : |(k : ℝ) * (l - Real.log 2 * 2 ^ w)| ≤ 2 * K * (8 * w + 80) := by
      rw [abs_mul]
      exact mul_le_mul hk hL (abs_nonneg _) (by linarith)
    linarith

/-- The fixed-point exponential, whose error takes in that of its argument, and its scale. -/
theorem fxExp_near {w : Nat} (hw : 200 ≤ w) (hw' : w ≤ 8192) {y : ℤ} {x d K : ℝ} (h : FxNear w y x d) (hd : 1000 * d ≤ 2 ^ w) (hK : 2 ≤ K)
    (hK' : K ≤ 2 ^ 20) (hy : |(y : ℝ)| ≤ K * 2 ^ w) :
    FxNear w (fxExp w y).1 (Real.exp x * 2 ^ (-(fxExp w y).2)) (2 ^ 32 + 2 ^ 18 * K + 2 * d) ∧ 1 / 2 ≤ Real.exp x * 2 ^ (-(fxExp w y).2) := by
  have h2 : (0 : ℝ) < 2 ^ w := by positivity
  have hbig := two_pow_ge hw
  have hwR : (w : ℝ) ≤ 8192 := by exact_mod_cast hw'
  obtain ⟨hR, harg⟩ := fxExp_remainder hw hw' h hK hy
  unfold fxExp
  dsimp only
  generalize (y + fxLn2 w / 2) / fxLn2 w = k at hR harg ⊢
  generalize (y - k * fxLn2 w) / 256 = r at hR harg ⊢
  have hsum := expSeries_near (w := w) (x := r) (by nlinarith [abs_nonneg ((r : ℝ) / 2 ^ w)])
  have hiter := iter_square_near 8 hsum (by linarith) (by nlinarith)
  have hnear : |2 ^ 8 * ((r : ℝ) / 2 ^ w) - (x - k * Real.log 2)| ≤ 1 / 200 := by
    rw [← mul_le_mul_iff_left₀ h2]
    refine harg.trans ?_
    nlinarith
  have hRabs := abs_le.1 (hR.trans' (by rw [abs_mul, abs_of_pos (by norm_num : (0 : ℝ) < 2 ^ 8)] : |2 ^ 8 * ((r : ℝ) / 2 ^ w)| ≤ _))
  have hclose := abs_le.1 hnear
  have hdiff := abs_exp_sub_exp_le (exp_le_of_le (by linarith [hRabs.2] : 2 ^ 8 * ((r : ℝ) / 2 ^ w) ≤ 9 / 25))
    (exp_le_of_le (by linarith [hRabs.2, hclose.1] : x - k * Real.log 2 ≤ 9 / 25))
  have hval : Real.exp x * 2 ^ (-k) = Real.exp (x - k * Real.log 2) := by
    rw [Real.exp_sub, mul_comm (k : ℝ), Real.exp_mul, Real.exp_log two_pos, Real.rpow_intCast, zpow_neg, div_eq_mul_inv]
  rw [hval]
  refine ⟨(hiter.of_value (d' := 8 / 5 * (256 + d + 2 * K * (8 * w + 80))) ?_).mono ?_, ?_⟩
  · refine (mul_le_mul_of_nonneg_right hdiff h2.le).trans ?_
    rw [mul_assoc]
    exact mul_le_mul_of_nonneg_left harg (by norm_num)
  · have hd0 : 0 ≤ d := (abs_nonneg _).trans h
    nlinarith
  · linarith [Real.add_one_le_exp (x - k * Real.log 2), hRabs.1, hclose.2]

/-! ### atan -/

theorem arctan_half (x : ℝ) (h0 : 0 ≤ x) : 2 * Real.arctan (x / (1 + Real.sqrt (1 + x ^ 2))) = Real.arctan x := by
  have hs : 1 ≤ Real.sqrt (1 + x ^ 2) := Real.one_le_sqrt.2 (by nlinarith)
  have hsq : Real.sqrt (1 + x ^ 2) ^ 2 = 1 + x ^ 2 := Real.sq_sqrt (by positivity)
  have hxs : x < 1 + Real.sqrt (1 + x ^ 2) := by nlinarith
  generalize Real.sqrt (1 + x ^ 2) = s at hs hsq hxs ⊢
  have hd : 0 < 1 + s := by linarith
  have hlt : x / (1 + s) < 1 := (div_lt_one hd).2 hxs
  have hge : 0 ≤ x / (1 + s) := div_nonneg h0 hd.le
  rw [Real.two_mul_arctan (by linarith) hlt]
  congr 1
  have hden : 1 - (x / (1 + s)) ^ 2 = 2 / (1 + s) := by
    field_simp
    nlinarith
  rw [hden]
  field_simp

/-- One halving of an angle: where the tangent goes and how far the angle is from half. -/
theorem fxHalf_near {w : Nat} (hw : w ≤ 2 ^ 18) {t : ℤ} (h0 : 0 ≤ t) (h1 : t ≤ 2 ^ w) :
    let t' := fxDiv w t (2 ^ w + (isqrt ((2 ^ w * 2 ^ w + t * t).toNat) : Nat))
    0 ≤ t' ∧ 2 * t' ≤ 2 ^ w ∧ |Real.arctan (t' / 2 ^ w) - Real.arctan (t / 2 ^ w) / 2| * 2 ^ w ≤ 5 / 4 := by
  intro t'
  have h2 : (0 : ℝ) < 2 ^ w := by positivity
  obtain ⟨x, hx⟩ : ∃ x : ℝ, x = t / 2 ^ w := ⟨_, rfl⟩
  have hxt : (t : ℝ) = x * 2 ^ w := by rw [hx, div_mul_cancel₀ _ h2.ne']
  have h0R : (0 : ℝ) ≤ t := by exact_mod_cast h0
  have h1R : (t : ℝ) ≤ 2 ^ w := by exact_mod_cast h1
  have hx0 : 0 ≤ x := by rw [hx]; positivity
  have hx1 : x ≤ 1 := by rw [hx]; exact div_le_one_of_le₀ h1R h2.le
  obtain ⟨T, rfl⟩ : ∃ T : ℕ, t = T := ⟨t.toNat, by omega⟩
  have harg : ((2 : ℤ) ^ w * 2 ^ w + (T : ℤ) * T).toNat = 2 ^ w * 2 ^ w + T * T := by
    have : ((2 : ℤ) ^ w * 2 ^ w + (T : ℤ) * T) = ((2 ^ w * 2 ^ w + T * T : ℕ) : ℤ) := by push_cast; rfl
    rw [this, Int.toNat_natCast]
  have hroot : isqrt (2 ^ w * 2 ^ w + T * T) = Nat.sqrt (2 ^ w * 2 ^ w + T * T) := by
    refine isqrt_eq (j := 20) (by norm_num) ?_
    have hT : T ≤ 2 ^ w := by exact_mod_cast h1
    calc 2 ^ w * 2 ^ w + T * T ≤ 2 ^ w * 2 ^ w + 2 ^ w * 2 ^ w := Nat.add_le_add_left (Nat.mul_le_mul hT hT) _
      _ = 2 ^ (2 * w + 1) := by rw [pow_succ, two_mul, pow_add]; ring
      _ < 2 ^ 2 ^ 20 := Nat.pow_lt_pow_right one_lt_two (by omega)
  have ht' : t' = fxDiv w T (2 ^ w + (Nat.sqrt (2 ^ w * 2 ^ w + T * T) : ℕ)) := by
    show fxDiv w T (2 ^ w + (isqrt (((2 : ℤ) ^ w * 2 ^ w + (T : ℤ) * T).toNat) : ℕ)) = _
    rw [harg, hroot]
  have hsqrt : |((Nat.sqrt (2 ^ w * 2 ^ w + T * T) : ℕ) : ℝ) - Real.sqrt (1 + x ^ 2) * 2 ^ w| ≤ 1 := by
    have hval : Real.sqrt (1 + x ^ 2) * 2 ^ w = Real.sqrt ((2 ^ w * 2 ^ w + T * T : ℕ) : ℝ) := by
      push_cast
      rw [show (2 : ℝ) ^ w * 2 ^ w + T * T = (1 + x ^ 2) * (2 ^ w) ^ 2 by
        have : (T : ℝ) = x * 2 ^ w := by exact_mod_cast hxt
        rw [this]; ring, Real.sqrt_mul (by positivity), Real.sqrt_sq h2.le]
    rw [hval]
    have hlo := Real.nat_sqrt_le_real_sqrt (a := 2 ^ w * 2 ^ w + T * T)
    have hhi := Real.real_sqrt_lt_nat_sqrt_succ (a := 2 ^ w * 2 ^ w + T * T)
    exact abs_le.2 ⟨by linarith, by linarith⟩
  have hge : 2 ^ w ≤ Nat.sqrt (2 ^ w * 2 ^ w + T * T) := Nat.le_sqrt.2 (Nat.le_add_right _ _)
  have hgeR : (2 : ℝ) ^ w ≤ ((Nat.sqrt (2 ^ w * 2 ^ w + T * T) : ℕ) : ℝ) := by exact_mod_cast hge
  rw [ht']
  generalize Nat.sqrt (2 ^ w * 2 ^ w + T * T) = s at hsqrt hge hgeR ⊢
  have hden : FxNear w (2 ^ w + (s : ℤ)) (1 + Real.sqrt (1 + x ^ 2)) 1 := by
    rw [FxNear]
    push_cast
    rw [show (2 : ℝ) ^ w + s - (1 + Real.sqrt (1 + x ^ 2)) * 2 ^ w = s - Real.sqrt (1 + x ^ 2) * 2 ^ w by ring]
    exact hsqrt
  have hb : 0 < (2 : ℤ) ^ w + s := by positivity
  have hs1 : 1 ≤ Real.sqrt (1 + x ^ 2) := Real.one_le_sqrt.2 (by nlinarith)
  refine ⟨Int.ediv_nonneg (by positivity) hb.le, ?_, ?_⟩
  · have hmul : fxDiv w T (2 ^ w + (s : ℤ)) * (2 ^ w + (s : ℤ)) ≤ T * 2 ^ w := Int.ediv_mul_le _ hb.ne'
    have hnn : 0 ≤ fxDiv w T (2 ^ w + (s : ℤ)) := Int.ediv_nonneg (by positivity) hb.le
    have hpw : (0 : ℤ) < 2 ^ w := by positivity
    have hsZ : (2 : ℤ) ^ w ≤ s := by exact_mod_cast hge
    have hchain : (2 * fxDiv w T (2 ^ w + (s : ℤ))) * 2 ^ w ≤ 2 ^ w * 2 ^ w := by nlinarith
    exact le_of_mul_le_mul_right hchain hpw
  · have hdiv := (FxNear.div (c := 2) (hx ▸ fxNear_self w (T : ℤ)) hden (by positivity) two_pos (by push_cast; linarith))
    have hq : |x / (1 + Real.sqrt (1 + x ^ 2))| ≤ 1 / 2 := by
      rw [abs_of_nonneg (by positivity), div_le_iff₀ (by positivity)]
      linarith
    have hdiv' := hdiv.mono (d' := 5 / 4) (by linarith)
    rw [← hx, ← arctan_half x hx0, mul_div_cancel_left₀ _ two_ne_zero]
    exact (mul_le_mul_of_nonneg_right (abs_arctan_sub_arctan_le _ _) h2.le).trans hdiv'.value_dist

/-- The fixed-point arctangent and its error. -/
theorem fxAtan_near {w : Nat} (hw : 2 ≤ w) (hw' : w ≤ 2 ^ 18) {t : ℤ} (h0 : 0 ≤ t) (h1 : t ≤ 2 ^ w) {v d : ℝ} (h : FxNear w t v d) :
    FxNear w (fxAtan w t) (Real.arctan v) (32 * w + 322 + d) := by
  have h2 : (0 : ℝ) < 2 ^ w := by positivity
  have hp : (0 : ℤ) < 2 ^ w := by positivity
  unfold fxAtan
  simp only [iter]
  obtain ⟨ha0, ha1, ha⟩ := fxHalf_near hw' h0 h1
  generalize fxDiv w t (2 ^ w + (isqrt ((2 ^ w * 2 ^ w + t * t).toNat) : Nat)) = a at ha0 ha1 ha ⊢
  obtain ⟨hb0, hb1, hb⟩ := fxHalf_near hw' ha0 (by omega)
  generalize fxDiv w a (2 ^ w + (isqrt ((2 ^ w * 2 ^ w + a * a).toNat) : Nat)) = b at hb0 hb1 hb ⊢
  obtain ⟨hc0, hc1, hc⟩ := fxHalf_near hw' hb0 (by omega)
  generalize fxDiv w b (2 ^ w + (isqrt ((2 ^ w * 2 ^ w + b * b).toNat) : Nat)) = c at hc0 hc1 hc ⊢
  have hsmall : |(c : ℝ) / 2 ^ w| ≤ 1 / 2 := by
    have hc0R : (0 : ℝ) ≤ c := by exact_mod_cast hc0
    have hc1R : 2 * (c : ℝ) ≤ 2 ^ w := by exact_mod_cast hc1
    rw [abs_of_nonneg (by positivity), div_le_iff₀ h2]
    linarith
  have ht := (mul_le_mul_of_nonneg_right (abs_arctan_sub_arctan_le _ _) h2.le).trans h.value_dist
  have hseries := ((fxAtanSmall_near hw hsmall).int_mul 8).mono (d' := 32 * w + 304) (le_of_eq (by norm_num; ring))
  refine (hseries.of_value (d' := 35 / 2 + d) ?_).mono (by linarith)
  rw [← abs_of_pos h2, ← abs_mul, abs_of_pos h2] at ha hb hc ht ⊢
  rw [show (((8 : ℤ) : ℝ) * Real.arctan (c / 2 ^ w) - Real.arctan v) * 2 ^ w =
    8 * ((Real.arctan (c / 2 ^ w) - Real.arctan (b / 2 ^ w) / 2) * 2 ^ w) + 4 * ((Real.arctan (b / 2 ^ w) - Real.arctan (a / 2 ^ w) / 2) * 2 ^ w) +
      2 * ((Real.arctan (a / 2 ^ w) - Real.arctan (t / 2 ^ w) / 2) * 2 ^ w) + (Real.arctan (t / 2 ^ w) - Real.arctan v) * 2 ^ w by push_cast; ring]
  rw [abs_le] at ha hb hc ht ⊢
  constructor <;> linarith

end Sys2Proof.Machine
end

section
/-! SUPPORT. What each try of e^x, 2^x, ln and log₂ settles rounds as the value of the function (R246). -/

namespace Sys2Proof.Machine

/-! ### Operands -/

/-- A finite nonzero datum of the machine's formats. -/
structure Moderate (m : Nat) (e : ℤ) : Prop where
  pos : 0 < m
  bits : blen m ≤ 241
  exp_le : |e + blen m| ≤ 16881

theorem lt_two_zpow (m : Nat) (e : ℤ) : (m : ℝ) * 2 ^ e < 2 ^ (e + blen m) := by
  rw [add_comm, zpow_add₀ two_ne_zero, zpow_natCast]
  exact mul_lt_mul_of_pos_right (by exact_mod_cast lt_two_pow_blen m) (by positivity)

theorem two_zpow_le {m : Nat} (hm : 0 < m) (e : ℤ) : (2 : ℝ) ^ (e + blen m - 1) ≤ m * 2 ^ e := by
  have h : (2 : ℝ) ^ blen m ≤ 2 * m := by exact_mod_cast two_pow_blen_le hm
  rw [show e + blen m - 1 = blen m + e - 1 by ring, zpow_sub_one₀ two_ne_zero, zpow_add₀ two_ne_zero, zpow_natCast]
  have h2 : (0 : ℝ) < 2 ^ e := by positivity
  nlinarith

theorem Moderate.value_pos {m : Nat} {e : ℤ} (hm : Moderate m e) : (0 : ℝ) < m * 2 ^ e := mul_pos (by exact_mod_cast hm.pos) (by positivity)

theorem le_two_pow {m : Nat} {e : ℤ} {k : Nat} (hk : e + blen m ≤ k) : (m : ℝ) * 2 ^ e ≤ 2 ^ k := by
  rw [← zpow_natCast]
  exact (lt_two_zpow m e).le.trans (zpow_le_zpow_right₀ one_le_two hk)

theorem shiftBy_floor (m : Nat) (k : ℤ) : ((shiftBy m k : ℕ) : ℝ) ≤ m * 2 ^ k ∧ (m : ℝ) * 2 ^ k < shiftBy m k + 1 := by
  unfold shiftBy
  split
  case isTrue hk =>
    have hpow : (2 : ℝ) ^ k = (2 ^ (-k).toNat)⁻¹ := by rw [← zpow_natCast, Int.toNat_of_nonneg (by omega), zpow_neg, inv_inv]
    have h2 : (0 : ℝ) < 2 ^ (-k).toNat := by positivity
    rw [hpow, ← div_eq_mul_inv, le_div_iff₀ h2, div_lt_iff₀ h2]
    constructor
    · exact_mod_cast Nat.div_mul_le_self m (2 ^ (-k).toNat)
    · have := Nat.lt_mul_div_succ m (b := 2 ^ (-k).toNat) (by positivity)
      rw [mul_comm] at this
      exact_mod_cast this
  case isFalse hk =>
    have hpow : (2 : ℝ) ^ k = 2 ^ k.toNat := by rw [← zpow_natCast, Int.toNat_of_nonneg (by omega)]
    rw [hpow]
    push_cast
    exact ⟨le_rfl, by linarith⟩

/-- A number with the sign of `neg`. -/
def signed (neg : Bool) (x : ℝ) : ℝ := (if neg then -1 else 1) * x

@[simp] theorem signed_false (x : ℝ) : signed false x = x := one_mul x

@[simp] theorem signed_true (x : ℝ) : signed true x = -x := neg_one_mul x

theorem abs_signed (neg : Bool) (x : ℝ) : |signed neg x| = |x| := by cases neg <;> simp [signed]

theorem FV.cast_rat (n : Bool) (m : Nat) (e : ℤ) : (((FV.fin n m e).rat : ℚ) : ℝ) = signed n (m * 2 ^ e) := by
  unfold FV.rat signed
  cases n <;> simp

theorem fxOf_near (w : Nat) (neg : Bool) (m : Nat) (e : ℤ) :
    FxNear w (fxOf w neg m e) (signed neg (m * 2 ^ e)) 1 ∧ |(fxOf w neg m e : ℝ)| ≤ m * 2 ^ e * 2 ^ w := by
  obtain ⟨hlo, hhi⟩ := shiftBy_floor m (e + w)
  rw [zpow_add₀ two_ne_zero, zpow_natCast, ← mul_assoc] at hlo hhi
  have hval : (fxOf w neg m e : ℝ) = signed neg (shiftBy m (e + w) : ℕ) := by
    unfold fxOf signed
    cases neg <;> push_cast <;> rfl
  refine ⟨?_, ?_⟩
  · rw [FxNear, hval]
    have hdiff : signed neg (shiftBy m (e + w) : ℕ) - signed neg (m * 2 ^ e) * 2 ^ w = signed neg ((shiftBy m (e + w) : ℕ) - m * 2 ^ e * 2 ^ w) := by
      unfold signed
      ring
    rw [hdiff, abs_signed]
    exact abs_le.2 ⟨by linarith, by linarith⟩
  · rw [hval, abs_signed, abs_of_nonneg (Nat.cast_nonneg _)]
    exact hlo

theorem fxOf_false (w m : Nat) (e : ℤ) : fxOf w false m e = shiftBy m (e + w) := by
  rw [fxOf, if_neg Bool.false_ne_true, one_mul]

/-! ### Settled fixed-point numbers -/

section
variable {t : Target} (ht : t.Bounded) {x : ℝ}
include ht

/-- A settled fixed-point number rounds as the number that it stands near. -/
theorem roundsAs_of_fxNear {w : Nat} {a k : ℤ} {X : Mag} (h : settle t.need a (k - w) = some X) {v d : ℝ} (hv : FxNear w a (v * 2 ^ (-k)) d)
    (hd : d < 2 ^ 40) : X.RoundsAs t |v| ∧ (v < 0 ↔ a < 0) ∧ v ≠ 0 := by
  have h2 : (0 : ℝ) < 2 ^ (k - w) := by positivity
  have hone : (2 : ℝ) ^ (-k) * 2 ^ w * 2 ^ (k - w) = 1 := by
    rw [← zpow_natCast, ← zpow_add₀ two_ne_zero, ← zpow_add₀ two_ne_zero, show -k + (w : ℤ) + (k - w) = 0 by ring, zpow_zero]
  have hclose : |v - a * 2 ^ (k - w : ℤ)| < 2 ^ 40 * 2 ^ (k - w : ℤ) := by
    have hsplit : v - a * 2 ^ (k - w : ℤ) = -((a - v * 2 ^ (-k) * 2 ^ w) * 2 ^ (k - w : ℤ)) := by
      linear_combination (-v) * hone
    rw [hsplit, abs_neg, abs_mul, abs_of_pos h2]
    exact mul_lt_mul_of_pos_right (lt_of_le_of_lt hv hd) h2
  exact ⟨roundsAs_settle ht h hclose, (settle_standsFor h hclose).2⟩

theorem roundsAs_of_fxNear_zero {w : Nat} {a : ℤ} {X : Mag} (h : settle t.need a (-w) = some X) {v d : ℝ} (hv : FxNear w a v d)
    (hd : d < 2 ^ 40) : X.RoundsAs t |v| ∧ (v < 0 ↔ a < 0) ∧ v ≠ 0 :=
  roundsAs_of_fxNear ht (k := 0) (by rwa [zero_sub]) (by rwa [neg_zero, zpow_zero, mul_one]) hd

/-! ### Exponentials beyond every format and next to 1 -/

omit ht in
theorem two_pow_lt_exp {n : Nat} (hn : 0 < n) : (2 : ℝ) ^ n < Real.exp n := by
  rw [← Real.exp_one_pow]
  exact pow_lt_pow_left₀ Real.exp_one_gt_two zero_le_two hn.ne'

theorem hugeMag_roundsAs_exp (hx : 16384 ≤ x) : hugeMag.RoundsAs t (Real.exp x) := by
  refine hugeMag_roundsAs ht ?_
  have h : (2 : ℝ) ^ ((16384 : ℕ) : ℤ) ≤ Real.exp (16384 : ℕ) := by
    rw [zpow_natCast]
    exact (two_pow_lt_exp (by norm_num)).le
  exact h.trans (Real.exp_le_exp.2 (by exact_mod_cast hx))

theorem tinyMag_roundsAs_exp (hx : x ≤ -16700) : tinyMag.RoundsAs t (Real.exp x) := by
  refine tinyMag_roundsAs ht (Real.exp_pos x) ?_
  have h : Real.exp (-(16700 : ℕ)) < (2 : ℝ) ^ (-((16700 : ℕ) : ℤ)) := by
    rw [zpow_neg, zpow_natCast, Real.exp_neg]
    exact inv_strictAnti₀ (by positivity) (two_pow_lt_exp (by norm_num))
  exact (Real.exp_le_exp.2 (by exact_mod_cast hx)).trans_lt h

theorem nearOne_roundsAs_exp {above : Bool} (hx : if above = true then 0 < x else x < 0) (hsmall : |x| < 2 ^ (-t.need - 1 : ℤ)) :
    (nearOne t.need above).RoundsAs t (Real.exp x) := by
  have hlt : (2 : ℝ) ^ (-t.need - 1 : ℤ) ≤ 1 := zpow_le_one_of_nonpos₀ one_le_two (by omega)
  have hexp := Real.abs_exp_sub_one_le (hsmall.le.trans hlt)
  have hdouble : (2 : ℝ) ^ (-t.need : ℤ) = 2 * 2 ^ (-t.need - 1 : ℤ) := by rw [← zpow_one_add₀ two_ne_zero, add_sub_cancel]
  obtain ⟨h1, h2⟩ := abs_le.1 hexp
  cases above with
  | true => exact nearOne_above_roundsAs ht (Real.one_lt_exp_iff.2 hx) (by linarith)
  | false => exact nearOne_below_roundsAs ht (by linarith) (Real.exp_lt_one_iff.2 hx)

/-! ### e^x and 2^x -/

section
variable {m : Nat} {e : ℤ} (hm : Moderate m e) {w : Nat} (hw : 198 ≤ w) (hw' : w ≤ 3496) {X : Mag}
include hm

omit ht in
theorem signed_sign (neg : Bool) : if (!neg) = true then 0 < signed neg (m * 2 ^ e) else signed neg ((m : ℝ) * 2 ^ e) < 0 := by
  have hpos := hm.value_pos
  cases neg <;> simpa using hpos

/-- An exponential of large size. -/
theorem extreme_roundsAs_exp {c : ℝ} (hc : 1 / 2 ≤ c) (neg : Bool) (hq : 20 < e + blen m) :
    (if neg then tinyMag else hugeMag).RoundsAs t (Real.exp (signed neg (m * 2 ^ e) * c)) := by
  have hbig : (2 : ℝ) ^ (20 : ℤ) ≤ m * 2 ^ e := (zpow_le_zpow_right₀ one_le_two (by omega)).trans (two_zpow_le hm.pos e)
  norm_num at hbig
  cases neg with
  | false =>
    rw [if_neg Bool.false_ne_true]
    exact hugeMag_roundsAs_exp ht (by rw [signed_false]; nlinarith)
  | true =>
    rw [if_pos rfl]
    exact tinyMag_roundsAs_exp ht (by rw [signed_true]; nlinarith)

include hw hw'

theorem expTry_roundsAs (neg : Bool) (h : expTry t.need neg m e w = some X) : X.RoundsAs t (Real.exp (signed neg (m * 2 ^ e))) := by
  unfold expTry at h
  dsimp only at h
  by_cases hq : e + blen m > 20
  · rw [if_pos hq] at h
    rw [← Option.some.inj h, ← mul_one (signed neg _)]
    exact extreme_roundsAs_exp ht hm (by norm_num) neg hq
  by_cases hsmall : e + blen m < -(t.need + 4 : ℤ)
  · rw [if_neg hq, if_pos hsmall] at h
    rw [← Option.some.inj h]
    refine nearOne_roundsAs_exp ht (signed_sign hm neg) ?_
    rw [abs_signed, abs_of_nonneg (by positivity)]
    exact (lt_two_zpow m e).trans_le (zpow_le_zpow_right₀ one_le_two (by omega))
  · rw [if_neg hq, if_neg hsmall] at h
    obtain ⟨hnear, hsize⟩ := fxOf_near (w + 64) neg m e
    have hlt : (m : ℝ) * 2 ^ e ≤ 2 ^ 20 := le_two_pow (by omega)
    have hbig := two_pow_ge (w := w + 64) (by omega)
    obtain ⟨hexp, -⟩ := fxExp_near (w := w + 64) (by omega) (by omega) hnear (by linarith) (K := 2 ^ 20) (by norm_num) le_rfl
      (hsize.trans (mul_le_mul_of_nonneg_right hlt (by positivity)))
    have hround := (roundsAs_of_fxNear ht h hexp (by norm_num)).1
    rwa [abs_of_pos (Real.exp_pos _)] at hround

omit ht hm hw hw' in
/-- A datum that is an integer, as one. -/
theorem shiftBy_exact {m : Nat} {e : ℤ} (h : 0 ≤ e ∨ m % 2 ^ (-e).toNat = 0) : ((shiftBy m e : ℕ) : ℝ) = m * 2 ^ e := by
  unfold shiftBy
  split
  case isTrue he =>
    have hdvd : m / 2 ^ (-e).toNat * 2 ^ (-e).toNat = m := Nat.div_mul_cancel (Nat.dvd_of_mod_eq_zero (h.resolve_left (by omega)))
    have hcast : ((m / 2 ^ (-e).toNat : ℕ) : ℝ) * 2 ^ (-e).toNat = m := by exact_mod_cast hdvd
    rw [← hcast, mul_assoc, ← zpow_natCast, ← zpow_add₀ two_ne_zero, Int.toNat_of_nonneg (by omega), neg_add_cancel, zpow_zero, mul_one]
  case isFalse he =>
    push_cast
    rw [← zpow_natCast, Int.toNat_of_nonneg (by omega)]

theorem exp2Try_roundsAs (neg : Bool) (h : exp2Try t.need neg m e w = some X) : X.RoundsAs t ((2 : ℝ) ^ (signed neg (m * 2 ^ e))) := by
  have hl1 := Real.log_two_gt_d9
  have hl2 := Real.log_two_lt_d9
  have hval : (2 : ℝ) ^ (signed neg (m * 2 ^ e)) = Real.exp (signed neg (m * 2 ^ e) * Real.log 2) := by
    rw [Real.rpow_def_of_pos two_pos, mul_comm]
  unfold exp2Try at h
  dsimp only at h
  by_cases hq : e + blen m > 20
  · rw [if_pos hq] at h
    rw [← Option.some.inj h, hval]
    exact extreme_roundsAs_exp ht hm (by linarith) neg hq
  by_cases hint : e ≥ 0 ∨ m % 2 ^ (-e).toNat = 0
  · rw [if_neg hq, if_pos hint] at h
    rw [← Option.some.inj h]
    refine (Mag.standsFor_exact (n := t.p + 63) one_pos ?_).roundsAs ht le_rfl
    rw [← shiftBy_exact hint, Nat.cast_one, one_mul, ← Real.rpow_intCast]
    congr 1
    cases neg <;> simp [signed]
  by_cases hsmall : e + blen m < -(t.need + 4 : ℤ)
  · rw [if_neg hq, if_neg hint, if_pos hsmall] at h
    rw [← Option.some.inj h, hval]
    refine nearOne_roundsAs_exp ht ?_ ?_
    · have := signed_sign hm neg
      cases neg
      · exact mul_pos this (by linarith)
      · exact mul_neg_of_neg_of_pos this (by linarith)
    · rw [abs_mul, abs_signed, abs_of_nonneg (by positivity), abs_of_pos (by linarith : (0 : ℝ) < Real.log 2)]
      refine lt_of_le_of_lt (mul_le_of_le_one_right (by positivity) (by linarith)) ?_
      exact (lt_two_zpow m e).trans_le (zpow_le_zpow_right₀ one_le_two (by omega))
  · rw [if_neg hq, if_neg hint, if_neg hsmall] at h
    obtain ⟨hnear, -⟩ := fxOf_near (w + 64) neg m e
    have hlt : (m : ℝ) * 2 ^ e ≤ 2 ^ 20 := le_two_pow (by omega)
    have hbig := two_pow_ge (w := w + 64) (by omega)
    have hwR : ((w + 64 : ℕ) : ℝ) ≤ 3560 := by exact_mod_cast (by omega : w + 64 ≤ 3560)
    have h2 : (0 : ℝ) < 2 ^ (w + 64) := by positivity
    have habs : |signed neg ((m : ℝ) * 2 ^ e)| ≤ 2 ^ 20 := by rw [abs_signed, abs_of_nonneg (by positivity)]; exact hlt
    have hmul := hnear.mul (fxLn2_near (w := w + 64) (by omega)) (c := 1) (by
      rw [abs_of_pos (by linarith : (0 : ℝ) < Real.log 2)]
      have : (8 * ((w + 64 : ℕ) : ℝ) + 80) / 2 ^ (w + 64) ≤ 1 / 10 := by
        rw [div_le_iff₀ h2]
        nlinarith
      linarith)
    have hmul' := hmul.mono (d' := 2 ^ 35) (by nlinarith [Nat.cast_nonneg (α := ℝ) (w + 64)])
    have hsize : |(fxMul (w + 64) (fxOf (w + 64) neg m e) (fxLn2 (w + 64)) : ℝ)| ≤ 2 ^ 20 * 2 ^ (w + 64) := by
      have h1 := hmul'.abs_le
      rw [abs_mul, abs_of_pos (by linarith : (0 : ℝ) < Real.log 2)] at h1
      have h3 : |signed neg ((m : ℝ) * 2 ^ e)| * Real.log 2 ≤ 2 ^ 20 * (7 / 10) := mul_le_mul habs (by linarith) (by linarith) (by norm_num)
      nlinarith
    obtain ⟨hexp, -⟩ := fxExp_near (w := w + 64) (by omega) (by omega) hmul' (by linarith) (K := 2 ^ 20) (by norm_num) le_rfl hsize
    have hround := (roundsAs_of_fxNear ht h hexp (by norm_num)).1
    rwa [abs_of_pos (Real.exp_pos _), ← hval] at hround

/-! ### ln and log₂ -/

omit ht hm hw hw' in
theorem logb_two_zpow (k : ℤ) : Real.logb 2 ((2 : ℝ) ^ k) = k := by rw [← Real.rpow_intCast, Real.logb_rpow two_pos (by norm_num)]

omit ht hw hw' in
theorem abs_exponent_le : |((e + blen m : ℤ) : ℝ)| ≤ 16881 := by
  rw [← Int.cast_abs]
  exact_mod_cast hm.exp_le

theorem lnTry_roundsAs (h : lnTry t.need m e w = some X) : X.RoundsAs t |Real.log (m * 2 ^ e)| := by
  have hbits := hm.bits
  have hwR : ((w + 64 : ℕ) : ℝ) ≤ 3560 := by exact_mod_cast (by omega : w + 64 ≤ 3560)
  have hln := fxLn_near (w := w + 64) (by omega) hm.pos (by omega) e
  refine (roundsAs_of_fxNear_zero ht h hln ?_).1
  nlinarith [abs_exponent_le hm, abs_nonneg ((e + blen m : ℤ) : ℝ), Nat.cast_nonneg (α := ℝ) (w + 64)]

theorem log2Try_roundsAs (hx : (m : ℝ) * 2 ^ e ≠ 1) (h : log2Try t.need m e w = some X) : X.RoundsAs t |Real.logb 2 (m * 2 ^ e)| := by
  unfold log2Try at h
  dsimp only at h
  split_ifs at h with hpow
  · have hval : (m : ℝ) * 2 ^ e = 2 ^ (e + blen m - 1) := by
      have hcast : (m : ℝ) = 2 ^ (blen m - 1) := by exact_mod_cast hpow
      have hb : 0 < blen m := two_pow_le_iff_blen.1 (by rw [pow_zero]; exact hm.pos)
      rw [hcast, ← zpow_natCast, ← zpow_add₀ two_ne_zero]
      congr 1
      omega
    have hlog : Real.logb 2 ((m : ℝ) * 2 ^ e) = ((e + blen m - 1 : ℤ) : ℝ) := by
      rw [hval, logb_two_zpow]
    rw [← Option.some.inj h, hlog]
    refine (Mag.standsFor_exact (n := t.p + 63) ?_ ?_).roundsAs ht le_rfl
    · refine Int.natAbs_pos.2 fun h0 => hx ?_
      rw [hval, h0, zpow_zero]
    · rw [zpow_zero, mul_one, Nat.cast_natAbs, Int.cast_abs]
  · have hbits := hm.bits
    have hwR : ((w + 64 : ℕ) : ℝ) ≤ 3560 := by exact_mod_cast (by omega : w + 64 ≤ 3560)
    have hw0 := Nat.cast_nonneg (α := ℝ) (w + 64)
    have hq := abs_exponent_le hm
    have hq0 := abs_nonneg ((e + blen m : ℤ) : ℝ)
    have hln := (fxLn_near (w := w + 64) (by omega) hm.pos (by omega) e).mono (d' := 2 ^ 29) (by nlinarith)
    have hl1 := Real.log_two_gt_d9
    have hl2 := Real.log_two_lt_d9
    have hpos := hm.value_pos
    have hlog : |Real.logb 2 (m * 2 ^ e)| ≤ 16882 := by
      have hlo := Real.logb_le_logb_of_le one_lt_two (by positivity) (two_zpow_le hm.pos e)
      have hhi := Real.logb_le_logb_of_le one_lt_two hpos (lt_two_zpow m e).le
      rw [logb_two_zpow] at hlo hhi
      push_cast at hlo hhi hq
      obtain ⟨h1, h3⟩ := abs_le.1 hq
      exact abs_le.2 ⟨by linarith, by linarith⟩
    obtain ⟨hl, -⟩ := fxLn2_bounds (w := w + 64) (by omega) (by omega)
    have hdiv := hln.div (fxLn2_near (w := w + 64) (by omega)) (c := 69 / 100) (by linarith) (by norm_num) hl
    refine (roundsAs_of_fxNear_zero ht h hdiv ?_).1
    have herr : |Real.log (m * 2 ^ e) / Real.log 2| * (8 * ((w + 64 : ℕ) : ℝ) + 80) ≤ 16882 * (8 * 3560 + 80) :=
      mul_le_mul hlog (by linarith) (by positivity) (by norm_num)
    rw [← lt_sub_iff_add_lt, div_lt_iff₀ (by norm_num)]
    linarith

end

end

/-- The sign of a logarithm. -/
theorem log_neg_iff_exponent {m : Nat} {e : ℤ} (hm : 0 < m) : Real.log (m * 2 ^ e) < 0 ↔ e + blen m ≤ 0 := by
  have hpos : (0 : ℝ) < m * 2 ^ e := mul_pos (by exact_mod_cast hm) (by positivity)
  rw [Real.log_neg_iff hpos]
  constructor
  · intro hlt
    by_contra hq
    have h1 : (1 : ℝ) ≤ 2 ^ (e + blen m - 1) := one_le_zpow₀ one_le_two (by omega)
    linarith [two_zpow_le hm e]
  · intro hq
    exact (lt_two_zpow m e).trans_le (zpow_le_one_of_nonpos₀ one_le_two hq)

end Sys2Proof.Machine
end

section
/-! SUPPORT. What each try of sin, cos and tanh settles rounds as the value of the function (R246). -/

namespace Sys2Proof.Machine

/-! ### The reduced angle -/

theorem FxNear.drop {w s : Nat} {a : ℤ} {v d : ℝ} (h : FxNear (w + s) a v d) : FxNear w (a / 2 ^ s) v (d / 2 ^ s + 1) := by
  have h2 : (0 : ℝ) < 2 ^ s := by positivity
  have hfloor := abs_intDiv_sub_le a (b := 2 ^ s) (by positivity)
  push_cast at hfloor
  have hsplit : ((a / 2 ^ s : ℤ) : ℝ) - v * 2 ^ w = (a - v * 2 ^ (w + s)) / 2 ^ s + (((a / 2 ^ s : ℤ) : ℝ) - a / 2 ^ s) := by
    rw [pow_add]
    field_simp
    ring
  rw [FxNear, hsplit]
  refine (abs_add_le _ _).trans (add_le_add ?_ hfloor)
  rw [abs_div, abs_of_pos h2]
  exact div_le_div_of_nonneg_right h h2.le

/-- π/2 with `w + Q + 16` fraction bits, as wide as the reduction of an angle below 2^Q takes it. -/
theorem fxHalfPi_near {w Q : Nat} (hw : 200 ≤ w) (hwQ : w + Q ≤ 25073) : FxNear (w + (Q + 16)) (fxPi (w + (Q + 16)) / 2) (Real.pi / 2) 1004000 ∧
    3 / 2 * (2 : ℝ) ^ (w + (Q + 16)) ≤ (fxPi (w + (Q + 16)) / 2 : ℤ) ∧ ((fxPi (w + (Q + 16)) / 2 : ℤ) : ℝ) ≤ 158 / 100 * 2 ^ (w + (Q + 16)) := by
  have hx : ((w + (Q + 16) : ℕ) : ℝ) ≤ 25089 := by exact_mod_cast (by omega : w + (Q + 16) ≤ 25089)
  have hp := (fxPi_near (w := w + (Q + 16)) (by omega)).div_int (b := 2) two_pos
  rw [Int.cast_ofNat] at hp
  have hp' := hp.mono (d' := 1004000) (by linarith)
  have hbig := two_pow_ge (w := w + (Q + 16)) (by omega)
  have hpi1 := Real.pi_gt_d6
  have hpi2 := Real.pi_lt_d6
  obtain ⟨h1, h2⟩ := abs_le.1 hp'
  exact ⟨hp', by nlinarith, by nlinarith⟩

/-- The remainder of an angle below 2^Q after its nearest multiple of π/2. -/
theorem fxReduce_near {w Q : Nat} (hw : 200 ≤ w) (hwQ : w + Q ≤ 25073) {y : ℤ} {v : ℝ} (hy : FxNear (w + (Q + 16)) y v 1)
    (hsize : |(y : ℝ)| ≤ 2 ^ Q * 2 ^ (w + (Q + 16))) :
    let p := fxPi (w + (Q + 16)) / 2
    let k := (y + p / 2) / p
    FxNear w ((y - k * p) / 2 ^ (Q + 16)) (v - k * (Real.pi / 2)) 40 ∧ |(((y - k * p) / 2 ^ (Q + 16) : ℤ) : ℝ) / 2 ^ w| ≤ 4 / 5 := by
  intro p k
  obtain ⟨hp, hplo, hphi⟩ : FxNear (w + (Q + 16)) p (Real.pi / 2) 1004000 ∧ 3 / 2 * (2 : ℝ) ^ (w + (Q + 16)) ≤ p ∧
    (p : ℝ) ≤ 158 / 100 * 2 ^ (w + (Q + 16)) := fxHalfPi_near hw hwQ
  have hX : (0 : ℝ) < 2 ^ (w + (Q + 16)) := by positivity
  have hp0R : (0 : ℝ) < p := by linarith
  have hp0 : 0 < p := by exact_mod_cast hp0R
  obtain ⟨hrem, hkp⟩ : |(y : ℝ) - k * p| ≤ (p + 1) / 2 ∧ |(k : ℝ)| * p ≤ |(y : ℝ)| + (p + 1) / 2 := nearest_multiple hp0 y
  clear_value k p
  have hbig := two_pow_ge (w := w) hw
  have hXbig : (2 : ℝ) ^ w ≤ 2 ^ (w + (Q + 16)) := pow_le_pow_right₀ one_le_two (by omega)
  have hB1 : (1 : ℝ) ≤ 2 ^ Q := one_le_pow₀ one_le_two
  have hk : |(k : ℝ)| ≤ 2 ^ Q + 1 := by
    by_contra hbad
    rw [not_le] at hbad
    nlinarith
  constructor
  · refine (hy.sub (hp.int_mul k)).drop.mono ?_
    have hle : (1 + |(k : ℝ)| * 1004000) / 2 ^ (Q + 16) ≤ 39 := by
      rw [div_le_iff₀ (by positivity), pow_add]
      linarith
    linarith
  · have hdrop := abs_intDiv_sub_le (y - k * p) (b := 2 ^ (Q + 16)) (by positivity)
    push_cast at hdrop
    have h2 : (0 : ℝ) < 2 ^ w := by positivity
    have hs : (0 : ℝ) < 2 ^ (Q + 16) := by positivity
    have hq : |((y : ℝ) - k * p) / 2 ^ (Q + 16)| ≤ 795 / 1000 * 2 ^ w := by
      rw [abs_div, abs_of_pos hs, div_le_iff₀ hs, mul_assoc, ← pow_add]
      linarith
    have habs := abs_sub_abs_le_abs_sub (((y - k * p) / 2 ^ (Q + 16) : ℤ) : ℝ) (((y : ℝ) - k * p) / 2 ^ (Q + 16))
    rw [abs_div, abs_of_pos h2, div_le_iff₀ h2]
    linarith

/-- The quadrant and the remainder of an angle. -/
theorem reduceAngle_near {w m : Nat} {e : ℤ} (hm : Moderate m e) (hw : 200 ≤ w) (hw' : w ≤ 8192) :
    ∃ k : ℤ, (reduceAngle w m e).1 = (k % 4).toNat ∧ FxNear w (reduceAngle w m e).2 (m * 2 ^ e - k * (Real.pi / 2)) 40 ∧
      |((reduceAngle w m e).2 : ℝ) / 2 ^ w| ≤ 4 / 5 := by
  unfold reduceAngle
  dsimp only
  obtain ⟨Q, hQ⟩ : ∃ Q, Q = (e + blen m).toNat := ⟨_, rfl⟩
  have hQ' : Q ≤ 16881 := by have := hm.exp_le; rw [abs_le] at this; omega
  rw [← hQ, show w + Q + 16 - w = Q + 16 by omega, show w + Q + 16 = w + (Q + 16) by ring]
  obtain ⟨hy, hysize⟩ := fxOf_near (w + (Q + 16)) false m e
  rw [signed_false] at hy
  have hle : (m : ℝ) * 2 ^ e ≤ 2 ^ Q := le_two_pow (by omega)
  obtain ⟨hnear, hsmall⟩ := fxReduce_near hw (by omega) hy (hysize.trans (mul_le_mul_of_nonneg_right hle (by positivity)))
  exact ⟨_, rfl, hnear, hsmall⟩

theorem abs_sin_sub_sin_le_abs (a b : ℝ) : |Real.sin a - Real.sin b| ≤ |a - b| := by
  have h := Convex.norm_image_sub_le_of_norm_hasDerivWithin_le (f := Real.sin) (f' := Real.cos) (C := 1) (s := Set.univ)
    (fun x _ => (Real.hasDerivAt_sin x).hasDerivWithinAt) (fun x _ => Real.abs_cos_le_one x) convex_univ (Set.mem_univ b) (Set.mem_univ a)
  simpa using h

/-- The fixed-point sine and cosine of a small angle that stands near another. -/
theorem fxSin_fxCos_near {w : Nat} (hw : 6 ≤ w) {r : ℤ} {v d : ℝ} (h : FxNear w r v d) (hr : |(r : ℝ) / 2 ^ w| ≤ 4 / 5) :
    FxNear w (fxSin w r) (Real.sin v) (4 * w + 38 + d) ∧ FxNear w (fxCos w r) (Real.sin (v + Real.pi / 2)) (4 * w + 38 + d) := by
  constructor
  · exact (sinSeries_near hw hr le_rfl (by field_simp) (Real.hasSum_sin _)).of_slope abs_sin_sub_sin_le_abs h
  · have hcos := sinSeries_near hw hr zero_le_one (t := 2 ^ w) (by simp) (Real.hasSum_cos _)
    rw [← Real.sin_add_pi_div_two] at hcos
    refine hcos.of_slope (f := fun x => Real.sin (x + Real.pi / 2)) (fun x y => ?_) h
    have hslope := abs_sin_sub_sin_le_abs (x + Real.pi / 2) (y + Real.pi / 2)
    rwa [add_sub_add_right_eq_sub] at hslope

/-- A sine by the quadrant of its angle. -/
theorem sin_add_quadrants (v : ℝ) (k : ℤ) : Real.sin (v + k * (Real.pi / 2)) =
    match (k % 4).toNat with
    | 0 => Real.sin v | 1 => Real.sin (v + Real.pi / 2) | 2 => -Real.sin v | _ => -Real.sin (v + Real.pi / 2) := by
  have hk : (k : ℝ) = ((k / 4 : ℤ) : ℝ) * 4 + ((k % 4 : ℤ) : ℝ) := by exact_mod_cast (Int.ediv_mul_add_emod k 4).symm
  have hmove : v + k * (Real.pi / 2) = v + ((k % 4 : ℤ) : ℝ) * (Real.pi / 2) + ((k / 4 : ℤ) : ℝ) * (2 * Real.pi) := by rw [hk]; ring
  rw [hmove, Real.sin_add_int_mul_two_pi]
  have h0 := Int.emod_nonneg k (b := 4) (by norm_num)
  have h4 := Int.emod_lt_of_pos k (b := 4) (by norm_num)
  generalize k % 4 = s at h0 h4 ⊢
  obtain rfl | rfl | rfl | rfl : s = 0 ∨ s = 1 ∨ s = 2 ∨ s = 3 := by omega
  · simp
  · simp
  · rw [show v + ((2 : ℤ) : ℝ) * (Real.pi / 2) = v + Real.pi by push_cast; ring, Real.sin_add_pi]
    rfl
  · rw [show v + ((3 : ℤ) : ℝ) * (Real.pi / 2) = v + Real.pi / 2 + Real.pi by push_cast; ring, Real.sin_add_pi]
    rfl

/-- sin, or cos as the sine of the angle a quarter turn on. -/
theorem fxSinCos_near {w m : Nat} {e : ℤ} (hm : Moderate m e) (hw : 200 ≤ w) (hw' : w ≤ 8192) (cos : Bool) :
    FxNear w (fxSinCos w cos m e) (if cos then Real.cos (m * 2 ^ e) else Real.sin (m * 2 ^ e)) (4 * w + 78) := by
  obtain ⟨k, hk, hr, hsmall⟩ := reduceAngle_near hm hw hw'
  obtain ⟨hsin, hcos⟩ := fxSin_fxCos_near (by omega) hr hsmall
  have hd : 4 * (w : ℝ) + 38 + 40 = 4 * w + 78 := by ring
  rw [hd] at hsin hcos
  obtain ⟨c, hc⟩ : ∃ c : ℤ, c = if cos then 1 else 0 := ⟨_, rfl⟩
  have hval : (if cos then Real.cos ((m : ℝ) * 2 ^ e) else Real.sin (m * 2 ^ e)) = Real.sin ((m * 2 ^ e - k * (Real.pi / 2)) + ((k + c : ℤ) : ℝ) * (Real.pi / 2)) := by
    rw [hc]
    cases cos
    · simp
    · rw [if_pos rfl, if_pos rfl, ← Real.sin_add_pi_div_two]
      congr 1
      push_cast
      ring
  have hidx : ((k % 4).toNat + if cos then 1 else 0) % 4 = ((k + c) % 4).toNat := by
    rw [hc]
    cases cos <;> simp only [if_true, if_false, Bool.false_eq_true] <;> omega
  rw [hval, sin_add_quadrants]
  unfold fxSinCos
  dsimp only
  rw [hk, hidx]
  generalize ((k + c) % 4).toNat = j
  match j with
  | 0 => exact hsin
  | 1 => exact hcos
  | 2 => exact hsin.neg
  | _ + 3 => exact hcos.neg

/-! ### sin and cos -/

section
variable {t : Target} (ht : t.Bounded) {m : Nat} {e : ℤ} (hm : Moderate m e)
include ht hm

theorem cos_small_roundsAs (hq : 2 * (e + blen m) < -(t.need + 2 : ℤ)) : 0 < Real.cos (m * 2 ^ e) ∧ (nearOne t.need false).RoundsAs t (Real.cos (m * 2 ^ e)) := by
  have hpos := hm.value_pos
  have hsq : ((m : ℝ) * 2 ^ e) ^ 2 < 2 ^ (-t.need : ℤ) :=
    calc ((m : ℝ) * 2 ^ e) ^ 2 < (2 ^ (e + blen m)) ^ 2 := pow_lt_pow_left₀ (lt_two_zpow m e) hpos.le two_ne_zero
      _ = 2 ^ (2 * (e + blen m)) := by rw [← zpow_natCast, ← zpow_mul, mul_comm]; rfl
      _ ≤ _ := zpow_le_zpow_right₀ one_le_two (by omega)
  have hle : (2 : ℝ) ^ (-t.need : ℤ) ≤ 1 := zpow_le_one_of_nonpos₀ one_le_two (by omega)
  have hlow := Real.one_sub_sq_div_two_le_cos (x := m * 2 ^ e)
  have hx1 : (m : ℝ) * 2 ^ e < 1 := by nlinarith
  have hhigh : Real.cos (m * 2 ^ e) < 1 := by
    rw [← Real.cos_zero]
    exact Real.cos_lt_cos_of_nonneg_of_le_pi le_rfl (by linarith [Real.pi_gt_three]) hpos
  exact ⟨by nlinarith, nearOne_below_roundsAs ht (by nlinarith) hhigh⟩

omit ht in
/-- The cube of a small operand is below the last of `n` bits more than its own. -/
theorem cube_lt {n : Nat} (hq : 2 * (e + blen m) < -(n + 2 + blen m : ℤ)) : ((m : ℝ) * 2 ^ e) ^ 3 < 2 ^ (e - n) := by
  have hpos := hm.value_pos
  calc ((m : ℝ) * 2 ^ e) ^ 3 < (2 ^ (e + blen m)) ^ 3 := pow_lt_pow_left₀ (lt_two_zpow m e) hpos.le three_ne_zero
    _ = 2 ^ (3 * (e + blen m)) := by rw [← zpow_natCast, ← zpow_mul, mul_comm]; rfl
    _ ≤ _ := zpow_le_zpow_right₀ one_le_two (by omega)

/-- A function that stays below its argument by less than the cube's half. -/
theorem just_below_roundsAs (hq : 2 * (e + blen m) < -(t.need + 2 + blen m : ℤ)) {z : ℝ}
    (hlo : (m : ℝ) * 2 ^ e - (m * 2 ^ e) ^ 3 / 2 ≤ z) (hhi : z < m * 2 ^ e) : 0 < z ∧ (⟨m * 2 ^ t.need - 1, e - t.need, true⟩ : Mag).RoundsAs t z := by
  have hcube := cube_lt hm hq
  have hpos := hm.value_pos
  have hc0 : 0 < ((m : ℝ) * 2 ^ e) ^ 3 := pow_pos hpos 3
  have hunit : (2 : ℝ) ^ (e - t.need) ≤ m * 2 ^ e := by
    have hm1 : (1 : ℝ) ≤ m := by exact_mod_cast hm.pos
    have h2 : (2 : ℝ) ^ (e - t.need) ≤ 2 ^ e := zpow_le_zpow_right₀ one_le_two (by omega)
    exact h2.trans (le_mul_of_one_le_left (by positivity) hm1)
  exact ⟨by linarith, below_roundsAs ht hm.pos (by linarith) hhi⟩

/-- sin and cos of a positive angle: the sign and the magnitude that a try settles. -/
theorem sinCosTry_roundsAs {w : Nat} (hw : 198 ≤ w) (hw' : w ≤ 3496) (cos : Bool) {X : Bool × Mag} (h : sinCosTry t.need cos m e w = some X) :
    let z := if cos then Real.cos (m * 2 ^ e) else Real.sin (m * 2 ^ e)
    X.2.RoundsAs t |z| ∧ X.1 = decide (z < 0) ∧ z ≠ 0 := by
  intro z
  unfold sinCosTry at h
  dsimp only at h
  have hpos := hm.value_pos
  have hfinish : ∀ {Y : Mag}, 0 < z ∧ Y.RoundsAs t z → (false, Y) = X → X.2.RoundsAs t |z| ∧ X.1 = decide (z < 0) ∧ z ≠ 0 := by
    rintro Y ⟨hz, hY⟩ rfl
    exact ⟨by rwa [abs_of_pos hz], by rw [decide_eq_false hz.not_gt], hz.ne'⟩
  by_cases hc : (cos && decide (2 * (e + blen m) < -(t.need + 2 : ℤ))) = true
  · rw [if_pos hc] at h
    obtain ⟨rfl, hq⟩ : cos = true ∧ 2 * (e + blen m) < -(t.need + 2 : ℤ) := by simpa using hc
    exact hfinish (cos_small_roundsAs ht hm hq) (Option.some.inj h)
  by_cases hs : (!cos && decide (2 * (e + blen m) < -(t.need + 2 + blen m : ℤ))) = true
  · rw [if_neg hc, if_pos hs] at h
    obtain ⟨rfl, hq⟩ : cos = false ∧ 2 * (e + blen m) < -(t.need + 2 + blen m : ℤ) := by simpa using hs
    have hsin := Real.sin_gt_sub_cube hpos
    have hc0 : 0 < ((m : ℝ) * 2 ^ e) ^ 3 := pow_pos hpos 3
    exact hfinish (just_below_roundsAs ht hm hq (by linarith : _ ≤ Real.sin _) (Real.sin_lt hpos)) (Option.some.inj h)
  · rw [if_neg hc, if_neg hs] at h
    obtain ⟨Y, hY, rfl⟩ := Option.map_eq_some_iff.1 h
    have hwR : ((w + 64 : ℕ) : ℝ) ≤ 3560 := by exact_mod_cast (by omega : w + 64 ≤ 3560)
    have hnear := fxSinCos_near hm (w := w + 64) (by omega) (by omega) cos
    obtain ⟨hround, hsign, hne⟩ := roundsAs_of_fxNear_zero ht hY hnear (by linarith)
    exact ⟨hround, decide_eq_decide.2 hsign.symm, hne⟩

end

end Sys2Proof.Machine
end

section
/-! SUPPORT. What each try of tanh settles rounds as the value of the function (R246). -/

namespace Sys2Proof.Machine

theorem tanh_eq_exp_two_mul (x : ℝ) : Real.tanh x = (Real.exp (2 * x) - 1) / (Real.exp (2 * x) + 1) := by
  rw [Real.tanh_eq, two_mul, Real.exp_add, Real.exp_neg]
  have := Real.exp_pos x
  field_simp

theorem tanh_lt_self {x : ℝ} (hx : 0 < x) : Real.tanh x < x := by
  rw [Real.tanh_eq_sinh_div_cosh, div_lt_iff₀ (Real.cosh_pos x)]
  refine hasSum_lt (i := 1) (fun n => ?_) ?_ (Real.hasSum_sinh x) ((Real.hasSum_cosh x).mul_left x)
  · rw [pow_succ, mul_comm, mul_div_assoc]
    refine mul_le_mul_of_nonneg_left (div_le_div_of_nonneg_left (by positivity) (by positivity) ?_) hx.le
    exact Nat.cast_le.2 (Nat.factorial_le (Nat.le_succ (2 * n)))
  · norm_num [Nat.factorial]
    have : 0 < x ^ 3 := pow_pos hx 3
    have hpow : x * (x ^ 2 / 2) = x ^ 3 / 2 := by ring
    rw [hpow]
    linarith

theorem self_sub_cube_le_tanh {x : ℝ} (hx : 0 < x) : x - x ^ 3 / 2 ≤ Real.tanh x := by
  have hcosh := Real.cosh_le_exp_half_sq x
  have hsinh := Real.self_le_sinh_iff.2 hx.le
  rw [Real.tanh_eq_sinh_div_cosh]
  have hinv : 1 - x ^ 2 / 2 ≤ 1 / Real.cosh x := by
    have h1 := Real.add_one_le_exp (-(x ^ 2 / 2))
    rw [Real.exp_neg, ← one_div] at h1
    have h2 : 1 / Real.exp (x ^ 2 / 2) ≤ 1 / Real.cosh x := one_div_le_one_div_of_le (Real.cosh_pos x) hcosh
    linarith
  calc x - x ^ 3 / 2 = x * (1 - x ^ 2 / 2) := by ring
    _ ≤ x * (1 / Real.cosh x) := mul_le_mul_of_nonneg_left hinv hx.le
    _ ≤ Real.sinh x * (1 / Real.cosh x) := mul_le_mul_of_nonneg_right hsinh (one_div_nonneg.2 (Real.cosh_pos x).le)
    _ = Real.sinh x / Real.cosh x := mul_one_div _ _

/-- The scale of an exponential of a number that is not negative. -/
theorem fxExp_scale_nonneg {w : Nat} (hw : 200 ≤ w) (hw' : w ≤ 8192) {y : ℤ} (hy : 0 ≤ y) : 0 ≤ (fxExp w y).2 := by
  have hl : (0 : ℝ) < fxLn2 w := lt_of_lt_of_le (by positivity) (fxLn2_bounds hw hw').1
  have hl' : 0 < fxLn2 w := by exact_mod_cast hl
  exact Int.ediv_nonneg (by omega) hl'.le

/-- A fixed-point number near a positive one, scaled up by a power of two. -/
theorem FxNear.scale_up {w : Nat} {a k : ℤ} {v d : ℝ} (hv : 0 ≤ v) (hk : 0 ≤ k) (h : FxNear w a (v * 2 ^ (-k)) d) :
    FxNear w (shiftBy a.toNat k) v (d * 2 ^ k) := by
  have h2 : (0 : ℝ) < 2 ^ k := by positivity
  have hcut : |((a.toNat : ℕ) : ℝ) - v * 2 ^ (-k) * 2 ^ w| ≤ d := by
    rcases le_or_gt 0 a with ha | ha
    · have hcast : ((a.toNat : ℕ) : ℝ) = a := by exact_mod_cast Int.toNat_of_nonneg ha
      rw [hcast]
      exact h
    · have haR : (a : ℝ) < 0 := by exact_mod_cast ha
      have hvv : 0 ≤ v * 2 ^ (-k) * 2 ^ w := by positivity
      rw [Int.toNat_of_nonpos ha.le, Nat.cast_zero, zero_sub, abs_neg, abs_of_nonneg hvv]
      have := neg_le_abs ((a : ℝ) - v * 2 ^ (-k) * 2 ^ w)
      rw [FxNear] at h
      linarith
  have hval : ((shiftBy a.toNat k : ℕ) : ℝ) = a.toNat * 2 ^ k := shiftBy_exact (Or.inl hk)
  have hone : (2 : ℝ) ^ (-k) * 2 ^ k = 1 := by rw [← zpow_add₀ two_ne_zero, neg_add_cancel, zpow_zero]
  rw [FxNear, Int.cast_natCast, hval, show (a.toNat : ℝ) * 2 ^ k - v * 2 ^ w = (a.toNat - v * 2 ^ (-k) * 2 ^ w) * 2 ^ k by linear_combination (v * 2 ^ w) * hone,
    abs_mul, abs_of_pos h2]
  exact mul_le_mul_of_nonneg_right hcut h2.le

/-- The quotient (a − 1) / (a + 1) of an exponential known to a small part of itself. -/
theorem fxTanh_near {w : Nat} (hw : 200 ≤ w) {a : ℤ} {E d : ℝ} (hE : 1 ≤ E) (hd : d ≤ 2 ^ 35 * E) (h : FxNear w a E d) :
    FxNear w (fxDiv w (a - 2 ^ w) (a + 2 ^ w)) ((E - 1) / (E + 1)) (2 ^ 38) := by
  have hbig := two_pow_ge hw
  have hd0 : 0 ≤ d := (abs_nonneg _).trans h
  have hone : FxNear w (2 ^ w) 1 0 := by
    rw [FxNear]
    push_cast
    rw [one_mul, sub_self, abs_zero]
  have hnum := (h.sub hone).mono (d' := d) (by linarith)
  have hden := (h.add hone).mono (d' := d) (by linarith)
  have hb : (E + 1) / 2 * (2 : ℝ) ^ w ≤ ((a + 2 ^ w : ℤ) : ℝ) := by
    rw [FxNear] at h
    have h1 := (abs_le.1 h).1
    have hda : d ≤ E * 2 ^ w / 4 := by nlinarith
    push_cast
    nlinarith
  refine (hnum.div hden (by linarith) (by linarith) hb).mono ?_
  have hq : |(E - 1) / (E + 1)| ≤ 1 := by
    rw [abs_div, abs_of_nonneg (by linarith : (0 : ℝ) ≤ E - 1), abs_of_pos (by linarith : (0 : ℝ) < E + 1)]
    exact div_le_one_of_le₀ (by linarith) (by linarith)
  have hle : (d + |(E - 1) / (E + 1)| * d) / ((E + 1) / 2) ≤ 2 ^ 37 := by
    rw [div_le_iff₀ (by linarith)]
    nlinarith
  linarith

section
variable {t : Target} (ht : t.Bounded) {m : Nat} {e : ℤ} (hm : Moderate m e) {w : Nat} (hw : 198 ≤ w) (hw' : w ≤ 3496) {X : Mag}
include ht hm hw hw'

/-- tanh of a positive number: the magnitude that a try settles. -/
theorem tanhTry_roundsAs (h : tanhTry t.need m e w = some X) : 0 < Real.tanh (m * 2 ^ e) ∧ X.RoundsAs t (Real.tanh (m * 2 ^ e)) := by
  have hpos := hm.value_pos
  have hval := tanh_eq_exp_two_mul ((m : ℝ) * 2 ^ e)
  have hE : 1 < Real.exp (2 * (m * 2 ^ e)) := Real.one_lt_exp_iff.2 (by linarith)
  have htanh : 0 < Real.tanh (m * 2 ^ e) := by
    rw [hval]
    exact div_pos (by linarith) (by linarith)
  refine ⟨htanh, ?_⟩
  unfold tanhTry at h
  dsimp only at h
  by_cases hq : e + blen m > 10
  · rw [if_pos hq] at h
    rw [← Option.some.inj h]
    refine nearOne_below_roundsAs ht ?_ (Real.tanh_lt_one _)
    have hbig : (2 : ℝ) ^ (10 : ℤ) ≤ m * 2 ^ e := (zpow_le_zpow_right₀ one_le_two (by omega)).trans (two_zpow_le hm.pos e)
    have hexp : (2 : ℝ) ^ 1024 < Real.exp (2 * (m * 2 ^ e)) := by
      refine (two_pow_lt_exp (n := 1024) (by norm_num)).trans_le (Real.exp_le_exp.2 ?_)
      norm_num at hbig ⊢
      linarith
    have hneed : (2 : ℝ) ^ (-t.need : ℤ) * 2 ^ 1024 ≥ 2 := by
      have hp := ht.p_le
      have h1 : (2 : ℝ) ^ (1 : ℤ) ≤ 2 ^ (-t.need + ((1024 : ℕ) : ℤ)) := zpow_le_zpow_right₀ one_le_two (by unfold Target.need; push_cast; omega)
      rwa [zpow_add₀ two_ne_zero, zpow_natCast, zpow_one] at h1
    have h2 : (0 : ℝ) < 2 ^ (-t.need : ℤ) := by positivity
    rw [hval, lt_div_iff₀ (by positivity)]
    generalize (2 : ℝ) ^ 1024 = P at hexp hneed
    nlinarith
  by_cases hs : 2 * (e + blen m) < -(t.need + 2 + blen m : ℤ)
  · rw [if_neg hq, if_pos hs] at h
    rw [← Option.some.inj h]
    exact (just_below_roundsAs ht hm hs (self_sub_cube_le_tanh hpos) (tanh_lt_self hpos)).2
  · rw [if_neg hq, if_neg hs] at h
    obtain ⟨hnear, hsize⟩ := fxOf_near (w + 64) false m e
    rw [signed_false] at hnear
    have hlt : (m : ℝ) * 2 ^ e ≤ 2 ^ 10 := le_two_pow (by omega)
    have hbig := two_pow_ge (w := w + 64) (by omega)
    have h2 : (0 : ℝ) < 2 ^ (w + 64) := by positivity
    have harg := (hnear.int_mul 2).mono (d' := 2) (by norm_num)
    have hargsize : |((2 * fxOf (w + 64) false m e : ℤ) : ℝ)| ≤ 2 ^ 11 * 2 ^ (w + 64) := by
      push_cast
      rw [abs_mul, abs_two]
      nlinarith
    have hnonneg : 0 ≤ 2 * fxOf (w + 64) false m e := by rw [fxOf_false]; positivity
    obtain ⟨hexp, hscale⟩ := fxExp_near (w := w + 64) (by omega) (by omega) harg (by linarith) (K := 2 ^ 11) (by norm_num) (by norm_num) hargsize
    have hk := fxExp_scale_nonneg (w := w + 64) (by omega) (by omega) hnonneg
    rw [Int.cast_ofNat] at hexp hscale
    have hup := hexp.scale_up (Real.exp_pos _).le hk
    have hpow : (2 : ℝ) ^ (fxExp (w + 64) (2 * fxOf (w + 64) false m e)).2 ≤ 2 * Real.exp (2 * (m * 2 ^ e)) := by
      generalize (fxExp (w + 64) (2 * fxOf (w + 64) false m e)).2 = k at hscale
      have hone : (2 : ℝ) ^ (-k) * 2 ^ k = 1 := by rw [← zpow_add₀ two_ne_zero, neg_add_cancel, zpow_zero]
      have hkpos : (0 : ℝ) < 2 ^ k := by positivity
      nlinarith
    have htanhNear := fxTanh_near (w := w + 64) (by omega) hE.le (by nlinarith) hup
    rw [← hval] at htanhNear
    have hround := (roundsAs_of_fxNear_zero ht h htanhNear (by norm_num)).1
    rwa [abs_of_pos htanh] at hround

end

end Sys2Proof.Machine
end

section
/-! SUPPORT. What each try of an angle settles rounds as the angle of its point (R247). -/

namespace Sys2Proof.Machine

/-! ### arctan near zero -/

theorem arctan_lt_self {x : ℝ} (hx : 0 < x) : Real.arctan x < x := by
  have h := Real.lt_tan (Real.arctan_pos.2 hx) (Real.arctan_lt_pi_div_two x)
  rwa [Real.tan_arctan] at h

theorem self_sub_cube_lt_arctan {x : ℝ} (hx : 0 < x) : x - x ^ 3 < Real.arctan x := by
  have hsin := Real.sin_lt (Real.arctan_pos.2 hx)
  rw [Real.sin_arctan] at hsin
  refine lt_of_le_of_lt ?_ hsin
  have hs : Real.sqrt (1 + x ^ 2) ≤ 1 + x ^ 2 := Real.sqrt_le_iff.2 ⟨by positivity, by nlinarith [sq_nonneg x]⟩
  have hs0 : 0 < Real.sqrt (1 + x ^ 2) := Real.sqrt_pos.2 (by positivity)
  rw [le_div_iff₀ hs0]
  rcases le_or_gt 0 (x - x ^ 3) with h | h
  · have h2 : (x - x ^ 3) * Real.sqrt (1 + x ^ 2) ≤ (x - x ^ 3) * (1 + x ^ 2) := mul_le_mul_of_nonneg_left hs h
    have h3 : (x - x ^ 3) * (1 + x ^ 2) = x - x ^ 5 := by ring
    have h5 : 0 < x ^ 5 := pow_pos hx 5
    linarith
  · exact (mul_neg_of_neg_of_pos h hs0).le.trans hx.le

/-! ### Quotients as tangents -/

/-- A quotient that is not exact lies a part of a unit above its significand, its denominator's size at least. -/
theorem divMag_gap {ma mb : Nat} (hb : 0 < mb) (ea eb : ℤ) (n : Nat) (h : (divMag ma ea mb eb n).more = true) :
    ((divMag ma ea mb eb n).m : ℝ) * 2 ^ (divMag ma ea mb eb n).e + 2 ^ (divMag ma ea mb eb n).e / mb ≤ (ma * 2 ^ ea) / (mb * 2 ^ eb) := by
  unfold divMag at h ⊢
  dsimp only at h ⊢
  generalize n + 1 + blen mb - min (blen ma) (n + 1 + blen mb) = s at h ⊢
  have hmod : 1 ≤ ma * 2 ^ s % mb := Nat.one_le_iff_ne_zero.2 (by simpa using h)
  have hdm : ma * 2 ^ s / mb * mb + 1 ≤ ma * 2 ^ s := by
    have := Nat.div_add_mod (ma * 2 ^ s) mb
    rw [mul_comm] at this
    omega
  have hdmR : ((ma * 2 ^ s / mb : ℕ) : ℝ) * mb + 1 ≤ ma * 2 ^ s := by exact_mod_cast hdm
  have hbR : (0 : ℝ) < mb := by exact_mod_cast hb
  have hval : (ma * 2 ^ ea : ℝ) / (mb * 2 ^ eb) = (ma * 2 ^ s) / mb * 2 ^ (ea - s - eb) := by
    rw [zpow_sub₀ two_ne_zero, zpow_sub₀ two_ne_zero, zpow_natCast]
    field_simp
  have h2 : (0 : ℝ) < 2 ^ (ea - s - eb) := by positivity
  rw [hval, show ∀ c u : ℝ, c * u + u / mb = (c * mb + 1) / mb * u by intro c u; field_simp]
  exact mul_le_mul_of_nonneg_right (div_le_div_of_nonneg_right hdmR hbR.le) h2.le

theorem divMag_bits {ma mb : Nat} (ha : blen ma ≤ 241) (hb : blen mb ≤ 241) (ea eb : ℤ) (n : Nat) : (divMag ma ea mb eb n).m < 2 ^ (n + 242) := by
  unfold divMag
  dsimp only
  refine (Nat.div_le_self _ _).trans_lt ?_
  calc ma * 2 ^ (n + 1 + blen mb - min (blen ma) (n + 1 + blen mb)) < 2 ^ blen ma * 2 ^ (n + 1 + blen mb - min (blen ma) (n + 1 + blen mb)) :=
        Nat.mul_lt_mul_of_pos_right (lt_two_pow_blen ma) (by positivity)
    _ = 2 ^ (blen ma + (n + 1 + blen mb - min (blen ma) (n + 1 + blen mb))) := (pow_add 2 _ _).symm
    _ ≤ 2 ^ (n + 242) := Nat.pow_le_pow_right two_pos (by omega)

/-- The fixed-point number of a quotient that is not above 1. -/
theorem fxQuotient_near {w : Nat} {d : Mag} {s : ℝ} (h : d.standsFor (w + 8) s) (hs : s ≤ 1) :
    FxNear w (shiftBy d.m (d.e + w) : ℕ) s 2 ∧ ((shiftBy d.m (d.e + w) : ℕ) : ℤ) ≤ 2 ^ w := by
  obtain ⟨m, e, more⟩ := d
  obtain ⟨hlo, hhi⟩ := shiftBy_floor m (e + w)
  rw [zpow_add₀ two_ne_zero, zpow_natCast, ← mul_assoc] at hlo hhi
  have h2 : (0 : ℝ) < 2 ^ w := by positivity
  have hcell : (m : ℝ) * 2 ^ e ≤ s ∧ (s - m * 2 ^ e) * 2 ^ w ≤ 1 := by
    cases more with
    | false =>
      obtain ⟨-, hx⟩ : 0 < m ∧ s = (m : ℝ) * 2 ^ e := h
      rw [hx, sub_self, zero_mul]
      exact ⟨le_rfl, zero_le_one⟩
    | true =>
      obtain ⟨hm, hx1, hx2⟩ : 2 ^ (w + 8) ≤ m ∧ (m : ℝ) * 2 ^ e < s ∧ s < (m + 1 : ℝ) * 2 ^ e := h
      have hmR : (2 : ℝ) ^ w ≤ m := by exact_mod_cast (Nat.pow_le_pow_right two_pos (by omega)).trans hm
      have he : (0 : ℝ) < 2 ^ e := by positivity
      refine ⟨hx1.le, ?_⟩
      nlinarith
  obtain ⟨hc1, hc2⟩ := hcell
  constructor
  · rw [FxNear, Int.cast_natCast]
    exact abs_le.2 ⟨by nlinarith, by nlinarith⟩
  · have hR : ((shiftBy m (e + w) : ℕ) : ℝ) ≤ 2 ^ w := hlo.trans (by nlinarith)
    exact_mod_cast hR

/-! ### The tries -/

section
variable {t : Target} (ht : t.Bounded) {w : Nat} (hw : 198 ≤ w) (hw' : w ≤ 3496) {X : Mag}
include ht hw hw'

theorem piTry_roundsAs {q : Nat} (hq : 0 < q) (hq' : q ≤ 4) (h : piTry t.need q w = some X) : X.RoundsAs t (Real.pi * q / 4) := by
  have hwR : ((w + 64 : ℕ) : ℝ) ≤ 3560 := by exact_mod_cast (by omega : w + 64 ≤ 3560)
  have hqR : (q : ℝ) ≤ 4 := by exact_mod_cast hq'
  have hq0 : (0 : ℝ) < q := by exact_mod_cast hq
  have hpi := (fxPi_near (w := w + 64) (by omega)).int_mul q
  have hnear : FxNear (w + 64) (fxPi (w + 64) * q) (Real.pi * q / 4 * 2 ^ (-(-2 : ℤ))) (|((q : ℤ) : ℝ)| * (80 * ((w + 64 : ℕ) : ℝ) + 780)) := by
    rw [mul_comm (fxPi (w + 64)), show Real.pi * q / 4 * 2 ^ (-(-2 : ℤ)) = ((q : ℤ) : ℝ) * Real.pi by push_cast; norm_num; ring]
    exact hpi
  have hset : settle t.need (fxPi (w + 64) * q) (-2 - ((w + 64 : ℕ) : ℤ)) = some X := by
    rw [← h, piTry]
    congr 1
    omega
  have hround := (roundsAs_of_fxNear ht hset hnear (by
    rw [Int.cast_natCast, abs_of_pos hq0]
    nlinarith [Nat.cast_nonneg (α := ℝ) (w + 64)])).1
  rwa [abs_of_pos (by have := Real.pi_pos; positivity)] at hround

variable {ma mb : Nat} {ea eb : ℤ} (ha : Moderate ma ea) (hb : Moderate mb eb)
include ha hb

omit hw hw' in
/-- A quotient so small that its angle lies just below it. -/
theorem atanSmall_roundsAs (hq : ea + blen ma - (eb + blen mb) < -(2 * t.need + 400 : ℤ)) :
    let d := divMag ma ea mb eb t.need
    (if d.more then d else ⟨d.m * 2 ^ t.need - 1, d.e - t.need, true⟩ : Mag).RoundsAs t (Real.arctan (ma * 2 ^ ea / (mb * 2 ^ eb))) := by
  intro d
  have hstands : d.standsFor t.need ((ma : ℝ) * 2 ^ ea / (mb * 2 ^ eb)) := divMag_standsFor ha.pos hb.pos ea eb t.need
  have hgap : d.more = true → (d.m : ℝ) * 2 ^ d.e + 2 ^ d.e / mb ≤ (ma : ℝ) * 2 ^ ea / (mb * 2 ^ eb) := divMag_gap hb.pos ea eb t.need
  have hbits : d.m < 2 ^ (t.need + 242) := divMag_bits ha.bits hb.bits ea eb t.need
  have hbpos := hb.value_pos
  obtain ⟨r, hr⟩ : ∃ r : ℝ, r = (ma : ℝ) * 2 ^ ea / (mb * 2 ^ eb) := ⟨_, rfl⟩
  have hr0 : 0 < r := by
    rw [hr]
    exact div_pos ha.value_pos hbpos
  have hrlt : r < 2 ^ (-(2 * t.need + 399) : ℤ) := by
    rw [hr, div_lt_iff₀ hbpos]
    refine (lt_two_zpow ma ea).trans_le ?_
    refine le_trans ?_ (mul_le_mul_of_nonneg_left (two_zpow_le hb.pos eb) (by positivity))
    rw [← zpow_add₀ two_ne_zero]
    exact zpow_le_zpow_right₀ one_le_two (by omega)
  rw [← hr] at hstands hgap ⊢
  have hu : (0 : ℝ) < 2 ^ d.e := by positivity
  have hle : r ≤ 2 ^ ((t.need : ℤ) + 242) * 2 ^ d.e := by
    have hm1 : ((d.m : ℝ) + 1) ≤ 2 ^ ((t.need : ℤ) + 242) := by exact_mod_cast hbits
    have hcell : r ≤ ((d.m : ℝ) + 1) * 2 ^ d.e := by
      unfold Mag.standsFor at hstands
      split_ifs at hstands
      · exact hstands.2.2.le
      · rw [hstands.2]
        exact mul_le_mul_of_nonneg_right (le_add_of_nonneg_right zero_le_one) hu.le
    exact hcell.trans (mul_le_mul_of_nonneg_right hm1 hu.le)
  have hcube : r ^ 3 < 2 ^ (-(t.need + 241) : ℤ) * 2 ^ d.e := by
    have hsq : r ^ 2 < 2 ^ (-(2 * t.need + 483) : ℤ) := by
      calc r ^ 2 < (2 ^ (-(2 * t.need + 399) : ℤ)) ^ 2 := pow_lt_pow_left₀ hrlt hr0.le two_ne_zero
        _ = 2 ^ (2 * -(2 * t.need + 399) : ℤ) := by rw [← zpow_natCast, ← zpow_mul, mul_comm]; rfl
        _ ≤ _ := zpow_le_zpow_right₀ one_le_two (by omega)
    calc r ^ 3 = r ^ 2 * r := by ring
      _ < 2 ^ (-(2 * t.need + 483) : ℤ) * r := mul_lt_mul_of_pos_right hsq hr0
      _ ≤ 2 ^ (-(2 * t.need + 483) : ℤ) * (2 ^ ((t.need : ℤ) + 242) * 2 ^ d.e) := mul_le_mul_of_nonneg_left hle (by positivity)
      _ = 2 ^ (-(t.need + 241) : ℤ) * 2 ^ d.e := by
        rw [← mul_assoc, ← zpow_add₀ two_ne_zero, show (-(2 * t.need + 483) : ℤ) + (t.need + 242) = -(t.need + 241) by ring]
  have hlow := self_sub_cube_lt_arctan hr0
  have hhigh := arctan_lt_self hr0
  by_cases hmore : d.more = true
  · rw [if_pos hmore]
    have hmb : (mb : ℝ) * 2 ^ (-(t.need + 241) : ℤ) ≤ 1 := by
      have hlt : (mb : ℝ) ≤ 2 ^ (blen mb : ℤ) := by
        rw [zpow_natCast]
        exact_mod_cast (lt_two_pow_blen mb).le
      have hbits := hb.bits
      calc (mb : ℝ) * 2 ^ (-(t.need + 241) : ℤ) ≤ 2 ^ (blen mb : ℤ) * 2 ^ (-(t.need + 241) : ℤ) := mul_le_mul_of_nonneg_right hlt (by positivity)
        _ = 2 ^ ((blen mb : ℤ) + -(t.need + 241)) := (zpow_add₀ two_ne_zero _ _).symm
        _ ≤ 1 := zpow_le_one_of_nonpos₀ one_le_two (by omega)
    have hmbR : (0 : ℝ) < mb := by exact_mod_cast hb.pos
    have hpart : (2 : ℝ) ^ (-(t.need + 241) : ℤ) * 2 ^ d.e ≤ 2 ^ d.e / mb := by
      rw [le_div_iff₀ hmbR, mul_right_comm, mul_comm (2 ^ (-(t.need + 241) : ℤ)) (mb : ℝ)]
      exact mul_le_of_le_one_left hu.le hmb
    unfold Mag.standsFor at hstands
    rw [if_pos hmore] at hstands
    obtain ⟨hn, -, hup⟩ := hstands
    have hd : d = ⟨d.m, d.e, true⟩ := by rw [← hmore]
    rw [hd]
    refine (Mag.standsFor_above hn ?_ (hhigh.trans hup)).roundsAs ht (by unfold Target.need; omega)
    linarith only [hgap hmore, hpart, hcube, hlow]
  · rw [if_neg hmore]
    unfold Mag.standsFor at hstands
    rw [if_neg hmore] at hstands
    obtain ⟨hpos, hx⟩ := hstands
    have hunit : (2 : ℝ) ^ (-(t.need + 241) : ℤ) * 2 ^ d.e ≤ 2 ^ (d.e - t.need) := by
      rw [← zpow_add₀ two_ne_zero]
      exact zpow_le_zpow_right₀ one_le_two (by omega)
    exact below_roundsAs ht hpos (by rw [← hx]; linarith only [hunit, hcube, hlow]) (by rw [← hx]; exact hhigh)

/-- The angle of a point above the axis: the magnitude that a try settles. -/
theorem atanTry_roundsAs (xneg : Bool) (h : atanTry t.need ma ea xneg mb eb w = some X) :
    X.RoundsAs t (if xneg then Real.pi - Real.arctan (ma * 2 ^ ea / (mb * 2 ^ eb)) else Real.arctan (ma * 2 ^ ea / (mb * 2 ^ eb))) := by
  have hapos := ha.value_pos
  have hbpos := hb.value_pos
  unfold atanTry at h
  dsimp only at h
  by_cases hs : (!xneg && decide (ea + blen ma - (eb + blen mb) < -(2 * t.need + 400 : ℤ))) = true
  · rw [if_pos hs] at h
    obtain ⟨rfl, hq⟩ : xneg = false ∧ ea + blen ma - (eb + blen mb) < -(2 * t.need + 400 : ℤ) := by simpa using hs
    rw [← Option.some.inj h]
    exact atanSmall_roundsAs ht ha hb hq
  · rw [if_neg hs] at h
    have hwR : ((w + 64 : ℕ) : ℝ) ≤ 3560 := by exact_mod_cast (by omega : w + 64 ≤ 3560)
    have hpi := fxPi_near (w := w + 64) (by omega)
    have hfirst : FxNear (w + 64)
        (if magLt mb eb ma ea then fxPi (w + 64) / 2 - fxAtan (w + 64) (shiftBy (if magLt mb eb ma ea then divMag mb eb ma ea (w + 64 + 8) else divMag ma ea mb eb (w + 64 + 8)).m
            ((if magLt mb eb ma ea then divMag mb eb ma ea (w + 64 + 8) else divMag ma ea mb eb (w + 64 + 8)).e + ((w + 64 : ℕ) : ℤ)) : ℕ)
          else fxAtan (w + 64) (shiftBy (if magLt mb eb ma ea then divMag mb eb ma ea (w + 64 + 8) else divMag ma ea mb eb (w + 64 + 8)).m
            ((if magLt mb eb ma ea then divMag mb eb ma ea (w + 64 + 8) else divMag ma ea mb eb (w + 64 + 8)).e + ((w + 64 : ℕ) : ℤ)) : ℕ))
        (Real.arctan (ma * 2 ^ ea / (mb * 2 ^ eb))) (72 * ((w + 64 : ℕ) : ℝ) + 800) := by
      have hlt := magLt_iff mb eb ma ea
      have hltR : magLt mb eb ma ea = true ↔ (mb : ℝ) * 2 ^ eb < ma * 2 ^ ea := by
        have hcast := Rat.cast_lt (K := ℝ) (p := (mb : ℚ) * 2 ^ eb) (q := (ma : ℚ) * 2 ^ ea)
        push_cast at hcast
        rw [hlt, hcast]
      by_cases hbig : magLt mb eb ma ea = true
      · simp only [if_pos hbig]
        obtain ⟨hq1, hq2⟩ := fxQuotient_near (divMag_standsFor (K := ℝ) hb.pos ha.pos eb ea (w + 64 + 8)) (div_le_one_of_le₀ (hltR.1 hbig).le hapos.le)
        have hat := fxAtan_near (w := w + 64) (by omega) (by omega) (Int.natCast_nonneg _) hq2 hq1
        have hhalf := hpi.div_int (b := 2) two_pos
        rw [Int.cast_ofNat] at hhalf
        have hval : Real.arctan (ma * 2 ^ ea / (mb * 2 ^ eb)) = Real.pi / 2 - Real.arctan (mb * 2 ^ eb / (ma * 2 ^ ea)) := by
          rw [← Real.arctan_inv_of_pos (div_pos hbpos hapos), inv_div]
        rw [hval]
        exact (hhalf.sub hat).mono (by linarith)
      · simp only [if_neg hbig]
        obtain ⟨hq1, hq2⟩ := fxQuotient_near (divMag_standsFor (K := ℝ) ha.pos hb.pos ea eb (w + 64 + 8))
          (div_le_one_of_le₀ (not_lt.1 fun hl => hbig (hltR.2 hl)) hbpos.le)
        exact (fxAtan_near (w := w + 64) (by omega) (by omega) (Int.natCast_nonneg _) hq2 hq1).mono (by linarith [Nat.cast_nonneg (α := ℝ) (w + 64)])
    have harc0 := Real.arctan_pos.2 (div_pos hapos hbpos)
    have harc1 := Real.arctan_lt_pi_div_two (ma * 2 ^ ea / (mb * 2 ^ eb))
    cases xneg with
    | false =>
      have hround := (roundsAs_of_fxNear_zero ht h hfirst (by linarith)).1
      rwa [abs_of_pos harc0] at hround
    | true =>
      have hround := (roundsAs_of_fxNear_zero ht h (hpi.sub hfirst) (by linarith)).1
      rwa [abs_of_pos (by linarith [Real.pi_pos])] at hround

end

/-! ### The angle of a point -/

theorem arg_of_pos {x y : ℝ} (hx : 0 < x) (hy : 0 < y) (neg : Bool) :
    Complex.arg ⟨signed neg y, x⟩ = if neg then Real.pi - Real.arctan (x / y) else Real.arctan (x / y) := by
  have hs : 0 < Real.sqrt (1 + (x / y) ^ 2) := Real.sqrt_pos.2 (by positivity)
  have hr : 0 < y * Real.sqrt (1 + (x / y) ^ 2) := mul_pos hy hs
  have h0 := Real.arctan_pos.2 (div_pos hx hy)
  have h1 := Real.arctan_lt_pi_div_two (x / y)
  have hpi := Real.pi_pos
  have hcos : y * Real.sqrt (1 + (x / y) ^ 2) * Real.cos (Real.arctan (x / y)) = y := by
    rw [Real.cos_arctan]
    field_simp
  have hsin : y * Real.sqrt (1 + (x / y) ^ 2) * Real.sin (Real.arctan (x / y)) = x := by
    rw [Real.sin_arctan]
    field_simp
  have hpolar : ∀ th : ℝ, th ∈ Set.Ioc (-Real.pi) Real.pi →
      Complex.arg ⟨y * Real.sqrt (1 + (x / y) ^ 2) * Real.cos th, y * Real.sqrt (1 + (x / y) ^ 2) * Real.sin th⟩ = th := by
    intro th hth
    refine (congrArg Complex.arg ?_).trans (Complex.arg_mul_cos_add_sin_mul_I hr hth)
    apply Complex.ext <;> simp [Complex.cos_ofReal_re, Complex.sin_ofReal_re]
  cases neg with
  | false =>
    have h := hpolar (Real.arctan (x / y)) ⟨by linarith, by linarith⟩
    rw [hcos, hsin] at h
    simpa using h
  | true =>
    have h := hpolar (Real.pi - Real.arctan (x / y)) ⟨by linarith, by linarith⟩
    rw [Real.cos_pi_sub, Real.sin_pi_sub, mul_neg, hcos, hsin] at h
    simpa using h

/-- The size and the sign of an angle off the axis. -/
theorem abs_arg {x y : ℝ} (hx : 0 < x) (hy : 0 < y) (xn yn : Bool) :
    |Complex.arg ⟨signed yn y, signed xn x⟩| = (if yn then Real.pi - Real.arctan (x / y) else Real.arctan (x / y)) ∧
      (Complex.arg ⟨signed yn y, signed xn x⟩ < 0 ↔ xn = true) := by
  have hpos := arg_of_pos hx hy yn
  have hval : 0 < (if yn then Real.pi - Real.arctan (x / y) else Real.arctan (x / y)) := by
    have h0 := Real.arctan_pos.2 (div_pos hx hy)
    have h1 := Real.arctan_lt_pi_div_two (x / y)
    have hpi := Real.pi_pos
    split <;> linarith
  have hsign : Complex.arg ⟨signed yn y, signed xn x⟩ < 0 ↔ xn = true := by
    rw [Complex.arg_neg_iff]
    cases xn <;> simp [hx, hx.le]
  refine ⟨?_, hsign⟩
  cases xn with
  | false =>
    rw [signed_false, hpos, abs_of_pos hval]
  | true =>
    have hconj : (⟨signed yn y, signed true x⟩ : ℂ) = (starRingEnd ℂ) ⟨signed yn y, x⟩ := by
      apply Complex.ext <;> simp
    rw [hconj, Complex.arg_conj, hpos, if_neg, abs_neg, abs_of_pos hval]
    intro harg
    have h := harg
    have h0 := Real.arctan_pos.2 (div_pos hx hy)
    have h1 := Real.arctan_lt_pi_div_two (x / y)
    cases yn
    · rw [if_neg Bool.false_ne_true] at h
      linarith [Real.pi_pos]
    · rw [if_pos rfl] at h
      linarith

end Sys2Proof.Machine
end

section
/-! SUPPORT. What each try of a power settles rounds as the power (R248). -/

namespace Sys2Proof.Machine

/-! ### Odd significands and exact roots -/

theorem blen_mono {m n : Nat} (h : m ≤ n) : blen m ≤ blen n := by
  by_contra hlt
  have h1 : 2 ^ blen n ≤ m := two_pow_le_iff_blen.2 (not_le.1 hlt)
  exact absurd (lt_two_pow_blen n) (not_lt.2 (h1.trans h))

theorem blen_two_mul {m : Nat} (hm : 0 < m) : blen (2 * m) = blen m + 1 := by
  have hle : blen (2 * m) ≤ blen m + 1 := by rw [← blen_two_mul_add_one]; exact blen_mono (Nat.le_succ _)
  refine le_antisymm hle ?_
  have hb : 0 < blen m := two_pow_le_iff_blen.1 (by rw [pow_zero]; exact hm)
  have h1 : 2 ^ (blen m - 1) ≤ m := two_pow_le_iff_blen.2 (by omega)
  refine Nat.succ_le_of_lt (two_pow_le_iff_blen.1 ?_)
  calc 2 ^ blen m = 2 * 2 ^ (blen m - 1) := by rw [← pow_succ']; congr 1; omega
    _ ≤ 2 * m := Nat.mul_le_mul_left 2 h1

/-- The odd form of a positive number is the number, in the same binade and with no more bits. -/
theorem oddForm_spec (fuel : Nat) {m : Nat} {e : ℤ} (hm : 0 < m) :
    0 < (oddForm m e fuel).1 ∧ ((oddForm m e fuel).1 : ℝ) * 2 ^ (oddForm m e fuel).2 = m * 2 ^ e ∧ blen (oddForm m e fuel).1 ≤ blen m ∧
      (oddForm m e fuel).2 + blen (oddForm m e fuel).1 = e + blen m := by
  induction fuel generalizing m e with
  | zero => exact ⟨hm, rfl, le_rfl, rfl⟩
  | succ fuel ih =>
    unfold oddForm
    split
    case isTrue heven =>
      obtain ⟨c, rfl⟩ : ∃ c, m = 2 * c := ⟨m / 2, by omega⟩
      have hc : 0 < c := by omega
      rw [Nat.mul_div_cancel_left c two_pos]
      obtain ⟨h1, h2, h3, h4⟩ := ih (e := e + 1) hc
      have hbits := blen_two_mul hc
      refine ⟨h1, ?_, by omega, by omega⟩
      rw [h2, zpow_add_one₀ two_ne_zero]
      push_cast
      ring
    case isFalse => exact ⟨hm, rfl, le_rfl, rfl⟩

theorem Moderate.oddForm {m : Nat} {e : ℤ} (hm : Moderate m e) (fuel : Nat) : Moderate (oddForm m e fuel).1 (oddForm m e fuel).2 := by
  obtain ⟨h1, -, h3, h4⟩ := oddForm_spec fuel (e := e) hm.pos
  exact ⟨h1, h3.trans hm.bits, by rw [h4]; exact hm.exp_le⟩

/-- Exact roots are roots. -/
theorem exactRoots_pow {k m m' : Nat} {e e' : ℤ} (hm : 0 < m) (h : exactRoots k m e = some (m', e')) :
    0 < m' ∧ ((m' : ℝ) * 2 ^ e') ^ 2 ^ k = m * 2 ^ e := by
  induction k generalizing m e with
  | zero =>
    obtain ⟨rfl, rfl⟩ : m = m' ∧ e = e' := by simpa [exactRoots] using h
    exact ⟨hm, by simp⟩
  | succ k ih =>
    rw [exactRoots] at h
    split at h
    case isTrue hroot =>
      obtain ⟨heven, hsq⟩ := hroot
      have hr : 0 < isqrt m := Nat.pos_of_ne_zero fun h0 => hm.ne' (by rw [← hsq, h0])
      obtain ⟨hpos, hpow⟩ := ih hr h
      refine ⟨hpos, ?_⟩
      have hsqR : (isqrt m : ℝ) * isqrt m = m := by exact_mod_cast hsq
      have he : e / 2 + e / 2 = e := by omega
      rw [pow_succ, pow_mul, hpow, sq, mul_mul_mul_comm, hsqR, ← zpow_add₀ two_ne_zero, he]
    case isFalse => exact absurd h (by simp)

/-! ### The logarithm of the base -/

section
variable {m : Nat} {e : ℤ} (hm : Moderate m e)
include hm

/-- A datum other than 1 is not near 1. -/
theorem two_zpow_le_abs_sub_one (hx : (m : ℝ) * 2 ^ e ≠ 1) : (2 : ℝ) ^ (-241 : ℤ) ≤ |(m : ℝ) * 2 ^ e - 1| := by
  have hbits := hm.bits
  have hsmall : (2 : ℝ) ^ (-241 : ℤ) ≤ 1 / 2 := by
    have h := zpow_le_zpow_right₀ (one_le_two (α := ℝ)) (by norm_num : (-241 : ℤ) ≤ -1)
    rwa [zpow_neg_one, ← one_div] at h
  rcases lt_or_ge 0 e with he | he
  · have h2 : (2 : ℝ) ≤ 2 ^ e := by
      have h := zpow_le_zpow_right₀ (one_le_two (α := ℝ)) (by omega : (1 : ℤ) ≤ e)
      rwa [zpow_one] at h
    have hm1 : (1 : ℝ) ≤ m := by exact_mod_cast hm.pos
    refine hsmall.trans (le_trans ?_ (le_abs_self _))
    nlinarith
  rcases lt_or_ge e (-241) with hlow | hlow
  · have hhalf : (m : ℝ) * 2 ^ e ≤ 2 ^ (-1 : ℤ) := (lt_two_zpow m e).le.trans (zpow_le_zpow_right₀ one_le_two (by omega))
    rw [zpow_neg_one, ← one_div] at hhalf
    refine hsmall.trans (le_trans ?_ (neg_le_abs _))
    linarith
  · obtain ⟨j, rfl⟩ : ∃ j : ℕ, e = -j := ⟨(-e).toNat, by omega⟩
    have hj : (2 : ℝ) ^ (-241 : ℤ) ≤ 2 ^ (-j : ℤ) := zpow_le_zpow_right₀ one_le_two hlow
    have hone : (2 : ℝ) ^ j * 2 ^ (-j : ℤ) = 1 := by rw [← zpow_natCast, ← zpow_add₀ two_ne_zero, add_neg_cancel, zpow_zero]
    have hdiff : (m : ℝ) * 2 ^ (-j : ℤ) - 1 = (((m : ℤ) - 2 ^ j : ℤ) : ℝ) * 2 ^ (-j : ℤ) := by
      push_cast
      rw [sub_mul, hone]
    have hne : (m : ℤ) - 2 ^ j ≠ 0 := by
      intro h0
      rw [h0, Int.cast_zero, zero_mul, sub_eq_zero] at hdiff
      exact hx hdiff
    have habs : (1 : ℝ) ≤ |(((m : ℤ) - 2 ^ j : ℤ) : ℝ)| := by
      rw [← Int.cast_abs]
      exact_mod_cast Int.one_le_abs hne
    rw [hdiff, abs_mul, abs_of_pos (by positivity : (0 : ℝ) < 2 ^ (-j : ℤ))]
    exact hj.trans (le_mul_of_one_le_left (by positivity) habs)

theorem two_zpow_le_abs_log (hx : (m : ℝ) * 2 ^ e ≠ 1) : (2 : ℝ) ^ (-243 : ℤ) ≤ |Real.log (m * 2 ^ e)| := by
  have hpos := hm.value_pos
  have hgap := two_zpow_le_abs_sub_one hm hx
  have hquarter : (2 : ℝ) ^ (-243 : ℤ) = 2 ^ (-241 : ℤ) / 4 := by
    rw [show (-243 : ℤ) = -241 - 2 by norm_num, zpow_sub₀ two_ne_zero]
    norm_num
  have hunit : (0 : ℝ) < 2 ^ (-241 : ℤ) := by positivity
  have hle1 : (2 : ℝ) ^ (-241 : ℤ) ≤ 1 := zpow_le_one_of_nonpos₀ one_le_two (by norm_num)
  rw [hquarter]
  generalize (2 : ℝ) ^ (-241 : ℤ) = u at hgap hunit hle1
  generalize (m : ℝ) * 2 ^ e = x at hpos hgap hx
  rcases lt_or_gt_of_ne hx with hlt | hgt
  · rw [abs_of_neg (by linarith)] at hgap
    have h := Real.log_le_sub_one_of_pos hpos
    refine le_trans ?_ (neg_le_abs _)
    linarith
  · rw [abs_of_pos (by linarith)] at hgap
    have h := Real.one_sub_inv_le_log_of_pos hpos
    refine le_trans (le_trans ?_ h) (le_abs_self _)
    rcases le_or_gt x 2 with h2 | h2
    · rw [← sub_nonneg]
      have : 1 - x⁻¹ - u / 4 = ((x - 1) - u / 4 * x) / x := by field_simp
      rw [this]
      exact div_nonneg (by nlinarith) hpos.le
    · have hinv : x⁻¹ ≤ 1 / 2 := by
        rw [one_div]
        exact inv_anti₀ two_pos h2.le
      linarith

theorem abs_log_le : |Real.log (m * 2 ^ e)| ≤ 16882 := by
  have hpos := hm.value_pos
  have hlo := Real.log_le_log (by positivity) (two_zpow_le hm.pos e)
  have hhi := Real.log_le_log hpos (lt_two_zpow m e).le
  rw [Real.log_zpow] at hlo hhi
  have hq := abs_exponent_le hm
  push_cast at hlo hhi hq
  have h1 := Real.log_two_gt_d9
  have h2 := Real.log_two_lt_d9
  rw [abs_le] at hq ⊢
  constructor <;> nlinarith

end

/-! ### Exact powers -/

/-- An exact root and an integer exponent for a power, if the model finds them. -/
def powRoots (ma : Nat) (ea : ℤ) (mb : Nat) (eb : ℤ) : Option (Nat × ℤ × Nat) :=
  if eb ≥ 0 then (if eb + blen mb ≤ 40 then some (ma, ea, mb * 2 ^ eb.toNat) else none)
  else if eb ≥ -64 then (exactRoots (-eb).toNat ma ea).map fun (m, e) => (m, e, mb)
  else none

/-- The exact power that the model takes, if any. -/
def powExact (ma : Nat) (ea : ℤ) (bneg : Bool) (mb : Nat) (eb : ℤ) : Option Mag :=
  match powRoots ma ea mb eb with
  | none => none
  | some (m, e, k) =>
    if m = 1 then
      if (if bneg then -(e * k) else e * k).natAbs ≤ 2 ^ 20 then some ⟨1, if bneg then -(e * k) else e * k, false⟩
      else some (if (if bneg then -(e * k) else e * k) < 0 then tinyMag else hugeMag)
    else if bneg then none
    else if blen m * k ≤ 8192 then some ⟨m ^ k, e * k, false⟩ else none

theorem powRoots_log {ma mb m k : Nat} {ea eb e : ℤ} (ha : 0 < ma) (h : powRoots ma ea mb eb = some (m, e, k)) :
    0 < m ∧ k * Real.log (m * 2 ^ e) = Real.log (ma * 2 ^ ea) * (mb * 2 ^ eb) := by
  unfold powRoots at h
  split_ifs at h with h0 h40 h64
  · obtain ⟨rfl, rfl, rfl⟩ : ma = m ∧ ea = e ∧ mb * 2 ^ eb.toNat = k := by simpa using h
    refine ⟨ha, ?_⟩
    push_cast
    rw [← zpow_natCast, Int.toNat_of_nonneg h0, mul_comm]
  · obtain ⟨⟨m', e'⟩, hroot, heq⟩ := Option.map_eq_some_iff.1 h
    obtain ⟨rfl, rfl, rfl⟩ : m' = m ∧ e' = e ∧ mb = k := by simpa using heq
    obtain ⟨hpos, hpow⟩ := exactRoots_pow ha hroot
    refine ⟨hpos, ?_⟩
    have heb : (2 : ℝ) ^ eb = (2 ^ (-eb).toNat)⁻¹ := by rw [← zpow_natCast, Int.toNat_of_nonneg (by omega), zpow_neg, inv_inv]
    have h2 : (2 : ℝ) ^ (-eb).toNat ≠ 0 := by positivity
    rw [← hpow, Real.log_pow, heb]
    push_cast
    field_simp

section
variable {t : Target} (ht : t.Bounded)
include ht

/-- A power of two of any size. -/
theorem twoPower_roundsAs (x : ℤ) : (if x.natAbs ≤ 2 ^ 20 then ⟨1, x, false⟩ else if x < 0 then tinyMag else hugeMag : Mag).RoundsAs t ((2 : ℝ) ^ x) := by
  split_ifs with hx hneg
  · exact (Mag.standsFor_exact (n := t.p + 63) one_pos (by rw [Nat.cast_one, one_mul])).roundsAs ht le_rfl
  · exact tinyMag_roundsAs ht (by positivity) (zpow_lt_zpow_right₀ one_lt_two (by omega))
  · exact hugeMag_roundsAs ht (zpow_le_zpow_right₀ one_le_two (by omega))

theorem powExact_roundsAs {ma mb : Nat} {ea eb : ℤ} {bneg : Bool} {X : Mag} (ha : 0 < ma) (h : powExact ma ea bneg mb eb = some X) :
    X.RoundsAs t (Real.exp (Real.log (ma * 2 ^ ea) * signed bneg (mb * 2 ^ eb))) := by
  unfold powExact at h
  cases hroots : powRoots ma ea mb eb with
  | none =>
    rw [hroots] at h
    exact absurd h (by simp)
  | some r =>
    obtain ⟨m, e, k⟩ := r
    rw [hroots] at h
    dsimp only at h
    obtain ⟨hm, hlog⟩ := powRoots_log ha hroots
    by_cases hone : m = 1
    · rw [if_pos hone] at h
      have hval : Real.exp (Real.log (ma * 2 ^ ea) * signed bneg (mb * 2 ^ eb)) = (2 : ℝ) ^ (if bneg then -(e * k) else e * k) := by
        have hx : Real.log (ma * 2 ^ ea) * signed bneg (mb * 2 ^ eb) = ((if bneg then -(e * k) else e * k : ℤ) : ℝ) * Real.log 2 := by
          rw [hone, Nat.cast_one, one_mul, Real.log_zpow] at hlog
          unfold signed
          cases bneg
          · simp only [Bool.false_eq_true, if_false]
            push_cast
            linarith
          · simp only [if_true]
            push_cast
            linarith
        rw [hx, ← Real.log_zpow, Real.exp_log (by positivity)]
      have hround := twoPower_roundsAs ht (if bneg then -(e * k) else e * k)
      rw [hval]
      generalize (if bneg then -(e * k) else e * k) = x at h hround ⊢
      split_ifs at h hround <;> exact Option.some.inj h ▸ hround
    · rw [if_neg hone] at h
      split_ifs at h with hb hsize
      rw [← Option.some.inj h]
      refine (Mag.standsFor_exact (n := t.p + 63) (pow_pos hm k) ?_).roundsAs ht le_rfl
      have hbf : bneg = false := by simpa using hb
      have hpos : (0 : ℝ) < m * 2 ^ e := mul_pos (by exact_mod_cast hm) (by positivity)
      rw [hbf, signed_false, ← hlog, ← Real.log_pow, Real.exp_log (pow_pos hpos k), mul_pow,
        zpow_mul, zpow_natCast]
      push_cast
      rfl

/-! ### Powers by their logarithms -/

omit ht in
theorem powTry_eq (n ma : Nat) (ea : ℤ) (bneg : Bool) (mb : Nat) (eb : ℤ) (w : Nat) : powTry n ma ea bneg mb eb w =
    let a := oddForm ma ea (blen ma)
    let b := oddForm mb eb (blen mb)
    match powExact a.1 a.2 bneg b.1 b.2 with
    | some x => some x
    | none =>
      if b.2 + blen b.1 > 280 then some (if decide (a.2 + blen a.1 ≤ 0) != bneg then tinyMag else hugeMag)
      else if b.2 + blen b.1 < -(n + 24 : ℤ) then some (nearOne n (decide (a.2 + blen a.1 ≤ 0) == bneg))
      else
        let wi := w + 64 + 2 * (b.2 + blen b.1).toNat
        let l := fxLn wi a.1 a.2 * (if bneg then -1 else 1) * (b.1 : ℤ)
        let y := if b.2 ≥ 0 then l * 2 ^ b.2.toNat else l / 2 ^ (-b.2).toNat
        if y.natAbs ≥ 2 ^ (wi + 20) then some (if y < 0 then tinyMag else hugeMag)
        else settle n ((fxExp wi y).1 / 2 ^ ((b.2 + blen b.1).toNat + 8)) ((fxExp wi y).2 - wi + ((b.2 + blen b.1).toNat + 8 : ℕ)) := by
  rfl

omit ht in
/-- The fixed-point logarithm of a power. -/
theorem fxPowArg_near {w : Nat} {l : ℤ} {L E : ℝ} (h : FxNear w l L E) (bneg : Bool) (mb : Nat) (eb : ℤ) :
    FxNear w (if eb ≥ 0 then l * (if bneg then -1 else 1) * (mb : ℤ) * 2 ^ eb.toNat else l * (if bneg then -1 else 1) * (mb : ℤ) / 2 ^ (-eb).toNat)
      (L * signed bneg (mb * 2 ^ eb)) (E * (mb * 2 ^ eb) + 1) := by
  have hmul := h.int_mul ((if bneg then -1 else 1) * (mb : ℤ))
  have habs : |(((if bneg then -1 else 1) * (mb : ℤ) : ℤ) : ℝ)| = mb := by cases bneg <;> simp
  rw [habs, show (if bneg then -1 else 1) * (mb : ℤ) * l = l * (if bneg then -1 else 1) * (mb : ℤ) by ring] at hmul
  split
  case isTrue heb =>
    have hpow : (2 : ℝ) ^ eb = 2 ^ eb.toNat := by rw [← zpow_natCast, Int.toNat_of_nonneg heb]
    have hscaled := hmul.int_mul (2 ^ eb.toNat)
    push_cast at hscaled
    rw [abs_of_pos (by positivity : (0 : ℝ) < 2 ^ eb.toNat), mul_comm (2 ^ eb.toNat : ℤ)] at hscaled
    rw [hpow]
    convert hscaled.mono (d' := E * (mb * 2 ^ eb.toNat) + 1) (by linarith) using 1
    unfold signed
    ring
  case isFalse heb =>
    have hpow : (2 : ℝ) ^ eb = (2 ^ (-eb).toNat)⁻¹ := by rw [← zpow_natCast, Int.toNat_of_nonneg (by omega), zpow_neg, inv_inv]
    have hdiv := hmul.div_int (b := 2 ^ (-eb).toNat) (by positivity)
    push_cast at hdiv
    rw [hpow]
    convert hdiv using 1
    · unfold signed
      ring
    · ring

/-- A power whose logarithm is large. -/
theorem extreme_roundsAs_pow {z : ℝ} {neg : Bool} (hz : if neg = true then z < 0 else 0 < z) (hbig : 2 ^ 15 ≤ |z|) :
    (if neg then tinyMag else hugeMag).RoundsAs t (Real.exp z) := by
  cases neg with
  | true =>
    have hz0 : z < 0 := hz
    rw [abs_of_neg hz0] at hbig
    exact tinyMag_roundsAs_exp ht (by linarith)
  | false =>
    have hz0 : 0 < z := hz
    rw [abs_of_pos hz0] at hbig
    exact hugeMag_roundsAs_exp ht (by linarith)

/-- The exponential of a fixed-point number of any size, its error scaled up by 2^Q. -/
theorem expOrExtreme_roundsAs {wi Q : Nat} (hwi : 262 + 2 * Q ≤ wi) (hwi' : wi ≤ 8192) {y : ℤ} {z : ℝ} (hnear : FxNear wi y z (2 ^ 31 * 2 ^ Q)) {X : Mag}
    (h : (if y.natAbs ≥ 2 ^ (wi + 20) then some (if y < 0 then tinyMag else hugeMag)
      else settle t.need ((fxExp wi y).1 / 2 ^ (Q + 8)) ((fxExp wi y).2 - wi + (Q + 8 : ℕ))) = some X) : X.RoundsAs t (Real.exp z) := by
  have hW : (10 : ℝ) ^ 50 * 2 ^ Q ≤ 2 ^ wi := by
    obtain ⟨v, hv⟩ : ∃ v, wi = v + Q := ⟨wi - Q, by omega⟩
    rw [hv, pow_add]
    exact mul_le_mul_of_nonneg_right (two_pow_ge (by omega)) (by positivity)
  have hQ0 : (0 : ℝ) < 2 ^ Q := by positivity
  have h2 : (0 : ℝ) < 2 ^ wi := by positivity
  have hyabs : ((y.natAbs : ℕ) : ℝ) = |(y : ℝ)| := by rw [Nat.cast_natAbs, Int.cast_abs]
  have hscale : (2 : ℝ) ^ (wi + 20) = 2 ^ 20 * 2 ^ wi := by rw [pow_add, mul_comm]
  by_cases hbig : y.natAbs ≥ 2 ^ (wi + 20)
  · rw [if_pos hbig] at h
    have hbigR : (2 : ℝ) ^ (wi + 20) ≤ |(y : ℝ)| := by
      rw [← hyabs]
      exact_mod_cast hbig
    rw [hscale] at hbigR
    obtain ⟨hc1, hc2⟩ := abs_le.1 hnear
    rw [← Option.some.inj h]
    rcases lt_or_ge y 0 with hy | hy
    · have hyR : (y : ℝ) < 0 := by exact_mod_cast hy
      rw [abs_of_neg hyR] at hbigR
      have hz : z ≤ -(2 ^ 15) := by
        rw [← mul_le_mul_iff_left₀ h2]
        linarith
      rw [if_pos hy]
      exact tinyMag_roundsAs_exp ht (by linarith)
    · have hyR : (0 : ℝ) ≤ y := by exact_mod_cast hy
      rw [abs_of_nonneg hyR] at hbigR
      have hz : 2 ^ 15 ≤ z := by
        rw [← mul_le_mul_iff_left₀ h2]
        linarith
      rw [if_neg (not_lt.2 hy)]
      exact hugeMag_roundsAs_exp ht (by linarith)
  · rw [if_neg hbig] at h
    have hsize : |(y : ℝ)| ≤ 2 ^ (wi + 20) := by
      rw [← hyabs]
      exact_mod_cast (not_le.1 hbig).le
    rw [hscale] at hsize
    have hd : 1000 * (2 ^ 31 * 2 ^ Q) ≤ (2 : ℝ) ^ wi := by linarith
    obtain ⟨hexp, -⟩ := fxExp_near (w := wi) (by omega) hwi' hnear hd (K := 2 ^ 20) (by norm_num) le_rfl hsize
    obtain ⟨v, rfl⟩ : ∃ v, wi = v + (Q + 8) := ⟨wi - (Q + 8), by omega⟩
    have hset : settle t.need ((fxExp (v + (Q + 8)) y).1 / 2 ^ (Q + 8)) ((fxExp (v + (Q + 8)) y).2 - v) = some X := by
      rw [← h]
      congr 1
      omega
    have herr : (2 ^ 32 + 2 ^ 18 * 2 ^ 20 + 2 * (2 ^ 31 * 2 ^ Q)) / 2 ^ (Q + 8) + 1 < (2 : ℝ) ^ 40 := by
      have hB1 : (1 : ℝ) ≤ 2 ^ Q := one_le_pow₀ one_le_two
      rw [← lt_sub_iff_add_lt, div_lt_iff₀ (by positivity), pow_add]
      linarith
    have hround := (roundsAs_of_fxNear ht hset hexp.drop herr).1
    rwa [abs_of_pos (Real.exp_pos _)] at hround

variable {ma mb : Nat} {ea eb : ℤ} (ha : Moderate ma ea) (hb : Moderate mb eb) (hx : (ma : ℝ) * 2 ^ ea ≠ 1) {w : Nat} (hw : 198 ≤ w) (hw' : w ≤ 3496)
  {X : Mag}
include ha hb hx

omit ht in
/-- The sign of the logarithm of a power. -/
theorem powArg_sign (bneg : Bool) : if (decide (ea + blen ma ≤ 0) == bneg) = true then 0 < Real.log (ma * 2 ^ ea) * signed bneg (mb * 2 ^ eb)
    else Real.log (ma * 2 ^ ea) * signed bneg (mb * 2 ^ eb) < 0 := by
  have hbpos := hb.value_pos
  have hapos := ha.value_pos
  have hne : Real.log (ma * 2 ^ ea) ≠ 0 := Real.log_ne_zero_of_pos_of_ne_one hapos hx
  have hsign := log_neg_iff_exponent (e := ea) ha.pos
  by_cases hq : ea + blen ma ≤ 0
  · have hneg := hsign.2 hq
    cases bneg
    · simpa [hq] using mul_neg_of_neg_of_pos hneg hbpos
    · simpa [hq] using mul_neg_of_neg_of_pos hneg hbpos
  · have hpos : 0 < Real.log (ma * 2 ^ ea) := lt_of_le_of_ne (not_lt.1 fun h => hq (hsign.1 h)) hne.symm
    cases bneg
    · simpa [hq] using mul_pos hpos hbpos
    · simpa [hq] using mul_pos hpos hbpos

omit hb hx in
include hw hw' in
/-- A power in reach of the fixed-point functions. -/
theorem powLog_roundsAs (bneg : Bool) {Q : Nat} (hQ : eb + blen mb ≤ Q) (hQ' : Q ≤ 280) {wi : Nat} (hwi : wi = w + 64 + 2 * Q) {y : ℤ}
    (hy : y = if eb ≥ 0 then fxLn wi ma ea * (if bneg then -1 else 1) * (mb : ℤ) * 2 ^ eb.toNat
      else fxLn wi ma ea * (if bneg then -1 else 1) * (mb : ℤ) / 2 ^ (-eb).toNat)
    (h : (if y.natAbs ≥ 2 ^ (wi + 20) then some (if y < 0 then tinyMag else hugeMag)
      else settle t.need ((fxExp wi y).1 / 2 ^ (Q + 8)) ((fxExp wi y).2 - wi + (Q + 8 : ℕ))) = some X) :
    X.RoundsAs t (Real.exp (Real.log (ma * 2 ^ ea) * signed bneg (mb * 2 ^ eb))) := by
  have hbits := ha.bits
  have hwR : (wi : ℝ) ≤ 4120 := by exact_mod_cast (by omega : wi ≤ 4120)
  have hw0 : (0 : ℝ) ≤ wi := Nat.cast_nonneg _
  have hq := abs_exponent_le ha
  have hq0 := abs_nonneg ((ea + blen ma : ℤ) : ℝ)
  have hln := (fxLn_near (w := wi) (by omega) ha.pos (by omega) ea).mono (d' := 2 ^ 30) (by nlinarith)
  have hnear := fxPowArg_near hln bneg mb eb
  rw [← hy] at hnear
  have hbQ : (mb : ℝ) * 2 ^ eb ≤ 2 ^ Q := le_two_pow hQ
  have hB1 : (1 : ℝ) ≤ 2 ^ Q := one_le_pow₀ one_le_two
  exact expOrExtreme_roundsAs ht (by omega) (by omega) (hnear.mono (by linarith)) h

end

section
variable {t : Target} (ht : t.Bounded) {ma mb : Nat} {ea eb : ℤ} (ha : Moderate ma ea) (hb : Moderate mb eb) (hx : (ma : ℝ) * 2 ^ ea ≠ 1)
  {w : Nat} (hw : 198 ≤ w) (hw' : w ≤ 3496) {X : Mag}
include ht ha hb hx hw hw'

/-- A power of a positive number: the magnitude that a try settles. -/
theorem powTry_roundsAs (bneg : Bool) (h : powTry t.need ma ea bneg mb eb w = some X) :
    X.RoundsAs t (Real.exp (Real.log (ma * 2 ^ ea) * signed bneg (mb * 2 ^ eb))) := by
  rw [powTry_eq] at h
  obtain ⟨-, hvala, -, -⟩ := oddForm_spec (blen ma) (e := ea) ha.pos
  obtain ⟨-, hvalb, -, -⟩ := oddForm_spec (blen mb) (e := eb) hb.pos
  have ha' := ha.oddForm (blen ma)
  have hb' := hb.oddForm (blen mb)
  rw [← hvala] at hx
  rw [← hvala, ← hvalb]
  generalize oddForm ma ea (blen ma) = a at ha' hx h ⊢
  generalize oddForm mb eb (blen mb) = b at hb' h ⊢
  obtain ⟨ma, ea⟩ := a
  obtain ⟨mb, eb⟩ := b
  dsimp only at ha' hb' hx h ⊢
  have hlow := two_zpow_le_abs_log ha' hx
  have hhigh := abs_log_le ha'
  have hsign := powArg_sign ha' hb' hx bneg
  have hbpos := hb'.value_pos
  have habs : |Real.log (ma * 2 ^ ea) * signed bneg (mb * 2 ^ eb)| = |Real.log (ma * 2 ^ ea)| * (mb * 2 ^ eb) := by
    rw [abs_mul, abs_signed, abs_of_pos hbpos]
  cases hexact : powExact ma ea bneg mb eb with
  | some Y =>
    rw [hexact] at h
    exact Option.some.inj h ▸ powExact_roundsAs ht ha'.pos hexact
  | none =>
    rw [hexact] at h
    dsimp only at h
    by_cases hq : eb + blen mb > 280
    · rw [if_pos hq] at h
      rw [← Option.some.inj h]
      refine extreme_roundsAs_pow ht ?_ ?_
      · cases hd : (decide (ea + blen ma ≤ 0) == bneg)
        · rw [hd, if_neg Bool.false_ne_true] at hsign
          rw [bne, hd, Bool.not_false, if_pos rfl]
          exact hsign
        · rw [hd, if_pos rfl] at hsign
          rw [bne, hd, Bool.not_true, if_neg Bool.false_ne_true]
          exact hsign
      · rw [habs]
        have hbig : (2 : ℝ) ^ (280 : ℤ) ≤ mb * 2 ^ eb := (zpow_le_zpow_right₀ one_le_two (by omega)).trans (two_zpow_le hb'.pos eb)
        calc (2 : ℝ) ^ 15 ≤ 2 ^ (-243 : ℤ) * 2 ^ (280 : ℤ) := by rw [← zpow_add₀ two_ne_zero]; norm_num
          _ ≤ _ := mul_le_mul hlow hbig (by positivity) (abs_nonneg _)
    by_cases hs : eb + blen mb < -(t.need + 24 : ℤ)
    · rw [if_neg hq, if_pos hs] at h
      rw [← Option.some.inj h]
      refine nearOne_roundsAs_exp ht hsign ?_
      rw [habs]
      calc |Real.log (ma * 2 ^ ea)| * (mb * 2 ^ eb) ≤ 2 ^ (15 : ℤ) * (mb * 2 ^ eb) := mul_le_mul_of_nonneg_right (hhigh.trans (by norm_num)) hbpos.le
        _ < 2 ^ (15 : ℤ) * 2 ^ (eb + blen mb) := mul_lt_mul_of_pos_left (lt_two_zpow mb eb) (by positivity)
        _ = 2 ^ (15 + (eb + blen mb)) := (zpow_add₀ two_ne_zero _ _).symm
        _ ≤ _ := zpow_le_zpow_right₀ one_le_two (by omega)
    · rw [if_neg hq, if_neg hs] at h
      exact powLog_roundsAs ht ha' hw hw' bneg (Int.self_le_toNat _) (by omega) rfl rfl h

end

end Sys2Proof.Machine
end

section
/-! SUPPORT. The real functions of finite operands (O8). -/

namespace Sys2Proof.Machine

/-- The rounding of a real number of either sign. -/
def RoundsReal (t : Target) (z : ℝ) (r : Rounded) : Prop := RoundsTo t (decide (z < 0)) |z| r

theorem roundsReal_of_pos {t : Target} {z : ℝ} {r : Rounded} (hz : 0 < z) (h : RoundsTo t false z r) : RoundsReal t z r := by
  rw [RoundsReal, decide_eq_false hz.not_gt, abs_of_pos hz]
  exact h

/-- The sign of an odd function of an operand with a sign. -/
theorem roundsReal_signed {t : Target} {z : ℝ} {r : Rounded} (n : Bool) (hz : z ≠ 0) (h : RoundsTo t (decide (z < 0) != n) |z| r) :
    RoundsReal t (signed n z) r := by
  have hsign : decide (signed n z < 0) = (decide (z < 0) != n) := by
    rcases lt_or_gt_of_ne hz with hneg | hpos
    · cases n <;> simp [hneg, hneg.le]
    · cases n <;> simp [hpos, hpos.le]
  rw [RoundsReal, hsign, abs_signed]
  exact h

/-- The hypotheses of KilnRealFunctions on an operand. -/
theorem moderate_of_bounds {m : Nat} {e : ℤ} (hm : 0 < m) (hm' : m < 2 ^ 241) (he : |e| ≤ 16640) : Moderate m e := by
  have hbits : blen m ≤ 241 := not_lt.1 fun h => absurd (two_pow_le_iff_blen.2 h) (not_le.2 hm')
  rw [abs_le] at he
  exact ⟨hm, hbits, abs_le.2 ⟨by omega, by omega⟩⟩

section
variable {t : Target} (ht : t.Bounded)
include ht

/-- The precisions of the first four tries for a target. -/
theorem tries_bounds {w : Nat} (hlo : t.need + 128 ≤ w) (hhi : w ≤ 8 * (t.need + 128)) : 198 ≤ w ∧ w ≤ 3496 := by
  have hp := ht.two_le
  have hp' := ht.p_le
  unfold Target.need at hlo hhi
  omega

theorem settled_roundsAs {f : Nat → Option Mag} {z : ℝ} (h : (settleLoop f 4 (firstTry t.need)).isSome = true)
    (hf : ∀ w X, 198 ≤ w → w ≤ 3496 → f w = some X → X.RoundsAs t z) : (settled t.need f).RoundsAs t z := by
  obtain ⟨w, hlo, hhi, hw⟩ := settled_four h
  obtain ⟨h1, h2⟩ := tries_bounds ht hlo hhi
  exact hf w _ h1 h2 hw

theorem piMag_roundsAs {q : Nat} (hq : 0 < q) (hq' : q ≤ 4) (h : (settleLoop (piTry t.need q) 4 (firstTry t.need)).isSome = true) :
    (piMag t.need q).RoundsAs t (Real.pi * q / 4) :=
  settled_roundsAs ht h fun _ _ hw hw' => piTry_roundsAs ht hw hw' hq hq'

variable {m : Nat} {e : ℤ} (hm : Moderate m e)
include hm

/-! ### e^x and 2^x -/

omit ht in
theorem expFV_fin (i : Bool) (f : Bool → Nat → Int → Rounded) : expFV (.fin i m e) f = f i m e := by
  obtain ⟨c, rfl⟩ := Nat.exists_eq_succ_of_ne_zero hm.pos.ne'
  rfl

theorem expEFV_roundsReal (i : Bool) (h : (settleLoop (expTry t.need i m e) 4 (firstTry t.need)).isSome = true) :
    RoundsReal t (Real.exp (((FV.fin i m e).rat : ℚ) : ℝ)) (expEFV t (.fin i m e)) := by
  rw [FV.cast_rat, expEFV, expFV_fin hm]
  exact roundsReal_of_pos (Real.exp_pos _) (settled_roundsAs ht h (fun _ _ hw hw' => expTry_roundsAs ht hm hw hw' i) false)

theorem exp2FV_roundsReal (i : Bool) (h : (settleLoop (exp2Try t.need i m e) 4 (firstTry t.need)).isSome = true) :
    RoundsReal t ((2 : ℝ) ^ (((FV.fin i m e).rat : ℚ) : ℝ)) (exp2FV t (.fin i m e)) := by
  rw [FV.cast_rat, exp2FV, expFV_fin hm]
  exact roundsReal_of_pos (by positivity) (settled_roundsAs ht h (fun _ _ hw hw' => exp2Try_roundsAs ht hm hw hw' i) false)

/-! ### ln and log₂ -/

omit ht hm in
theorem cmpFV_oneFV_ne {m : Nat} {e : ℤ} (hx : (m : ℝ) * 2 ^ e ≠ 1) : (cmpFV (.fin false m e) oneFV == .eq) = false := by
  rw [beq_eq_false_iff_ne, oneFV, cmpFV_fin, Ne, cmp_eq_eq_iff]
  intro h
  have hR := congrArg (Rat.cast (K := ℝ)) h
  rw [FV.cast_rat, FV.cast_rat] at hR
  exact hx (by simpa using hR)

omit ht in
theorem logFV_fin (hx : (m : ℝ) * 2 ^ e ≠ 1) (f : Nat → Int → Rounded) : logFV (.fin false m e) f = f m e := by
  have hcmp := cmpFV_oneFV_ne hx
  obtain ⟨c, rfl⟩ := Nat.exists_eq_succ_of_ne_zero hm.pos.ne'
  exact if_neg (c := (cmpFV (.fin false (c + 1) e) oneFV == .eq) = true) (by rw [hcmp]; exact Bool.false_ne_true)

theorem lnFV_roundsReal (hx : (m : ℝ) * 2 ^ e ≠ 1) (h : (settleLoop (lnTry t.need m e) 4 (firstTry t.need)).isSome = true) :
    RoundsReal t (Real.log (m * 2 ^ e)) (lnFV t (.fin false m e)) := by
  rw [lnFV, logFV_fin hm hx, RoundsReal, decide_eq_decide.2 (log_neg_iff_exponent hm.pos)]
  exact settled_roundsAs ht h (fun _ _ hw hw' => lnTry_roundsAs ht hm hw hw') _

theorem log2FV_roundsReal (hx : (m : ℝ) * 2 ^ e ≠ 1) (h : (settleLoop (log2Try t.need m e) 4 (firstTry t.need)).isSome = true) :
    RoundsReal t (Real.logb 2 (m * 2 ^ e)) (log2FV t (.fin false m e)) := by
  have hsign : Real.logb 2 (m * 2 ^ e) < 0 ↔ e + blen m ≤ 0 := by
    rw [← log_neg_iff_exponent hm.pos, Real.logb, div_lt_iff₀ (Real.log_pos one_lt_two), zero_mul]
  rw [log2FV, logFV_fin hm hx, RoundsReal, decide_eq_decide.2 hsign]
  exact settled_roundsAs ht h (fun _ _ hw hw' => log2Try_roundsAs ht hm hw hw' hx) _

/-! ### sin, cos and tanh -/

theorem sinCosMag_roundsAs (cos : Bool) (h : (settleLoop (sinCosTry t.need cos m e) 4 (firstTry t.need)).isSome = true) :
    let z := if cos then Real.cos (m * 2 ^ e) else Real.sin (m * 2 ^ e)
    (sinCosMag t.need cos m e).2.RoundsAs t |z| ∧ (sinCosMag t.need cos m e).1 = decide (z < 0) ∧ z ≠ 0 := by
  obtain ⟨w, X, hlo, hhi, hX, hloop⟩ := settleLoop_four h
  obtain ⟨hw, hw'⟩ := tries_bounds ht hlo hhi
  rw [sinCosMag, hloop, Option.getD_some]
  exact sinCosTry_roundsAs ht hm hw hw' cos hX

theorem sinFV_roundsReal (i : Bool) (h : (settleLoop (sinCosTry t.need false m e) 4 (firstTry t.need)).isSome = true) :
    RoundsReal t (Real.sin (((FV.fin i m e).rat : ℚ) : ℝ)) (sinFV t (.fin i m e)) := by
  obtain ⟨hround, hsign, hne⟩ := sinCosMag_roundsAs ht hm false h
  have hodd : Real.sin (signed i (m * 2 ^ e)) = signed i (Real.sin (m * 2 ^ e)) := by cases i <;> simp
  have hfv : sinFV t (.fin i m e) = roundMag t ((sinCosMag t.need false m e).1 != i) (sinCosMag t.need false m e).2 := by
    obtain ⟨c, rfl⟩ := Nat.exists_eq_succ_of_ne_zero hm.pos.ne'
    rfl
  rw [FV.cast_rat, hodd, hfv, hsign]
  exact roundsReal_signed i hne (hround _)

theorem cosFV_roundsReal (i : Bool) (h : (settleLoop (sinCosTry t.need true m e) 4 (firstTry t.need)).isSome = true) :
    RoundsReal t (Real.cos (((FV.fin i m e).rat : ℚ) : ℝ)) (cosFV t (.fin i m e)) := by
  obtain ⟨hround, hsign, -⟩ := sinCosMag_roundsAs ht hm true h
  have heven : Real.cos (signed i (m * 2 ^ e)) = Real.cos (m * 2 ^ e) := by cases i <;> simp
  have hfv : cosFV t (.fin i m e) = roundMag t (sinCosMag t.need true m e).1 (sinCosMag t.need true m e).2 := by
    obtain ⟨c, rfl⟩ := Nat.exists_eq_succ_of_ne_zero hm.pos.ne'
    rfl
  rw [FV.cast_rat, heven, hfv, hsign]
  exact hround _

theorem tanhFV_roundsReal (i : Bool) (h : (settleLoop (tanhTry t.need m e) 4 (firstTry t.need)).isSome = true) :
    RoundsReal t (Real.tanh (((FV.fin i m e).rat : ℚ) : ℝ)) (tanhFV t (.fin i m e)) := by
  obtain ⟨w, hlo, hhi, hX⟩ := settled_four h
  obtain ⟨hw, hw'⟩ := tries_bounds ht hlo hhi
  obtain ⟨hpos, hround⟩ := tanhTry_roundsAs ht hm hw hw' hX
  have hodd : Real.tanh (signed i (m * 2 ^ e)) = signed i (Real.tanh (m * 2 ^ e)) := by cases i <;> simp
  have hfv : tanhFV t (.fin i m e) = roundMag t i (tanhMag t.need m e) := by
    obtain ⟨c, rfl⟩ := Nat.exists_eq_succ_of_ne_zero hm.pos.ne'
    rfl
  rw [FV.cast_rat, hodd, hfv]
  refine roundsReal_signed i hpos.ne' ?_
  rw [decide_eq_false hpos.not_gt, Bool.false_bne, abs_of_pos hpos]
  exact hround _

/-! ### Angles -/

variable {n : Nat} {k : ℤ} (hn : Moderate n k)
include hn

theorem atan2FV_roundsReal (i j : Bool) (h : (settleLoop (atanTry t.need m e j n k) 4 (firstTry t.need)).isSome = true) :
    RoundsReal t (Complex.arg ⟨(((FV.fin j n k).rat : ℚ) : ℝ), (((FV.fin i m e).rat : ℚ) : ℝ)⟩) (atan2FV t (.fin i m e) (.fin j n k)) := by
  have hx := hm.value_pos
  have hy := hn.value_pos
  obtain ⟨habs, hsign⟩ := abs_arg hx hy i j
  have hfv : atan2FV t (.fin i m e) (.fin j n k) = roundMag t i (atanMag t.need m e j n k) := by
    obtain ⟨c, rfl⟩ := Nat.exists_eq_succ_of_ne_zero hm.pos.ne'
    obtain ⟨d, rfl⟩ := Nat.exists_eq_succ_of_ne_zero hn.pos.ne'
    rfl
  have hneg : decide (Complex.arg ⟨signed j (n * 2 ^ k), signed i (m * 2 ^ e)⟩ < 0) = i := Bool.eq_iff_iff.2 (decide_eq_true_iff.trans hsign)
  rw [FV.cast_rat, FV.cast_rat, hfv, RoundsReal, habs, hneg]
  exact settled_roundsAs ht h (fun _ _ hw hw' => atanTry_roundsAs ht hw hw' hm hn j) i

omit ht in
/-- The angles of R247's table. -/
theorem atan2FV_table (g h j : Bool) (l : ℤ) :
    (∀ x, atan2FV t (.inf g) (.inf x) = roundMag t g (piMag t.need (if x then 3 else 1))) ∧
    atan2FV t (.inf g) (.fin j n k) = roundMag t g (piMag t.need 2) ∧ atan2FV t (.fin g m e) (.fin h 0 l) = roundMag t g (piMag t.need 2) ∧
    atan2FV t (.fin g m e) (.inf true) = roundMag t g (piMag t.need 4) ∧ atan2FV t (.fin g 0 l) (.inf true) = roundMag t g (piMag t.need 4) ∧
    atan2FV t (.fin g 0 l) (.fin true n k) = roundMag t g (piMag t.need 4) ∧
    atan2FV t (.fin g 0 l) (.fin true 0 l) = roundMag t g (piMag t.need 4) := by
  obtain ⟨c, rfl⟩ := Nat.exists_eq_succ_of_ne_zero hm.pos.ne'
  obtain ⟨d, rfl⟩ := Nat.exists_eq_succ_of_ne_zero hn.pos.ne'
  exact ⟨fun _ => rfl, rfl, rfl, rfl, rfl, rfl, rfl⟩

/-! ### Powers -/

theorem powFV_roundsTo (i j : Bool) (hx : (m : ℝ) * 2 ^ e ≠ 1) (hint : i = true → isIntFV n k = true)
    (h : (settleLoop (powTry t.need m e j n k) 4 (firstTry t.need)).isSome = true) :
    RoundsTo t (i && isOddFV n k) (((m : ℝ) * 2 ^ e) ^ (((FV.fin j n k).rat : ℚ) : ℝ)) (powFV t (.fin i m e) (.fin j n k)) := by
  have hpos := hm.value_pos
  have hcmp := cmpFV_oneFV_ne hx
  have hnone : isOneFV (.fin i m e) = false := by
    cases i
    · exact hcmp
    · rfl
  have hvalid : (i && !isIntFV n k) = false := by
    cases i
    · rfl
    · rw [hint rfl]
      rfl
  have hfv : powFV t (.fin i m e) (.fin j n k) = roundMag t (i && isOddFV n k) (powMag t.need m e j n k) := by
    obtain ⟨c, rfl⟩ := Nat.exists_eq_succ_of_ne_zero hm.pos.ne'
    obtain ⟨d, rfl⟩ := Nat.exists_eq_succ_of_ne_zero hn.pos.ne'
    rw [powFV, if_neg (by simp [FV.isZero]), if_neg (by rw [hnone]; exact Bool.false_ne_true), if_neg (by simp [FV.isNan])]
    exact (if_neg (c := (i && !isIntFV (d + 1) k) = true) (by rw [hvalid]; exact Bool.false_ne_true)).trans
      (if_neg (c := (cmpFV (.fin false (c + 1) e) oneFV == .eq) = true) (by rw [hcmp]; exact Bool.false_ne_true))
  rw [FV.cast_rat, hfv, Real.rpow_def_of_pos hpos]
  exact settled_roundsAs ht h (fun _ _ hw hw' => powTry_roundsAs ht hm hn hx hw hw' j) _

end

/-- Settles O8: each try's fixed-point computation carries an error of less than 2^40 units, so that settled bits stand for the value. -/
theorem kilnRealFunctions : Obligations.KilnRealFunctions := by
  unfold Obligations.KilnRealFunctions
  intro t i j m n e k hp hp' he4 hemin hee hemax hm hm' he hn hn' hk
  have ht : t.Bounded := ⟨hp, hp', he4, hemin, hee, hemax⟩
  have hM := moderate_of_bounds hm hm' he
  have hN := moderate_of_bounds hn hn' hk
  have hx : ∀ {b : Bool}, b = false → (((FV.fin b m e).rat : ℚ) : ℝ) = m * 2 ^ e := by
    rintro b rfl
    rw [FV.cast_rat, signed_false]
  have habs : |(((FV.fin i m e).rat : ℚ) : ℝ)| = m * 2 ^ e := by
    rw [FV.cast_rat, abs_signed, abs_of_nonneg (by positivity)]
  refine ⟨exp2FV_roundsReal ht hM i, expEFV_roundsReal ht hM i, ?_, ?_, sinFV_roundsReal ht hM i, cosFV_roundsReal ht hM i, tanhFV_roundsReal ht hM i,
    atan2FV_roundsReal ht hM hN i j, ?_, ?_⟩
  · rintro rfl hne h
    rw [hx rfl] at hne ⊢
    exact log2FV_roundsReal ht hM hne h
  · rintro rfl hne h
    rw [hx rfl] at hne ⊢
    exact lnFV_roundsReal ht hM hne h
  · intro g h l
    obtain ⟨hinf, hinfFin, hzero, hnegInf, hzeroInf, hzeroNeg, hzeroZero⟩ := atan2FV_table (t := t) hM hN g h j l
    refine ⟨?_, ?_, ?_, ?_⟩
    · intro hfound r hr
      obtain rfl : r = atan2FV t (.inf g) (.inf false) := List.mem_singleton.1 hr
      rw [hinf]
      exact piMag_roundsAs ht (by norm_num) (by norm_num) hfound g
    · intro hfound r hr
      have hround := piMag_roundsAs ht (q := 2) (by norm_num) (by norm_num) hfound g
      obtain rfl | rfl : r = atan2FV t (.inf g) (.fin j n k) ∨ r = atan2FV t (.fin g m e) (.fin h 0 l) := by simpa using hr
      · rw [hinfFin]; exact hround
      · rw [hzero]; exact hround
    · intro hfound r hr
      obtain rfl : r = atan2FV t (.inf g) (.inf true) := List.mem_singleton.1 hr
      rw [hinf]
      exact piMag_roundsAs ht (by norm_num) (by norm_num) hfound g
    · intro hfound r hr
      have hround := piMag_roundsAs ht (q := 4) (by norm_num) (by norm_num) hfound g
      obtain rfl | rfl | rfl | rfl : r = atan2FV t (.fin g m e) (.inf true) ∨ r = atan2FV t (.fin g 0 l) (.inf true) ∨
          r = atan2FV t (.fin g 0 l) (.fin true n k) ∨ r = atan2FV t (.fin g 0 l) (.fin true 0 l) := by simpa using hr
      · rw [hnegInf]; exact hround
      · rw [hzeroInf]; exact hround
      · rw [hzeroNeg]; exact hround
      · rw [hzeroZero]; exact hround
  · intro hne hint h
    rw [habs] at hne ⊢
    exact powFV_roundsTo ht hM hN i j hne hint h

end Sys2Proof.Machine
end
